-- ==== Sys2Proof/Word.lean ====
section
/-! DEFINITION. The words of the block: 32-bit registers and thread words, bytes, byte sequences. -/

namespace Sys2Proof

/-- A 32-bit register or engine word (R11). -/
abbrev Word := BitVec 32

/-- One byte of a payload, a frame or a memory. -/
abbrev Byte := BitVec 8

/-- A sequence of bytes, the byte of the lowest offset first. -/
abbrev Bytes := List Byte

end Sys2Proof
end

