-- ==== Sys2Proof/Types.lean ====
section
/-! DEFINITION. The types of the commands' operands. -/

namespace Sys2Proof

/-- One read return beat of the host port (R37): 64 bytes, a response code and the poison bit. -/
structure Beat where
  data   : Bytes
  resp   : Nat
  poison : Bool
  deriving DecidableEq, Repr

/-- A general register w0-w31 of a Garnet thread. -/
abbrev Reg := Fin 32

/-- The second source of an integer operation: a register, or a 16-bit signed immediate (R299). -/
inductive Src where
  | reg (r : Reg)
  | imm (v : Int)
  deriving DecidableEq, Repr

/-- The control registers of a thread (R300). -/
inductive Csr where
  | engineId | threadId | epoch | cycle | timeLo | timeHi | hdrOld | hdrNew | csumAcc | crcSel
  | crcValLo | crcValHi | crcFinalLo | crcFinalHi | faultInfo
  deriving DecidableEq, Repr

/-- What a wire port's receiver takes a packet for, by its start (R172, R185, R186). -/
inductive RxKind where
  | express | verify | respond | start | cont | last | badSmd
  deriving DecidableEq, Repr

/-- A packet as the receiver sees it: its bytes from the destination address to the last byte before the FCS (or
before the mCRC of a fragment), whether the FCS or mCRC is right, whether a coding error lies inside it, and, for
a fragment, whether its frame and fragment counts follow. -/
structure RxFrame where
  data   : Bytes
  fcsOk  : Bool := true
  coding : Bool := false
  kind   : RxKind := .express
  seqOk  : Bool := true
  fecCorrected   : Nat := 0
  fecUncorrected : Nat := 0
  fecSymbols     : Nat := 0
  deriving DecidableEq, Repr

/-- A failing bit cell of a macro: its row (512 to 515 are the spare rows) and its column (576 and 577 are the spare
columns). -/
abbrev Cell := Nat × Nat

/-- What a link partner's training asks for (R134, R135): a preset, the initial setting, or a step of each
coefficient. -/
inductive TrainReq where
  | preset
  | initial
  | step (pre main post : Int)
  deriving DecidableEq, Repr

/-- The link partner's page of auto-negotiation (R169, R170). -/
structure AnPartner where
  page       : Nat
  symPause   : Bool
  fecAbility : Bool
  reqF1      : Bool
  reqF2      : Bool
  reqF3      : Bool
  deriving DecidableEq, Repr

/-- A place in the memories, as the fault record names it (R473). -/
structure Place where
  sub   : Nat
  tile  : Nat := 0xFF
  unit  : Nat := 0xFF
  mac   : Nat := 0xFFFF
  row   : Nat := 0xFFFF
  col   : Nat := 0xFFFF
  deriving DecidableEq, Repr

/-- What a read or a scrub of a memory word finds (R474, R475): the place, how many of its bits are wrong, the slot
of the store whose used bytes hold it, the pool whose free list it links, and whether the pass ends with it. -/
structure ScrubHit where
  place : Place
  wrong : Nat
  slot  : Option Nat := none
  link  : Option Nat := none
  last  : Bool := false
  deriving DecidableEq, Repr

end Sys2Proof
end

