-- ==== Sys2Proof/Syntax.lean ====
section
/-! DEFINITION. The commands of the block: one constructor per row of the table of commands,
with the operands the surroundings (or the agent inside the block whose act the row is) give it. -/

namespace Sys2Proof

/-- One command of the block.  The rule named at each constructor is the one its row cites. -/
inductive Instr where
  /-- `FRAME_ENTERS` (R23). -/
  | frameEnters
  /-- `PIPELINE_ENTRY` (R26). -/
  | pipelineEntry
  /-- `PARSE` (R231). -/
  | parse
  /-- `FLOW_LOOKUP` (R263). -/
  | flowLookup
  /-- `FLOW_READ_RETURN` (R263). -/
  | flowReadReturn (tag : Nat) (beats : List Beat)
  /-- `ENGINE_DISPATCH` (R293). -/
  | engineDispatch
  /-- `RELEASE` (R295). -/
  | release
  /-- `GEN_SWEEP_END` (R247). -/
  | genSweepEnd
  /-- `CLS_GEN_SLOW` (R251). -/
  | clsGenSlow (g : Nat)
  /-- `HOST_READ_RETURN` (R45). -/
  | hostReadReturn (tag : Nat) (beats : List Beat)
  /-- `HOST_WRITE_RESPONSE` (R45). -/
  | hostWriteResponse (tag : Nat) (resp : Nat)
  /-- `HOST_TIMEOUT` (R46). -/
  | hostTimeout (write : Bool) (tag : Nat)
  /-- `REGISTER_WRITE` (R13). -/
  | registerWrite (addr : Nat) (value : Nat) (strobe : Nat)
  /-- `RC_READ` (R15). -/
  | rcRead (addr : Nat)
  /-- `COUNTER_LOW_READ` (R191). -/
  | counterLowRead (addr : Nat)
  /-- `DN_DONE` (R54). -/
  | dnDone (link : Nat) (tag : Nat) (status : Nat)
  /-- `DN_DONE_TIMEOUT` (R373). -/
  | dnDoneTimeout (link : Nat) (tag : Nat)
  /-- `DN_STAGE_DONE` (R361). -/
  | dnStageDone (link : Nat)
  /-- `DN_FRAME_START` (R372). -/
  | dnFrameStart (link : Nat)
  /-- `UP_FRAME` (R381). -/
  | upFrame (link : Nat) (md : Bytes) (data : Bytes) (framed : Bool)
  /-- `FB_RATE` (R364). -/
  | fbRate (msg : Bytes)
  /-- `FB_CREDIT` (R366). -/
  | fbCredit (msg : Bytes)
  /-- `FB_PS` (R368). -/
  | fbPs (msg : Bytes)
  /-- `FB_RX_EVENT` (R423). -/
  | fbRxEvent (msg : Bytes)
  /-- `FB_TSF` (R415). -/
  | fbTsf (msg : Bytes)
  /-- `STB_PD` (R421). -/
  | stbPd (link : Nat)
  /-- `STB_ABORT` (R421). -/
  | stbAbort (link : Nat)
  /-- `STB_RESTART` (R421). -/
  | stbRestart (link : Nat)
  /-- `RATE_STALE` (R365). -/
  | rateStale (sta : Nat) (link : Nat)
  /-- `STATION_DECISION` (R397). -/
  | stationDecision
  /-- `CIPH_DONE` (R59). -/
  | ciphDone (status : Nat)
  /-- `CIPH_TIMEOUT` (R60). -/
  | ciphTimeout
  /-- `CAP_EDGE` (R417). -/
  | capEdge (c : Nat)
  /-- `CAPTURE_STUCK` (R419). -/
  | captureStuck (c : Nat)
  /-- `TRIGGER_FIRE` (R426). -/
  | triggerFire (t : Nat)
  /-- `TRIG_PULSE_END` (R428). -/
  | trigPulseEnd (t : Nat)
  /-- `TSF_STALE` (R416). -/
  | tsfStale (k : Nat)
  /-- `TB_NS_READ` (R413). -/
  | tbNsRead (k : Nat)
  /-- `TIME_SNAP` (R413). -/
  | timeSnap (value : Nat)
  /-- `TB_RATE_WRITE` (R411). -/
  | tbRateWrite (k : Nat) (value : Nat)
  /-- `CAP_POP` (R418). -/
  | capPop (c : Nat)
  /-- `TRG_ARM` (R425). -/
  | trgArm (t : Nat) (value : Nat)
  /-- `TRG_CANCEL` (R427). -/
  | trgCancel (t : Nat) (value : Nat)
  /-- `INT_REARM` (R345). -/
  | intRearm (ch : Nat) (value : Nat)
  /-- `INT_MASK_WRITE` (R345). -/
  | intMaskWrite (ch : Nat) (value : Nat)
  /-- `VECTOR_DELAY` (R344). -/
  | vectorDelay (ch : Nat) (v : Nat)
  /-- `INT_MSG_CTRL_WRITE` (R536). -/
  | intMsgCtrlWrite (line : Nat) (value : Nat)
  /-- `MB_DOORBELL` (R86). -/
  | mbDoorbell (mb : Nat) (value : Nat)
  /-- `MB_DONE_CLEAR` (R86). -/
  | mbDoneClear (mb : Nat)
  /-- `REQUEST_TAKE` (R90). -/
  | requestTake
  /-- `EVENT_WRITE_RESPONSE` (R119). -/
  | eventWriteResponse (tag : Nat) (resp : Nat)
  /-- `SYS_IDENTIFY` (R117). -/
  | sysIdentify
  /-- `SYS_REGION_SET` (R117). -/
  | sysRegionSet
  /-- `SYS_GROUP_OPEN` (R113). -/
  | sysGroupOpen
  /-- `SYS_COMMIT` (R111). -/
  | sysCommit (apply : Nat)
  /-- `SYS_ABORT` (R117). -/
  | sysAbort
  /-- `SYS_EVENT_RING_SET` (R117). -/
  | sysEventRingSet
  /-- `SYS_EVENT_MASK` (R117). -/
  | sysEventMask
  /-- `SYS_MAILBOX_GRANT` (R117). -/
  | sysMailboxGrant
  /-- `SYS_RESOURCE_BIND` (R117). -/
  | sysResourceBind
  /-- `SYS_PUNT_SET` (R117). -/
  | sysPuntSet
  /-- `SYS_QUIESCE` (R510). -/
  | sysQuiesce
  /-- `SYS_START` (R509). -/
  | sysStart
  /-- `LN_STAGE` (R159). -/
  | lnStage (apply : Nat)
  /-- `LN_STATUS_GET` (R159). -/
  | lnStatusGet
  /-- `LN_RETIRE` (R159). -/
  | lnRetire
  /-- `LN_APPLY` (R153). -/
  | lnApply (mask : Nat)
  /-- `ERR_INJECT` (R151). -/
  | errInject (n : Nat)
  /-- `LOS_ASSERT` (R139). -/
  | losAssert (n : Nat)
  /-- `LOS_DEASSERT` (R139). -/
  | losDeassert (n : Nat)
  /-- `CDR_LOCK` (R140). -/
  | cdrLock (n : Nat)
  /-- `CDR_LOCK_LOSS` (R140). -/
  | cdrLockLoss (n : Nat)
  /-- `PLL_LOCK` (R155). -/
  | pllLock (n : Nat)
  /-- `PLL_START_FAIL` (R142). -/
  | pllStartFail (n : Nat)
  /-- `PLL_RETRY` (R142). -/
  | pllRetry (n : Nat)
  /-- `PLL_LOCK_LOSS` (R142). -/
  | pllLockLoss (n : Nat)
  /-- `RX_READY` (R137). -/
  | rxReady (n : Nat) (ctle : Nat) (dfe : List Int)
  /-- `BLOCK_LOCK` (R129). -/
  | blockLock (n : Nat)
  /-- `BLOCK_SLIP` (R129). -/
  | blockSlip (n : Nat)
  /-- `CTC_INSERT` (R132). -/
  | ctcInsert (n : Nat) (fill : Nat)
  /-- `CTC_DELETE` (R132). -/
  | ctcDelete (n : Nat) (fill : Nat)
  /-- `CTC_SLIP` (R133). -/
  | ctcSlip (n : Nat)
  /-- `TRAINING_REQUEST` (R135). -/
  | trainingRequest (n : Nat) (req : TrainReq)
  /-- `TRAINED` (R136). -/
  | trained (n : Nat)
  /-- `TRAINING_TIMEOUT` (R136). -/
  | trainingTimeout (n : Nat)
  /-- `TX_LPI_TIMER` (R143). -/
  | txLpiTimer (n : Nat)
  /-- `RX_LPI_BLOCKS` (R144). -/
  | rxLpiBlocks (n : Nat) (lpi : Bool)
  /-- `RX_LPI_FAULT` (R145). -/
  | rxLpiFault (n : Nat) (cause : Nat)
  /-- `PRBS_LOCK` (R150). -/
  | prbsLock (n : Nat) (bs : List Bool) (errs : Nat) (mbits : Nat)
  /-- `PRBS_LOCK_LOSS` (R150). -/
  | prbsLockLoss (n : Nat) (errs : Nat) (mbits : Nat)
  /-- `PRBS_DONE` (R150). -/
  | prbsDone (n : Nat) (errs : Nat)
  /-- `PORT_STAGE` (R192). -/
  | portStage (apply : Nat)
  /-- `PORT_CONFIG` (R192). -/
  | portConfig
  /-- `PORT_GCL_SET` (R192). -/
  | portGclSet
  /-- `PORT_STATUS_GET` (R192). -/
  | portStatusGet
  /-- `PORT_TS_READ` (R192). -/
  | portTsRead
  /-- `WIRE_RX_FRAME` (R172). -/
  | wireRxFrame (port : Nat) (rx : RxFrame)
  /-- `PAUSE_EXPIRE` (R177). -/
  | pauseExpire (port : Nat) (tc : Nat)
  /-- `PAUSE_REFRESH` (R178). -/
  | pauseRefresh (port : Nat) (tc : Nat)
  /-- `TX_SELECT` (R176). -/
  | txSelect (port : Nat)
  /-- `TX_FRAME_DONE` (R32). -/
  | txFrameDone (port : Nat)
  /-- `LINK_UP` (R165). -/
  | linkUp (port : Nat)
  /-- `LINK_DOWN_HOLD_EXPIRE` (R168). -/
  | linkDownHoldExpire (port : Nat)
  /-- `HI_BER` (R166). -/
  | hiBer (port : Nat) (on : Bool)
  /-- `AN_COMPLETE` (R171). -/
  | anComplete (port : Nat) (outcome : Nat) (partner : AnPartner)
  /-- `AN_RESTART_TIMER` (R171). -/
  | anRestartTimer (port : Nat)
  /-- `AN_LINK_FAIL` (R171). -/
  | anLinkFail (port : Nat)
  /-- `EEE_IDLE_EXPIRE` (R179). -/
  | eeeIdleExpire (port : Nat)
  /-- `GCL_START` (R181). -/
  | gclStart (port : Nat)
  /-- `GATE_ENTRY_CHANGE` (R180). -/
  | gateEntryChange (port : Nat)
  /-- `GATE_OVERSIZE` (R183). -/
  | gateOversize (port : Nat) (tc : Nat)
  /-- `VERIFY_TIMER` (R185). -/
  | verifyTimer (port : Nat)
  /-- `SPILL_START` (R219). -/
  | spillStart (pool : Nat)
  /-- `SPILL_COMPLETE` (R221). -/
  | spillComplete (handle : Nat)
  /-- `RETURN_START` (R220). -/
  | returnStart (pool : Nat)
  /-- `RETURN_COMPLETE` (R222). -/
  | returnComplete (handle : Nat)
  /-- `FREE_QUEUE_REFILL` (R208). -/
  | freeQueueRefill (pool : Nat)
  /-- `REFILL_RETRY` (R229). -/
  | refillRetry (pool : Nat)
  /-- `RELOCATION_DONE` (R224). -/
  | relocationDone (handle : Nat)
  /-- `STORE_POOL_SPLIT` (R226). -/
  | storePoolSplit
  /-- `STORE_SPILL_SET` (R226). -/
  | storeSpillSet
  /-- `STORE_STATUS_GET` (R226). -/
  | storeStatusGet
  /-- `STORE_COUNTERS_GET` (R226). -/
  | storeCountersGet
  /-- `STORE_BANK_RETIRE` (R226). -/
  | storeBankRetire
  /-- `CLS_PARSE_NODE_SET` (R252). -/
  | clsParseNodeSet
  /-- `CLS_PARSE_START_SET` (R252). -/
  | clsParseStartSet
  /-- `CLS_EXCEPTION_SET` (R235). -/
  | clsExceptionSet
  /-- `CLS_RULE_ADD` (R252). -/
  | clsRuleAdd
  /-- `CLS_RULE_DELETE` (R252). -/
  | clsRuleDelete
  /-- `CLS_MCAST_SET` (R244). -/
  | clsMcastSet
  /-- `CLS_DEFAULT_SET` (R242). -/
  | clsDefaultSet
  /-- `CLS_TABLE_SET` (R239). -/
  | clsTableSet
  /-- `CLS_GEN_STATUS` (R248). -/
  | clsGenStatus
  /-- `CLS_GEN_RETIRE` (R250). -/
  | clsGenRetire
  /-- `CLS_RULE_READ` (R245). -/
  | clsRuleRead
  /-- `CLS_COUNTERS_GET` (R253). -/
  | clsCountersGet
  /-- `FLOW_PROFILE_SET` (R279). -/
  | flowProfileSet
  /-- `FLOW_ACTION_SET` (R279). -/
  | flowActionSet
  /-- `FLOW_REWRITE_SET` (R270). -/
  | flowRewriteSet
  /-- `FLOW_POLICER_SET` (R277). -/
  | flowPolicerSet
  /-- `FLOW_INSTALL` (R271). -/
  | flowInstall
  /-- `FLOW_DELETE` (R271). -/
  | flowDelete
  /-- `FLOW_READ` (R261). -/
  | flowRead
  /-- `FLOW_AGE_SET` (R275). -/
  | flowAgeSet
  /-- `FLOW_TABLE_SET` (R258). -/
  | flowTableSet
  /-- `FLOW_FLUSH` (R275). -/
  | flowFlush
  /-- `FLOW_COUNTERS_GET` (R280). -/
  | flowCountersGet
  /-- `CLAIM_NEW` (R271). -/
  | claimNew (e : Nat) (t : Nat) (key : Bytes)
  /-- `CLAIM_ENTRY` (R271). -/
  | claimEntry (e : Nat) (t : Nat) (index : Nat) (expected : Bytes)
  /-- `PUBLISH` (R271). -/
  | publish (e : Nat) (t : Nat) (claim : Nat) (image : Bytes)
  /-- `ABANDON` (R271). -/
  | abandon (e : Nat) (t : Nat) (claim : Nat)
  /-- `FLOP_OUTCOME` (R271). -/
  | flopOutcome (e : Nat) (t : Nat)
  /-- `AGING_PAIR` (R275). -/
  | agingPair
  /-- `PLUS` (R299). -/
  | plus (e : Nat) (t : Nat) (rd : Reg) (ra : Reg) (b : Src)
  /-- `MINUS` (R299). -/
  | minus (e : Nat) (t : Nat) (rd : Reg) (ra : Reg) (b : Src)
  /-- `BAND` (R299). -/
  | band (e : Nat) (t : Nat) (rd : Reg) (ra : Reg) (b : Src)
  /-- `BOR` (R299). -/
  | bor (e : Nat) (t : Nat) (rd : Reg) (ra : Reg) (b : Src)
  /-- `BXOR` (R299). -/
  | bxor (e : Nat) (t : Nat) (rd : Reg) (ra : Reg) (b : Src)
  /-- `SHL` (R299). -/
  | shl (e : Nat) (t : Nat) (rd : Reg) (ra : Reg) (b : Src)
  /-- `SHR` (R299). -/
  | shr (e : Nat) (t : Nat) (rd : Reg) (ra : Reg) (b : Src)
  /-- `SHRA` (R299). -/
  | shra (e : Nat) (t : Nat) (rd : Reg) (ra : Reg) (b : Src)
  /-- `CMPLT` (R299). -/
  | cmplt (e : Nat) (t : Nat) (rd : Reg) (ra : Reg) (b : Src)
  /-- `CMPLTU` (R299). -/
  | cmpltu (e : Nat) (t : Nat) (rd : Reg) (ra : Reg) (b : Src)
  /-- `IMMH` (R299). -/
  | immh (e : Nat) (t : Nat) (rd : Reg) (imm : BitVec 16)
  /-- `IMML` (R299). -/
  | imml (e : Nat) (t : Nat) (rd : Reg) (imm : BitVec 16)
  /-- `MPY` (R299). -/
  | mpy (e : Nat) (t : Nat) (rd : Reg) (ra : Reg) (rb : Reg)
  /-- `MPYHS` (R299). -/
  | mpyhs (e : Nat) (t : Nat) (rd : Reg) (ra : Reg) (rb : Reg)
  /-- `MPYHU` (R299). -/
  | mpyhu (e : Nat) (t : Nat) (rd : Reg) (ra : Reg) (rb : Reg)
  /-- `LD8` (R299). -/
  | ld8 (e : Nat) (t : Nat) (rd : Reg) (ra : Reg) (off : Int)
  /-- `LD8S` (R299). -/
  | ld8s (e : Nat) (t : Nat) (rd : Reg) (ra : Reg) (off : Int)
  /-- `LD16` (R299). -/
  | ld16 (e : Nat) (t : Nat) (rd : Reg) (ra : Reg) (off : Int)
  /-- `LD16S` (R299). -/
  | ld16s (e : Nat) (t : Nat) (rd : Reg) (ra : Reg) (off : Int)
  /-- `LD32` (R299). -/
  | ld32 (e : Nat) (t : Nat) (rd : Reg) (ra : Reg) (off : Int)
  /-- `ST8` (R299). -/
  | st8 (e : Nat) (t : Nat) (rs : Reg) (ra : Reg) (off : Int)
  /-- `ST16` (R299). -/
  | st16 (e : Nat) (t : Nat) (rs : Reg) (ra : Reg) (off : Int)
  /-- `ST32` (R299). -/
  | st32 (e : Nat) (t : Nat) (rs : Reg) (ra : Reg) (off : Int)
  /-- `JEQ` (R299). -/
  | jeq (e : Nat) (t : Nat) (ra : Reg) (rb : Reg) (off : Int)
  /-- `JNE` (R299). -/
  | jne (e : Nat) (t : Nat) (ra : Reg) (rb : Reg) (off : Int)
  /-- `JLT` (R299). -/
  | jlt (e : Nat) (t : Nat) (ra : Reg) (rb : Reg) (off : Int)
  /-- `JGE` (R299). -/
  | jge (e : Nat) (t : Nat) (ra : Reg) (rb : Reg) (off : Int)
  /-- `JLTU` (R299). -/
  | jltu (e : Nat) (t : Nat) (ra : Reg) (rb : Reg) (off : Int)
  /-- `JGEU` (R299). -/
  | jgeu (e : Nat) (t : Nat) (ra : Reg) (rb : Reg) (off : Int)
  /-- `CALL` (R299). -/
  | call (e : Nat) (t : Nat) (off : Int)
  /-- `JUMPR` (R299). -/
  | jumpr (e : Nat) (t : Nat) (rs : Reg) (off : Int)
  /-- `CRD` (R300). -/
  | crd (e : Nat) (t : Nat) (r : Reg) (csr : Csr)
  /-- `CWR` (R300). -/
  | cwr (e : Nat) (t : Nat) (r : Reg) (csr : Csr)
  /-- `FLD8` (R289). -/
  | fld8 (e : Nat) (t : Nat) (rd : Reg) (ra : Reg) (off : Int)
  /-- `FLD16` (R289). -/
  | fld16 (e : Nat) (t : Nat) (rd : Reg) (ra : Reg) (off : Int)
  /-- `FLD32` (R289). -/
  | fld32 (e : Nat) (t : Nat) (rd : Reg) (ra : Reg) (off : Int)
  /-- `WINDOW_LOAD_RETURN` (R289). -/
  | windowLoadReturn (e : Nat) (t : Nat) (bad : Bool)
  /-- `BXT` (R299). -/
  | bxt (e : Nat) (t : Nat) (rd : Reg) (rs : Reg) (pos : Nat) (width : Nat)
  /-- `BINS` (R299). -/
  | bins (e : Nat) (t : Nat) (rd : Reg) (rs : Reg) (pos : Nat) (width : Nat)
  /-- `BREV8` (R299). -/
  | brev8 (e : Nat) (t : Nat) (rd : Reg) (rs : Reg)
  /-- `OCADD` (R299). -/
  | ocadd (e : Nat) (t : Nat) (rs : Reg)
  /-- `CRC8` (R301). -/
  | crc8 (e : Nat) (t : Nat) (rs : Reg)
  /-- `CRC16` (R301). -/
  | crc16 (e : Nat) (t : Nat) (rs : Reg)
  /-- `CRC32` (R301). -/
  | crc32 (e : Nat) (t : Nat) (rs : Reg)
  /-- `HRD` (R305). -/
  | hrd (e : Nat) (t : Nat) (haddr : Nat) (daddr : Nat) (len : Nat)
  /-- `HWR` (R305). -/
  | hwr (e : Nat) (t : Nat) (haddr : Nat) (daddr : Nat) (len : Nat)
  /-- `HOST_ACCESS_DONE` (R305). -/
  | hostAccessDone (e : Nat) (t : Nat)
  /-- `DONE` (R296). -/
  | done (e : Nat) (t : Nat) (forward : Bool)
  /-- `SEND` (R302). -/
  | send (e : Nat) (t : Nat) (src : Nat) (len : Nat) (tail : Option Nat) (tag : Nat) (tc : Nat)
  /-- `WAIT` (R299). -/
  | wait (e : Nat) (t : Nat) (untl : Nat)
  /-- `WAIT_WAKE` (R299). -/
  | waitWake (e : Nat) (t : Nat)
  /-- `FRAME_BUDGET_EXPIRE` (R297). -/
  | frameBudgetExpire (e : Nat) (t : Nat)
  /-- `INQ_TAKE` (R303). -/
  | inqTake (e : Nat)
  /-- `ONYX_INQ_SERVE` (R304). -/
  | onyxInqServe
  /-- `ENGINE_WATCHDOG` (R481). -/
  | engineWatchdog (e : Nat) (cause : Nat)
  /-- `REDISPATCH` (R313). -/
  | redispatch (e : Nat)
  /-- `ENGINE_BIST_DONE` (R481). -/
  | engineBistDone (e : Nat) (fails : List (Nat × List Cell))
  /-- `ENG_HOOK_BIND` (R316). -/
  | engHookBind
  /-- `ENG_PROG_UNLOAD` (R310). -/
  | engProgUnload
  /-- `ENG_CONFIG_SET` (R316). -/
  | engConfigSet
  /-- `ENG_POLICY_SET` (R285). -/
  | engPolicySet
  /-- `ENG_DATA_WRITE` (R316). -/
  | engDataWrite
  /-- `ENG_STATUS_GET` (R316). -/
  | engStatusGet
  /-- `ENG_COUNTERS_GET` (R317). -/
  | engCountersGet
  /-- `ENG_SAMPLE_READ` (R315). -/
  | engSampleRead
  /-- `ENG_BASE_SET` (R316). -/
  | engBaseSet
  /-- `TX_DB` (R324). -/
  | txDb (ch : Nat) (r : Nat) (value : Nat)
  /-- `RX_DB` (R324). -/
  | rxDb (ch : Nat) (r : Nat) (value : Nat)
  /-- `CH_EVENTS_CLEAR` (R350). -/
  | chEventsClear (ch : Nat) (value : Nat)
  /-- `HOST_RX_DECISION` (R395). -/
  | hostRxDecision
  /-- `CH_CONFIG` (R351). -/
  | chConfig
  /-- `CH_RING_SET` (R325). -/
  | chRingSet
  /-- `CH_VECTOR_SET` (R344). -/
  | chVectorSet
  /-- `CH_FILTER_SET` (R339). -/
  | chFilterSet
  /-- `CH_HASH_SET` (R338). -/
  | chHashSet
  /-- `CH_RATE_SET` (R346). -/
  | chRateSet
  /-- `CH_ENABLE` (R322). -/
  | chEnable
  /-- `CH_RESET` (R348). -/
  | chReset
  /-- `CH_STATUS_GET` (R351). -/
  | chStatusGet
  /-- `CH_COUNTERS_GET` (R352). -/
  | chCountersGet
  /-- `STA_SET` (R383). -/
  | staSet
  /-- `STA_REMOVE` (R383). -/
  | staRemove
  /-- `STA_FLUSH` (R383). -/
  | staFlush
  /-- `STA_STATUS_GET` (R383). -/
  | staStatusGet
  /-- `STA_COUNTERS_GET` (R384). -/
  | staCountersGet
  /-- `RL_CONFIG` (R358). -/
  | rlConfig
  /-- `RL_STATUS_GET` (R383). -/
  | rlStatusGet
  /-- `SCH_PORT_SET` (R403). -/
  | schPortSet
  /-- `SCH_SHAPER_SET` (R400). -/
  | schShaperSet
  /-- `SCH_CHANNEL_SET` (R403). -/
  | schChannelSet
  /-- `SCH_STATUS_GET` (R403). -/
  | schStatusGet
  /-- `SCH_COUNTERS_GET` (R404). -/
  | schCountersGet
  /-- `TIME_STEP` (R412). -/
  | timeStep
  /-- `TIME_RATE` (R408). -/
  | timeRate
  /-- `TIME_UNLOCK` (R411). -/
  | timeUnlock
  /-- `TIME_TRACK_SET` (R415). -/
  | timeTrackSet
  /-- `TIME_CAPTURE_SET` (R417). -/
  | timeCaptureSet
  /-- `TIME_TRIGGER_ARM` (R425). -/
  | timeTriggerArm
  /-- `TIME_TRIGGER_CANCEL` (R427). -/
  | timeTriggerCancel
  /-- `TIME_STROBE_READ` (R422). -/
  | timeStrobeRead
  /-- `TIME_STATUS_GET` (R432). -/
  | timeStatusGet
  /-- `TIME_COUNTERS_GET` (R433). -/
  | timeCountersGet
  /-- `CRC_START` (R441). -/
  | crcStart (j : Nat) (value : Nat)
  /-- `CRC_ABORT` (R442). -/
  | crcAbort (j : Nat) (value : Nat)
  /-- `CRC_JOB_END` (R442). -/
  | crcJobEnd (j : Nat)
  /-- `CRC_RING_RETRY` (R444). -/
  | crcRingRetry
  /-- `PWR_STATE_SET` (R452). -/
  | pwrStateSet
  /-- `POWER_COMMIT_POINT` (R452). -/
  | powerCommitPoint
  /-- `POWER_DEFER_TIMEOUT` (R454). -/
  | powerDeferTimeout
  /-- `FORCE_LATE_TIMEOUT` (R455). -/
  | forceLateTimeout
  /-- `PWR_WATCH_SET` (R466). -/
  | pwrWatchSet
  /-- `PWR_PATTERN_SET` (R459). -/
  | pwrPatternSet
  /-- `PWR_STATUS_GET` (R466). -/
  | pwrStatusGet
  /-- `PWR_COUNTERS_GET` (R467). -/
  | pwrCountersGet
  /-- `PWR_ACK_CHANGE` (R72). -/
  | pwrAckChange (k : Nat) (level : Bool)
  /-- `RET_ACK_CHANGE` (R72). -/
  | retAckChange (t : Nat) (level : Bool)
  /-- `CLK_ACK_RISE` (R409). -/
  | clkAckRise
  /-- `CLK_ACK_FALL` (R409). -/
  | clkAckFall
  /-- `HANDSHAKE_TIMEOUT` (R74). -/
  | handshakeTimeout (kind : Nat) (idx : Nat)
  /-- `WATCH_RX_FRAME` (R458). -/
  | watchRxFrame (port : Nat) (rx : RxFrame)
  /-- `PWR_WAKE` (R462). -/
  | pwrWake
  /-- `WAKE_TIMER` (R462). -/
  | wakeTimer
  /-- `LIGHT_SLEEP` (R451). -/
  | lightSleep (bank : Nat)
  /-- `RST_N_ASSERT` (R504). -/
  | rstNAssert
  /-- `RST_AO_N_ASSERT` (R504). -/
  | rstAoNAssert
  /-- `CORE_RESET_RELEASE` (R505). -/
  | coreResetRelease
  /-- `BOOT_READY` (R505). -/
  | bootReady
  /-- `TEST_MODE_CHANGE` (R80). -/
  | testModeChange (level : Bool)
  /-- `SCRUB_READ` (R475). -/
  | scrubRead (hit : ScrubHit)
  /-- `ROW_REPAIR_DONE` (R477). -/
  | rowRepairDone (loc : Place)
  /-- `COLUMN_REPAIR_DONE` (R477). -/
  | columnRepairDone (loc : Place)
  /-- `FREE_LIST_REBUILD_DONE` (R476). -/
  | freeListRebuildDone (pool : Nat)
  /-- `IMEM_REFILL_DONE` (R474). -/
  | imemRefillDone (e : Nat)
  /-- `ONYX_TRAP` (R483). -/
  | onyxTrap
  /-- `ONYX_HANG` (R483). -/
  | onyxHang
  /-- `STANDBY_READY` (R484). -/
  | standbyReady
  /-- `COLD_RESTART_DONE` (R485). -/
  | coldRestartDone
  /-- `SCRUB_WRITE_RETRY` (R491). -/
  | scrubWriteRetry
  /-- `RES_IMAGE_LOAD` (R489). -/
  | resImageLoad
  /-- `RES_IMAGE_ACTIVATE` (R493). -/
  | resImageActivate
  /-- `RES_ENGINE_CONDEMN` (R481). -/
  | resEngineCondemn
  /-- `RES_ENGINE_RETURN` (R481). -/
  | resEngineReturn
  /-- `RES_MGMT_SWITCH` (R484). -/
  | resMgmtSwitch
  /-- `RES_CONFIG` (R475). -/
  | resConfig
  /-- `RES_STATUS_GET` (R500). -/
  | resStatusGet
  /-- `RES_FAULT_READ` (R473). -/
  | resFaultRead
  /-- `RES_COUNTERS_GET` (R501). -/
  | resCountersGet
  /-- `WS_BYPASS` (R79). -/
  | wsBypass (code : Nat)
  /-- `WS_EXTEST` (R525). -/
  | wsExtest (cells : List Bool)
  /-- `WS_INTEST` (R525). -/
  | wsIntest (cells : List Bool)
  /-- `WS_PRELOAD` (R78). -/
  | wsPreload (cells : List Bool)
  /-- `INTERNAL_SCAN` (R525). -/
  | internalScan (chains : List (List Bool))
  /-- `MEMORY_BIST_RUN` (R522). -/
  | memoryBistRun
  /-- `BIST_DONE` (R523). -/
  | bistDone (fails : List (Option (List Cell)))
  /-- `MEMORY_BIST_STATUS_READ` (R523). -/
  | memoryBistStatusRead
  /-- `REPAIR_RECORD_READ` (R524). -/
  | repairRecordRead
  /-- `REPAIR_RECORD_PROGRAM` (R524). -/
  | repairRecordProgram (entry : Nat)
  /-- `PMU_LOAD` (R513). -/
  | pmuLoad (u : Nat)
  /-- `PMU_RUN_WRITE` (R514). -/
  | pmuRunWrite (u : Nat) (value : Nat)
  /-- `BW_CFG_WRITE` (R518). -/
  | bwCfgWrite (p : Nat) (value : Nat)
  /-- `BW_WINDOW_END` (R518). -/
  | bwWindowEnd (p : Nat)
  /-- `MT_GEN_SET` (R520). -/
  | mtGenSet
  /-- `MT_CHK_SET` (R521). -/
  | mtChkSet
  /-- `MT_RESULT_GET` (R527). -/
  | mtResultGet
  /-- `MT_PMU_CONTROL` (R527). -/
  | mtPmuControl
  /-- `CODE_GROUP_SYNC` (R128). -/
  | codeGroupSync (n : Nat) (gained : Bool)
  /-- `FEC_LOCK_CHANGE` (R165). -/
  | fecLockChange (port : Nat) (locked : Bool)
  /-- `RX_FAULT_SIGNAL` (R167). -/
  | rxFaultSignal (port : Nat) (localF : Bool) (remoteF : Bool)
  /-- `CQ_CONS_WRITE` (R329). -/
  | cqConsWrite (ch : Nat) (tx : Bool) (r : Nat) (value : Nat)
  /-- `CRC_RING_CONS_WRITE` (R444). -/
  | crcRingConsWrite (value : Nat)
  /-- `AO_TB7_READ` (R465). -/
  | aoTb7Read
  /-- `STANDBY_CORE_FAIL` (R503). -/
  | standbyCoreFail
  /-- `STANDBY_SYNC_TIMEOUT` (R493). -/
  | standbySyncTimeout
  /-- `QUIESCE_DRAIN_TIMEOUT` (R510). -/
  | quiesceDrainTimeout
  /-- `RST_AO_N_DEASSERT` (R480). -/
  | rstAoNDeassert
  /-- `CIPH_PLAINTEXT_BYTE` (R59). -/
  | ciphPlaintextByte (b : Byte)
  deriving DecidableEq, Repr

end Sys2Proof
end

