-- ==== Sys2Proof/Decode.lean ====
section
/-! DEFINITION. The reading of a word as a command: the table of commands gives no row any bits. -/

namespace Sys2Proof

/-- The command that a word of the table spells.  No row of the table of commands has bits (each row's
list of fields is empty), so no word spells a command. -/
def decodeTableWord (_nbits _w : Nat) : Option Instr := none

end Sys2Proof
end

