-- ==== Sys2Proof/Config.lean ====
section
/-! DEFINITION. What the manual leaves open: the free values. -/

namespace Sys2Proof

/-- The value the manual does not state, for the `n`-th time the block draws one (log 3).
No body: nothing can evaluate it, so a claim that mentions it holds whatever it is. -/
opaque Config.freeValue : Nat → BitVec 64

/-- The numbers that a Garnet thread reads as outcomes and causes, which the manual names and does not number (log 8).
No body, for the same reason. -/
opaque Config.code : Nat → BitVec 32

end Sys2Proof
end

