-- ==== Sys2Proof/Machine/Bits.lean ====
section
/-! DEFINITION. Byte order, bit fields and the sparse tables of the state. -/

namespace Sys2Proof.Machine

open Sys2Proof

/-- The byte at an offset of a structure; bytes past its end read 0. -/
def u8 (b : Bytes) (off : Nat) : Nat := (b.getD off 0#8).toNat

/-- A little-endian field of `n` bytes at `off` (R11, R12). -/
def le (b : Bytes) (off : Nat) : Nat → Nat
  | 0 => 0
  | n + 1 => u8 b off + 256 * le b (off + 1) n

def u16 (b : Bytes) (off : Nat) : Nat := le b off 2
def u32 (b : Bytes) (off : Nat) : Nat := le b off 4
def u64 (b : Bytes) (off : Nat) : Nat := le b off 8

/-- A big-endian field of `n` bytes at `off`: frame contents are in network byte order (R11). -/
def be (b : Bytes) (off : Nat) : Nat → Nat
  | 0 => 0
  | n + 1 => u8 b off * 256 ^ n + be b (off + 1) n

/-- The low `n` bytes of a number, least significant first. -/
def toLe : Nat → Nat → Bytes
  | 0, _ => []
  | n + 1, v => BitVec.ofNat 8 v :: toLe n (v / 256)

/-- The low `n` bytes of a number, most significant first. -/
def toBe (n v : Nat) : Bytes := (toLe n v).reverse

/-- Bits `hi` down to `lo` of a number. -/
def bits (v hi lo : Nat) : Nat := v / 2 ^ lo % 2 ^ (hi + 1 - lo)

/-- A two's-complement reading of the low `n` bits. -/
def sext (n v : Nat) : Int :=
  let w := v % 2 ^ n
  if w < 2 ^ (n - 1) then (w : Int) else (w : Int) - (2 ^ n : Nat)

/-- The `n`-bit two's-complement pattern of an integer. -/
def unsx (n : Nat) (i : Int) : Nat := (i % ((2 ^ n : Nat) : Int)).toNat

def b2n (b : Bool) : Nat := if b then 1 else 0

/-- `n` bytes of a sequence from an offset, zero past its end. -/
def slice (b : Bytes) (off n : Nat) : Bytes :=
  let x := (b.drop off).take n
  x ++ List.replicate (n - x.length) 0#8

/-- Write bytes over a sequence at an offset; the sequence keeps its length. -/
def overlay (b : Bytes) (off : Nat) (w : Bytes) : Bytes :=
  (b.take off ++ List.replicate (off - b.length) 0#8 ++ w ++ b.drop (off + w.length)).take
    (max b.length (off + w.length))

def zeros (n : Nat) : Bytes := List.replicate n 0#8

def allZero (b : Bytes) : Bool := b.all (· == 0#8)

/-- The offsets of a range, in order. -/
def upto (lo n : Nat) : List Nat := (List.range n).map (lo + ·)

/-- The numbers of the set bits of the low `n` bits, ascending. -/
def bitList (n v : Nat) : List Nat := (List.range n).filter (v.testBit ·)

/-- Set or clear one bit of a number. -/
def withBit (v i : Nat) (b : Bool) : Nat :=
  if v.testBit i then (if b then v else v - 2 ^ i) else (if b then v + 2 ^ i else v)

/-- Bitwise `v` without the bits of `m`. -/
def andNot (v m : Nat) : Nat := v - (v &&& m)

/-- Round up to a multiple of `k`. -/
def roundUp (v k : Nat) : Nat := (v + k - 1) / k * k

/-- A sparse table: key and value pairs, keys strictly rising. -/
abbrev Tbl (α : Type) := List (Nat × α)

def Tbl.get? {α : Type} : Tbl α → Nat → Option α
  | [], _ => none
  | (k, v) :: t, i => if k = i then some v else Tbl.get? t i

def Tbl.getD {α : Type} (t : Tbl α) (i : Nat) (d : α) : α := (Tbl.get? t i).getD d

def Tbl.has {α : Type} (t : Tbl α) (i : Nat) : Bool := (Tbl.get? t i).isSome

def Tbl.set {α : Type} : Tbl α → Nat → α → Tbl α
  | [], i, v => [(i, v)]
  | (k, w) :: t, i, v =>
    if i < k then (i, v) :: (k, w) :: t
    else if i = k then (i, v) :: t
    else (k, w) :: Tbl.set t i v

def Tbl.erase {α : Type} (t : Tbl α) (i : Nat) : Tbl α := t.filter (fun p => p.1 != i)

def Tbl.keys {α : Type} (t : Tbl α) : List Nat := t.map (·.1)

def Tbl.vals {α : Type} (t : Tbl α) : List α := t.map (·.2)

/-- Change the entry of a key, an absent entry taken at `d`. -/
def Tbl.upd {α : Type} (t : Tbl α) (i : Nat) (d : α) (f : α → α) : Tbl α :=
  Tbl.set t i (f (Tbl.getD t i d))

/-- The lowest of the first `n` numbers that a list does not hold. -/
def lowestFree (n : Nat) (used : List Nat) : Option Nat :=
  (List.range (min n (used.length + 1))).find? (fun i => !used.contains i)

/-- Change the elements that a test picks. -/
def mapIf {α : Type} (l : List α) (p : α → Bool) (f : α → α) : List α :=
  l.map (fun x => if p x then f x else x)

/-- The position of the first element that a test picks. -/
def idxOf? {α : Type} (l : List α) (p : α → Bool) : Option Nat := l.findIdx? p

/-- Put an item before the first element that it may precede. -/
def insertBy {α : Type} (le : α → α → Bool) (x : α) : List α → List α
  | [] => [x]
  | y :: t => if le x y then x :: y :: t else y :: insertBy le x t

/-- Sort a list; items that tie keep their order. -/
def sortBy {α : Type} (le : α → α → Bool) : List α → List α
  | [] => []
  | x :: t => insertBy le x (sortBy le t)

end Sys2Proof.Machine
end

