-- ==== Sys2Proof/Machine/Crc.lean ====
section
/-! DEFINITION. The check values of the block (R436-R438). -/

namespace Sys2Proof.Machine

open Sys2Proof

/-- The parameters of a CRC (R436). -/
structure CrcP where
  width  : Nat
  poly   : Nat
  ini    : Nat
  refin  : Bool
  refout : Bool
  xorout : Nat
  deriving DecidableEq, Repr

/-- The lowest `n` bits of a number, mirrored. -/
def mirror : Nat → Nat → Nat
  | 0, _ => 0
  | n + 1, v => v % 2 * 2 ^ n + mirror n (v / 2)

/-- Feed one bit: shift left, and add the polynomial when the bit differs from the one shifted out. -/
def crcBit (p : CrcP) (r : Nat) (b : Bool) : Nat :=
  let top := r.testBit (p.width - 1)
  let sh := r * 2 % 2 ^ p.width
  if top != b then sh ^^^ (p.poly % 2 ^ p.width) else sh

/-- Feed one byte, bit 7 first, or bit 0 first with REFIN. -/
def crcByte (p : CrcP) (r : Nat) (x : Byte) : Nat :=
  let v := if p.refin then mirror 8 x.toNat else x.toNat
  [7, 6, 5, 4, 3, 2, 1, 0].foldl (fun r i => crcBit p r (v.testBit i)) r

def crcFeed (p : CrcP) (r : Nat) (b : Bytes) : Nat := b.foldl (crcByte p) r

/-- The final value of a raw register. -/
def crcFinal (p : CrcP) (r : Nat) : Nat :=
  (if p.refout then mirror p.width r else r % 2 ^ p.width) ^^^ (p.xorout % 2 ^ p.width)

/-- The native selections of R437. -/
def crcSel : Nat → CrcP
  | 0 => ⟨32, 0x04C11DB7, 0xFFFFFFFF, true, true, 0xFFFFFFFF⟩
  | 1 => ⟨32, 0x1EDC6F41, 0xFFFFFFFF, true, true, 0xFFFFFFFF⟩
  | 2 => ⟨16, 0x1021, 0xFFFF, false, false, 0⟩
  | _ => ⟨64, 0x42F0E1EBA9EA3693, 0xFFFFFFFFFFFFFFFF, true, true, 0xFFFFFFFFFFFFFFFF⟩

/-- The final value of a native selection over bytes. -/
def crcOf (sel : Nat) (b : Bytes) : Nat := crcFinal (crcSel sel) (crcFeed (crcSel sel) (crcSel sel).ini b)

def crc32 (b : Bytes) : Nat := crcOf 0 b
def crc32c (b : Bytes) : Nat := crcOf 1 b

/-- CRC-32C with another initial value (R438). -/
def crc32cSeed (seed : Nat) (b : Bytes) : Nat := crcFinal (crcSel 1) (crcFeed (crcSel 1) seed b)

end Sys2Proof.Machine
end

