-- ==== Sys2Proof/Machine/StStore.lean ====
section
/-! DEFINITION. The state of the central store and of the egress queues. -/

namespace Sys2Proof.Machine

open Sys2Proof

/-- Where the contents of an allocated buffer are (R200, R221, R222). -/
inductive Loc where
  | sram (bank slot : Nat)
  | dram (idx : Nat)
  | movingOut (bank slot idx : Nat)
  | lodged (idx : Nat)
  | movingIn (bank slot idx : Nat)
  deriving DecidableEq, Repr

/-- An allocated buffer: owner sequence, record, data and check word (R198-R204), its pins, the one owner that
no table records (R211), and whether it counts toward a port's occupancy (R213). `lost` says that a word of it
is uncorrectable (R206), `mv` is the host-port transfer of its move, `reloc` that this move is a relocation (R224). `pres` and `key` are
no part of the buffer: the parse result and the key that the parser has handed on with its frame (R236, R237). -/
structure Buf where
  oseq   : Nat
  record : Bytes := zeros 64
  data   : Bytes := []
  check  : Nat := 0
  bad    : Bool := false
  lost   : Bool := false
  pins   : Nat := 0
  owner  : Nat := 0x0FFF0000
  loc    : Loc
  mv     : Option Nat := none
  reloc  : Bool := false
  pres   : Bytes := zeros 48
  key    : Bytes := zeros 64
  deriving DecidableEq, Repr

/-- An owner table entry (R211). -/
structure OwnEnt where
  count : Nat
  sig   : Nat
  deriving DecidableEq, Repr

inductive Spill where
  | normal | spilling | returning
  deriving DecidableEq, Repr

/-- A pool (R207, R208, R216). `queue` is its free queue of DRAM indices.  The rest of its free DRAM buffers are `given`
buffers given back, threaded through host memory from `head` on, and then every index from `fresh` up. -/
structure Pool where
  high   : Nat := 224
  low    : Nat := 160
  look   : Nat := 32
  depth  : Nat := 64
  state  : Spill := .normal
  queue  : List Nat := []
  head   : Nat := 0
  given  : Nat := 0
  fresh  : Nat := 0
  refill : Bool := false
  withdrawn : List Nat := []
  checkEvt : Option Nat := none
  ownEvt   : Option Nat := none
  deriving DecidableEq, Repr

/-- A bank that is being emptied: its cause (0 failure, 1 command), and the pool it goes to when it moves. -/
structure Retire where
  bank  : Nat
  cause : Nat
  dest  : Option Nat := none
  first : Nat := 0
  deriving DecidableEq, Repr

/-- The store. `banks` gives each bank its pool, 4 for retired; `split` the committed bank count of each pool; bit b of
`asleep` that bank b is in light sleep (R451). -/
structure StoreSt where
  bufs    : Tbl Buf := []
  banks   : List Nat := (List.range 32).map (· / 8)
  split   : List Nat := [8, 8, 8, 8]
  units   : List Nat := [0, 0, 0, 0]
  alloc   : Nat := 0
  table   : Tbl OwnEnt := []
  pools   : Tbl Pool := []
  retire  : List Retire := []
  orphans : List (Nat × Nat × Nat) := []
  asleep  : Nat := 0
  deriving DecidableEq, Repr

/-- An egress queue: a sub-queue of a wire port's class (R391), a receive ring, a station queue, an engine's
input queue, or Onyx's. -/
inductive QKey where
  | wire (port tc sq : Nat)
  | ring (ch r : Nat)
  | sta (st ac : Nat)
  | eng (e : Nat)
  | onyx
  deriving DecidableEq, Repr

/-- An entry of an egress queue: the buffer reference (R204), the rewrite entry, and when it was enqueued.  On a channel's
ring, what its channel's settings made of the frame at result commit: the hash h, HASHED, and KEEP_FCS (R338, R351). -/
structure QE where
  h       : Nat
  oseq    : Nat
  rewrite : Nat := 0xFFFFFFFF
  time    : Nat := 0
  wake    : Bool := false
  hash    : Nat := 0
  hashed  : Bool := false
  fcs     : Bool := false
  deriving DecidableEq, Repr

/-- A deficit round (R388, R389): active queues, deficits, and the queues in a visit. -/
structure Drr where
  active  : List Nat := []
  deficit : Tbl Nat := []
  inVisit : List Nat := []
  deriving DecidableEq, Repr

/-- A shaper (R399): rate in kb/s (0 disabled), burst in bytes, credit in 2^-16 byte, and the remainder in
1/8,000,000 of that. -/
structure Shaper where
  rate   : Nat := 0
  burst  : Nat := 0
  credit : Int := 0
  rest   : Nat := 0
  deriving DecidableEq, Repr

/-- The nominated head of a class (R392): its sub-queue, its entry and when it became head (ns). -/
structure Nom where
  sq    : Nat
  qe    : QE
  since : Nat
  deriving DecidableEq, Repr

/-- The scheduling of a wire port (R391-R394). Classes are keys 0-7. -/
structure WireSch where
  quantum : List Nat := List.replicate 7 16384
  qlimit  : List Nat := List.replicate 8 4096
  rounds  : Tbl Drr := []
  nom     : Tbl Nom := []
  shaper  : Tbl Shaper := []
  port    : Shaper := {}
  deriving DecidableEq, Repr

/-- The scheduling of a host channel's receive side (R395). -/
structure ChSch where
  quantum : Nat := 16384
  ringQ   : List Nat := List.replicate 8 16384
  round   : Drr := {}
  nomRing : Option Nat := none
  txShaper : Shaper := {}
  rxShaper : Shaper := {}
  deriving DecidableEq, Repr

structure SchSt where
  queues : List (QKey × List QE) := []
  wire   : Tbl WireSch := []
  ch     : Tbl ChSch := []
  upper  : Drr := {}
  sta    : Tbl Drr := []
  deriving DecidableEq, Repr

end Sys2Proof.Machine
end

