-- ==== Sys2Proof/Machine/StCh.lean ====
section
/-! DEFINITION. The state of the host channels (R320-R354). -/

namespace Sys2Proof.Machine

open Sys2Proof

/-- A policer (R276, R277): mode 0 pass, 1 bytes, 2 frames. `tokens` are in 1/8,000,000 byte, or in 1/10^9
frame, as accrued up to `last` (TB7 ns). -/
structure Policer where
  mode   : Nat := 0
  rate   : Nat := 0
  burst  : Nat := 0
  tokens : Nat := 0
  last   : Nat := 0
  deriving DecidableEq, Repr

/-- A fetched descriptor: its index (ring mode) or address (chain mode), and its 32 bytes. -/
structure Desc where
  ref  : Nat
  data : Bytes
  deriving DecidableEq, Repr

/-- A ring (R324-R329). `prod` and `cons` are the last accepted producer and the finished count, `next` the next
index to fetch; `cur`, `handled`, `pending`, `parked` are the chain walk's; `fetching` the read in flight and
the descriptors it covers; `written` the completion records written; `asm` the send being assembled. -/
structure RingS where
  mode     : Nat := 0
  vector   : Nat := 0xFF
  base     : Nat := 0
  entries  : Nat := 0
  qlimit   : Nat := 0
  cqBase   : Nat := 0
  prod     : Nat := 0
  cons     : Nat := 0
  next     : Nat := 0
  fetched  : List Desc := []
  cur      : Nat := 0
  handled  : Bool := false
  pending  : Bool := false
  parked   : Bool := true
  fetching : Option (Nat × Nat) := none
  written  : Nat := 0
  cqCons   : Nat := 0
  asm      : List Desc := []
  deriving DecidableEq, Repr

/-- A send from its EOP on (R331-R336). `frames` are those still to enter, `reads` the data reads outstanding,
`got` the descriptors whose data has come back good, `status` the first failure so far. -/
structure SendS where
  id      : Nat
  r       : Nat
  descs   : List Desc
  total   : Nat
  status  : Nat := 0
  data    : Bytes := []
  reads   : Nat := 0
  got     : List Nat := []
  loaded  : Bool := false
  frames  : List Bytes := []
  tso     : Bool := false
  tc      : Nat := 0
  tag     : Nat := 0
  tsReq   : Bool := false
  entered : Nat := 0
  firstSeq : Nat := 0
  waiting : Nat := 0
  deriving DecidableEq, Repr

/-- A frame in delivery (R341, R396), or a bad descriptor that its dequeue consumed (`bad`, R347). `writes` counts its
data writes outstanding; `record` is its completion record without PHASE; `wrote` that its completion has been
issued, `drop` that it ends without completing (R348, R349). -/
structure Deliv where
  id     : Nat
  r      : Nat
  bad    : Bool := false
  h      : Nat
  oseq   : Nat
  descs  : Nat
  len    : Nat
  record : Bytes
  writes : Nat
  err    : Bool := false
  wrote  : Bool := false
  wake   : Bool := false
  drop   : Bool := false
  deriving DecidableEq, Repr

/-- A completion record written and awaiting its response: `deliv` the delivery it completes. -/
structure WbS where
  id    : Nat
  tx    : Bool
  r     : Nat
  count : Nat
  deliv : Option Nat := none
  len   : Nat := 0
  deriving DecidableEq, Repr

/-- An interrupt vector (R344). `since` is when U left 0 (ns), `due` that MAX_DELAY has passed; `sent` holds, for each message
in flight in the order of issue, the completions that it announces and whether MAX_DELAY had passed. -/
structure VecS where
  addr   : Nat := 0
  data   : Nat := 0
  maxF   : Nat := 0
  maxD   : Nat := 0
  armed  : Bool := true
  u      : Nat := 0
  sent   : List (Nat × Bool) := []
  since  : Nat := 0
  due    : Bool := false
  deriving DecidableEq, Repr

inductive ChMode where
  | disabled | enabled | quarantined | resetting
  deriving DecidableEq, Repr

/-- A frame dequeued into delivery that is still being read out of host memory (R215), or is `ready` and waits behind such a one of
its ring.  `drop`: it ends without being delivered (R348, R455). -/
structure RxRead where
  r     : Nat
  e     : QE
  ready : Bool := false
  drop  : Bool := false
  deriving DecidableEq, Repr

/-- A host channel (R320-R323). `rxReads` holds, in the order of their dequeues, the frames in delivery whose bytes have not gone
into descriptors yet. -/
structure Ch where
  state  : ChMode := .disabled
  agent  : Nat := 0
  cause  : Nat := 0
  wake   : Bool := false
  events : Nat := 0
  mask   : Nat := 0
  flags  : Nat := 0
  hashTypes : Nat := 0
  key    : Bytes := zeros 40
  indir  : Bytes := zeros 128
  addrs  : List Bytes := []
  mcast  : Bytes := zeros 32
  vlan   : Bytes := zeros 512
  pol    : Policer := {}
  tx     : Tbl RingS := []
  rx     : Tbl RingS := []
  vecs   : Tbl VecS := []
  sends  : List SendS := []
  deliv  : List Deliv := []
  rxReads : List RxRead := []
  wbs    : List WbS := []
  nextId : Nat := 0
  turn   : Nat := 0
  deriving DecidableEq, Repr


end Sys2Proof.Machine
end

