-- ==== Sys2Proof/Machine/StCls.lean ====
section
/-! DEFINITION. The state of the versioned objects and of the rule generations (R245-R251). -/

namespace Sys2Proof.Machine

open Sys2Proof

/-- The kinds of versioned objects (R245, and the flow objects of R279). -/
inductive VKind where
  | rule | node | start | exception | default | table | mcast | profile | action | rewrite
  deriving DecidableEq, Repr

/-- One version of an object: its payload bytes and the generations it is valid in (R245). -/
structure Ver where
  kind    : VKind
  key     : Nat
  val     : Bytes
  born    : Nat
  bornAny : Bool := false
  died    : Option Nat := none
  hits    : Nat := 0
  slot    : Nat := 0
  deriving DecidableEq, Repr

/-- A resident generation (R246, R250, R251). `since` is the TB7 time in ns at which it stopped being current. -/
structure Gen where
  gen      : Nat
  inflight : Nat := 0
  retiring : Bool := false
  since    : Nat := 0
  sweeping : Bool := false
  deriving DecidableEq, Repr

structure ClsSt where
  vers     : List Ver := []
  current  : Nat := 0
  resident : List Gen := [{ gen := 0 }]
  deriving DecidableEq, Repr

end Sys2Proof.Machine
end

