-- ==== Sys2Proof/Machine/StCrc.lean ====
section
/-! DEFINITION. The state of the CRC job unit (R440-R446). -/

namespace Sys2Proof.Machine

open Sys2Proof

inductive JobState where
  | idle | running | waitRing | done
  deriving DecidableEq, Repr

/-- One job slot.  `r` is the raw running value of the job, `fed` its bytes fed, `code` the status it will end
with, `rd` the transfer that reads its next bytes, `wr` the one that writes its ring entry,
`hold` set between an errored write of it and the retry. -/
structure CrcSlot where
  cfg    : Nat := 0
  poly   : Nat := 0
  init   : Nat := 0
  xor    : Nat := 0
  addr   : Nat := 0
  len    : Nat := 0
  val    : Nat := 0
  exp    : Nat := 0
  tag    : Nat := 0
  state  : JobState := .idle
  status : Nat := 0
  result : Nat := 0
  final  : Bool := false
  r      : Nat := 0
  fed    : Nat := 0
  code   : Nat := 0
  rd     : Option Nat := none
  wr     : Option Nat := none
  hold   : Bool := false
  deriving DecidableEq, Repr

structure CrcSt where
  slots    : Tbl CrcSlot := []
  base     : Nat := 0
  entries  : Nat := 0
  prod     : Nat := 0
  cons     : Nat := 0
  msgAddr  : Nat := 0
  msgData  : Nat := 0
  int      : Nat := 0
  mask     : Nat := 0x1F
  jobs     : Nat := 0
  mismatch : Nat := 0
  errors   : Nat := 0
  deriving DecidableEq, Repr

end Sys2Proof.Machine
end

