-- ==== Sys2Proof/Machine/Mem.lean ====
section
/-! DEFINITION. A byte-addressed memory as a list of cells in canonical form. -/

namespace Sys2Proof.Machine

open Sys2Proof

/-- A memory: cells at strictly rising addresses, none of them 0, the value of an unlisted byte. -/
abbrev Mem := List Host.Cell

def Mem.rd : Mem → Nat → Byte
  | [], _ => 0#8
  | (k, v) :: m, a => if k = a then v else Mem.rd m a

/-- Take the cell of an address out. -/
def Mem.del : Mem → Nat → Mem
  | [], _ => []
  | (k, v) :: m, a => if k < a then (k, v) :: Mem.del m a else if k = a then m else (k, v) :: m

/-- Put a cell in, in place of the one at its address. -/
def Mem.ins : Mem → Nat → Byte → Mem
  | [], a, x => [(a, x)]
  | (k, v) :: m, a, x => if k < a then (k, v) :: Mem.ins m a x else if k = a then (a, x) :: m else (a, x) :: (k, v) :: m

def Mem.wr (m : Mem) (a : Nat) (x : Byte) : Mem := if x = 0#8 then Mem.del m a else Mem.ins m a x

/-- `n` bytes from an address. -/
def Mem.rdN (m : Mem) (a n : Nat) : Bytes := (List.range n).map fun i => Mem.rd m (a + i)

def Mem.wrN : Mem → Nat → Bytes → Mem
  | m, _, [] => m
  | m, a, x :: t => Mem.wrN (Mem.wr m a x) (a + 1) t

/-- Every address of the memory is above `lo`, rising, and no cell holds 0. -/
def Mem.wfFrom : Nat → Mem → Bool
  | _, [] => true
  | lo, (k, v) :: m => decide (lo ≤ k) && (v != 0#8) && Mem.wfFrom (k + 1) m

/-- The canonical form. -/
def Memory.wf (m : Mem) : Bool := Mem.wfFrom 0 m

end Sys2Proof.Machine
end

