-- ==== Sys2Proof/Machine/StPipe.lean ====
section
/-! DEFINITION. The state of the pipeline, of the reorder stage and of the dispatcher (R26, R29-R31, R291-R295). -/

namespace Sys2Proof.Machine

open Sys2Proof

/-- A frame at its arrival point, with what its record and its key take from there.  `h` is its buffer once one
is allocated, `wlen` the room it takes in a wire port's receive FIFO, `send` the host channel's send it belongs
to, `tsReq` that its transmit descriptor asks for a timestamp
(R332), `beats` the upstream beats to be credited, `thr` the engine thread that waits for it, `wake` that it is the frame
that woke the block (R350). -/
structure Arr where
  port  : Nat
  h     : Option Nat := none
  data  : Bytes
  tb    : Nat := 7
  time  : Nat := 0
  chsta : Nat := 0xFFF
  tc    : Nat := 0
  tag   : Nat := 0
  tsReq : Bool := false
  wlen  : Nat := 0
  send  : Option Nat := none
  beats : Nat := 0
  thr   : Option (Nat × Nat) := none
  wake  : Bool := false
  deriving DecidableEq, Repr

/-- A frame inside the pipeline, with its shadow record (R30): `result` is the pending result part, `shadow` the
first `hdrNew` bytes that replace the first `hdrOld` bytes of the frame, at most 256 of each (R292). -/
structure PFrame where
  h      : Nat
  oseq   : Nat
  port   : Nat
  seq    : Nat
  gen    : Nat
  tc     : Nat
  len    : Nat
  tag    : Nat := 0
  key    : Bytes := zeros 64
  pres   : Bytes := zeros 48
  policer : Nat := 0xFFFFFFFF
  profile : Option Nat := none
  result : Bytes := zeros 32
  shadow : Bytes := []
  hdrOld : Nat := 0
  hdrNew : Nat := 0
  tsReq  : Bool := false
  hook   : Nat := 0
  reason : Nat := 0
  redisp : Nat := 0
  claim  : Option Nat := none
  entry  : Nat := 0xFFFFFFFF
  bad    : Bool := false
  staged : List Arr := []
  look   : Bool := false
  wake   : Bool := false
  deriving DecidableEq, Repr

/-- What a frame with a reorder entry waits for: a dispatch, its engine, or its turn; or that it is to be
dropped at release, counted at place `k` of group `g` (R293-R298, R313). -/
inductive ReState where
  | queued
  | held (e t : Nat)
  | moving (e : Nat)
  | ready
  | drop (g k : Nat)
  deriving DecidableEq, Repr

/-- A reorder entry (R294): `first` keeps the descriptor and the header shadow of the dispatch (R293), `order` the place of
its first dispatch among all. -/
structure ReEnt where
  frame : PFrame
  first : PFrame
  state : ReState
  order : Nat := 0
  deriving DecidableEq, Repr

/-- `seqs` are the ingress sequence counters (R24), `next` the sequence number released next, `skips` those
skipped.  `wait` holds the frames at the entry arbiter, `granted` those admitted, `parseQ` and `flowQ` those
before the parser and the flow stage, `out` those that wait for a reorder entry or for the dispatcher. -/
structure PipeSt where
  wait    : List Arr := []
  turn    : Nat := 0
  granted : List Arr := []
  parseQ  : List PFrame := []
  flowQ   : List PFrame := []
  out     : List PFrame := []
  slots   : Tbl ReEnt := []
  disp    : List Nat := []
  last    : Nat := 7
  nextDisp : Nat := 0
  seqs    : Tbl Nat := []
  next    : Tbl Nat := []
  skips   : List (Nat × Nat) := []
  deriving DecidableEq, Repr

end Sys2Proof.Machine
end

