-- ==== Sys2Proof/Machine/StEng.lean ====
section
/-! DEFINITION. The state of the Garnet frame engines (R283-R319). -/

namespace Sys2Proof.Machine

open Sys2Proof

inductive EngMode where
  | off | spare | active | draining | condemned
  deriving DecidableEq, Repr

/-- What a thread is parked on (R299): a window load of `n` bytes into a register (`n` + 8 when it extends the sign), a
host access with its DMEM address, a flow operation, a send at the entry arbiter, a time or hook event, or the read that its DONE
verifies by. -/
inductive Park where
  | none
  | window (rd n off : Nat)
  | host (daddr : Nat)
  | flop
  | send
  | tail (d : Bytes) (off tag tc : Nat)
  | stalled (d : Bytes) (tag tc : Nat)
  | wait (until_ : Nat)
  | done
  deriving DecidableEq, Repr

/-- The frame a thread holds: a reorder entry, or an input-queue frame. -/
inductive Hold where
  | none
  | slot (i : Nat)
  | inq (f : PFrame)
  deriving DecidableEq, Repr

/-- How a base program ends its frame (R274, R307): FORWARD, a drop counted at place `k` of group `g`, or one more dispatch, for
the reason and to the hook that the entry it applied gives. -/
inductive BaseEnd where
  | forward
  | drop (g k : Nat)
  | again (reason hook : Nat)
  deriving DecidableEq, Repr

/-- What the learn program has made so far: its claims on the original and the reply key, XLATE_PORT, and the images that it
writes (R274). -/
structure Learn where
  claim : Nat
  reply : Option Nat := none
  port  : Nat := 0
  imgA  : Bytes := []
  imgB  : Bytes := []
  deriving DecidableEq, Repr

/-- Where a base program stands: none runs, it has just been started, it waits for the claim on the original key, for the claim
on candidate `n` of the reply key, or for a write of an entry (the reply's before the original's), for the entry of the tuple that
an ICMP error carries, or it has come to its DONE. -/
inductive BaseSt where
  | none
  | fresh
  | orig
  | reply (l : Learn) (n : Nat)
  | writing (l : Learn) (second : Bool)
  | icmp
  | ended (v : BaseEnd)
  deriving DecidableEq, Repr

/-- A hardware thread (R287-R300).  `regs` are w0 to w31; `sends` counts the sends staged for the frame held;
`since` is the TB7 time in ns at which it took its frame; `stop` says that its budget has run out while it is
parked on a flow operation; `epoch` is the epoch its operations carry; `base` is where a base program on it stands. -/
structure Thread where
  busy   : Bool := false
  regs   : List Word := List.replicate 32 0#32
  pc     : Nat := 0
  desc   : Bytes := zeros 256
  shadow : Bytes := zeros 256
  hdrOld : Nat := 0
  hdrNew : Nat := 0
  csum   : Nat := 0
  crcSel : Nat := 0
  crcVal : Nat := 0
  timeHi : Nat := 0
  fault  : Nat := 0
  park   : Park := .none
  hold   : Hold := .none
  hook   : Nat := 0
  prog   : Nat := 0
  epoch  : Nat := 0
  since  : Nat := 0
  bad    : Bool := false
  stop   : Bool := false
  base   : BaseSt := .none
  deriving DecidableEq, Repr

/-- A sample (R315). -/
structure Sample where
  thread : Nat
  hook   : Nat
  prog   : Nat
  pc     : Nat
  time   : Nat
  ctr    : Nat
  deriving DecidableEq, Repr

/-- An engine.  `epoch` is its valid epoch in the fencing unit (R311); `failed` marks it FAILED, `reset` that it is held in reset,
`base` that it runs a base image, `condemned` the TB7 times (ns) of its condemnations, `svc` that its T3 ran the table service
when it was condemned, `again` the cause of a fault that waits for the end of its condemnation (R471); `drainTo` is the state that
DRAINING ends in; `icmpSec` and `icmpSent` the second of TB7 of its last time-exceeded message and the messages of that second
(R308). -/
structure Engine where
  mode     : EngMode := .off
  failed   : Bool := false
  inReset  : Bool := false
  base     : Bool := false
  noReturn : Bool := false
  svc      : Bool := false
  again    : Option Nat := none
  epoch    : Nat := 0
  imem     : Mem := []
  dmem     : Mem := []
  threads  : Tbl Thread := []
  destHook : Nat := 0
  budget   : Nat := 50
  condemned : List Nat := []
  drainTo  : EngMode := .spare
  reload   : Bool := false
  testing  : Bool := false
  samples  : List Sample := []
  faultEvt : Option Nat := none
  icmpSec  : Nat := 0
  icmpSent : Nat := 0
  deriving DecidableEq, Repr

/-- A loaded extension program (R309): its first page and its count of pages in IMEM and DMEM, the image of each,
and its in-flight count (R310). -/
structure Prog where
  ipage    : Nat
  ipages   : Nat
  dpage    : Nat
  dpages   : Nat
  icode    : Bytes
  ddata    : Bytes
  inflight : Nat := 0
  deriving DecidableEq, Repr

/-- A hook's binding: the program and the byte offset of its entry point. -/
structure Bind where
  prog  : Nat
  entry : Nat
  deriving DecidableEq, Repr

/-- The engine unit.  `baseImg` is the body of the base image in use, its IMEM part first; `baseData` the data of
ENG_BASE_SET; `extBuild` is the BUILD of the extension program loaded last; `spareUsed` that a condemnation has consumed the spare. -/
structure EngSt where
  policy   : Nat := 0
  spareUsed : Bool := false
  engines  : Tbl Engine := []
  hooks    : Tbl Bind := []
  progs    : Tbl Prog := []
  baseImg  : Option Bytes := none
  baseBuild : Nat := 0
  extBuild : Nat := 0
  icmp     : Bool := false
  icmpRate : Nat := 100
  ipv4Src  : Bytes := zeros 4
  ipv6Src  : Bytes := zeros 16
  deriving DecidableEq, Repr

end Sys2Proof.Machine
end

