-- ==== Sys2Proof/Machine/StFlow.lean ====
section
/-! DEFINITION. The state of the flow stage and of the table service (R256-R282). -/

namespace Sys2Proof.Machine

open Sys2Proof

/-- A way of the flow cache (R264): an entry's image and flow index; `used` orders the ways by their last hit. -/
structure Way where
  index : Nat
  image : Bytes
  dirty : Bool := false
  used  : Nat := 0
  deriving DecidableEq, Repr

/-- The holder of a claim (R271): a frame, by its buffer and owner sequence, or a command of the table service. -/
inductive Claimer where
  | frame (h oseq : Nat)
  | svc
  deriving DecidableEq, Repr

/-- A claim: the key and the flow index of the slot it reserves, which is the claim's index; `ctl` is byte 0 of the home bucket as
last read or written, none when an entry of the mirror bucket was claimed, whose home has OVERFLOW set (R259); `ovfl` is the
OVERFLOW of the slot's own bucket. -/
structure Claim where
  key   : Bytes
  index : Nat
  owner : Claimer
  ctl   : Option Nat := none
  ovfl  : Bool := false
  deriving DecidableEq, Repr

/-- A frame whose lookup reads the table (R263): `b1` is the home bucket once read, `bucket` the one read now,
`xfer` its read, none while a write-back to that bucket is outstanding (R43), `learn` that the mirror bucket is read
for a claim (R273). -/
structure Look where
  frame  : PFrame
  key    : Bytes
  b1     : Option Bytes := none
  bucket : Nat
  xfer   : Option Nat := none
  learn  : Bool := false
  deriving DecidableEq, Repr

/-- The outcomes of a flow operation (R271). -/
inductive FlopRes where
  | granted | exists_ | resumed | full | busy | error | stale | notFound | ok | mismatch
  deriving DecidableEq, Repr

/-- Who asked for a flow operation. -/
inductive FlopBy where
  | thread (e t : Nat)
  | svc
  deriving DecidableEq, Repr

/-- A flow operation in progress: CLAIM_NEW on `key`, or CLAIM_ENTRY of `index` when `entry` is set. `img` is the
image evicted from the cache, whose write-back is awaited. -/
structure Flop where
  by_    : FlopBy
  owner  : Claimer
  entry  : Bool
  key    : Bytes := []
  index  : Nat := 0
  expect : Option Nat := none
  b1     : Option Bytes := none
  img    : Option Bytes := none
  bucket : Nat := 0
  xfer   : Option Nat := none
  result : Option (FlopRes × Nat) := none
  deriving DecidableEq, Repr

/-- What the table service is asked to do (R275 and the flow commands). -/
inductive SvcOp where
  | install (a b : Bytes) (pair replace : Bool)
  | delete (index : Nat) (pair : Bool)
  | expire
  | flush (mode zone action : Nat)
  deriving DecidableEq, Repr

/-- Where a job of the table service is: it has moved with the service (R319), waits to ask for a claim, for the outcome, for
reads or writes, or for the next bucket pair.  `second` is that of IMAGE_B. -/
inductive SvcPhase where
  | start
  | moved
  | askNew (second : Bool)
  | newAsked (second : Bool)
  | entryAsked (second : Bool)
  | askDel
  | delAsked
  | finding (home : Bool)
  | writing
  | scan
  deriving DecidableEq, Repr

/-- A job of the table service, with the mailbox it answers.  `todo` lists the entries of the group being deleted that
are still to be claimed, with the LAST_SEEN expected of each, `groups` the groups that wait; `idxA`, `idxB` are the
slots claimed, `key` the partner's key that is looked for, `pairs` counts the pairs deleted, `pos` is the next bucket
pair of a flush, `err` that a write failed. -/
structure SvcJob where
  mb      : Option Nat
  op      : SvcOp
  phase   : SvcPhase := .start
  idxA    : Nat := 0xFFFFFFFF
  idxB    : Nat := 0xFFFFFFFF
  todo    : List (Nat × Option Nat) := []
  groups  : List (List (Nat × Option Nat)) := []
  key     : Bytes := []
  packets : Nat := 0
  octets  : Nat := 0
  pairs   : Nat := 0
  pos     : Nat := 0
  first   : Bool := true
  left    : Nat := 0
  err     : Bool := false
  deriving DecidableEq, Repr

/-- A bucket of the flow table as a read returned it (R259). -/
structure Bucket where
  b    : Nat
  data : Bytes
  deriving DecidableEq, Repr

/-- The bucket pair that the table service examines (R275), for a flush or for the aging pass: the buckets read, and those
whose read was errored, and those whose read in progress a publish has made stale. -/
structure Scan where
  pos   : Nat
  flush : Bool
  view  : List Bucket := []
  bad   : List Nat := []
  stale : List Nat := []
  deriving DecidableEq, Repr

/-- The flow stage.  `ways` holds the cache sets; `clock` counts hits, for the order of the ways; `scan` is the
next bucket pair of the aging pass, `expired` and `seen` the figures of the pass. -/
structure FlowSt where
  seed     : Nat := 0xFFFFFFFF
  tick     : Nat := 4
  scanPer  : Nat := 15
  timeouts : List Nat := [3, 3, 30, 1800, 15, 45, 8, 150]
  cache    : Tbl (List Way) := []
  clock    : Nat := 0
  claims   : Tbl Claim := []
  looks    : List Look := []
  followers : List (PFrame × Bytes) := []
  flops    : List Flop := []
  policers : Tbl Policer := []
  jobs     : List SvcJob := []
  scan     : Nat := 0
  looking  : Option Scan := none
  expired  : Nat := 0
  seen     : Nat := 0
  fullEvt  : Option Nat := none
  deriving DecidableEq, Repr

end Sys2Proof.Machine
end

