-- ==== Sys2Proof/Machine/StGelvor.lean ====
section
/-! DEFINITION. The state of the mailboxes, requests, commit groups and event rings. -/

namespace Sys2Proof.Machine

open Sys2Proof

/-- An event as it is raised, before a ring gives it its sequence and phase (R118). -/
structure Ev where
  code    : Nat
  time    : Nat
  subject : Nat
  detail  : Bytes
  deriving DecidableEq, Repr

/-- The agents an event is meant for (R121). -/
inductive Aud where
  | zero
  | agents (l : List Nat)
  | every
  deriving DecidableEq, Repr

/-- A token record (R100). -/
structure Token where
  token  : Nat
  code   : Nat
  digest : Nat
  hdr    : Bytes
  data   : Bytes
  deriving DecidableEq, Repr

/-- An event ring (R117 SYS_EVENT_RING_SET); entries 0 is disabled. -/
structure Ring where
  base    : Nat := 0
  entries : Nat := 0
  flags   : Nat := 0
  msgAddr : Nat := 0
  msgData : Nat := 0
  deriving DecidableEq, Repr

/-- One mailbox (R85, R86, R100, R106, R119, R120). -/
structure Mb where
  busy       : Bool := false
  done       : Bool := false
  dbIgnored  : Bool := false
  reqHdr     : Bytes := zeros 64
  reqData    : Bytes := zeros 256
  rspHdr     : Bytes := zeros 64
  rspData    : Bytes := zeros 256
  bell       : Nat := 0
  hdr        : Bytes := zeros 64
  body       : Bytes := zeros 256
  agent      : Nat := 0
  caps       : Nat
  evtProd    : Nat := 0
  evtCons    : Nat := 0
  evtLost    : Nat := 0
  intCtrl    : Nat := 0
  ignored    : Nat := 0
  evtMask    : Nat := 0
  ring       : Ring := {}
  seq        : Nat := 0
  lostBefore : Bool := false
  evtQ       : List Ev := []
  writing    : Bool := false
  tokens     : List Token := []
  deriving DecidableEq, Repr

/-- A request that a command's row executes: taken by Onyx, or long-running beside the queue (R90). -/
structure Req where
  mb      : Nat
  hdr     : Bytes
  payload : Bytes
  ready   : Bool := true
  digest  : Nat := 0
  deriving DecidableEq, Repr

/-- A staged command of a group (R108). -/
structure Cmd where
  code    : Nat
  payload : Bytes
  mb      : Nat := 0
  deriving DecidableEq, Repr

/-- A commit group (R110, R113). -/
structure Group where
  id    : Nat
  mb    : Nat
  agent : Nat
  cmds  : List Cmd := []
  deriving DecidableEq, Repr

/-- What waits for event records to be in their rings: the response of a mailbox with its header and data (R121), or, with
none, the taking of requests after held events (R122).  `ahead` counts the records still to be written, by mailbox. -/
structure Awaited where
  rsp   : Option (Nat × Bytes × Bytes)
  ahead : List (Nat × Nat)
  deriving DecidableEq, Repr

structure GelvorSt where
  mbs        : Tbl Mb := []
  queue      : List Nat := []
  taken      : Option Req := none
  running    : List Req := []
  groups     : List Group := []
  nextGroup  : Nat := 1
  held       : List (Ev × Aud) := []
  awaited    : List Awaited := []
  puntTarget : Nat := 0xFFFFFFFF
  deriving DecidableEq, Repr

end Sys2Proof.Machine
end

