-- ==== Sys2Proof/Machine/StHost.lean ====
section
/-! DEFINITION. The state of the host port, the host memory regions and the interrupt aggregation. -/

namespace Sys2Proof.Machine

open Sys2Proof

/-- The sources of an interrupt message that is not tied to a channel's completion, and the vectors. -/
inductive MsgSrc where
  | line (l : Nat)
  | mailbox (m : Nat)
  | vector (ch v : Nat)
  | crc
  deriving DecidableEq, Repr

/-- Who reads a buffer out of host memory (R214, R215): a wire port, a receive ring, a link's staging of a station's frame, the
parser, the reorder stage, a thread of an engine, an engine's input queue, or Onyx's. -/
inductive Reader where
  | wire (n : Nat)
  | ring (ch r : Nat)
  | stage (l st : Nat)
  | parser
  | commit
  | thread (e t : Nat)
  | inq (e : Nat)
  | onyx
  deriving DecidableEq, Repr

/-- The unit, and the place in it, that a host-port transfer belongs to (R41). -/
inductive Purp where
  | payload
  | event (m : Nat)
  | oldEvent (m : Nat)
  | msg (src : MsgSrc)
  | image
  | desc (ch : Nat) (tx : Bool) (r : Nat)
  | txData (ch r id : Nat)
  | rxData (ch r id : Nat)
  | writeBack (ch : Nat) (tx : Bool) (r id : Nat)
  | lookup
  | flopRead
  | flowWrite
  | overflow (b : Nat)
  | svcRead (mb : Nat)
  | stage
  | scrub
  | stageRead
  | hitWrite (index : Nat)
  | thread (e t : Nat)
  | spill (h : Nat)
  | ret (h : Nat)
  | direct (h : Nat) (who : Reader)
  | dramWrite (h : Nat)
  | freeRead (p : Nat)
  | freeWrite (p : Nat)
  | crcRead (j : Nat)
  | crcRing (j : Nat)
  deriving DecidableEq, Repr

/-- One transaction of the host port (R37): the part of a transfer that one request carries. -/
structure Txn where
  tag    : Nat
  sid    : Nat
  addr   : Nat
  beats  : Nat
  xfer   : Nat
  strobe : Nat := 0
  wdata  : Bytes := []
  got    : List Beat := []
  deriving DecidableEq, Repr

/-- One access of a unit to host memory, split into transactions (R38). `todo` holds the aligned pieces
not issued yet, as address and beats; `out` counts the transactions outstanding. -/
structure Xfer where
  id    : Nat
  purp  : Purp
  write : Bool
  sid   : Nat
  addr  : Nat
  len   : Nat
  data  : Bytes
  todo  : List (Nat × Nat)
  out   : Nat := 0
  err   : Bool := false
  gone  : Bool := false
  deriving DecidableEq, Repr

/-- A host memory region; size 0 is not configured or disabled (R117). -/
structure Region where
  base  : Nat := 0
  size  : Nat := 0
  agent : Nat := 0
  set   : Bool := false
  deriving DecidableEq, Repr

/-- The host port.  `owed` holds, for each retired read tag, the beats that its late response still owes (R46); `coolR` and
`coolW` are the tags that a late response has freed in this cycle (R84).  `pmu` holds the occurrences of its monitored events that
no counter has taken yet: reads and writes issued, read and write beats, errored transactions (R516). -/
structure HostSt where
  reads      : List Txn := []
  writes     : List Txn := []
  retiredR   : List Nat := []
  retiredW   : List Nat := []
  owed       : Tbl Nat := []
  coolR      : List Nat := []
  coolW      : List Nat := []
  xfers      : List Xfer := []
  nextX      : Nat := 0
  violations : Nat := 0
  errored    : Nat := 0
  timeouts   : Nat := 0
  late       : Nat := 0
  stray      : Nat := 0
  pmu        : List Nat := [0, 0, 0, 0, 0]
  control    : Region := {}
  flow       : Region := {}
  dram       : Region := {}
  staging    : Region := {}
  windows    : Tbl Region := []
  deriving DecidableEq, Repr

/-- The message of one wired interrupt line (R536). -/
structure LineMsg where
  addr    : Nat := 0
  data    : Nat := 0
  enable  : Bool := false
  addrErr : Bool := false
  owed    : Bool := false
  deriving DecidableEq, Repr

/-- The interrupt aggregation (R533-R536). Bit L of `levels` says that line L has been high in this cycle (R545). -/
structure IntrSt where
  mbEvent   : Nat := 0
  wake      : Bool := false
  wakeMask  : Nat := 0
  err       : Nat := 0
  errMask   : Nat := 0
  msgs      : Tbl LineMsg := []
  msgErrors : Nat := 0
  levels    : Nat := 0
  deriving DecidableEq, Repr

/-- The register port's last access: its read data and its response (R48, R50). -/
structure RegSt where
  rdata : Nat := 0
  resp  : Nat := 0
  deriving DecidableEq, Repr

end Sys2Proof.Machine
end

