-- ==== Sys2Proof/Machine/StLane.lean ====
section
/-! DEFINITION. The state of the serial lanes and of the wire ports. -/

namespace Sys2Proof.Machine

open Sys2Proof

/-- A lane's staged or applied set, held as the words of its staging registers (R152, R541). -/
structure LaneCfg where
  mode : Nat := 0x00000006
  txeq : Nat := 0x14003F00
  rxeq : Nat := 0x00000006
  lpi0 : Nat := 0x07080500
  lpi1 : Nat := 0x09C40D14
  prbs : Nat := 0
  deriving DecidableEq, Repr

inductive TxLpi where
  | active | sleep | quiet | refresh | wake
  deriving DecidableEq, Repr

inductive RxLpi where
  | active | sleep | quiet | wake
  deriving DecidableEq, Repr

/-- A serial lane (R125-R161).  `starting` says that its PLL has been started, `retryWait` that a failed start
waits for its retry, `inSeq` that LANE_APPLY_DONE of an APPLY is still owed, `applying` that the sequence of an APPLY
has not reached RX_READY; `pre`, `main`, `post` are the
coefficients in use with `swing`, all 0 at reset (R542); `coef` the last coefficient status; `runMbits` the units checked in this
run; `quietLimit` RX_QUIET_LIMIT at the latest entry to QUIET (R146); `gen` the generator's register, `word` the bits at the
transmit pins in the latest cycle (R130, R149), and `echo` the frames that the far-end loopback still sends, with the words of the
first that are sent (R148).  The LPI times are in 1/64 ns. -/
structure Lane where
  staged     : LaneCfg := {}
  applied    : LaneCfg := {}
  pll        : Bool := false
  los        : Bool := false
  cdr        : Bool := false
  rxReady    : Bool := false
  aligned    : Bool := false
  txLpi      : TxLpi := .active
  rxLpi      : RxLpi := .active
  prbsLock   : Bool := false
  prbsDone   : Bool := false
  retired    : Bool := false
  events     : Nat := 0
  applyStatus : Nat := 0
  pre        : Nat := 0
  main       : Nat := 0
  post       : Nat := 0
  swing      : Nat := 0
  training   : Bool := false
  trained    : Bool := false
  coef       : Nat := 0
  ctle       : Nat := 0
  dfe        : List Int := [0, 0, 0, 0, 0]
  starting   : Bool := false
  retryWait  : Bool := false
  fails      : Nat := 0
  inSeq      : Bool := false
  applying   : Bool := false
  losCounted : Bool := false
  fill       : Nat := 16
  scrambler  : Nat := 2 ^ 58 - 1
  errInject  : Bool := false
  quietLimit : Nat := 0
  gen        : Nat := 0
  word       : List Bool := []
  echo       : List Bytes := []
  echoWords  : Nat := 0
  runMbits   : Nat := 0
  counts     : Tbl Nat := []
  prbsErr    : Nat := 0
  txLpiNs    : Nat := 0
  rxLpiNs    : Nat := 0
  deriving DecidableEq, Repr

/-- The quad (R127, R157, R191): its declarations, the result of the last APPLY, and the lane unit's
holding register. -/
structure LanesSt where
  lanes    : Tbl Lane := []
  quadStaged  : Nat := 0
  quadApplied : Nat := 0
  applyErr : Bool := false
  applyMask : Nat := 0
  holding  : Nat := 0
  deriving DecidableEq, Repr

/-- A port's staged or applied set, held as the words of its staging registers (R163, R543). -/
structure PtCfg where
  mode    : Nat := 0x05F20000
  flow    : Nat := 0
  preempt : Nat := 0x00090002
  deriving DecidableEq, Repr

/-- A gate control list (R180). `start` is S, in ns of its base. -/
structure Gcl where
  tb      : Nat
  entries : List (Nat × Nat)
  base    : Nat
  cycle   : Nat
  ext     : Nat
  start   : Nat := 0
  deriving DecidableEq, Repr

/-- A frame that a port transmits: a frame of a queue, or a PAUSE or PFC frame (`control`).
`sent` counts the bytes sent before a preemption, `stamp` its egress time in 2^-40 ns of base `tb` (R187), `start` the TB7 time at
which it was started or resumed, and `cfg` the set that the port had applied at its start, under which it finishes (R163).  While
`reading`, the head `head` of a class is being read into the FIFO and is not in transmission (R167); `awaited` says that a stop waits
for the frame's end (R194); `words` counts the words sent of it (R130). -/
structure TxFrame where
  handle  : Nat
  oseq    : Nat
  tc      : Nat
  rewrite : Nat
  bytes   : Bytes
  reading : Bool := false
  control : Bool := false
  gen     : Bool := false
  express : Bool := true
  sent    : Nat := 0
  stamp   : Nat := 0
  tb      : Nat := 7
  start   : Nat := 0
  cfg     : PtCfg := {}
  head    : Option Nom := none
  awaited : Bool := false
  words   : Nat := 0
  deriving DecidableEq, Repr

/-- A transmit timestamp record (R188): time in 2^-40 ns. -/
structure TsRec where
  seq  : Nat
  port : Nat
  tb   : Nat
  time : Nat
  deriving DecidableEq, Repr

/-- What a port's receiver applies to a frame from its first byte on: MAX_FRAME, the receive timestamp and its base, that in TB7,
DEFAULT_TC and PCP_MAP (R163, R187, R192, R521). -/
structure RxSet where
  maxF      : Nat
  time      : Nat
  time7     : Nat
  tb        : Nat
  defaultTc : Nat
  pcpMap    : Nat
  deriving DecidableEq, Repr

/-- What the MAC reassembles of a preempted frame (R186), what applies to it, and TB7 at its first fragment (R461). -/
structure Asm where
  data : Bytes
  bad  : Bool := false
  set  : Option RxSet := none
  at7  : Nat := 0
  deriving DecidableEq, Repr

/-- A wire port (R162-R194).  `paused` are the classes stopped, `stopping` those whose stop starts at the end of the frame in
transmission (R194); `xoffSent` says for which class, or 8 for PAUSE, an XOFF stands, and `atXoff` which occupancy was at XOFF or
above when it was last judged (R178). -/
structure Port where
  staged    : PtCfg := {}
  applied   : PtCfg := {}
  check     : Nat := 0
  defaultTc : Nat := 0
  pcpMap    : Nat := 0xFAC688
  mac       : Bytes := zeros 6
  tsBase    : Nat := 7
  xoff      : Nat := 0
  xon       : Nat := 0
  quanta    : Nat := 0xFFFF
  refresh   : Nat := 0x8000
  rxCorr    : Int := 0
  txCorr    : Int := 0
  hold      : Nat := 0
  eeeIdle   : Nat := 20
  link      : Bool := false
  hiBer     : Bool := false
  fecLock   : Bool := false
  anDone    : Bool := false
  anWait    : Bool := false
  anOutcome : Nat := 7
  resFec    : Nat := 0
  pauseOk   : Bool := true
  localF    : Bool := false
  remoteF   : Bool := false
  page      : Nat := 0
  holdOver  : Bool := true
  asm       : Option Asm := none
  tx        : Option TxFrame := none
  rem       : Option TxFrame := none
  paused    : Nat := 0
  stopping  : Nat := 0
  pauseEnd  : Tbl Nat := []
  owed      : List (Nat × Nat) := []
  occ       : Tbl Nat := []
  xoffSent  : Nat := 0
  atXoff    : Nat := 0
  gcl       : Option Gcl := none
  gclNext   : Option Gcl := none
  cycleStart : Nat := 0
  entry     : Nat := 0
  gates     : Nat := 0xFF
  verify    : Nat := 0
  verifyN   : Nat := 0
  lpiReq    : Bool := false
  ts        : List TsRec := []
  holding   : Nat := 0
  deriving DecidableEq, Repr

end Sys2Proof.Machine
end

