-- ==== Sys2Proof/Machine/StMt.lean ====
section
/-! DEFINITION. The state of measurement and of the test access (R78-R80, R512-R530). -/

namespace Sys2Proof.Machine

open Sys2Proof

/-- A monitored unit (R513): its cycle counter, eight 48-bit counters with their settings and reloads. -/
structure Pmu where
  run     : Bool := false
  freeze  : Bool := false
  ovf     : Nat := 0
  cycle   : Nat := 0
  holding : Nat := 0
  evsel   : Tbl Nat := []
  cnt     : Tbl Nat := []
  reload  : Tbl Nat := []
  level   : Tbl Nat := []
  evt     : Option Nat := none
  deriving DecidableEq, Repr

/-- A bandwidth window (R517, R518). -/
structure Bw where
  k       : Nat := 0
  run     : Bool := false
  cfgErr  : Bool := false
  seq     : Nat := 0
  rxO     : Nat := 0
  rxF     : Nat := 0
  txO     : Nat := 0
  txF     : Nat := 0
  lrxO    : Nat := 0
  lrxF    : Nat := 0
  ltxO    : Nat := 0
  ltxF    : Nat := 0
  rxPeak  : Nat := 0
  txPeak  : Nat := 0
  deriving DecidableEq, Repr

/-- A frame generator and checker (R519-R521, R527).  `stop` says that the generator stops after its frame in transmission, and `old`
that this frame is of a run since replaced. -/
structure GenChk where
  gen     : Bool := false
  set     : Bytes := zeros 96
  i       : Nat := 0
  stop    : Bool := false
  old     : Bool := false
  sent    : Nat := 0
  chk     : Bool := false
  pattern : Nat := 0
  fill    : Nat := 0
  off     : Nat := 0
  expect  : Option Nat := none
  frames  : Nat := 0
  lost    : Nat := 0
  ooo     : Nat := 0
  bad     : Nat := 0
  latMin  : Nat := 0xFFFFFFFF
  latMax  : Nat := 0
  latSum  : Nat := 0
  deriving DecidableEq, Repr

/-- The spares that a BIST allocated in one macro: its place in the order of R473, columns and rows (R523). -/
structure BistFix where
  mac  : Nat
  cols : List Nat
  rows : List Nat
  deriving DecidableEq, Repr

/-- The test access: `wir` is the wrapper's instruction register (R78), `session` that an intrusive instruction has
run since the last reset, `results` the statuses of the last BIST in the order of R473 and `fixes` its repairs, which
last for the test session (R523), `bistRun` that it runs, `shiftOut` the bits that the last read instruction shifts
out at WSO, first bit first; `boundary` what was last shifted into the boundary cells from WSI, and `scan` what was last shifted
into the chains at the scan inputs of the parallel port (R78, R525). -/
structure TestSt where
  mode     : Bool := false
  atReset  : Bool := false
  wir      : Nat := 0
  refused  : Nat := 0
  session  : Bool := false
  bistRun  : Bool := false
  outcome  : Nat := 0
  results  : List Nat := []
  fixes    : List BistFix := []
  shiftOut : List Bool := []
  boundary : List Bool := []
  scan     : List (List Bool) := []
  deriving DecidableEq, Repr

structure MtSt where
  pmu  : Tbl Pmu := []
  bw   : Tbl Bw := []
  gc   : Tbl GenChk := []
  test : TestSt := {}
  deriving DecidableEq, Repr

end Sys2Proof.Machine
end

