-- ==== Sys2Proof/Machine/StPwr.lean ====
section
/-! DEFINITION. The state of the power unit and of the wake matcher (R447-R469). -/

namespace Sys2Proof.Machine

open Sys2Proof

/-- A wake pattern (R459). -/
structure WakePat where
  ports : Nat := 0
  value : Bytes := zeros 64
  mask  : Bytes := zeros 64
  deriving DecidableEq, Repr

/-- A frame in the watch buffer: its port, stored bytes and TB7 stamp (R461). -/
structure WatchFrame where
  port : Nat
  data : Bytes
  time : Nat
  deriving DecidableEq, Repr

inductive PwrMode where
  | active | watch | dormant | entering | waking
  deriving DecidableEq, Repr

/-- `target` and `force` are those of the entry in progress, `committed` says that its commit point has come, `isolated` that its
domains are released;
`heldCause` is a wake cause, pattern and port that waits for the entry to end, `causeAt` the TB7 value at which the latched or held
cause arose, `hsTimeout` the handshakes whose ACK has not followed the latest change of their REQ in time, and `absent` the domains
whose power-up has timed out and whose ACK has not risen since (R74). -/
structure PwrSt where
  mode      : PwrMode := .active
  target    : Nat := 0
  force     : Bool := false
  forced    : Bool := false
  committed : Bool := false
  isolated  : Bool := false
  dropped   : Nat := 0
  heldCause : Option (Nat × Nat × Nat) := none
  cause     : Nat := 0
  causePat  : Nat := 0
  causePort : Nat := 0
  causeAt   : Nat := 0
  wakeTime  : Nat := 0
  aoHold    : Nat := 0
  hsErrors  : Nat := 0
  req       : Nat := 0x2001F
  ack       : Nat := 0
  retReq    : Nat := 0
  retAck    : Nat := 0
  clkReq    : Bool := true
  clkAck    : Bool := true
  hsTimeout : List (Nat × Nat) := []
  absent    : List Nat := []
  watchPorts : Nat := 0
  linkWake  : Nat := 0
  addrWake  : Nat := 0
  wakeAddr  : Tbl Nat := []
  pats      : Tbl WakePat := []
  buf       : List WatchFrame := []
  drained   : Nat := 0
  commitNs  : Nat := 0
  activeNs  : Nat := 0
  deriving DecidableEq, Repr

end Sys2Proof.Machine
end

