-- ==== Sys2Proof/Machine/StRes.lean ====
section
/-! DEFINITION. The state of faults, repair, the Onyx pair, Jasper and the images (R470-R503). -/

namespace Sys2Proof.Machine

open Sys2Proof


/-- A repair (R477): in progress by spare row or spare column `spare`, or waiting, with none, for the repairs of its unit that go
before it (R471). -/
structure Repair where
  place : Place
  column : Bool
  spare : Option Nat
  deriving DecidableEq, Repr

/-- The spares of a macro in use, the spares that failed among them, and whether its copy is given up (R478). -/
structure Macro where
  place : Place
  rows  : Nat := 0
  cols  : Nat := 0
  down  : Bool := false
  deriving DecidableEq, Repr

inductive Standby where
  | ready | sync | failed
  deriving DecidableEq, Repr

/-- Where an image load stands (R489-R491): the prefix is read, an old image of the kind is scrubbed, the cipher port is
awaited, the cipher request runs, the staging accesses that it left outstanding end, or staging is scrubbed, `restart`
saying that the cipher request is then made again. -/
inductive LoadPhase where
  | readPrefix
  | scrubOld
  | wait
  | cipher
  | drain (status : Nat)
  | scrub (restart : Bool)
  deriving DecidableEq, Repr

/-- The image load that runs.  `off` is the offset of its plaintext in staging, `sent` the bytes of CIPH_IN of its latest cipher
request, ciphertext and then tag (R58), `got` the plaintext so far, `written` the greatest count of plaintext bytes written,
`fail` the status that it will end with, `epoch` the expected slot epoch of its latest cipher request. -/
structure LoadSt where
  mb       : Nat
  kind     : Nat
  slot     : Nat
  epoch    : Nat
  group    : Nat
  addr     : Nat
  rollback : Bool
  phase    : LoadPhase := .readPrefix
  ctLen    : Nat := 0
  off      : Nat := 0
  sent     : Bytes := []
  got      : Bytes := []
  written  : Nat := 0
  restarts : Nat := 0
  fail     : Option Nat := none
  detail   : Nat := 0xFFFFFFFF
  version  : Nat := 0
  build    : Nat := 0
  result   : Nat := 0
  deriving DecidableEq, Repr

/-- A verified image in staging: its offset and length there, its digest, build and version. -/
structure Staged where
  off     : Nat
  len     : Nat
  digest  : Nat
  build   : Nat
  version : Nat
  deriving DecidableEq, Repr

/-- Where an activation stands (R493, R494, R506): staging is read back, the standby synchronises with the new firmware, the
switch awaits a request boundary, both cores start the firmware, the engines are reloaded in turn, the engines of a first
activation are tested, or staging is scrubbed. -/
inductive ActPhase where
  | readBack
  | sync
  | switch
  | start
  | reload
  | test
  | scrub
  deriving DecidableEq, Repr

/-- The activation that runs: `todo` are the engines not yet reloaded, the one at the front draining. -/
structure ActSt where
  mb    : Nat
  kind  : Nat
  phase : ActPhase := .readBack
  todo  : List Nat := []
  got   : Bytes := []
  deriving DecidableEq, Repr

/-- Jasper (R499): idle, a takeover, a cold restart, given up. -/
inductive Jasper where
  | idle | takeover | cold | gaveUp
  deriving DecidableEq, Repr

/-- Resilience.  `active` is the active Onyx core; `coreEpoch` its epoch (R482); `fails` the TB7 times (ns) of each
core's failures; `colds` counts cold restarts since RST_AO_N, `coldTimes` are those without success; `digest`, `keptBuild` and `keptVer` are those of
the retained firmware, `fwHeld` says that one is retained and `fwBad` that it no longer matches its digest; `fwBuild` is the build that
runs, and `fwNext` the image that runs and is not yet retained (R493);
`log` the fault log, `record` the entries of the repair record; `rebuild` the pools whose free list is being
rebuilt (R476); `ciphOut` that a cipher request is outstanding, `ciphAbandoned` that its end is still awaited
(R60); `images` the verified images by kind, `scrubs` the range of an errored scrub write. -/
structure ResSt where
  active    : Nat := 0
  standby   : Standby := .failed
  coreEpoch : Nat := 0
  noResync  : List Nat := []
  fails     : List (Nat × Nat) := []
  jasper    : Jasper := .idle
  colds     : Nat := 0
  coldTimes : List Nat := []
  digest    : Nat := 0
  keptBuild : Nat := 0
  keptVer   : Nat := 0
  fwBuild   : Nat := 0
  fwNext    : Option Staged := none
  fwHeld    : Bool := false
  fwBad     : Bool := false
  log       : List Bytes := []
  seq       : Nat := 0
  ce        : Nat := 0
  ue        : Nat := 0
  passes    : Nat := 0
  passRun   : Bool := false
  passNs    : Nat := 0
  period    : Nat := 24
  blockId   : Nat := 0
  packageId : Nat := 0
  rowErr    : List (Place × Nat) := []
  colErr    : List Place := []
  repairs   : List Repair := []
  macros    : List Macro := []
  record    : List Nat := []
  recordBad : Nat := 0
  rebuild   : List Nat := []
  retireNext : List Nat := []
  ceEvt     : Tbl Nat := []
  watchKib  : Nat := 64
  load      : Option LoadSt := none
  act       : Option ActSt := none
  ciphOut   : Bool := false
  ciphAbandoned : Bool := false
  images    : Tbl Staged := []
  scrubs    : List (Nat × Nat) := []
  deriving DecidableEq, Repr

end Sys2Proof.Machine
end

