-- ==== Sys2Proof/Machine/StSta.lean ====
section
/-! DEFINITION. The state of the stations and of the radio links (R355-R361). -/

namespace Sys2Proof.Machine

open Sys2Proof

/-- A rate word (R364). -/
structure RateW where
  byteTime : Nat
  agg      : Nat
  ovh      : Nat
  deriving DecidableEq, Repr

/-- A credit window (R366, R367); `avail` in TB7 ns. -/
structure Win where
  limit    : Nat := 0
  sent     : Nat := 0
  reserved : Nat := 0
  avail    : Nat := 0
  deriving DecidableEq, Repr

inductive PsState where
  | awake | doze | period
  deriving DecidableEq, Repr

/-- What a station holds per link (R357). -/
structure StaLink where
  ps     : PsState := .awake
  spMask : Nat := 0
  spLeft : Nat := 0
  rate   : Option RateW := none
  rateNs : Nat := 0
  stale  : Bool := false
  win    : Win := {}
  deriving DecidableEq, Repr

inductive StaState where
  | free | active | removing
  deriving DecidableEq, Repr

/-- A station context (R355, R357). `parked` has bit a for AC a; `parkedOnce` the queues that have been unparked
since the add (R379); `agent` the agent it is bound to (R107). -/
structure Sta where
  state   : StaState := .free
  agent   : Nat := 0
  links   : Nat := 0
  acLinks : Nat := 0
  quantum : List Nat := []
  qlimit  : List Nat := []
  sojourn : List Nat := []
  parked  : Nat := 0
  per     : Tbl StaLink := []
  deriving DecidableEq, Repr

/-- A dequeued frame in a link's launch queue (R361, R371). -/
structure Launch where
  h       : Nat
  oseq    : Nat
  sta     : Nat
  ac      : Nat
  rewrite : Nat
  d       : Nat
  cost    : Nat
  more    : Bool
  eosp    : Bool := false
  sojourn : Nat
  staged  : Bool := false
  bytes   : Bytes := []
  deriving DecidableEq, Repr

/-- A downstream frame that awaits its done report (R360): `md` is its metadata. -/
structure Unfin where
  tag   : Nat
  h     : Nat
  oseq  : Nat
  sta   : Nat
  ac    : Nat
  md    : Bytes
  bytes : Bytes := []
  deriving DecidableEq, Repr

/-- A radio link (R358-R361, R383). `upCredit` counts the beats granted and not used, `held` those that are to be granted once
nothing withholds them; `offAt` is the cycle in which the link was last disabled (R84). -/
structure Rl where
  enabled  : Bool := false
  upTb     : Option Nat := none
  defRate  : RateW := ⟨341333, 1, 40000⟩
  rateTo   : Nat := 1000
  doneTo   : Nat := 500
  maxDn    : Nat := 10336
  win      : Win := {}
  launch   : List Launch := []
  unfin    : List Unfin := []
  upCredit : Nat := 0
  held     : Nat := 0
  offAt    : Option Nat := none
  lastEvt  : Option Nat := none
  deriving DecidableEq, Repr

end Sys2Proof.Machine
end

