-- ==== Sys2Proof/Machine/StSys.lean ====
section
/-! DEFINITION. The state of reset and boot, of the service status, and the counters that commands read. -/

namespace Sys2Proof.Machine

open Sys2Proof

/-- Counters by (group, identifier, place in the group's table). -/
abbrev Tbl2 := List ((Nat × Nat × Nat) × Nat)

def Tbl2.get : Tbl2 → Nat × Nat × Nat → Nat
  | [], _ => 0
  | (k, v) :: t, i => if k = i then v else Tbl2.get t i

def Tbl2.set : Tbl2 → Nat × Nat × Nat → Nat → Tbl2
  | [], i, v => [(i, v)]
  | (k, w) :: t, i, v => if k = i then (k, v) :: t else (k, w) :: Tbl2.set t i v

/-- Reset, boot and management (R504-R512): `phase` is 0 boot code, 1 configuration, 2 running; `boot` says that
boot code serves MB0, `fw` that Onyx firmware serves every mailbox; `held` that the core reset is held; `quiescing` that
step 1 of SYS_QUIESCE runs, `quiesced` that its step 2 has begun. -/
structure SysSt where
  phase      : Nat := 0
  boot       : Bool := false
  fw         : Bool := false
  held       : Bool := false
  rstN       : Bool := true
  rstAoN     : Bool := true
  warmCount  : Nat := 0
  lastReset  : Nat := 1
  decodeErr  : Nat := 0
  decodeAddr : Nat := 0
  svcStatus  : Nat := 0
  svcEvents  : Nat := 0
  svcMask    : Nat := 0
  quiescing  : Bool := false
  quiesced   : Bool := false
  qDropped   : Nat := 0
  qTimed     : Nat := 0
  onyxVer    : Nat := 0
  garnetVer  : Nat := 0
  deriving DecidableEq, Repr

end Sys2Proof.Machine
end

