-- ==== Sys2Proof/Machine/StTime.lean ====
section
/-! DEFINITION. The state of the time bases, captures, strobe records and triggers. -/

namespace Sys2Proof.Machine

open Sys2Proof

/-- The values that a TB_NS read latches (R413). -/
structure TbHold where
  subns : Nat := 0
  sec   : Nat := 0
  lin   : Nat := 0
  deriving DecidableEq, Repr

structure TbSnap where
  ns    : Nat := 0
  subns : Nat := 0
  sec   : Nat := 0
  deriving DecidableEq, Repr

/-- One time base (R407-R416). `v` is its value in units of 2^-40 ns, seconds included, and `stepAt` the cycle of its latest
step. -/
structure Tb where
  v          : Nat := 0
  rate       : Int := 0
  locked     : Bool := false
  steps      : Nat := 0
  resumed    : Bool := false
  track      : Bool := false
  stale      : Bool := false
  stepAt     : Option Nat := none
  jump       : Nat := 100
  tsfTimeout : Nat := 1000
  freq       : Int := 0
  prev       : Option Nat := none
  hold       : TbHold := {}
  snap       : TbSnap := {}
  deriving DecidableEq, Repr

structure CapRec where
  time    : Nat
  base    : Nat
  stepped : Bool
  deriving DecidableEq, Repr

/-- A capture channel (R417-R419). `had` says that it has made a record; bit k of `stepped`, that base k has stepped since. -/
structure CapCh where
  enable   : Bool := false
  source   : Nat := 0
  srcTrg   : Nat := 0
  base     : Nat := 0
  expect   : Nat := 0
  minInt   : Nat := 0
  fifo     : List CapRec := []
  overflow : Bool := false
  stuck    : Bool := false
  lastEdge : Option Nat := none
  had      : Bool := false
  stepped  : Nat := 0
  deriving DecidableEq, Repr

/-- A strobe record (R420). State 0 OPEN, 1 COMPLETE, 2 SUPERSEDED, 3 VOIDED; times in 2^-40 ns. -/
structure StrobeRec where
  kind    : Nat
  state   : Nat := 0
  orphan  : Bool := false
  lostB   : Bool := false
  startP  : Bool := false
  endP    : Bool := false
  eventId : Nat := 0
  seq     : Nat
  start   : Nat
  stop    : Nat := 0
  tsf     : Nat := 0
  deriving DecidableEq, Repr

structure StrobeRing where
  recs : List StrobeRec := []
  seq  : Nat := 0
  lost : Bool := false
  deriving DecidableEq, Repr

inductive TrgMode where
  | idle | armed | owned
  deriving DecidableEq, Repr

/-- The settings of an arming (R424, R432). -/
structure TrgSet where
  base    : Nat := 0
  noLate  : Bool := false
  event   : Bool := false
  toggle  : Bool := false
  target  : Nat := 0
  period  : Nat := 0
  count   : Nat := 0
  width   : Nat := 0
  time    : Nat := 0
  station : Nat := 0
  link    : Nat := 0
  acMask  : Nat := 0
  spFrames : Nat := 0
  deriving DecidableEq, Repr

/-- A trigger (R424-R431). `set.time` is the next scheduled time in 2^-40 ns and `set.count` the scheduled
times left; `fired` is the cycle of the last firing; `pulse` says that its output is high by a pulse; the `r` fields are its
registers. -/
structure Trg where
  mode    : TrgMode := .idle
  set     : TrgSet := {}
  late    : Bool := false
  out     : Bool := false
  pulse   : Bool := false
  fired   : Option Nat := none
  rSecLo  : Nat := 0
  rSecHi  : Nat := 0
  rNs     : Nat := 0
  rPeriod : Nat := 0
  rCount  : Nat := 0
  rCfg    : Nat := 0
  result  : Nat := 0
  deriving DecidableEq, Repr

/-- The time unit. `cycle` counts core cycles; `kept` holds TB7 at the stop of CLK_CORE that lasts (R410); `edges` are the edges on
their way to TRIG_OUT: the cycle, the trigger, and whether a pulse rises (R62). -/
structure TimeSt where
  cycle  : Nat := 0
  tb     : Tbl Tb := []
  kept   : Option Nat := none
  edges  : List (Nat × Nat × Bool) := []
  cap    : Tbl CapCh := []
  strobe : Tbl StrobeRing := []
  trg    : Tbl Trg := []
  int0   : Nat := 0
  int1   : Nat := 0
  mask0  : Nat := 0xFFFFFFFF
  mask1  : Nat := 0xFFFFFFFF
  deriving DecidableEq, Repr

end Sys2Proof.Machine
end

