-- ==== Sys2Proof/Machine/State.lean ====
section
/-! DEFINITION. The state of the block, the reasons a step can stop, and the state after reset. -/

namespace Sys2Proof.Machine

open Sys2Proof

/-- The three build configurations (R4). -/
inductive Build where
  | bm512 | bm256 | bm128
  deriving DecidableEq, Repr

/-- Everything the manual gives the block, by unit, and the queue of the commands that wait.
`free` counts the free values drawn: it is the model's own, as is `pending` (log 3). -/
structure State where
  /-- The build configuration, fixed at synthesis (R4). -/
  build   : Build
  /-- The host port and the host memory regions (R37-R47, R117). -/
  host    : HostSt
  /-- The interrupt aggregation (R533-R536). -/
  intr    : IntrSt
  /-- The last answer of the register port (R48). -/
  reg     : RegSt
  /-- The mailboxes, requests, groups and event rings (R85-R124). -/
  gv      : GelvorSt
  /-- The time unit (R406-R435). -/
  time    : TimeSt
  /-- The serial lanes (R125-R161). -/
  lanes   : LanesSt
  /-- The wire ports (R162-R194). -/
  ports   : Tbl Port
  /-- The central store (R195-R229). -/
  store   : StoreSt
  /-- The egress queues and the schedulers (R387-R405). -/
  sch     : SchSt
  /-- The station contexts (R355-R357). -/
  sta     : Tbl Sta
  /-- The host channels (R320-R354). -/
  ch      : Tbl Ch
  /-- The radio links (R358-R361). -/
  rl      : Tbl Rl
  /-- The CRC job unit (R440-R446). -/
  crc     : CrcSt
  /-- The power unit and the wake matcher (R447-R469). -/
  pwr     : PwrSt
  /-- Reset, boot, management and the service status (R498, R504-R512). -/
  sys     : SysSt
  /-- The parser, the classifier and the rule generations (R230-R254). -/
  cls     : ClsSt
  /-- Faults, repair, the Onyx pair and the images (R470-R503). -/
  res     : ResSt
  /-- The pipeline, the reorder stage and the dispatcher (R26, R29-R31, R291-R295). -/
  pipe    : PipeSt
  /-- The flow stage and the table service (R256-R282). -/
  flow    : FlowSt
  /-- The Garnet frame engines (R283-R319). -/
  eng     : EngSt
  /-- Measurement and test (R78-R80, R512-R530). -/
  mt      : MtSt
  /-- The counters that a `_COUNTERS_GET` command reads, by group, identifier and place. -/
  cnt     : Tbl2
  /-- How many free values have been drawn; the model's own (log 3). -/
  free    : Nat
  /-- The commands that wait, first in, first out; the model's own. -/
  pending : List Instr
  deriving DecidableEq, Repr

/-- The reasons a step stops.  No meaning of the model raises one: an event that cannot happen in a state
changes nothing (log 4), which is safe in that no claim can rest on a fault. -/
inductive Fault where
  /-- Raised by no meaning: kept because the interface wants a type of faults.  Safe. -/
  | none
  deriving DecidableEq, Repr

/-- The reasons a command is refused. -/
inductive Refusal where
  /-- The command has no meaning in the model; raised by an arm of `exec` only.  Safe. -/
  | notModelled (mnemonic : String)
  deriving DecidableEq, Repr

/-- The block right after its resets (R502, R503), in the build configuration BM-512 (log 1). -/
def State.reset : State where
  build   := .bm512
  host    := {}
  intr    := {}
  reg     := {}
  gv      := {}
  time    := {}
  lanes   := {}
  ports   := []
  store   := {}
  sch     := {}
  sta     := []
  ch      := []
  rl      := []
  crc     := {}
  pwr     := {}
  sys     := {}
  cls     := {}
  res     := {}
  pipe    := {}
  flow    := {}
  eng     := {}
  mt      := {}
  cnt     := []
  free    := 0
  pending := []

end Sys2Proof.Machine
end

