-- ==== Sys2Proof/Machine/Upd.lean ====
section
/-! DEFINITION. The named updates of one part of the state. -/

namespace Sys2Proof.Machine

/-- Change the part `build` of the state and no other. -/
def State.updBuild (s : State) (f : Build → Build) : State := { s with build := f s.build }

/-- Change the part `host` of the state and no other. -/
def State.updHost (s : State) (f : HostSt → HostSt) : State := { s with host := f s.host }

/-- Change the part `intr` of the state and no other. -/
def State.updIntr (s : State) (f : IntrSt → IntrSt) : State := { s with intr := f s.intr }

/-- Change the part `reg` of the state and no other. -/
def State.updReg (s : State) (f : RegSt → RegSt) : State := { s with reg := f s.reg }

/-- Change the part `gv` of the state and no other. -/
def State.updGv (s : State) (f : GelvorSt → GelvorSt) : State := { s with gv := f s.gv }

/-- Change the part `time` of the state and no other. -/
def State.updTime (s : State) (f : TimeSt → TimeSt) : State := { s with time := f s.time }

/-- Change the part `lanes` of the state and no other. -/
def State.updLanes (s : State) (f : LanesSt → LanesSt) : State := { s with lanes := f s.lanes }

/-- Change the part `ports` of the state and no other. -/
def State.updPorts (s : State) (f : Tbl Port → Tbl Port) : State := { s with ports := f s.ports }

/-- Change the part `store` of the state and no other. -/
def State.updStore (s : State) (f : StoreSt → StoreSt) : State := { s with store := f s.store }

/-- Change the part `sch` of the state and no other. -/
def State.updSch (s : State) (f : SchSt → SchSt) : State := { s with sch := f s.sch }

/-- Change the part `sta` of the state and no other. -/
def State.updSta (s : State) (f : Tbl Sta → Tbl Sta) : State := { s with sta := f s.sta }

/-- Change the part `ch` of the state and no other. -/
def State.updCh (s : State) (f : Tbl Ch → Tbl Ch) : State := { s with ch := f s.ch }

/-- Change the part `rl` of the state and no other. -/
def State.updRl (s : State) (f : Tbl Rl → Tbl Rl) : State := { s with rl := f s.rl }

/-- Change the part `crc` of the state and no other. -/
def State.updCrc (s : State) (f : CrcSt → CrcSt) : State := { s with crc := f s.crc }

/-- Change the part `pwr` of the state and no other. -/
def State.updPwr (s : State) (f : PwrSt → PwrSt) : State := { s with pwr := f s.pwr }

/-- Change the part `sys` of the state and no other. -/
def State.updSys (s : State) (f : SysSt → SysSt) : State := { s with sys := f s.sys }

/-- Change the part `cls` of the state and no other. -/
def State.updCls (s : State) (f : ClsSt → ClsSt) : State := { s with cls := f s.cls }

/-- Change the part `res` of the state and no other. -/
def State.updRes (s : State) (f : ResSt → ResSt) : State := { s with res := f s.res }

/-- Change the part `pipe` of the state and no other. -/
def State.updPipe (s : State) (f : PipeSt → PipeSt) : State := { s with pipe := f s.pipe }

/-- Change the part `flow` of the state and no other. -/
def State.updFlow (s : State) (f : FlowSt → FlowSt) : State := { s with flow := f s.flow }

/-- Change the part `eng` of the state and no other. -/
def State.updEng (s : State) (f : EngSt → EngSt) : State := { s with eng := f s.eng }

/-- Change the part `mt` of the state and no other. -/
def State.updMt (s : State) (f : MtSt → MtSt) : State := { s with mt := f s.mt }

/-- Change the part `cnt` of the state and no other. -/
def State.updCnt (s : State) (f : Tbl2 → Tbl2) : State := { s with cnt := f s.cnt }

/-- Change the part `free` of the state and no other. -/
def State.updFree (s : State) (f : Nat → Nat) : State := { s with free := f s.free }

/-- Change the part `pending` of the state and no other. -/
def State.updPending (s : State) (f : List Instr → List Instr) : State := { s with pending := f s.pending }

end Sys2Proof.Machine
end

