-- ==== Sys2Proof/Machine/Ops.lean ====
section
/-! DEFINITION. The operations that every unit shares: counts by configuration, counters, free values, time,
interrupt lines, the host port's requests, and events. -/

namespace Sys2Proof.Machine

open Sys2Proof

/-! ## The build configuration (R5) -/

/-- One of three figures, by the build configuration. -/
def byBuild (s : State) (a b c : Nat) : Nat :=
  match s.build with
  | .bm512 => a
  | .bm256 => b
  | .bm128 => c

def nPorts (s : State) : Nat := byBuild s 4 4 2
def nChannels (s : State) : Nat := byBuild s 512 256 128
def nStations (s : State) : Nat := byBuild s 1024 512 256
def nBanks (s : State) : Nat := byBuild s 32 16 8
def nEngines (s : State) : Nat := byBuild s 8 6 4
def nRules (s : State) : Nat := byBuild s 16384 8192 4096
def resultRing (s : State) : Bool := byBuild s 1 0 0 = 1

/-- IP_VERSION (R2). -/
def ipVersion : Nat := 0x00030200

/-- IP_CONFIG (R531). -/
def ipConfig (s : State) : Nat := byBuild s 0xE85A9C80 0xD7498461 0xC6387242

/-- A port code whose resource is present in the build configuration (R19, R20). -/
def portCodeOk (s : State) (c : Nat) : Bool :=
  c < nPorts s || (0xE0 ≤ c && c < 0xE0 + nEngines s) || c = 0xF0 || (0x100 ≤ c && c < 0x103) ||
    (0x200 ≤ c && c < 0x200 + nChannels s)

/-! ## Counters and free values -/

/-- Add to a 64-bit counter, which wraps. -/
def bumpN (g i k n : Nat) (s : State) : State :=
  s.updCnt fun c => c.set (g, i, k) ((c.get (g, i, k) + n) % 2 ^ 64)

def bump (g i k : Nat) (s : State) : State := bumpN g i k 1 s

/-- Read `n` counters of one identifier, 8 bytes each in table order, and clear them when told to (R15). -/
def readCounters (g i n : Nat) (clear : Bool) (s : State) : Bytes × State :=
  ((List.range n).flatMap fun k => toLe 8 (s.cnt.get (g, i, k)),
    if clear then s.updCnt fun c => c.filter (fun p => !(p.1.1 == g && p.1.2.1 == i && p.1.2.2 < n)) else s)

/-- Increment a 32-bit counter that saturates. -/
def sat32 (n : Nat) : Nat := min (n + 1) 0xFFFFFFFF

/-- Take a free value: a value the manual does not state (log 3). -/
def draw (s : State) : Nat × State :=
  ((Config.freeValue s.free).toNat, s.updFree (· + 1))

/-! ## Time -/

/-- One nanosecond in the units in which time bases are kept. -/
def nsUnit : Nat := 2 ^ 40

/-- The span of a time value: SECONDS is 48 bits and wraps (R406). -/
def tbSpan : Nat := 2 ^ 48 * 1000000000 * nsUnit

def getTb (s : State) (k : Nat) : Tb := s.time.tb.getD k {}

def setTb (k : Nat) (f : Tb → Tb) (s : State) : State :=
  s.updTime fun t => { t with tb := t.tb.upd k {} f }

/-- A base's value in whole nanoseconds, seconds included. -/
def tbNs (s : State) (k : Nat) : Nat := (getTb s k).v / nsUnit

/-- TB7 in nanoseconds, as events and responses carry it. -/
def nowNs (s : State) : Nat := tbNs s 7

/-- Something last happened less than `span` ns before `now`. -/
def recently (last : Option Nat) (now span : Nat) : Bool :=
  match last with
  | some t => now < t + span
  | none => false

/-- A time value of R406 from a time in 2^-40 ns. -/
def timeBytes (v : Nat) : Bytes :=
  let ns := v / nsUnit
  toLe 6 (ns / 1000000000) ++ toLe 2 (v % nsUnit / 2 ^ 24) ++ toLe 4 (ns % 1000000000) ++ zeros 4

/-- The time in 2^-40 ns of a time value at an offset of a payload. -/
def timeAt (b : Bytes) (off : Nat) : Nat :=
  (le b off 6 * 1000000000 + u32 b (off + 8) % 2 ^ 30) * nsUnit + u16 b (off + 6) * 2 ^ 24

/-! ## Interrupt lines (R535, R536) -/

/-- A mailbox; MB0 holds the capability mask 0x4002 at reset and the others 0xFFFE (R106). -/
def getMb (s : State) (m : Nat) : Mb := s.gv.mbs.getD m { caps := if m = 0 then 0x4002 else 0xFFFE }

def setMb (m : Nat) (f : Mb → Mb) (s : State) : State :=
  s.updGv fun g => { g with mbs := g.mbs.set m (f (getMb s m)) }

/-- INT_MB_DONE: bit m while DONE and DONE_EN are both set (R533). -/
def mbDoneBits (s : State) : Nat :=
  ((List.range 16).filter fun m => (getMb s m).done && (getMb s m).intCtrl.testBit 0).foldl (fun a m => a + 2 ^ m) 0

/-- The core domain is without supply or clock (R50, R63). -/
def coreOff (s : State) : Bool :=
  !s.pwr.clkAck || s.pwr.mode = .watch || s.pwr.mode = .dormant || (s.pwr.mode = .entering && s.pwr.committed) ||
    s.pwr.mode = .waking

/-- What an event of the core domain does: nothing while that domain is without supply or clock (R449). -/
def clocked (s t : State) : State := if coreOff s then s else t

/-- The level of line `l` from its causes (R535); the core's lines read 0 while the core domain is off (R63). -/
def lineLevel (s : State) : Nat → Bool
  | 0 => !coreOff s && (mbDoneBits s != 0 ||
      (List.range 16).any (fun m => s.intr.mbEvent.testBit m && (getMb s m).intCtrl.testBit 1) ||
      (s.intr.wake && !s.intr.wakeMask.testBit 0))
  | 1 => !coreOff s && andNot s.intr.err s.intr.errMask != 0
  | 2 => !coreOff s && (andNot s.time.int0 s.time.mask0 != 0 || andNot s.time.int1 s.time.mask1 != 0)
  | _ => andNot s.sys.svcEvents s.sys.svcMask != 0

/-- The level of SVC_REQ: high while any reason of SERVICE_STATUS is set; nothing masks it, and no power state lowers it (R66). -/
def svcReq (s : State) : Bool := s.sys.svcStatus != 0

def getMsg (s : State) (l : Nat) : LineMsg := s.intr.msgs.getD l {}

def setMsg (l : Nat) (f : LineMsg → LineMsg) (s : State) : State :=
  s.updIntr fun i => { i with msgs := i.msgs.upd l {} f }

/-- Set cause bits of INT_ERR_STATUS without looking at the line. -/
def errBit (b : Nat) (s : State) : State := s.updIntr fun i => { i with err := i.err ||| 2 ^ b }

/-! ## The host port's requests (R37-R44) -/

/-- A region covers a range of bytes wholly. -/
def Region.covers (r : Region) (a n : Nat) : Bool := r.size > 0 && r.base ≤ a && a + n ≤ r.base + r.size

def allRegions (s : State) : List Region :=
  [s.host.control, s.host.flow, s.host.dram, s.host.staging] ++ s.host.windows.vals

/-- The range lies inside a configured region (R40). -/
def regionOk (s : State) (a n : Nat) : Bool := (allRegions s).any (·.covers a n)

/-- The range lies wholly inside some window. -/
def inWindow (s : State) (a n : Nat) : Bool := s.host.windows.vals.any (·.covers a n)

/-- The range lies wholly inside one window that the agent may use (R107). -/
def windowOk (s : State) (agent a n : Nat) : Bool :=
  s.host.windows.vals.any fun r => r.covers a n && (r.agent = 0xFF || r.agent = agent)

/-- The aligned pieces of a range: none crosses a 4 KiB boundary (R38). -/
def piecesFrom : Nat → Nat → Nat → List (Nat × Nat)
  | 0, _, _ => []
  | f + 1, a, e =>
    if a < e then
      let nxt := min e ((a / 4096 + 1) * 4096)
      (a, (nxt - a) / 64) :: piecesFrom f nxt e
    else []

def pieces (a n : Nat) : List (Nat × Nat) :=
  let lo := a / 64 * 64
  let hi := roundUp (a + n) 64
  piecesFrom ((hi - lo) / 4096 + 2) lo hi

/-- The lowest tag of a direction that is neither outstanding nor kept from use (R39, R46, R84). -/
def freeTag (l : List Txn) (ret : List Nat) : Option Nat :=
  if l.length < 256 then lowestFree 256 (l.map (·.tag) ++ ret) else none

/-- Add to an element of a list. -/
def addAt (l : List Nat) (i n : Nat) : List Nat := l.set i (l.getD i 0 + n)

/-- Issue one piece of a transfer, if a tag is free. -/
def issuePiece (x : Xfer) (p : Nat × Nat) (h : HostSt) : Option HostSt :=
  if x.write then
    (freeTag h.writes (h.retiredW ++ h.coolW)).map fun t =>
      let lo := max p.1 x.addr
      let hi := min (p.1 + 64 * p.2) (x.addr + x.len)
      let w : Txn := { tag := t, sid := x.sid, addr := p.1, beats := p.2, xfer := x.id, strobe := lo - p.1
                       wdata := slice x.data (lo - x.addr) (hi - lo) }
      { h with writes := h.writes ++ [w], pmu := addAt (addAt h.pmu 1 1) 3 p.2 }
  else
    (freeTag h.reads (h.retiredR ++ h.coolR)).map fun t =>
      { h with reads := h.reads ++ [{ tag := t, sid := x.sid, addr := p.1, beats := p.2, xfer := x.id }], pmu := addAt h.pmu 0 1 }

/-- A transfer has no piece left. -/
def Xfer.finished (x : Xfer) : Bool := x.todo.isEmpty && x.out = 0

def setXfer (x : Xfer) (h : HostSt) : HostSt :=
  { h with xfers := h.xfers.map fun y => if y.id = x.id then x else y }

/-- The reads of the store and of the table service that depend on a write of the block. -/
def dependent : Purp → Bool
  | .direct _ _ => true
  | .ret _ => true
  | .freeRead _ => true
  | .svcRead _ => true
  | _ => false

/-- A read that depends on a write issues only after that write's response has returned (R43). -/
def waitsFor (h : HostSt) (x : Xfer) : Bool :=
  dependent x.purp && h.xfers.any fun y => y.write && !y.finished && y.addr < x.addr + x.len && x.addr < y.addr + y.len

/-- Issue as many pieces of a transfer as there are tags. -/
def pumpXfer : Nat → Xfer → HostSt → HostSt
  | 0, x, h => setXfer x h
  | f + 1, x, h =>
    match x.todo with
    | [] => setXfer x h
    | p :: rest =>
      match issuePiece x p h with
      | none => setXfer x h
      | some h' => pumpXfer f { x with todo := rest, out := x.out + 1 } h'

/-- A long-running command other than SYS_QUIESCE runs. -/
def jobRuns (s : State) : Bool := s.gv.running.any fun q => u16 q.hdr 0 != 0x0109

/-- A transfer that goes on once quiesced: the payload of a request taken before, and those of a long-running command, for which
SYS_QUIESCE waits (R511). -/
def commandXfer (s : State) (x : Xfer) : Bool :=
  match x.purp with
  | .payload => true
  | .image => jobRuns s
  | .stage => jobRuns s
  | .scrub => jobRuns s
  | .stageRead => jobRuns s
  | .svcRead _ => jobRuns s
  | .flowWrite => jobRuns s
  | .hitWrite _ => jobRuns s
  | .overflow _ => jobRuns s
  | .spill _ => jobRuns s
  | _ => false

/-- Issue what waits, in the order in which it was asked for; once quiesced only what its commands still need (R510, R511). -/
def pump (s : State) : State :=
  s.updHost fun h => h.xfers.foldl (fun h x =>
    if x.todo.isEmpty || waitsFor h x || (s.sys.quiesced && !commandXfer s x) then h else pumpXfer x.todo.length x h) h

/-- Ask for an access to host memory.  The caller has checked that it lies in a region (R40). -/
def startXfer (purp : Purp) (write : Bool) (sid addr len : Nat) (data : Bytes) (s : State) : State :=
  let x : Xfer := { id := s.host.nextX, purp := purp, write := write, sid := sid, addr := addr, len := len
                    data := if write then data else [], todo := pieces addr len }
  pump (s.updHost fun h => { h with xfers := h.xfers ++ [x], nextX := h.nextX + 1 })

/-- A request outside every region is not issued, and is counted (R40). -/
def violation (s : State) : State :=
  errBit 1 (s.updHost fun h => { h with violations := sat32 h.violations })

/-- The identifier that the next transfer gets. -/
def nextXfer (s : State) : Nat := s.host.nextX

/-- Drop the transfers that a test picks: what was issued goes on, and its answer is thrown away; one of which nothing was
issued is forgotten. -/
def dropXfers (p : Xfer → Bool) (s : State) : State :=
  s.updHost fun h => { h with
    xfers := (h.xfers.filter fun x => !(p x && x.out = 0)).map fun x => if p x then { x with todo := [], gone := true } else x }

/-- The address of an interrupt message obeys R64. -/
def msgAddrOk (a : Nat) : Bool := a % 4 = 0 && a < 2 ^ 48

/-- Issue an interrupt message of 4 bytes (R64); false when its address lies in no region. -/
def sendMsg (src : MsgSrc) (sid addr data : Nat) (s : State) : State × Bool :=
  if regionOk s addr 4 then (startXfer (.msg src) true sid addr 4 (toLe 4 data) s, true)
  else (errBit 6 (violation s), false)

/-- Drive line `l` from its causes, and issue its message at a rise (R536).  A line that falls is forgotten at the end of the cycle:
if it rises again before, no rise is seen (R545). -/
def driveLine (l : Nat) (s : State) : State :=
  let was := s.intr.levels.testBit l
  let s1 := s.updIntr fun i => { i with levels := withBit i.levels l true }
  if !lineLevel s l then s
  else if (!was || (getMsg s l).owed) && (getMsg s l).enable then
    if s.pwr.clkAck then
      let s2 := setMsg l (fun m => { m with owed := false }) s1
      let r := sendMsg (.line l) 0x211 (getMsg s l).addr (getMsg s l).data s2
      if r.2 then r.1 else r.1.updIntr fun i => { i with msgErrors := sat32 i.msgErrors }
    else setMsg l (fun m => { m with owed := true }) s1
  else s1

/-- The end of a cycle: a line that is low has fallen, and owes no message. -/
def dropLine (l : Nat) (s : State) : State :=
  if lineLevel s l then s
  else setMsg l (fun m => { m with owed := false }) (s.updIntr fun i => { i with levels := withBit i.levels l false })

def dropLines (s : State) : State := dropLine 3 (dropLine 2 (dropLine 1 (dropLine 0 s)))

/-- Bring the four lines up to date; INT_ERR twice, since a refused message is itself a cause of it. -/
def lines (s : State) : State := driveLine 1 (driveLine 3 (driveLine 2 (driveLine 1 (driveLine 0 s))))

/-- Set a cause of INT_ERR. -/
def raiseErr (b : Nat) (s : State) : State := lines (errBit b s)

/-- Set a cause bit of TIME_INT_STATUS0 or TIME_INT_STATUS1. -/
def raiseTime0 (b : Nat) (s : State) : State := lines (s.updTime fun t => { t with int0 := t.int0 ||| 2 ^ b })
def raiseTime1 (b : Nat) (s : State) : State := lines (s.updTime fun t => { t with int1 := t.int1 ||| 2 ^ b })

/-! ## Events (R118-R123) -/

/-- The bytes of an event record in a ring (R118). -/
def evRecord (e : Ev) (seq : Nat) (phase lost : Bool) : Bytes :=
  toLe 2 e.code ++ toLe 1 (b2n phase + 2 * b2n lost) ++ [0#8] ++ toLe 4 seq ++ toLe 8 e.time ++
    toLe 4 e.subject ++ slice e.detail 0 12

/-- The event at the front of a mailbox's queue is lost (R120). -/
def evLose (m : Nat) (s : State) : State :=
  setMb m (fun b => { b with evtLost := sat32 b.evtLost, seq := (b.seq + 1) % 2 ^ 32, lostBefore := true }) s

/-- One of the records that a mailbox's ring was to get is in it, or is lost (R121, R122). -/
def evPassed (m : Nat) (s : State) : State :=
  s.updGv fun g => { g with awaited := g.awaited.map fun a => { a with ahead := a.ahead.map fun p => if p.1 = m then (m, p.2 - 1) else p } }

/-- Write the next event of a mailbox's queue to its ring, or lose it (R119, R120). -/
def evPump : Nat → Nat → State → State
  | 0, _, s => s
  | f + 1, m, s =>
    let b := getMb s m
    match b.evtQ with
    | [] => s
    | e :: rest =>
      if b.writing then s
      else
        let s1 := setMb m (fun b => { b with evtQ := rest }) s
        let full := b.ring.entries = 0 || (b.evtProd + 2 ^ 32 - b.evtCons) % 2 ^ 32 = b.ring.entries
        let a := b.ring.base + 32 * (b.evtProd % b.ring.entries)
        if full then evPump f m (evPassed m (evLose m s1))
        else if regionOk s a 32 && !s.sys.quiesced then
          startXfer (.event m) true 0x210 a 32
            (evRecord e b.seq (b.evtProd / b.ring.entries % 2 = 0) b.lostBefore)
            (setMb m (fun b => { b with writing := true, seq := (b.seq + 1) % 2 ^ 32, lostBefore := false }) s1)
        else evPump f m (evPassed m (evLose m (if regionOk s a 32 then s1 else violation s1)))

/-- A mailbox is among those an event is meant for (R121). -/
def hears (s : State) (e : Ev) (a : Aud) (m : Nat) : Bool :=
  let b := getMb s m
  b.evtMask.testBit (e.code / 256) && b.caps.testBit (e.code / 256) &&
    (match a with
     | .zero => b.agent = 0
     | .agents l => l.contains b.agent
     | .every => true)

/-- Deliver an event to the rings of the mailboxes it is meant for. -/
def deliver (e : Ev) (a : Aud) (s : State) : State :=
  (List.range 16).foldl (fun s m =>
    if hears s e a m then
      let s1 := setMb m (fun b => { b with evtQ := b.evtQ ++ [e] }) s
      evPump ((getMb s1 m).evtQ.length) m s1
    else s) s

/-- An ACK has not followed its REQ: kind 0 PWR, 1 RET, 2 CLK (R74). -/
def timedOut (s : State) (kind i : Nat) : Bool := s.pwr.hsTimeout.contains (kind, i)

/-- A domain whose power-up has timed out is treated as absent until its ACK rises, and one whose power-down has timed out stays
isolated (R74). -/
def domainAbsent (s : State) (k : Nat) : Bool := s.pwr.absent.contains k || (!s.pwr.req.testBit k && timedOut s 0 k)

/-- An Onyx core runs code that serves requests; none does while the core domain is off, or the Onyx domain is absent
(R74, R449). -/
def onyxUp (s : State) : Bool := (s.sys.boot || s.sys.fw) && !coreOff s && !domainAbsent s 17

/-- The event records that the rings are still to get, by mailbox; once quiesced the block writes none (R510). -/
def pendingEvents (s : State) : List (Nat × Nat) :=
  if s.sys.quiesced then []
  else ((List.range 16).map fun m => (m, (getMb s m).evtQ.length + b2n (getMb s m).writing)).filter (·.2 != 0)

/-- Let something wait until every event raised so far is in its rings. -/
def awaitEvents (rsp : Option (Nat × Bytes × Bytes)) (s : State) : State :=
  s.updGv fun g => { g with awaited := g.awaited ++ [⟨rsp, pendingEvents s⟩] }

/-- The held events are written once Onyx firmware runs, before any waiting request is taken (R122). -/
def deliverHeld (s : State) : State :=
  if s.sys.fw && onyxUp s && !s.gv.held.isEmpty then
    let s1 := s.gv.held.foldl (fun s x => deliver x.1 x.2 s) (s.updGv fun g => { g with held := [] })
    if (pendingEvents s1).isEmpty then s1 else awaitEvents none s1
  else s

/-- Raise an event.  While no Onyx core runs it is held, up to 256; beyond that it is lost (R122).  One raised under boot code
while others are held stays behind them, since a ring is written in the order raised (R121).  The loss takes its SEQ and
sets LOST_BEFORE at once, so it shows before the held events, which are written later (DESIGN CHOICE, log 77). -/
def raiseTo (a : Aud) (code subject : Nat) (detail : Bytes) (s : State) : State :=
  let e : Ev := ⟨code, nowNs s, subject, detail⟩
  if onyxUp s && s.gv.held.isEmpty then deliver e a s
  else if s.gv.held.length < 256 then s.updGv fun g => { g with held := g.held ++ [(e, a)] }
  else (List.range 16).foldl (fun s m => if hears s e a m then evLose m s else s) s

/-- An event of a unit whose events belong to agent 0. -/
def raise0 (code subject : Nat) (detail : Bytes) (s : State) : State := raiseTo .zero code subject detail s

/-- A block-wide event for every agent. -/
def raiseAll (code : Nat) (detail : Bytes) (s : State) : State := raiseTo .every code 0xFFFFFFFF detail s

/-- SUBJECT of a block-wide event. -/
def noSubj : Nat := 0xFFFFFFFF

/-! ## The service status (R498) -/

/-- Set or clear a reason of SERVICE_STATUS; each rise sets the event bit, each change raises SERVICE_CHANGE. -/
def setService (b : Nat) (on : Bool) (s : State) : State :=
  if s.sys.svcStatus.testBit b = on then s
  else
    let st := withBit s.sys.svcStatus b on
    let s1 := s.updSys fun y => { y with
      svcStatus := st
      svcEvents := if on then y.svcEvents ||| 2 ^ b else y.svcEvents }
    lines (raise0 0x0E82 noSubj (toLe 4 st ++ toLe 4 (2 ^ b)) s1)

/-! ## The register port's refusals (R48, R51) -/

/-- Count an access in the test unit's decode-error counter and keep its address (R526). -/
def decodeError (addr : Nat) (s : State) : State :=
  s.updSys fun y => { y with decodeErr := sat32 y.decodeErr, decodeAddr := addr }

/-- The outcome of every meaning: the block goes on. -/
abbrev Out := Host.Outcome State Fault Refusal

end Sys2Proof.Machine
end

