-- ==== Sys2Proof/Machine/Access.lean ====
section
/-! DEFINITION. An access to a register outside the always-on area (R6, R37, R48, R50). -/

namespace Sys2Proof.Machine

open Sys2Proof

/-- An access is answered GOOD with read data. -/
def answer (v : Nat) (s : State) : State := s.updReg fun _ => { rdata := v, resp := 0 }

/-- An access is answered TGT_ERR with read data 0. -/
def targetErr (s : State) : State := s.updReg fun _ => { rdata := 0, resp := 1 }

/-- A write to a register of a page that is present or absent: it has no effect while only the always-on area is
served (R50), and one to an absent page is counted (R6). -/
def regWrite (present : Bool) (addr : Nat) (f : State → State) (s : State) : State :=
  if s.sys.held then s
  else if coreOff s then targetErr s
  else if present then answer 0 (f s)
  else decodeError (2 ^ 31 + addr) (answer 0 s)

/-- The page offset of a host channel. -/
def chPage (c : Nat) : Nat := 0x200000 + 0x1000 * c

end Sys2Proof.Machine
end

