-- ==== Sys2Proof/Machine/Gens.lean ====
section
/-! DEFINITION. Versioned objects and rule generations (R245-R251). -/

namespace Sys2Proof.Machine

open Sys2Proof

/-- The signed 16-bit difference of two generations. -/
def genDiff (a b : Nat) : Int := sext 16 (a + 65536 - b % 65536)

/-- A version is valid in a generation (R245). -/
def Ver.validIn (v : Ver) (g : Nat) : Bool :=
  (v.bornAny || 0 ≤ genDiff g v.born) &&
    (match v.died with
     | none => true
     | some d => genDiff g d < 0)

/-- The version of an object valid in a generation. -/
def findVer (s : State) (k : VKind) (key g : Nat) : Option Ver :=
  s.cls.vers.find? fun v => v.kind = k && v.key = key && v.validIn g

/-- The payload of the version valid in a generation. -/
def verVal (s : State) (k : VKind) (key g : Nat) : Option Bytes := (findVer s k key g).map (·.val)

/-- The versions of a kind valid in a generation, in order of key. -/
def versOf (s : State) (k : VKind) (g : Nat) : List Ver :=
  s.cls.vers.filter fun v => v.kind = k && v.validIn g

/-- End the version of an object at generation `g`: one born in `g` itself is removed. -/
def killVer (k : VKind) (key g : Nat) (s : State) : State :=
  let f (v : Ver) : Option Ver :=
    if v.kind = k && v.key = key && v.validIn g then
      if v.born = g && !v.bornAny then none else some { v with died := some g }
    else some v
  s.updCls fun c => { c with vers := c.vers.filterMap f }

/-- The lowest rule slot that no version holds. -/
def freeSlot (s : State) : Nat :=
  (lowestFree 65536 ((s.cls.vers.filter (·.kind = .rule)).map (·.slot))).getD 65536

/-- Make a version of an object, born in generation `g`, in place of the one before. -/
def putVer (k : VKind) (key : Nat) (val : Bytes) (g : Nat) (s : State) : State :=
  let s1 := killVer k key g s
  let v : Ver := { kind := k, key := key, val := val, born := g, slot := if k = .rule then freeSlot s1 else 0 }
  s1.updCls fun c => { c with vers := c.vers ++ [v] }

/-- The member entries of multicast versions: 8 bytes each after a head of 8. -/
def memberCount (l : List Ver) : Nat := ((l.filter (·.kind = .mcast)).map fun v => (v.val.length - 8) / 8).sum

def findGen (s : State) (g : Nat) : Option Gen := s.cls.resident.find? (·.gen = g)

def updGen (g : Nat) (f : Gen → Gen) (s : State) : State :=
  s.updCls fun c => { c with resident := mapIf c.resident (·.gen = g) f }

/-- A generation that is not current and has no frame left begins its sweep (R246). -/
def retireIfEmpty (g : Nat) (s : State) : State :=
  if g = s.cls.current then s
  else updGen g (fun x => if x.inflight = 0 then { x with sweeping := true } else x) s

/-- A frame enters under a generation. -/
def genInc (g : Nat) (s : State) : State := updGen g (fun x => { x with inflight := x.inflight + 1 }) s

/-- A frame of a generation is gone. -/
def genDec (g : Nat) (s : State) : State :=
  retireIfEmpty g (updGen g (fun x => { x with inflight := x.inflight - 1 }) s)

/-- A generation is marked RETIRING (R250). -/
def isRetiring (s : State) (g : Nat) : Bool :=
  match findGen s g with
  | some x => x.retiring
  | none => false

/-- A sweep runs (R247). -/
def sweepRuns (s : State) : Bool := s.cls.resident.any (·.sweeping)

/-- The end of the oldest running sweep (R246, R247). -/
def endSweep (s : State) : State :=
  match s.cls.resident.find? (·.sweeping) with
  | none => s
  | some x =>
    let others := s.cls.resident.filter (fun y => y.gen != x.gen)
    let oldest := (others.head?.map (·.gen)).getD s.cls.current
    let gone := s.cls.vers.filter fun v => !others.any fun y => v.validIn y.gen
    let kept := (s.cls.vers.filter fun v => others.any fun y => v.validIn y.gen).map fun v =>
      if 0 ≤ genDiff oldest v.born then { v with bornAny := true } else v
    raiseAll 0x0581
      (toLe 2 x.gen ++ zeros 2 ++ toLe 4 (gone.filter (·.kind = .rule)).length ++ toLe 4 (memberCount gone))
      (s.updCls fun c => { c with vers := kept, resident := others })

/-- The group's new generation becomes current (R246). -/
def newGeneration (s : State) : State :=
  let p := s.cls.current
  let g := (p + 1) % 65536
  retireIfEmpty p
    (updGen p (fun x => { x with since := nowNs s })
      (s.updCls fun c => { c with current := g, resident := c.resident ++ [{ gen := g }] }))

end Sys2Proof.Machine
end

