-- ==== Sys2Proof/Machine/HostPort.lean ====
section
/-! DEFINITION. The host port's returns: read data, write responses and timeouts (R39, R45-R47). -/

namespace Sys2Proof.Machine

open Sys2Proof

def getXfer (s : State) (id : Nat) : Option Xfer := s.host.xfers.find? (·.id = id)

def dropXfer (id : Nat) (s : State) : State :=
  s.updHost fun h => { h with xfers := h.xfers.filter (fun x => x.id != id) }

/-- The finished transfer with a given purpose, if there is one. -/
def doneXfer (s : State) (p : Purp → Bool) : Option Xfer := s.host.xfers.find? fun x => p x.purp && x.finished && !x.gone

/-- HOST_PORT in SERVICE_STATUS follows the count of retired tags (R46, R498). -/
def judgeTags (s : State) : State :=
  setService 4 (s.host.retiredR.length ≥ 16 || s.host.retiredW.length ≥ 16) s

/-- An errored transaction is counted (R45, R534). -/
def countErrored (s : State) : State :=
  errBit 0 (s.updHost fun h => { h with errored := sat32 h.errored, pmu := addAt h.pmu 4 1 })

/-- One transaction of a transfer has ended: put its data in place; a transfer thrown away is forgotten at its last. -/
def endTxn (t : Txn) (err : Bool) (bytes : Bytes) (s : State) : State × Option Xfer :=
  match getXfer s t.xfer with
  | none => (pump s, none)
  | some x =>
    let lo := max t.addr x.addr
    let hi := min (t.addr + 64 * t.beats) (x.addr + x.len)
    let d := if x.write then x.data else overlay x.data (lo - x.addr) (slice bytes (lo - t.addr) (hi - lo))
    let y := { x with out := x.out - 1, err := x.err || err, data := d }
    let s1 := s.updHost (setXfer y)
    if y.finished then
      if y.gone then (pump (dropXfer y.id s1), none) else (pump s1, some y)
    else (pump s1, none)

/-- Beats of the late response to a retired read tag: it has arrived once it owes none (R46). -/
def lateBeats (tag n : Nat) (s : State) : State :=
  s.updHost fun h => { h with owed := h.owed.set tag (h.owed.getD tag 0 - n) }

/-- A late response has arrived: it is discarded and counted, and its tag is free from the next cycle on (R46, R84). -/
def lateDone (write : Bool) (tag : Nat) (s : State) : State :=
  let s1 := s.updHost fun h =>
    if write then { h with retiredW := h.retiredW.erase tag, coolW := tag :: h.coolW, late := sat32 h.late }
    else { h with retiredR := h.retiredR.erase tag, owed := h.owed.erase tag, coolR := tag :: h.coolR, late := sat32 h.late }
  judgeTags (raiseErr 3 s1)

/-- A response for a tag that names no outstanding transaction, `n` beats of it for a read (R46, R47). -/
def lateOrStray (write : Bool) (tag n : Nat) (s : State) : State :=
  let l := if write then s.host.retiredW else s.host.retiredR
  if l.contains tag then
    if !write && n < s.host.owed.getD tag 0 then lateBeats tag n s else lateDone write tag s
  else raiseErr 3 (s.updHost fun h => { h with stray := sat32 h.stray })

/-- Read data beats come back; the transfer is given when it ends with them. -/
def readReturn (tag : Nat) (beats : List Beat) (s : State) : State × Option Xfer :=
  match s.host.reads.find? (·.tag = tag) with
  | none => (lateOrStray false tag beats.length s, none)
  | some t =>
    let s := s.updHost fun h => { h with pmu := addAt h.pmu 2 beats.length }
    let got := t.got ++ beats
    if got.length < t.beats then
      (s.updHost fun h => { h with reads := mapIf h.reads (·.tag = tag) fun x => { x with got := got } }, none)
    else
      let used := got.take t.beats
      let bad := used.any fun b => b.poison || b.resp != 0
      let s1 := s.updHost fun h => { h with reads := h.reads.filter (fun x => x.tag != tag) }
      endTxn t bad (used.flatMap fun b => slice b.data 0 64) (if bad then lines (countErrored s1) else s1)

/-- A write response comes back. -/
def writeReturn (tag resp : Nat) (s : State) : State × Option Xfer :=
  match s.host.writes.find? (·.tag = tag) with
  | none => (lateOrStray true tag 0 s, none)
  | some t =>
    let s1 := s.updHost fun h => { h with writes := h.writes.filter (fun x => x.tag != tag) }
    endTxn t (resp != 0) [] (if resp != 0 then lines (countErrored s1) else s1)

/-- The outstanding transaction of a tag. -/
def findTxn (write : Bool) (tag : Nat) (s : State) : Option Txn :=
  (if write then s.host.writes else s.host.reads).find? (·.tag = tag)

/-- The tag of an outstanding transaction is retired (R46). -/
def retireTag (write : Bool) (tag : Nat) (s : State) : State :=
  s.updHost fun h =>
    if write then { h with writes := h.writes.filter (fun x => x.tag != tag), retiredW := h.retiredW ++ [tag] }
    else { h with
      owed := h.owed.set tag (((h.reads.find? (·.tag = tag)).map fun x => x.beats - x.got.length).getD 0)
      reads := h.reads.filter (fun x => x.tag != tag), retiredR := h.retiredR ++ [tag] }

/-- A transaction has been outstanding for 1 ms: its tag is retired, and it is handled as errored (R46). -/
def timeoutTxn (write : Bool) (tag : Nat) (s : State) : State × Option Xfer :=
  match findTxn write tag s with
  | none => (s, none)
  | some t =>
    let s1 := (retireTag write tag s).updHost fun h => { h with timeouts := sat32 h.timeouts }
    endTxn t true (t.got.flatMap fun b => slice b.data 0 64) (judgeTags (lines (errBit 2 (countErrored s1))))

/-- A transaction is given up without having timed out (R455). -/
def giveUpTxn (write : Bool) (tag : Nat) (s : State) : State × Option Xfer :=
  match findTxn write tag s with
  | none => (s, none)
  | some t => endTxn t true (t.got.flatMap fun b => slice b.data 0 64) (judgeTags (lines (countErrored (retireTag write tag s))))

end Sys2Proof.Machine
end

