-- ==== Sys2Proof/Machine/Perf.lean ====
section
/-! DEFINITION. The monitored units' counters (R513-R516) and the engines' samples (R315). -/

namespace Sys2Proof.Machine

open Sys2Proof

def getPmu (s : State) (u : Nat) : Pmu := s.mt.pmu.getD u {}
def setPmu (u : Nat) (f : Pmu → Pmu) (s : State) : State := s.updMt fun m => { m with pmu := m.pmu.upd u {} f }

/-- A monitored unit that the build configuration has (R512). -/
def pmuPresent (s : State) (u : Nat) : Bool := u < 8 + nEngines s

/-- The events that a unit defines run from 1 to this code (R516). -/
def lastEvent (u : Nat) : Nat := [6, 6, 5, 7, 7, 6, 6, 5].getD u 12

def evCode (v : Nat) : Nat := v % 256
def evLevel (v : Nat) : Bool := v.testBit 8
def evChain (v : Nat) : Bool := v.testBit 9
def evSample (v : Nat) : Bool := v.testBit 10

def getEng (s : State) (e : Nat) : Engine := s.eng.engines.getD e {}

def enginesIn (s : State) (m : EngMode) : List Nat := (List.range (nEngines s)).filter fun e => (getEng s e).mode = m

/-- The engine that runs the table service (R286). -/
def serviceEngine (s : State) : Option Nat := (enginesIn s .active).find? fun e => !domainAbsent s (5 + e)
def setEng (e : Nat) (f : Engine → Engine) (s : State) : State :=
  s.updEng fun g => { g with engines := g.engines.upd e {} f }
def getThr (s : State) (e t : Nat) : Thread := (getEng s e).threads.getD t {}
def setThr (e t : Nat) (f : Thread → Thread) (s : State) : State :=
  setEng e (fun g => { g with threads := g.threads.upd t {} f }) s

/-- Keep a sample; one that finds the buffer full overwrites the oldest (R315). -/
def takeSample (e t k : Nat) (s : State) : State :=
  let x := getThr s e t
  let v : Sample := { thread := t, hook := x.hook, prog := x.prog, pc := x.pc, time := nowNs s, ctr := k }
  let l := (getEng s e).samples
  if l.length ≥ 16 then bump 0x71 e 6 (setEng e (fun g => { g with samples := l.drop 1 ++ [v] }) s)
  else
    let s1 := setEng e (fun g => { g with samples := l ++ [v] }) s
    if l.length + 1 = 8 then raise0 0x0784 (0xE0 + e) (toLe 1 8) s1 else s1

/-- An overflow without SAMPLE raises MT_PMU_OVERFLOW, at most once per 1 ms and unit (R514). -/
def overflowEvent (u : Nat) (s : State) : State :=
  if recently (getPmu s u).evt (nowNs s) 1000000 then s
  else raise0 0x0F82 u (toLe 2 (getPmu s u).ovf) (setPmu u (fun p => { p with evt := some (nowNs s) }) s)

/-- Add to counter `k` of a unit; an overflow reloads it, feeds a chained counter, and may freeze or sample. -/
def pmuAdd : Nat → Nat → Nat → Nat → Nat → State → State
  | 0, _, _, _, _, s => s
  | f + 1, u, k, n, t, s =>
    let p := getPmu s u
    let v := p.cnt.getD k 0 + n
    if v < 2 ^ 48 then setPmu u (fun p => { p with cnt := p.cnt.set k v }) s
    else
      let s1 := setPmu u (fun p => { p with
        cnt := p.cnt.set k ((v - 2 ^ 48 + p.reload.getD k 0) % 2 ^ 48)
        ovf := p.ovf ||| 2 ^ k
        run := p.run && !p.freeze }) s
      let s2 := if u ≥ 8 && evSample (p.evsel.getD k 0) then takeSample (u - 8) t k s1 else overflowEvent u s1
      if k + 1 < 8 && evChain (p.evsel.getD (k + 1) 0) then pmuAdd f u (k + 1) 1 t s2 else s2

/-- A unit's event presents `n` in one cycle.  Each occurrence is taken as a cycle of its own that follows one in
which the event presented 0, so an edge counter adds 1 (log 6); thread `t` is that of an engine's event. -/
def pmuEvent (u code n t : Nat) (s : State) : State :=
  let p := getPmu s u
  if !p.run || !s.pwr.clkAck || n = 0 then s
  else
    (List.range 8).foldl (fun s k =>
      let v := p.evsel.getD k 0
      let mask := bits v 15 12
      if (k = 0 || !evChain v) && evCode v = code &&
          (u < 8 || mask = 0 || mask.testBit t || !(code = 1 || (3 ≤ code && code ≤ 6))) then
        pmuAdd 8 u k (if evLevel v then n else 1) t s
      else s) s

/-- An event of units 0 to 7. -/
def perf (u code : Nat) (s : State) : State := pmuEvent u code 1 0 s

/-- An event that occurs `n` times. -/
def perfTimes (u code : Nat) : Nat → State → State
  | 0, s => s
  | n + 1, s => perfTimes u code n (perf u code s)

/-- The counters of the host port's unit take the occurrences kept for them (R516). -/
def hostPerf (s : State) : State :=
  let l := s.host.pmu
  let s1 := s.updHost fun h => { h with pmu := [0, 0, 0, 0, 0] }
  [(0, 1), (1, 2), (2, 3), (3, 4), (4, 7)].foldl (fun s x => perfTimes 4 x.2 (l.getD x.1 0) s) s1

end Sys2Proof.Machine
end

