-- ==== Sys2Proof/Machine/Store.lean ====
section
/-! DEFINITION. The central store: allocation, buffers, owners, pins and check words (R195-R215). -/

namespace Sys2Proof.Machine

open Sys2Proof

/-! ## Geometry (R195-R200) -/

def bufSize (p : Nat) : Nat := [256, 1024, 2048, 10368].getD p 0
def perBank (p : Nat) : Nat := [2048, 512, 256, 50].getD p 0

/-- The smallest pool that holds a stored length (R22). -/
def poolFor (len : Nat) : Option Nat :=
  if len > 10236 then none else (List.range 4).find? fun p => len + 72 ≤ bufSize p

def hPool (h : Nat) : Nat := bits h 30 29
def hIndex (h : Nat) : Nat := h % 2 ^ 29
def hDram (h : Nat) : Bool := h.testBit 31
def mkHandle (dram : Bool) (p i : Nat) : Nat := b2n dram * 2 ^ 31 + p * 2 ^ 29 + i

def getPool (s : State) (p : Nat) : Pool := s.store.pools.getD p {}
def setPool (p : Nat) (f : Pool → Pool) (s : State) : State :=
  s.updStore fun t => { t with pools := t.pools.upd p {} f }

/-- The banks of a pool; 4 in the list of banks stands for retired. -/
def banksOf (s : State) (p : Nat) : List Nat := (List.range (nBanks s)).filter fun b => s.store.banks.getD b 4 = p

/-- The bank is being emptied: no allocation is served from it (R224). -/
def emptying (s : State) (b : Nat) : Bool := s.store.retire.any (·.bank = b)

/-- S-names of a pool: twice the slots its committed split gives it (R200). -/
def nNames (s : State) (p : Nat) : Nat := 2 * s.store.split.getD p 0 * perBank p

/-- DRAM buffers of a pool (R197). -/
def nDram (s : State) (p : Nat) : Nat := s.store.units.getD p 0 * 2097152 / bufSize p

/-- The address of a DRAM buffer (R197). -/
def dramAddr (s : State) (p i : Nat) : Nat :=
  s.host.dram.base + ((List.range p).map fun q => s.store.units.getD q 0).sum * 2097152 + i * bufSize p

def Loc.slot? : Loc → Option (Nat × Nat)
  | .sram b k => some (b, k)
  | .movingOut b k _ => some (b, k)
  | .movingIn b k _ => some (b, k)
  | _ => none

def Loc.dram? : Loc → Option Nat
  | .dram i => some i
  | .lodged i => some i
  | .movingOut _ _ i => some i
  | .movingIn _ _ i => some i
  | _ => none

def Loc.isLodged : Loc → Bool
  | .lodged _ => true
  | _ => false

/-- The slots in use in a bank. -/
def slotsIn (s : State) (b : Nat) : List Nat :=
  s.store.bufs.vals.filterMap fun x =>
    match x.loc.slot? with
    | some (c, k) => if c = b then some k else none
    | none => none

/-- A bank of a tile whose power-up has timed out: the tile is treated as absent (R74). -/
def tileAbsent (s : State) (b : Nat) : Bool := domainAbsent s (1 + b / 8)

/-- The lowest free SRAM slot of a pool (log 5). -/
def freeSram (s : State) (p : Nat) (skip : Option Nat := none) : Option (Nat × Nat) :=
  (banksOf s p).findSome? fun b =>
    if emptying s b || skip = some b || tileAbsent s b then none else (lowestFree (perBank p) (slotsIn s b)).map fun k => (b, k)

/-- The lowest free S-name of a pool (log 5). -/
def freeName (s : State) (p : Nat) : Option Nat :=
  lowestFree (nNames s p)
    ((s.store.bufs.keys.filter fun h => hPool h = p && !hDram h).map hIndex)

def slotsTotal (s : State) (p : Nat) : Nat := (banksOf s p).length * perBank p
def slotsUsed (s : State) (p : Nat) : Nat := ((banksOf s p).map fun b => (slotsIn s b).length).sum
def lodgedOf (s : State) (p : Nat) : List Nat :=
  (s.store.bufs.filter fun x => hPool x.1 = p && x.2.loc.isLodged).map (·.1)

/-! ## Spill states (R216, R217) -/

/-- The spill state of a pool from its fill. -/
def evalPool (p : Nat) (s : State) : State :=
  let c := getPool s p
  let used := 256 * slotsUsed s p
  let tot := slotsTotal s p
  let mid := (c.high + c.low) / 2
  let next : Spill :=
    if c.high = 0 || nDram s p = 0 then .normal
    else
      match c.state with
      | .spilling => if used ≤ mid * tot then .normal else .spilling
      | .returning =>
        if used ≥ c.high * tot then .spilling
        else if used ≥ mid * tot || (lodgedOf s p).isEmpty then .normal else .returning
      | .normal =>
        if used ≥ c.high * tot && tot > 0 then .spilling
        else if used < c.low * tot && !(lodgedOf s p).isEmpty then .returning else .normal
  if next = c.state then s else setPool p (fun x => { x with state := next }) s

/-! ## Buffers -/

def getBuf (s : State) (h : Nat) : Option Buf := s.store.bufs.get? h
/-- The bank of a buffer's SRAM slot. -/
def bankOf : Loc → Option Nat
  | .sram k _ => some k
  | .movingOut k _ _ => some k
  | .movingIn k _ _ => some k
  | _ => none

/-- An access wakes a bank from light sleep (R451). -/
def wakeBank (l : Loc) (m : Nat) : Nat :=
  match bankOf l with
  | some k => withBit m k false
  | none => m

/-- Every change of a buffer goes through here, and is an access to its bank. -/
def setBuf (h : Nat) (b : Buf) (s : State) : State :=
  s.updStore fun t => { t with bufs := t.bufs.set h b, asleep := wakeBank b.loc t.asleep }
def updBuf (h : Nat) (f : Buf → Buf) (s : State) : State :=
  match getBuf s h with
  | some b => setBuf h (f b) s
  | none => s

/-- The storage check word (R203). -/
def checkOf (h oseq : Nat) (record data : Bytes) : Nat := crc32c (toLe 4 h ++ toLe 4 oseq ++ record ++ data)

/-- The counters of a pool, and those of a port code, in the order of R227. -/
def cPool : Nat := 0x40
def cPoolPort : Nat := 0x41

/-- Count at place `k` of a pool, with the monitored event of the store unit that it stands for, if any (R516). -/
def poolBump (p k : Nat) (s : State) : State :=
  let s1 := bump cPool p k s
  match k with
  | 0 => perf 3 1 s1
  | 2 => perf 3 2 s1
  | 5 => perf 3 3 s1
  | 6 => perf 3 4 s1
  | 13 => perf 3 6 s1
  | _ => s1

/-- The owner names of the arrival point and of the pipeline (R210). -/
def ownArrival : Nat := 0x0FFF0000
def ownPipeline : Nat := 0x0FFF0001

/-- The pool's free list is being rebuilt and its bitmap shows a free slot: an allocation that fails now is counted in
RECOVERY_DROPS, and nowhere else (R476). -/
def recovering (s : State) (p : Nat) : Bool := s.res.rebuild.contains p && (freeSram s p).isSome && (freeName s p).isSome

/-- Count a failed allocation of a pool for a port code: in RECOVERY_DROPS, or as its unit counts it. -/
def countFailed (before : State) (p port : Nat) (own : State → State) (s : State) : State :=
  if recovering before p then bump 0xE1 port 0 s else own s

/-! ## Accesses (R198, R199) -/

/-- An access to bytes `start` to `start + len` of a buffer of size `z` stays where it may go: a trailer access covers the
trailer exactly; any other begins at a beat and ends before the trailer. -/
def accessOk (z : Nat) (trailer : Bool) (start len : Nat) : Bool :=
  if trailer then start = z - 8 && len = 8 else start % 64 = 0 && start + len ≤ z - 8

/-- An access to a buffer wakes its bank from light sleep (R451). -/
def touchBuf (h : Nat) (s : State) : State :=
  match getBuf s h with
  | some b => s.updStore fun t => { t with asleep := wakeBank b.loc t.asleep }
  | none => s

/-- Ask the pool manager for an access: one that breaks the rule is not performed, and is counted. -/
def access (h : Nat) (trailer : Bool) (start len : Nat) (s : State) : Bool × State :=
  if accessOk (bufSize (hPool h)) trailer start len then (true, touchBuf h s) else (false, poolBump (hPool h) 18 s)

/-- The bytes of a buffer in host memory: its used part, and its last beat with the trailer. -/
def bufImage (h : Nat) (b : Buf) : Bytes :=
  let z := bufSize (hPool h)
  let d := slice b.record 0 64 ++ b.data
  d ++ zeros (z - 8 - d.length) ++ toLe 4 b.check ++ toLe 4 b.oseq

/-- The aligned pieces of the used beats and the last beat at an address. -/
def bufPieces (h len a : Nat) : List (Nat × Nat) :=
  let z := bufSize (hPool h)
  let used := 64 * ((64 + len + 63) / 64)
  if used ≥ z then pieces a z else pieces a used ++ pieces (a + z - 64) 64

/-- What a transfer moves: those beats; the parser reads the record and the first 256 bytes only (R29). -/
def movePieces (purp : Purp) (h len a : Nat) : List (Nat × Nat) :=
  match purp with
  | .direct _ .parser => pieces a (64 + min len 256)
  | _ => bufPieces h len a

/-- Ask for the transfer of those beats. -/
def startMove (purp : Purp) (write : Bool) (h len a : Nat) (data : Bytes) (s : State) : State :=
  let x : Xfer := { id := s.host.nextX, purp := purp, write := write, sid := 0x200, addr := a, len := bufSize (hPool h)
                    data := data, todo := movePieces purp h len a }
  pump (s.updHost fun t => { t with xfers := t.xfers ++ [x], nextX := t.nextX + 1 })

/-- Ask for a buffer of a pool (R204, R207, R208).  While its free list is being rebuilt, whether the list still reaches a
slot is a value that the manual does not state (R476, log 3). -/
def allocBuf (p : Nat) (s0 : State) : Option Nat × State :=
  let coin := if recovering s0 p then draw s0 else (0, s0)
  let s := coin.2
  let put (h : Nat) (loc : Loc) (s : State) : State :=
    evalPool p (poolBump p 0 (setBuf h { oseq := s.store.alloc, loc := loc }
      (s.updStore fun t => { t with alloc := (t.alloc + 1) % 2 ^ 32 })))
  match (if coin.1 % 2 = 1 then none else freeSram s p), freeName s p with
  | some (b, k), some i => (some (mkHandle false p i), put (mkHandle false p i) (.sram b k) s)
  | _, _ =>
    match (getPool s p).queue with
    | i :: q =>
      (some (mkHandle true p i),
        poolBump p 1 (put (mkHandle true p i) (.dram i) (setPool p (fun c => { c with queue := q }) s)))
    | [] =>
      let s1 := if nDram s p = 0 then s else poolBump p 3 s
      (none, if recovering s p then s1 else poolBump p 2 s1)

/-- Give a DRAM buffer back: to the free queue, or to the list threaded through host memory (R208). -/
def freeDram (p i : Nat) (s : State) : State :=
  if (getPool s p).queue.length < 512 then setPool p (fun c => { c with queue := c.queue ++ [i] }) s
  else
    let c := getPool s p
    let nxt := if c.given = 0 then c.fresh else c.head
    let s1 := setPool p (fun c => { c with head := i, given := c.given + 1 }) s
    if regionOk s1 (dramAddr s1 p i) 8 then
      startXfer (.freeWrite p) true 0x200 (dramAddr s1 p i) 8 (toLe 4 nxt ++ toLe 4 0xF4EEB10C) s1
    else s1

/-! ## The ingress occupancy of a wire port (R178, R213) -/

def getPort (s : State) (n : Nat) : Port := s.ports.getD n {}
def setPort (n : Nat) (f : Port → Port) (s : State) : State := s.updPorts fun t => t.upd n {} f

def getLane (s : State) (n : Nat) : Lane := s.lanes.lanes.getD n {}

/-- The port's egress is held: far-end loopback or the PRBS generator is applied (R148, R149). -/
def txHeld (l : Lane) : Bool := bits l.applied.mode 9 8 = 3 || l.applied.prbs.testBit 0

def fcMode (p : Port) : Nat := bits p.applied.flow 1 0
def txFc (p : Port) : Bool := p.applied.flow.testBit 3 && (fcMode p != 1 || p.pauseOk)
def rxFc (p : Port) : Bool := p.applied.flow.testBit 2 && (fcMode p != 1 || p.pauseOk)
def pfcEn (p : Port) : Nat := bits p.applied.flow 15 8

/-- The request for transmit LPI ends: the lane's transmit direction wakes (R143, R179). -/
def endLpi (n : Nat) (s : State) : State :=
  if (getPort s n).lpiReq then
    setPort n (fun p => { p with lpiReq := false })
      (s.updLanes fun l =>
        { l with lanes := l.lanes.upd n {} fun x => if x.txLpi = .active then x else { x with txLpi := .wake } })
  else s

/-- Owe a PAUSE (class 8) or PFC frame with some quanta. -/
def oweFc (n k q : Nat) (s : State) : State :=
  endLpi n (setPort n (fun p => { p with owed := p.owed ++ [(k, q)] }) s)

/-- Judge one occupancy against XOFF and XON; `k` is the class, 8 for the sum of PAUSE.  Each time it reaches XOFF a frame is
sent. -/
def judgeOcc (n k occ : Nat) (s : State) : State :=
  let p := getPort s n
  let up := occ ≥ p.xoff
  let s1 := if p.atXoff.testBit k = up then s else setPort n (fun p => { p with atXoff := withBit p.atXoff k up }) s
  if p.xoff = 0 || !txFc p then s
  else if up && !p.atXoff.testBit k then
    oweFc n k p.quanta (setPort n (fun p => { p with xoffSent := withBit p.xoffSent k true }) s1)
  else if occ ≤ p.xon && p.xoffSent.testBit k then
    oweFc n k 0 (setPort n (fun p => { p with xoffSent := withBit p.xoffSent k false }) s1)
  else s1

def occOf (p : Port) (k : Nat) : Nat := p.occ.getD k 0
def occSum (p : Port) : Nat := ((List.range 8).map (occOf p)).sum

/-- Compare a port's occupancy with its limits (R178). -/
def checkOcc (n : Nat) (s : State) : State :=
  let p := getPort s n
  if fcMode p = 1 then judgeOcc n 8 (occSum p) s
  else if fcMode p = 2 then
    (bitList 8 (pfcEn p)).foldl (fun s k => judgeOcc n k (occOf (getPort s n) k) s) s
  else s

/-- The ingress port code, class, generation and other fields of a frame record (R202). -/
def recPort (r : Bytes) : Nat := u16 r 6 % 4096
def recTb (r : Bytes) : Nat := bits (u16 r 6) 14 12
def recCh (r : Bytes) : Nat := u16 r 8 % 4096
def recTc (r : Bytes) : Nat := bits (u16 r 8) 14 12
def recGen (r : Bytes) : Nat := u16 r 10
def recLen (r : Bytes) : Nat := u16 r 4
def recSeq (r : Bytes) : Nat := u32 r 28
def recPtp (r : Bytes) : Nat := u32 r 52

def addOcc (h : Nat) (r : Bytes) (s : State) : State :=
  let n := recPort r
  if n < 4 then
    checkOcc n (setPort n (fun p => { p with occ := p.occ.set (recTc r) (occOf p (recTc r) + bufSize (hPool h)) }) s)
  else s

def subOcc (h : Nat) (r : Bytes) (s : State) : State :=
  let n := recPort r
  if n < 4 then
    checkOcc n (setPort n (fun p => { p with occ := p.occ.set (recTc r) (occOf p (recTc r) - bufSize (hPool h)) }) s)
  else s

/-! ## Freeing (R32, R211, R229) -/

/-- Every write response of a spill is in: the buffer is lodged, or stays in SRAM and its DRAM buffer is withdrawn (R221). -/
def landSpill (h : Nat) (s : State) : State :=
  match getBuf s h with
  | none => s
  | some b =>
    match b.loc, (b.mv.bind (getXfer s)) with
    | .movingOut k j i, some x =>
      if !x.finished then s
      else
        let p := hPool h
        let s1 := dropXfer x.id s
        if x.err then
          poolBump p 10 (poolBump p 12 (setPool p (fun c => { c with withdrawn := c.withdrawn ++ [i] })
            (setBuf h { b with loc := .sram k j, mv := none, reloc := false } s1)))
        else
          let s2 := evalPool p (poolBump p 5 (setBuf h { b with loc := .lodged i, mv := none, reloc := false } s1))
          if b.reloc then poolBump p 14 s2 else s2
    | _, _ => s

/-- The DRAM buffer of a D-tier or LODGED buffer is free once its writes have ended. -/
def freeDirect (h p i : Nat) (s : State) : State :=
  match (s.host.xfers.filter (·.purp = .dramWrite h)).getLast? with
  | some x => s.updStore fun t => { t with orphans := t.orphans ++ [(x.id, p, i)] }
  | none => freeDram p i s

/-- Give up a buffer: its slot, its DRAM buffer, and what it counts toward. -/
def freeBuf (h : Nat) (s0 : State) : State :=
  let s := landSpill h s0
  match getBuf s h with
  | none => s
  | some b =>
    let p := hPool h
    let entered := b.owner != ownArrival
    let s1 := poolBump p 4 (s.updStore fun t => { t with bufs := t.bufs.erase h, table := t.table.erase h })
    let s2 :=
      match b.loc with
      | .sram _ _ => s1
      | .dram i => freeDirect h p i s1
      | .lodged i => freeDirect h p i s1
      | .movingOut _ _ i =>
        poolBump p 7 (match b.mv with
          | some x => s1.updStore fun t => { t with orphans := t.orphans ++ [(x, p, i)] }
          | none => freeDram p i s1)
      | .movingIn _ _ i =>
        poolBump p 8 (freeDram p i (dropXfers (fun x => some x.id = b.mv) s1))
    let s3 := if entered then genDec (recGen b.record) (subOcc h b.record s2) else s2
    evalPool p s3

/-- A store event, at most once per 1 ms and pool (R228). -/
def checkEvent (h oseq kind reader : Nat) (s : State) : State :=
  let p := hPool h
  let now := nowNs s
  if recently (getPool s p).checkEvt now 1000000 then s
  else raise0 0x0481 h (toLe 4 oseq ++ toLe 1 kind ++ zeros 1 ++ toLe 2 reader)
    (setPool p (fun c => { c with checkEvt := some now }) s)

def ownerEvent (h kind owner : Nat) (s : State) : State :=
  let p := hPool h
  let now := nowNs s
  if recently (getPool s p).ownEvt now 1000000 then s
  else raise0 0x0482 h (toLe 1 kind ++ zeros 3 ++ toLe 4 owner)
    (setPool p (fun c => { c with ownEvt := some now }) s)

/-- The handle is in the range of its pool (R201). -/
def handleInRange (s : State) (h : Nat) : Bool :=
  hIndex h < (if hDram h then nDram s (hPool h) else nNames s (hPool h))

/-- An operation other than a release on a handle that is out of range or not allocated is not performed (R201).  The event
names no owner: its OWNER_ID is 0 (DESIGN CHOICE, log 81). -/
def badHandle (h : Nat) (s : State) : State :=
  ownerEvent h (b2n (handleInRange s h)) 0 (poolBump (hPool h) 15 s)

/-- The CRC-32C of an OWNER_ID (R211). -/
def ownerSig (id : Nat) : Nat := crc32c (toLe 4 id)

/-- An owner lets a buffer go (R211); a bad handle is counted (R201). -/
def releaseOwner (h id : Nat) (s : State) : State :=
  if !handleInRange s h then ownerEvent h 0 id (poolBump (hPool h) 15 s)
  else
    match getBuf s h with
    | none => ownerEvent h 2 id (poolBump (hPool h) 16 s)
    | some _ =>
      match s.store.table.get? h with
      | none => freeBuf h s
      | some e =>
        let sig := e.sig ^^^ ownerSig id
        if e.count ≤ 1 then
          let s1 := freeBuf h s
          if sig = 0 then s1 else ownerEvent h 3 id (poolBump (hPool h) 17 s1)
        else s.updStore fun t => { t with table := t.table.set h { count := e.count - 1, sig := sig } }

/-! ## Pins (R214, R215) -/

/-- Pin a buffer: a move in progress is cancelled, unless its last write response is in, and a lodged buffer is read where
it is. -/
def pinBuf (h : Nat) (s0 : State) : State :=
  let s := landSpill h s0
  match getBuf s h with
  | none => badHandle h s
  | some b =>
    let p := hPool h
    let b1 := { b with pins := b.pins + 1 }
    match b.loc with
    | .movingOut k j i =>
      poolBump p 7 (setBuf h { b1 with loc := .sram k j, mv := none, reloc := false }
        (match b.mv with
         | some x => s.updStore fun t => { t with orphans := t.orphans ++ [(x, p, i)] }
         | none => freeDram p i s))
    | .movingIn _ _ i =>
      evalPool p (poolBump p 8 (setBuf h { b1 with loc := .lodged i, mv := none } (dropXfers (fun x => some x.id = b.mv) s)))
    | .lodged _ => poolBump p 13 (setBuf h b1 s)
    | _ => setBuf h b1 s

def unpinBuf (h : Nat) (s : State) : State :=
  if (getBuf s h).isNone then badHandle h s else updBuf h (fun b => { b with pins := b.pins - 1 }) s

/-! ## Check words (R203-R206) -/

/-- The reader's reference names the buffer, and its contents carry the check word. -/
def verifies (s : State) (h oseq : Nat) : Bool :=
  match getBuf s h with
  | none => false
  | some b => !b.bad && !b.lost && b.check = checkOf h oseq b.record b.data

/-- A reader's check failure: its drop is counted against the frame's ingress port code (R206). -/
def checkFail (h oseq kind reader : Nat) (s : State) : State :=
  let port := match getBuf s h with | some b => recPort b.record | none => 0xFFF
  checkEvent h oseq kind reader (bump cPoolPort port 0 s)

/-- The DRAM buffer that holds a buffer's contents: of a D-tier handle, or of a LODGED buffer (R200, R215). -/
def Loc.held? : Loc → Option Nat
  | .dram i => some i
  | .lodged i => some i
  | _ => none

/-- The write of the DRAM copy that holds a buffer's contents. -/
def writeDram (h : Nat) (s : State) : State :=
  match getBuf s h with
  | none => s
  | some b =>
    match b.loc.held? with
    | some i =>
      let a := dramAddr s (hPool h) i
      if regionOk s a (bufSize (hPool h)) then startMove (.dramWrite h) true h b.data.length a (bufImage h b) s
      else updBuf h (fun b => { b with lost := true }) (violation s)
    | none => s

/-- That write has ended.  What an errored one leaves in the buffer fails its check (DEDUCED, log 81). -/
def dramWritten (h : Nat) (x : Xfer) (s : State) : State :=
  match s.store.orphans.find? (·.1 = x.id) with
  | some o => freeDram o.2.1 o.2.2 (s.updStore fun t => { t with orphans := t.orphans.filter (·.1 != x.id) })
  | none => if x.err then updBuf h (fun b => { b with lost := true }) s else s

/-- Write a buffer's record and data with a new check word. -/
def writeBuf (h : Nat) (record data : Bytes) (s : State) : State :=
  let a := access h false 0 (64 + data.length) s
  if a.1 then
    writeDram h
      (updBuf h (fun b => { b with record := record, data := data, check := checkOf h b.oseq record data }) a.2)
  else a.2

/-! ## Reads out of host memory (R205, R215) -/

def isBad (s : State) (h : Nat) : Bool := (getBuf s h).any (·.bad)

/-- A pinned buffer is to be read out of host memory. A BAD one is not read (R206). -/
def readsDram (s : State) (h : Nat) : Bool :=
  match getBuf s h with
  | some b => !b.bad && b.loc.held?.isSome
  | none => false

/-- Start that read; false when its address lies in no region. -/
def startDirect (who : Reader) (h : Nat) (s : State) : Bool × State :=
  match getBuf s h with
  | none => (false, s)
  | some b =>
    match b.loc.dram? with
    | none => (false, s)
    | some i =>
      let a := dramAddr s (hPool h) i
      if regionOk s a (bufSize (hPool h)) then (true, startMove (.direct h who) false h b.data.length a [] s)
      else (false, violation s)

/-- Give such a read up. -/
def dropDirect (who : Reader) (h : Nat) (s : State) : State := dropXfers (fun x => x.purp = .direct h who) s

/-- The image of a buffer with `len` bytes of data carries the check word of a reference (R203, R204). -/
def imageGood (h oseq len : Nat) (d : Bytes) : Bool :=
  let r := slice d 0 64
  recLen r = len && u32 d (bufSize (hPool h) - 8) = checkOf h oseq r (slice d 64 len)

/-- A finished read out of host memory verifies. -/
def directOk (s : State) (h oseq : Nat) (x : Xfer) : Bool :=
  match getBuf s h with
  | some b => !x.err && !b.bad && !b.lost && imageGood h oseq b.data.length x.data
  | none => false

/-- The kind of the check failure of such a read (R228). -/
def directKind (x : Xfer) : Nat := if x.err then 5 else 0

/-- The transfer of a reader that reads a buffer out of host memory. -/
def readOf (s : State) (who : Reader) (h : Nat) : Option Xfer :=
  s.host.xfers.find? fun x => x.purp = .direct h who && !x.gone

/-- A reader waits for the end of its read. -/
def reading (s : State) (who : Reader) (h : Nat) : Bool := (readOf s who h).any fun x => !x.finished

/-- A read that no region covers is not issued, and ends as an errored one (R40). -/
def errXfer (who : Reader) (h : Nat) : Xfer :=
  { id := 0, purp := .direct h who, write := false, sid := 0x200, addr := 0, len := 0, data := [], todo := [], err := true }

/-- What a reader that pins a buffer finds of it (R215): nothing yet, while its read out of host memory is on its way; no transfer,
where the bytes are in SRAM; or the read that has ended. -/
def fetchBuf (who : Reader) (h : Nat) (s : State) : Option (Option Xfer) × State :=
  match readOf s who h with
  | some x => if x.finished then (some (some x), dropXfer x.id s) else (none, s)
  | none =>
    if readsDram s h then
      let r := startDirect who h s
      (if r.1 then none else some (some (errXfer who h)), r.2)
    else (some none, touchBuf h s)

/-- The same of a reader that holds no pin before its first access (R214). -/
def fetchPinned (who : Reader) (h : Nat) (s : State) : Option (Option Xfer) × State :=
  fetchBuf who h (if (readOf s who h).isSome then s else pinBuf h s)

/-- A reader gives up its read, and its pin. -/
def forgetRead (who : Reader) (h : Nat) (s : State) : State :=
  if (readOf s who h).isSome then dropDirect who h (unpinBuf h s) else s

/-- The data that a reader has. -/
def readData (s : State) (h : Nat) (x : Option Xfer) : Bytes :=
  match getBuf s h, x with
  | some b, none => b.data
  | some b, some x => slice x.data 64 b.data.length
  | none, _ => []

/-- The frame record that a reader has. -/
def readRecord (s : State) (h : Nat) (x : Option Xfer) : Bytes :=
  match getBuf s h, x with
  | some b, none => b.record
  | some _, some x => slice x.data 0 64
  | none, _ => zeros 64

/-- What a reader has of a buffer verifies against its reference (R204, R205). -/
def readGood (s : State) (h oseq : Nat) (x : Option Xfer) : Bool :=
  match x with
  | none => verifies s h oseq
  | some x => directOk s h oseq x

/-- The kind of a reader's check failure: that of an errored read, else `k` (R228). -/
def readKind (k : Nat) (x : Option Xfer) : Nat := if x.any (·.err) then 5 else k

/-- The bytes of a frame record's ingress part (R28, R202). -/
def mkRecord (h len port tb chsta tc gen time seq : Nat) : Bytes :=
  let ns := time / nsUnit
  toLe 4 h ++ toLe 2 len ++ toLe 2 (port + tb * 4096) ++ toLe 2 (chsta + tc * 4096) ++ toLe 2 gen ++
    toLe 4 0xFFFFFFFF ++ toLe 2 (time % nsUnit / 2 ^ 24) ++ toLe 6 (ns / 1000000000) ++
    toLe 4 (ns % 1000000000) ++ toLe 4 seq ++ zeros 32

end Sys2Proof.Machine
end

