-- ==== Sys2Proof/Machine/Parse.lean ====
section
/-! DEFINITION. The parser and the classifier (R230-R242). -/

namespace Sys2Proof.Machine

open Sys2Proof

/-! ## The parse graph (R230-R236) -/

def excTruncated := 1
def excDepth := 2
def excTagLimit := 3
def excTunnelLimit := 4
def excNoTransition := 5
def excLengthBad := 6
def excHops := 7

/-- The parser at work: the extracts of the key, the slots and kinds of the parse result, tags, level, and the
nodes visited so far, the last first. -/
structure PState where
  key   : Bytes := zeros 48
  slots : List Nat := List.replicate 16 0xFFFF
  l3    : List Nat := List.replicate 4 0xFF
  tags  : Nat := 0
  level : Nat := 0
  deep  : Nat := 0
  seen  : List Nat := []
  deriving DecidableEq, Repr

def nodeTag (n : Bytes) : Bool := (u8 n 1).testBit 1
def nodeTunnel (n : Bytes) : Bool := (u8 n 1).testBit 2
def nodeRole (n : Bytes) : Nat := bits (u8 n 1) 5 3

/-- Step 3: the header length, or the exception (R231, R232). -/
def headerLen (n d : Bytes) (len o : Nat) : Nat ⊕ Nat :=
  if u8 n 3 = 0 then .inr (u8 n 4)
  else
    let p := o + u8 n 5 + 1
    if p ≥ len then .inl excTruncated
    else if p > 255 then .inl excDepth
    else
      let f := be d (o + u8 n 5) 2
      let h := (f &&& u16 n 6) / 2 ^ u8 n 8 * 2 ^ u8 n 9 + u16 n 10
      if h < u8 n 4 then .inl excLengthBad else .inr h

/-- The extracts of a visit (R234). -/
def extracts (n d : Bytes) (o level : Nat) (firstVisit : Bool) (key : Bytes) : Bytes :=
  (List.range (u8 n 18)).foldl (fun k j =>
    let x := 68 + 4 * j
    let fl := u8 n (x + 3)
    if fl.testBit level && (firstVisit || !fl.testBit 4) then
      overlay k (u8 n (x + 2)) (slice d (o + u8 n x) (u8 n (x + 1)))
    else k) key

/-- The next code of a visit (R233). -/
def nextCode (n d : Bytes) (o : Nat) : Nat :=
  if u8 n 12 = 0xFF then u8 n 16
  else
    let v := be d (o + u8 n 12) 2 &&& u16 n 14
    match (List.range (u8 n 17)).find? fun i => v &&& u16 n (22 + 6 * i) = u16 n (20 + 6 * i) with
    | some i => u8 n (24 + 6 * i)
    | none => u8 n 16

/-- Steps 5 and 6 of a visit: what it writes. -/
def visitWrites (id o : Nat) (n d : Bytes) (p : PState) : PState :=
  let i := 4 * p.level + nodeRole n - 1
  { p with
    key := extracts n d o p.level (!p.seen.contains id) p.key
    slots := if nodeRole n = 0 then p.slots else p.slots.set i o
    l3 := if nodeRole n = 2 then p.l3.set p.level (u8 n 2) else p.l3
    tags := if nodeTag n then p.tags + 1 else p.tags
    deep := p.level
    seen := id :: p.seen }

/-- Visit nodes from `id` at offset `o` until the parsing ends; 0 is no exception (R231). -/
def visit (node : Nat → Option Bytes) (d : Bytes) (len : Nat) : Nat → Nat → Nat → PState → PState × Nat
  | 0, _, _, p => (p, excHops)
  | f + 1, id, o, p =>
    match node id with
    | none => (p, excNoTransition)
    | some n =>
      if p.seen.length ≥ 32 then (p, excHops)
      else if nodeTag n && p.tags ≥ 8 then (p, excTagLimit)
      else
        match headerLen n d len o with
        | .inl e => (p, e)
        | .inr h =>
          if o + h > len then (p, excTruncated)
          else if o + h > 256 then (p, excDepth)
          else
            let p1 := visitWrites id o n d p
            if nodeTunnel n && p1.level = 3 then (p1, excTunnelLimit)
            else
              let p2 := if nodeTunnel n then { p1 with level := p1.level + 1 } else p1
              let c := nextCode n d o
              match c / 64 with
              | 0 => visit node d len f (c % 64) (o + h) p2
              | 1 => (p2, 0)
              | _ => (p2, excNoTransition)

/-- The ingress class of a port code: 0 wire ports, 1 radio links, 2 host channels, 3 engines and Onyx. -/
def ingressClass (port : Nat) : Nat :=
  if port < 4 then 0 else if 0x100 ≤ port && port < 0x103 then 1 else if port ≥ 0x200 then 2 else 3

/-- The place of a port code's entry in the start table (CLS_PARSE_START_SET). -/
def startPlace (port : Nat) : Nat :=
  match ingressClass port with
  | 0 => port
  | 1 => 4 + (port - 0x100)
  | 2 => 7
  | _ => 8

/-- Parse a frame's data under a generation (R230). -/
def parseData (s : State) (g port : Nat) (d : Bytes) : PState × Nat :=
  match verVal s .start 0 g with
  | none => ({}, 0)
  | some t =>
    let e := u8 t (startPlace port)
    if e.testBit 7 then visit (fun i => verVal s .node i g) d d.length 34 (e % 64) 0 {} else ({}, 0)

def lastNode (p : PState) : Nat :=
  match p.seen with
  | [] => 0
  | i :: _ => 0x80 + i

/-- The parse result (R236). -/
def parseResult (p : PState) (exc : Nat) : Bytes :=
  (p.slots.flatMap fun o => toLe 2 o) ++ p.l3.map (BitVec.ofNat 8) ++ toLe 1 p.tags ++ toLe 1 p.deep ++ toLe 1 exc ++
    toLe 1 (lastNode p) ++ zeros 8

/-- The key (R237). -/
def parseKey (p : PState) (exc port chsta tc len tag : Nat) (partly : Bool) : Bytes :=
  p.key ++ toBe 2 port ++ toBe 2 chsta ++ toBe 1 tc ++ toBe 1 (p.tags + 16 * p.deep + 64 * b2n partly) ++ toBe 1 exc ++
    toBe 1 (lastNode p) ++ toBe 2 len ++ zeros 2 ++ toBe 4 tag

/-- The action of an exception (R235): 0 STOP, 1 DROP, 2 PUNT; and the punt destination. -/
def excAction (s : State) (g exc : Nat) : Nat × Nat :=
  match verVal s .exception 0 g with
  | none => (0, 0)
  | some v => (u8 v (exc - 1), u32 v 8)

/-! ## The rule tables (R238-R242) -/

def ruleTable (v : Ver) : Nat := v.key / 2 ^ 32
def ruleId (v : Ver) : Nat := v.key % 2 ^ 32
def ruleAction (v : Ver) : Bytes := slice v.val 144 32

/-- (key AND MASK) equals VALUE (R238). -/
def ruleMatches (key : Bytes) (v : Ver) : Bool :=
  (List.range 64).all fun i => u8 key i &&& u8 v.val (80 + i) = u8 v.val (16 + i)

/-- A table is enabled in a generation; all are after RST_N (R249). -/
def tableEnabled (s : State) (t g : Nat) : Bool :=
  match verVal s .table t g with
  | some v => u8 v 1 = 1
  | none => true

/-- The better of two rules: highest PRIORITY, then lowest RULE_ID (R239). -/
def betterRule (a b : Ver) : Bool :=
  u16 a.val 2 > u16 b.val 2 || (u16 a.val 2 = u16 b.val 2 && ruleId a < ruleId b)

/-- The rule that a table selects (R239). -/
def bestRule (s : State) (t g : Nat) (key : Bytes) : Option Ver :=
  if tableEnabled s t g then
    ((versOf s .rule g).filter fun v => ruleTable v = t && ruleMatches key v).foldl
      (fun b v =>
        match b with
        | none => some v
        | some w => if betterRule v w then some v else some w) none
  else none

/-- The default action of an ingress class; DROP alone after RST_N (R242). -/
def defaultAction (s : State) (c g : Nat) : Bytes :=
  match verVal s .default c g with
  | some v => slice v 4 32
  | none => overlay (zeros 32) 0 [2#8]

/-- The merged result of the classifier (R241); a group no action sets is none. -/
structure ClsRes where
  verdict : Nat
  hook    : Nat
  kind    : Nat
  dest    : Nat
  rewrite : Nat
  tc      : Option Nat
  ptp     : Nat
  profile : Option Nat
  policer : Option Nat
  dflt    : Bool
  hits    : Nat
  deriving DecidableEq, Repr

/-- The first of some actions that sets a group. -/
def firstSet (l : List Bytes) (p : Bytes → Bool) : Option Bytes := l.find? p

/-- Merge the actions of the tables that matched with the default action (R241, R242). -/
def mergeActions (acts : List Bytes) (dflt : Bytes) (hits : Nat) (partly : Bool) : ClsRes :=
  let all := acts ++ [dflt]
  let v := (firstSet all fun a => u8 a 0 != 0).getD (overlay (zeros 32) 0 [2#8])
  let grp (i : Nat) : Option Bytes := firstSet all fun a => (u8 a 1).testBit i
  { verdict := u8 v 0, hook := u8 v 3, kind := u8 v 4, dest := u32 v 8
    rewrite := u32 v 12
    tc := (grp 0).map fun a => u8 a 2
    ptp := ((grp 1).map fun a => u32 a 16).getD 0
    profile := if partly then none else (grp 2).map fun a => u32 a 20
    policer := (grp 3).map fun a => u32 a 24
    dflt := (firstSet acts fun a => u8 a 0 != 0).isNone
    hits := hits }

/-- Search the eight tables: the rules selected, in order of table (R239). -/
def matchTables (s : State) (g : Nat) (key : Bytes) : List Ver :=
  (List.range 8).filterMap fun t => bestRule s t g key

/-- The selected rules' HITS advance (R239). -/
def countHits (l : List Ver) (g : Nat) (s : State) : State :=
  let f (v : Ver) : Ver :=
    if v.kind = .rule && v.validIn g && l.any (·.key = v.key) then { v with hits := (v.hits + 1) % 2 ^ 64 } else v
  s.updCls fun c => { c with vers := c.vers.map f }

/-- Classify a key under a generation (R241). -/
def classify (s : State) (g port : Nat) (key : Bytes) (partly : Bool) : ClsRes × State :=
  let l := matchTables s g key
  (mergeActions (l.map ruleAction) (defaultAction s (ingressClass port) g)
      (l.foldl (fun a v => a ||| 2 ^ ruleTable v) 0) partly,
    countHits l g s)

/-- The low half of RESULT_FLAGS (R243); bit 3 ENGINE is set when the frame goes to the dispatcher. -/
def clsFlags (r : ClsRes) (partly : Bool) : Nat :=
  b2n partly + 2 * b2n r.dflt + 4 * b2n r.profile.isSome + 256 * r.hits

/-! ## The result part (R202) -/

def resFlags (r : Bytes) : Nat := u32 r 0
def resKind (r : Bytes) : Nat := u8 r 8
def resTc (r : Bytes) : Nat := u8 r 9 % 8
def resDest (r : Bytes) : Nat := u32 r 12
def resRewrite (r : Bytes) : Nat := u32 r 16
def resPtp (r : Bytes) : Nat := u32 r 20

/-- Lay out a result part. -/
def mkResult (flags flow kind tc dest rewrite ptp : Nat) : Bytes :=
  toLe 4 flags ++ toLe 4 flow ++ toLe 1 kind ++ toLe 1 tc ++ zeros 2 ++ toLe 4 dest ++ toLe 4 rewrite ++ toLe 4 ptp ++
    zeros 8

end Sys2Proof.Machine
end

