-- ==== Sys2Proof/Machine/Rewrite.lean ====
section
/-! DEFINITION. The bytes that an egress reader sends (R270). -/

namespace Sys2Proof.Machine

open Sys2Proof

/-- The ones'-complement sum of 16-bit words, most significant byte first. -/
def onesSum : Bytes → Nat
  | [] => 0
  | [a] => a.toNat * 256
  | a :: b :: t => a.toNat * 256 + b.toNat + onesSum t

def fold16 (n : Nat) : Nat :=
  let a := n % 65536 + n / 65536
  let b := a % 65536 + a / 65536
  b % 65536 + b / 65536

/-- The Internet checksum of bytes. -/
def csum16 (b : Bytes) : Nat := 65535 - fold16 (onesSum b)

/-- Write a big-endian field of `n` bytes. -/
def putBe (b : Bytes) (off n v : Nat) : Bytes := overlay b off (toBe n v)

/-- STRIP, of the record's result flags (R278). -/
def recStrip (r : Bytes) : Nat := u8 r 35

/-- Step 2 of R270: the rewrite entry's OP. -/
def rewriteOp (e d : Bytes) : Bytes :=
  match u8 e 3 with
  | 1 => overlay d 0 (slice e 16 12)
  | 2 => slice e 16 (u8 e 4) ++ d
  | _ => d

def isTagged (d : Bytes) : Bool := be d 12 2 = 0x8100 || be d 12 2 = 0x88A8

/-- Step 3 of R270: VLAN. -/
def rewriteVlan (e d : Bytes) : Bytes :=
  match u8 e 5 with
  | 1 => d.take 12 ++ slice e 10 4 ++ d.drop 12
  | 2 => if isTagged d then overlay d 14 (slice e 12 2) else d
  | 3 => if isTagged d then d.take 12 ++ d.drop 16 else d
  | _ => d

/-- Step 4 of R270: FIXUPS, which act on a prepended header only. -/
def rewriteFix (e r d : Bytes) : Bytes :=
  if u8 e 3 != 2 then d
  else
    let fx := u8 e 6
    let ip := u8 e 7
    let udp := u8 e 8
    let pp := u8 e 9
    let f := d.length
    let flow := u32 r 36
    let port := if flow = 0xFFFFFFFF then recPort r else flow
    let d := if fx.testBit 0 then putBe d (ip + 2) 2 (f - ip) else d
    let d := if fx.testBit 2 then putBe (putBe d (udp + 4) 2 (f - udp)) (udp + 6) 2 0 else d
    let d := if fx.testBit 3 then putBe d udp 2 (0xC000 ||| (port % 2 ^ 14)) else d
    let d := if fx.testBit 4 then putBe d (pp + 4) 2 (f - pp - 6) else d
    let d := if fx.testBit 5 then putBe d (ip + 4) 2 (f - ip - 40) else d
    if fx.testBit 1 then
      let z := putBe d (ip + 10) 2 0
      putBe z (ip + 10) 2 (csum16 (slice z ip 20))
    else d

/-- The bytes an egress reader sends of a buffer under a rewrite entry of the frame's generation (R270). -/
def egressBytes (s : State) (b : Buf) (ref : Nat) : Bytes :=
  let d := b.data.drop (recStrip b.record)
  match verVal s .rewrite ref (recGen b.record) with
  | none => d
  | some e => rewriteFix e b.record (rewriteVlan e (rewriteOp e d))

/-- The length of those bytes, D of R374. -/
def egressLen (s : State) (h ref : Nat) : Nat :=
  match getBuf s h with
  | some b => (egressBytes s b ref).length
  | none => 0

end Sys2Proof.Machine
end

