-- ==== Sys2Proof/Machine/Sched.lean ====
section
/-! DEFINITION. Egress queues, deficit rounds and shapers (R387-R405). -/

namespace Sys2Proof.Machine

open Sys2Proof

/-! ## Egress queues -/

/-- The OWNER_ID of a queue (R210); a wire sub-queue is no owner of its own (R391). -/
def QKey.owner : QKey → Nat
  | .wire p tc _ => p * 65536 + tc
  | .ring ch r => (0x200 + ch) * 65536 + r
  | .sta st ac => 0x01000000 + 4 * st + ac
  | .eng e => (0xE0 + e) * 65536
  | .onyx => 0xF0 * 65536

/-- The port code of a queue's reader; a station queue's is that of the station port, 0x100. -/
def QKey.port (q : QKey) : Nat := q.owner / 65536

def getQ (s : State) (k : QKey) : List QE := ((s.sch.queues.find? (·.1 = k)).map (·.2)).getD []

def setQ (k : QKey) (l : List QE) (s : State) : State :=
  s.updSch fun t => { t with queues :=
                        if l.isEmpty then t.queues.filter (·.1 != k)
                        else if t.queues.any (·.1 = k) then t.queues.map fun p => if p.1 = k then (k, l) else p
                        else t.queues ++ [(k, l)] }

def pushQ (k : QKey) (e : QE) (s : State) : State := setQ k (getQ s k ++ [e]) s
def popQ (k : QKey) (s : State) : State := setQ k ((getQ s k).drop 1) s

/-- The stored bytes of a queue's frames. -/
def queuedBytes (s : State) (l : List QE) : Nat :=
  (l.map fun e => ((getBuf s e.h).map fun b => b.data.length).getD 0).sum

/-- The sub-queue of an ingress port code (R391). -/
def subQueue (port : Nat) : Nat :=
  if port < 4 then port
  else if 0x100 ≤ port && port < 0x103 then 4
  else if port ≥ 0x200 then 5
  else 6

/-- The schedulers make no further decision, and the spill mover starts no move: step 3 of R452, or step 2 of R510. -/
def egressStops (s : State) : Bool := s.pwr.mode != .active || s.sys.quiesced

/-! ## Deficit round robin (R388, R389) -/

/-- A queue joins its round with no deficit (R389). -/
def Drr.join (q : Nat) (d : Drr) : Drr :=
  if d.active.contains q then d
  else { active := d.active ++ [q], deficit := d.deficit.set q 0, inVisit := d.inVisit.erase q }

/-- A queue leaves its round; its deficit is discarded. -/
def Drr.leave (q : Nat) (d : Drr) : Drr :=
  { active := d.active.erase q, deficit := d.deficit.erase q, inVisit := d.inVisit.erase q }

def Drr.toTail (q : Nat) (d : Drr) : Drr := { d with active := d.active.erase q ++ [q], inVisit := d.inVisit.erase q }

def Drr.def (q : Nat) (d : Drr) : Nat := d.deficit.getD q 0

/-- The start of a visit of a queue whose head costs `c`. -/
def Drr.visit (q quantum c : Nat) (d : Drr) : Drr :=
  if d.inVisit.contains q then d
  else { d with deficit := d.deficit.set q (min (d.def q + quantum) (quantum + c)), inVisit := q :: d.inVisit }

/-- The queue that one decision over at most `n` entries chooses: `cost q` is the cost of the head of `q`, none while it has no
eligible head.  It stays at the front of the list, and nothing has been charged. -/
def Drr.select (cost : Nat → Option Nat) (quantum : Nat → Nat) : Nat → Drr → Option Nat × Drr
  | 0, d => (none, d)
  | n + 1, d =>
    match d.active with
    | [] => (none, d)
    | q :: _ =>
      match cost q with
      | none => Drr.select cost quantum n (d.toTail q)
      | some c =>
        let v := d.visit q (quantum q) c
        if c ≤ v.def q then (some q, v) else Drr.select cost quantum n (v.toTail q)

/-- A dequeue charges the deficit of its queue. -/
def Drr.charge (q c : Nat) (d : Drr) : Drr := { d with deficit := d.deficit.set q (d.def q - c) }

/-- One decision, whose choice is charged at once. -/
def Drr.decide (cost : Nat → Option Nat) (quantum : Nat → Nat) (n : Nat) (d : Drr) : Option Nat × Drr :=
  let r := Drr.select cost quantum n d
  match r.1 with
  | some q => (some q, r.2.charge q ((cost q).getD 0))
  | none => r

/-! ## Shapers (R399, R400) -/

/-- One core cycle of accrual: RATE / 8,000,000 bytes, exactly, up to BURST. -/
def Shaper.tick (x : Shaper) : Shaper :=
  if x.rate = 0 then x
  else
    let n := x.rest + x.rate * 65536
    let c := x.credit + (n / 8000000 : Nat)
    if c ≥ x.burst * 65536 then { x with credit := x.burst * 65536, rest := 0 }
    else { x with credit := c, rest := n % 8000000 }

/-- A frame may start. -/
def Shaper.open (x : Shaper) : Bool := x.rate = 0 || 0 ≤ x.credit

/-- Charge bytes; a shaper may go into debt by one frame. -/
def Shaper.charge (n : Nat) (x : Shaper) : Shaper :=
  if x.rate = 0 then x else { x with credit := x.credit - (n * 65536 : Nat) }

/-- A change of RATE and BURST (R400). -/
def Shaper.setRate (rate burst : Nat) (x : Shaper) : Shaper :=
  if rate = 0 then {}
  else if x.rate = 0 then { rate := rate, burst := burst, credit := burst * 65536 }
  else { x with rate := rate, burst := burst, credit := min x.credit (burst * 65536) }

/-- CREDIT in whole bytes, rounded toward minus infinity; 0 when disabled. -/
def Shaper.bytes (x : Shaper) : Int := if x.rate = 0 then 0 else x.credit / 65536

/-! ## Policers (R276, R277) -/

def Policer.scale (p : Policer) : Nat := if p.mode = 2 then 1000000000 else 8000000

/-- The tokens at a time. -/
def Policer.accrue (now : Nat) (p : Policer) : Policer :=
  { p with tokens := min (p.tokens + (now - p.last) * p.rate) (p.burst * p.scale), last := now }

/-- Judge a frame of `len` bytes: whether it conforms, and the policer after it. -/
def Policer.judge (now len : Nat) (p : Policer) : Bool × Policer :=
  if p.mode = 0 then (true, p)
  else
    let q := p.accrue now
    let c := (if p.mode = 2 then 1 else len) * p.scale
    if c ≤ q.tokens then (true, { q with tokens := q.tokens - c }) else (false, q)

/-- A new setting of a policer (R277). -/
def Policer.set (now mode rate burst : Nat) (reset : Bool) (p : Policer) : Policer :=
  let q := p.accrue now
  let n : Policer := { mode := mode, rate := rate, burst := burst, tokens := 0, last := now }
  if mode = 0 then { mode := 0, rate := rate, burst := burst, tokens := 0, last := now }
  else if p.mode != mode || reset then { n with tokens := burst * n.scale }
  else { n with tokens := min q.tokens (burst * n.scale) }

/-! ## Wire ports (R391-R394) -/

def getWire (s : State) (n : Nat) : WireSch := s.sch.wire.getD n {}
def setWire (n : Nat) (f : WireSch → WireSch) (s : State) : State :=
  s.updSch fun t => { t with wire := t.wire.upd n {} f }

def wireRound (w : WireSch) (tc : Nat) : Drr := w.rounds.getD tc {}
def setRound (n tc : Nat) (f : Drr → Drr) (s : State) : State :=
  setWire n (fun w => { w with rounds := w.rounds.upd tc {} f }) s

/-- The frames of a class: its nominated head and its sub-queues. -/
def classDepth (s : State) (n tc : Nat) : Nat :=
  b2n ((getWire s n).nom.has tc) + ((List.range 7).map fun q => (getQ s (.wire n tc q)).length).sum

/-- The length with FCS of a frame as a wire port will send it (R392). -/
def wireLen (s : State) (e : QE) : Nat := max 60 (egressLen s e.h e.rewrite) + 4

/-- Nominate a class's head when it has none (R392). -/
def nominate (n tc : Nat) (s : State) : State :=
  let w := getWire s n
  if w.nom.has tc then s
  else
    let d := wireRound w tc
    let r := d.decide (fun q => ((getQ s (.wire n tc q)).head?).map (wireLen s)) (fun q => w.quantum.getD q 0)
      (min 4 d.active.length)
    let s1 := setRound n tc (fun _ => r.2) s
    match r.1 with
    | none => s1
    | some q =>
      match getQ s (.wire n tc q) with
      | [] => s1
      | e :: rest =>
        let s2 := setQ (.wire n tc q) rest s1
        let s3 := if rest.isEmpty then setRound n tc (Drr.leave q) s2 else s2
        setWire n (fun w => { w with nom := w.nom.set tc ⟨q, e, nowNs s⟩ }) s3

/-- The class has no nominated head any more. -/
def clearNom (n tc : Nat) (s : State) : State := setWire n (fun w => { w with nom := w.nom.erase tc }) s

/-- Put a frame on a class's sub-queue (R389). -/
def pushWire (n tc sq : Nat) (e : QE) (s : State) : State :=
  setRound n tc (Drr.join sq) (pushQ (.wire n tc sq) e s)

/-- Every queued owner of a port's classes, nominated heads first, as class and entry. -/
def wireOwners (s : State) (n : Nat) : List (Nat × QE) :=
  (List.range 8).flatMap fun tc =>
    (match (getWire s n).nom.get? tc with
     | some x => [(tc, x.qe)]
     | none => []) ++
    (List.range 7).flatMap fun q => (getQ s (.wire n tc q)).map fun e => (tc, e)

/-- Empty a port's classes. -/
def clearWire (n : Nat) (s : State) : State :=
  (setWire n (fun w => { w with nom := [], rounds := [] }) s).updSch fun t =>
    { t with queues := t.queues.filter fun p => match p.1 with | .wire m _ _ => m != n | _ => true }

/-! ## Counters kept against a frame's ingress port code -/

/-- The ingress port code of a buffer's frame. -/
def ingressOf (s : State) (h : Nat) : Nat := ((getBuf s h).map fun b => recPort b.record).getD 0xFFF

def genOf (s : State) (h : Nat) : Nat := ((getBuf s h).map fun b => recGen b.record).getD 0

/-! ## Stations: parking and rounds (R376, R379, R389) -/

def getSta (s : State) (st : Nat) : Sta := s.sta.getD st {}
def setSta (st : Nat) (f : Sta → Sta) (s : State) : State := s.updSta fun t => t.upd st {} f
def getRl (s : State) (l : Nat) : Rl := s.rl.getD l {}
def setRl (l : Nat) (f : Rl → Rl) (s : State) : State := s.updRl fun t => t.upd l {} f

def staLink (x : Sta) (l : Nat) : StaLink := x.per.getD l {}
def setStaLink (st l : Nat) (f : StaLink → StaLink) (s : State) : State :=
  setSta st (fun x => { x with per := x.per.upd l {} f }) s

/-- The links allowed for an AC: 0 in its field allows every link of LINKS. -/
def acAllows (x : Sta) (a l : Nat) : Bool :=
  x.links.testBit l && (bits x.acLinks (3 * a + 2) (3 * a) = 0 || x.acLinks.testBit (3 * a + l))

/-- The first two conditions of R376. -/
def linkAdmits (s : State) (x : Sta) (a l : Nat) : Bool :=
  (getRl s l).enabled && acAllows x a l &&
    (match (staLink x l).ps with
     | .awake => true
     | .doze => false
     | .period => (staLink x l).spMask.testBit a)

def shouldPark (s : State) (x : Sta) (a : Nat) : Bool :=
  x.state = .active && !(List.range 3).any (linkAdmits s x a)

def getAcRound (s : State) (a : Nat) : Drr := s.sch.sta.getD a {}
def setAcRound (a : Nat) (f : Drr → Drr) (s : State) : State :=
  s.updSch fun t => { t with sta := t.sta.upd a {} f }

/-- Counter groups of the station unit: station, link, port code, radio port (R384). -/
def cSta : Nat := 0x90
def cRl : Nat := 0x91
def cStaPort : Nat := 0x92
def cRadio : Nat := 0x93

/-- Evaluate PARKED of one queue: it leaves the round or rejoins it (R379, R389). -/
def evalPark (st a : Nat) (count : Bool) (s : State) : State :=
  let x := getSta s st
  let p := shouldPark s x a
  if p = x.parked.testBit a then s
  else
    let s1 := setSta st (fun x => { x with parked := withBit x.parked a p }) s
    if p then
      let s2 := setAcRound a (Drr.leave st) s1
      if count then bump cSta st 4 s2 else s2
    else if (getQ s (.sta st a)).isEmpty then s1
    else setAcRound a (Drr.join st) s1

def evalParks (st : Nat) (s : State) : State := (List.range 4).foldl (fun s a => evalPark st a true s) s

/-- Evaluate PARKED of every station that has a context. -/
def evalAllParks (s : State) : State := s.sta.keys.foldl (fun s st => evalParks st s) s

/-- Put a frame on a station queue. -/
def pushSta (st a : Nat) (e : QE) (s : State) : State :=
  let s1 := pushQ (.sta st a) e s
  if (getSta s st).parked.testBit a then s1 else setAcRound a (Drr.join st) s1

/-! ## Host channels: rounds (R395, R396) -/

def getChSch (s : State) (c : Nat) : ChSch := s.sch.ch.getD c {}
def setChSch (c : Nat) (f : ChSch → ChSch) (s : State) : State :=
  s.updSch fun t => { t with ch := t.ch.upd c {} f }

def getCh (s : State) (c : Nat) : Ch := s.ch.getD c {}
def setCh (c : Nat) (f : Ch → Ch) (s : State) : State := s.updCh fun t => t.upd c {} f

/-- Put a frame on a receive ring: ring and channel join their rounds (R389). -/
def pushRing (c r : Nat) (e : QE) (s : State) : State :=
  (setChSch c (fun x => { x with round := x.round.join r }) (pushQ (.ring c r) e s)).updSch fun t =>
    { t with upper := t.upper.join c }

/-- Frames queued on a channel's rings. -/
def chQueued (s : State) (c : Nat) : Nat := ((List.range 8).map fun r => (getQ s (.ring c r)).length).sum

/-- Remove a ring's head and leave the rounds that it empties. -/
def popRing (c r : Nat) (s : State) : State :=
  let s1 := popQ (.ring c r) s
  let s2 := if (getQ s1 (.ring c r)).isEmpty then setChSch c (fun x => { x with round := x.round.leave r }) s1 else s1
  let s3 := setChSch c (fun x => { x with nomRing := none }) s2
  if chQueued s3 c = 0 then s3.updSch fun t => { t with upper := t.upper.leave c } else s3

/-- The channel leaves the upper round, and its rings the lower (R396). -/
def chLeave (c : Nat) (s : State) : State :=
  (setChSch c (fun x => { x with round := {}, nomRing := none }) s).updSch fun t => { t with upper := t.upper.leave c }

end Sys2Proof.Machine
end

