-- ==== Sys2Proof/Machine/Pipe.lean ====
section
/-! DEFINITION. The reorder stage's entries and the drops of the pipeline (R26, R211, R293-R295). -/

namespace Sys2Proof.Machine

open Sys2Proof

/-- The counter groups of flows and engines, kept by port code, policer, engine, or for the block. -/
def cFlowPort : Nat := 0x60
def cPolicer : Nat := 0x61
def cFlow : Nat := 0x62
def cEngPort : Nat := 0x70
def cEng : Nat := 0x71
def cEngBlock : Nat := 0x72
def cRes : Nat := 0xE0
def cResPort : Nat := 0xE1

/-- The sequence number that a port code releases next (R295). -/
def nextSeq (s : State) (port : Nat) : Nat := s.pipe.next.getD port 0

/-- Pass the skips that stand at a port code's next sequence number (R294, R295). -/
def passSkips : Nat → Nat → State → State
  | 0, _, s => s
  | n + 1, port, s =>
    if s.pipe.skips.contains (port, nextSeq s port) then
      passSkips n port (s.updPipe fun p => { p with
        skips := p.skips.erase (port, nextSeq s port)
        next := p.next.set port ((nextSeq s port + 1) % 2 ^ 32) })
    else s

/-- A sequence number is skipped (R294). -/
def postSkip (port seq : Nat) (s : State) : State :=
  let s1 := perf 2 5 (s.updPipe fun p => { p with skips := p.skips ++ [(port, seq)] })
  passSkips s1.pipe.skips.length port s1

/-- A frame of a port code has been released (R295). -/
def passSeq (port : Nat) (s : State) : State :=
  let s1 := s.updPipe fun p => { p with next := p.next.set port ((nextSeq s port + 1) % 2 ^ 32) }
  passSkips s1.pipe.skips.length port s1

/-- A frame that is dropped at stages 1 to 3 (R35, R211, R294). -/
def dropEarly (f : PFrame) (g k : Nat) (s : State) : State :=
  postSkip f.port f.seq (releaseOwner f.h ownPipeline (bump g f.port k s))

/-- Entry as a whole is held (R26). -/
def entryHeld (s : State) : Bool :=
  s.flow.looks.length ≥ 128 || s.pipe.disp.length ≥ 32 || s.pipe.slots.length ≥ 256 || !s.pipe.out.isEmpty

/-- Let the frames that left the flow stage take reorder entries and join the dispatcher, in order
(R293, R294). -/
def pumpOut : Nat → State → State
  | 0, s => s
  | n + 1, s =>
    match s.pipe.out with
    | [] => s
    | f :: rest =>
      if s.pipe.slots.length ≥ 256 || (f.reason != 0 && s.pipe.disp.length ≥ 32) then s
      else
        match lowestFree 256 s.pipe.slots.keys with
        | none => s
        | some i =>
          let e : ReEnt := { frame := f, first := f, state := if f.reason = 0 then .ready else .queued }
          pumpOut n (s.updPipe fun p => { p with
            out := rest
            slots := p.slots.set i e
            disp := if f.reason = 0 then p.disp else p.disp ++ [i] })

/-- A frame leaves the flow stage, whose pin ends (R214). -/
def leaveFlow (f : PFrame) (s : State) : State :=
  pumpOut (s.pipe.out.length + 1) (unpinBuf f.h (s.updPipe fun p => { p with out := p.out ++ [f] }))

def getSlot (s : State) (i : Nat) : Option ReEnt := s.pipe.slots.get? i

def setSlot (i : Nat) (f : ReEnt → ReEnt) (s : State) : State :=
  match getSlot s i with
  | some e => s.updPipe fun p => { p with slots := p.slots.set i (f e) }
  | none => s

/-- The frame of a reorder entry is to be dropped at release, counted at place `k` of group `g`. -/
def slotDrop (i g k : Nat) (s : State) : State := setSlot i (fun e => { e with state := .drop g k }) s

/-- Judge a policer and count the frame (R276); true when the frame conforms. -/
def judgePolicer (i len : Nat) (s : State) : Bool × State :=
  let p := s.flow.policers.getD i {}
  let r := p.judge (nowNs s) len
  let s1 := s.updFlow fun x => { x with policers := x.policers.set i r.2 }
  let k := if r.1 then 0 else 2
  (r.1, bumpN cPolicer i (k + 1) len (bump cPolicer i k s1))

/-- The result part of a frame's record while it is in the pipeline. -/
def frameRec (s : State) (f : PFrame) : Bytes := ((getBuf s f.h).map (·.record)).getD (zeros 64)

def frameData (s : State) (f : PFrame) : Bytes := ((getBuf s f.h).map (·.data)).getD []

end Sys2Proof.Machine
end

