-- ==== Sys2Proof/Machine/FlowHit.lean ====
section
/-! DEFINITION. Flow entries, the lookup key, and the actions of a hit (R256-R269). -/

namespace Sys2Proof.Machine

open Sys2Proof

/-! ## The parse result (R236) -/

def slotOf (pres : Bytes) (k r : Nat) : Nat := u16 pres (2 * (4 * k + r - 1))
def hasSlot (pres : Bytes) (k r : Nat) : Bool := k < 4 && slotOf pres k r != 0xFFFF
def l3Kind (pres : Bytes) (k : Nat) : Nat := u8 pres (32 + k)

/-! ## Flow profiles and actions, as their commands lay them out -/

def prFlags (p : Bytes) : Nat := u8 p 1
def prZone (p : Bytes) : Nat := u8 p 2
def prMiss (p : Bytes) : Nat := u8 p 3
def prLearnHook (p : Bytes) : Nat := u8 p 4
def prCtInvalid (p : Bytes) : Nat := u8 p 5
def prCtHook (p : Bytes) : Nat := u8 p 6
def prTtlHook (p : Bytes) : Nat := u8 p 7

def acFlags (a : Bytes) : Nat := u8 a 2
def acNat (a : Bytes) : Nat := u8 a 3
def acVerdict (a : Bytes) : Nat := u8 a 4
def acHook (a : Bytes) : Nat := u8 a 5
def acDecap (a : Bytes) : Nat := u8 a 6
def acPolicer (a : Bytes) : Nat := u32 a 20

/-! ## Eligibility and the key (R256-R258) -/

/-- The deepest level with a role-2 slot, or level 0. -/
def flowLevel (pres prof : Bytes) : Nat :=
  if (prFlags prof).testBit 3 then (([3, 2, 1].find? fun k => hasSlot pres k 2)).getD 0 else 0

/-- The protocol of an IPv4 or IPv6 header at `o`. -/
def ipProto (d : Bytes) (o : Nat) (v6 : Bool) : Nat := if v6 then u8 d (o + 6) else u8 d (o + 9)

def isEcho (v6 : Bool) (proto type : Nat) : Bool :=
  if v6 then proto = 58 && (type = 128 || type = 129) else proto = 1 && (type = 8 || type = 0)

def hasPorts (proto : Nat) : Bool := proto = 6 || proto = 17 || proto = 132

/-- A frame is looked up (R256). -/
def eligible (d pres prof : Bytes) : Bool :=
  let k := flowLevel pres prof
  let o := slotOf pres k 2
  let v6 := l3Kind pres k = 1
  hasSlot pres k 2 && l3Kind pres k < 2 && (prFlags prof).testBit (if v6 then 2 else 1) &&
    (v6 || be d (o + 6) 2 &&& 0x3FFF = 0) &&
    (!v6 || !hasSlot pres k 3 || slotOf pres k 3 = o + 40) &&
    (!hasPorts (ipProto d o v6) || hasSlot pres k 3)

/-- The lookup key of a frame (R257). -/
def lookupKey (d pres prof : Bytes) : Bytes :=
  let k := flowLevel pres prof
  let o := slotOf pres k 2
  let v6 := l3Kind pres k = 1
  let proto := ipProto d o v6
  let q := slotOf pres k 3
  let addrs := if v6 then slice d (o + 8) 32
    else slice d (o + 12) 4 ++ zeros 12 ++ slice d (o + 16) 4 ++ zeros 12
  let sport := if hasPorts proto then slice d q 2
    else if hasSlot pres k 3 && isEcho v6 proto (u8 d q) then slice d (q + 4) 2 else zeros 2
  let dport := if hasPorts proto then slice d (q + 2) 2 else zeros 2
  toLe 1 (prZone prof) ++ toLe 1 proto ++ toLe 1 (b2n v6) ++ zeros 1 ++ addrs ++ sport ++ dport

def keyHash (s : State) (key : Bytes) : Nat := crc32cSeed s.flow.seed key

/-- The number of buckets; the region's size is a power of two (R258). -/
def nBuckets (s : State) : Nat := s.host.flow.size / 128

def homeBucket (s : State) (key : Bytes) : Nat := keyHash s key % nBuckets s

def mirrorOf (s : State) (b : Nat) : Nat := b ^^^ (nBuckets s / 2)

def bucketAddr (s : State) (b : Nat) : Nat := s.host.flow.base + 128 * b

/-! ## Entries (R261, R262) -/

def entValid (m : Bytes) : Bool := (u8 m 0).testBit 0
def entV6 (m : Bytes) : Bool := (u8 m 0).testBit 1
def entStatic (m : Bytes) : Bool := (u8 m 0).testBit 2
def entReply (m : Bytes) : Bool := (u8 m 0).testBit 3
def entZone (m : Bytes) : Nat := bits (u8 m 0) 6 4
def entProto (m : Bytes) : Nat := u8 m 1
def entState (m : Bytes) : Nat := u16 m 2 % 16
def entSeen (m : Bytes) : Nat := u16 m 2 / 16
def entAction (m : Bytes) : Nat := (if entV6 m then u16 m 4 else u16 m 22) % 4096
def entPackets (m : Bytes) : Nat := if entV6 m then le m 56 3 else le m 24 3
def entOctets (m : Bytes) : Nat := if entV6 m then le m 59 5 else le m 27 5
def entLen (m : Bytes) : Nat := if entV6 m then 64 else 32
def entXAddr (m : Bytes) : Bytes := slice m 16 4
def entXPort (m : Bytes) : Bytes := slice m 20 2

/-- The key fields of an entry, as a lookup key. -/
def entKey (m : Bytes) : Bytes :=
  let v6 := entV6 m
  toLe 1 (entZone m) ++ toLe 1 (entProto m) ++ toLe 1 (b2n v6) ++ zeros 1 ++
    (if v6 then slice m 8 32 else slice m 4 4 ++ zeros 12 ++ slice m 8 4 ++ zeros 12) ++
    (if v6 then slice m 40 4 else slice m 12 4)

def setStateSeen (m : Bytes) (st seen : Nat) : Bytes := overlay m 2 (toLe 2 (st % 16 + 16 * (seen % 4096)))

/-- The entry's counters advance (step 7 of R265). -/
def countEntry (m : Bytes) (len : Nat) : Bytes :=
  if entV6 m then overlay (overlay m 56 (toLe 3 (entPackets m + 1))) 59 (toLe 5 (entOctets m + len))
  else overlay (overlay m 24 (toLe 3 (entPackets m + 1))) 27 (toLe 5 (entOctets m + len))

/-- The valid entries of a bucket, each with its first slot (R259). -/
def bucketEntries (d : Bytes) : List (Nat × Bytes) :=
  (List.range 4).filterMap fun i =>
    let c := u8 d (32 * i)
    let before := u8 d (32 * (i - 1))
    if i % 2 = 1 && before.testBit 0 && before.testBit 1 then none
    else if !c.testBit 0 then none
    else if c.testBit 1 then (if i % 2 = 0 then some (i, slice d (32 * i) 64) else none)
    else some (i, slice d (32 * i) 32)

def bucketOverflow (d : Bytes) : Bool := (u8 d 0).testBit 7

/-- The entry of a bucket whose key fields equal a key. -/
def bucketFind (d key : Bytes) : Option (Nat × Bytes) := (bucketEntries d).find? fun x => entKey x.2 = key

/-- The slots that an entry or a claim of a family at a slot takes. -/
def slotsTaken (i : Nat) (v6 : Bool) : List Nat := if v6 then [i, i + 1] else [i]

/-- The free slot a new entry of a family is given in a bucket: none valid there or in the cache, none claimed (R271). -/
def freeEntry (s : State) (b : Nat) (d : Bytes) (v6 : Bool) : Option Nat :=
  let used := ((bucketEntries d).flatMap fun x => slotsTaken x.1 (entV6 x.2)) ++
    ((s.flow.claims.vals.filter (fun c => c.index / 4 = b)).flatMap fun c => slotsTaken (c.index % 4) (u8 c.key 2 = 1)) ++
    ((s.flow.cache.vals.flatMap id).filter (fun w => w.index / 4 = b)).flatMap fun w =>
      slotsTaken (w.index % 4) (entV6 w.image)
  (if v6 then [0, 2] else [0, 1, 2, 3]).find? fun i => (slotsTaken i v6).all fun j => !used.contains j

/-! ## The tick of LAST_SEEN (R275) -/

/-- The current tick count; with aging disabled the manual gives none, and a free value stands for it (log 7). -/
def tickNow (s : State) : Nat × State :=
  if s.flow.tick = 0 then let r := draw s; (r.1 % 4096, r.2)
  else (nowNs s / (s.flow.tick * 1000000000) % 4096, s)

/-! ## Connection tracking (R268) -/

/-- The new state for a frame, none when the frame is invalid. -/
def ctMove (st proto flags : Nat) : Option Nat :=
  let fr (l : List Nat) (n : Nat) : Option Nat := if l.contains st then some n else none
  if proto != 6 then fr [8, 6] 6
  else if flags.testBit 2 then some 5
  else if flags.testBit 0 then fr [2, 3, 4] 4
  else if flags.testBit 1 && flags.testBit 4 then fr [7, 2] 2
  else if flags.testBit 1 then fr [7, 1] 1
  else if st = 4 then some 4
  else fr [1, 2, 3] 3

/-! ## Edits and checksums (R265-R267) -/

/-- The incremental checksum update of RFC 1624 for one 16-bit word.  A UDP checksum that it makes 0 is written as 0 (R267; DESIGN
CHOICE, log 94). -/
def incr (old m m' : Nat) : Nat := 65535 - fold16 ((65535 - old) + (65535 - m) + m')

/-- Write bytes over a header, if they lie inside it. -/
def editAt (d : Bytes) (off : Nat) (w : Bytes) : Bytes := if off + w.length ≤ d.length then overlay d off w else d

/-- Fold the change of a field of whole 16-bit words into the checksum at `c`. -/
def sumFix (d : Bytes) (c : Nat) (old new : Bytes) : Bytes :=
  let n := old.length / 2
  let v := (List.range n).foldl (fun v i => incr v (be old (2 * i) 2) (be new (2 * i) 2)) (be d c 2)
  editAt d c (toBe 2 v)

/-- The offset of the checksum of a transport header, none when it has none that is updated. -/
def l4Sum (v6 : Bool) (proto q : Nat) (d : Bytes) : Option Nat :=
  if proto = 6 then some (q + 16)
  else if proto = 17 then (if !v6 && be d (q + 6) 2 = 0 then none else some (q + 6))
  else none

/-- Replace an even field and keep the checksums at the places given right. -/
def editSum (d : Bytes) (off : Nat) (w : Bytes) (sums : List Nat) : Bytes :=
  let old := slice d off w.length
  sums.foldl (fun d c => sumFix d c old w) (editAt d off w)

/-- The ICMP error messages, which carry an embedded header; hardware translates none (R266). -/
def icmpError (d : Bytes) (o q : Nat) (l4 : Bool) : Bool := l4 && ipProto d o false = 1 && [3, 4, 5, 11, 12].contains (u8 d q)

/-- NAT of an IPv4 frame (R266, R267). -/
def natEdit (d : Bytes) (o q : Nat) (l4 : Bool) (nat : Nat) (xaddr xport : Bytes) : Bytes :=
  let proto := ipProto d o false
  let tsum := if l4 then (l4Sum false proto q d).toList else []
  let d1 := editSum d (if nat = 1 then o + 12 else o + 16) xaddr ((o + 10) :: tsum)
  if !l4 then d1
  else if hasPorts proto then editSum d1 (if nat = 1 then q else q + 2) xport tsum
  else if isEcho false proto (u8 d q) then editSum d1 (q + 4) xport [q + 2]
  else d1

/-- TTL or hop limit at a header. -/
def ttlAt (o : Nat) (v6 : Bool) : Nat := if v6 then o + 7 else o + 8

/-- Decrement TTL or hop limit; the IPv4 header checksum follows. -/
def ttlEdit (d : Bytes) (o : Nat) (v6 : Bool) : Bytes :=
  let t := u8 d (ttlAt o v6)
  if v6 then editAt d (o + 7) (toLe 1 (t - 1))
  else editSum d (o + 8) (toLe 1 (t - 1) ++ slice d (o + 9) 1) [o + 10]

/-- Replace the DSCP bits. -/
def dscpEdit (d : Bytes) (o : Nat) (v6 : Bool) (dscp : Nat) : Bytes :=
  let w := be d o 2
  if v6 then editAt d o (toBe 2 (w / 4096 * 4096 + dscp * 64 + w % 64))
  else editSum d o (toBe 2 (w / 256 * 256 + dscp * 4 + w % 4)) [o + 10]

/-! ## The actions of a hit (R265) -/

/-- What becomes of a frame at the flow stage: it goes on, is dispatched for a reason to a hook, or is dropped in a
flow counter of its port code. -/
inductive HitEnd where
  | go
  | engine (reason hook : Nat)
  | drop (k : Nat)
  deriving DecidableEq, Repr

/-- Step 1 for an entry image: the new image, and whether the frame is invalid. -/
def trackStep (m prof : Bytes) (flags tick : Nat) : Bytes × Bool :=
  let st := entState m
  if (prFlags prof).testBit 4 && st != 0 then
    match ctMove st (entProto m) flags with
    | some n => (setStateSeen m n tick, false)
    | none => (setStateSeen m st tick, true)
  else (setStateSeen m st tick, false)

/-- STRIP of an action, none when its slot is absent (R269). -/
def stripOf (pres a : Bytes) (k : Nat) : Option Nat :=
  match acDecap a with
  | 0 => some 0
  | 1 => if hasSlot pres (k + 1) 1 then some (slotOf pres (k + 1) 1) else none
  | _ => if hasSlot pres (k + 1) 2 then some (slotOf pres (k + 1) 2) else none

/-- Step 8: the action's verdict group replaces the classifier's. -/
def takeAction (a r : Bytes) (flags index strip tc : Nat) : Bytes :=
  mkResult (flags % 2 ^ 24 + strip * 2 ^ 24) index (u8 a 9) (if (acFlags a).testBit 3 then u8 a 8 else tc) (u32 a 12)
    (u32 a 16) (resPtp r)

/-- Steps 6 to 8 once the edits are made: `m` is the entry's image after step 1. -/
def finishHit (f : PFrame) (a m : Bytes) (index k flags : Nat) (changed : Bool) (s : State) :
    HitEnd × PFrame × Bytes × State :=
  let p1 := if f.policer = 0xFFFFFFFF then (true, s) else judgePolicer f.policer f.len s
  if !p1.1 then (.drop 11, f, m, p1.2)
  else
    let p2 := if acPolicer a = 0xFFFFFFFF then (true, p1.2) else judgePolicer (acPolicer a) f.len p1.2
    if !p2.1 then (.drop 11, f, m, p2.2)
    else
      let m1 := countEntry m f.len
      match stripOf f.pres a k with
      | none => (.drop 7, f, m1, p2.2)
      | some strip =>
        let f1 := { f with result := takeAction a f.result flags index strip (resTc f.result), entry := index
                           policer := 0xFFFFFFFF }
        if acVerdict a = 2 then (.drop 12, f1, m1, p2.2)
        else if changed then
          (if acHook a = 0 then .drop 7 else .engine 7 (acHook a), f1, m1, p2.2)
        else if acVerdict a = 3 then (.engine 2 (acHook a), f1, m1, p2.2)
        else (.go, f1, m1, p2.2)

/-- The actions of R265 on a frame that hits an entry.  `f.policer` holds the classifier's POLICER_REF. The answer
gives the frame's end, the frame with its shadow record, the entry's image and the state. -/
def applyHit (f : PFrame) (prof m : Bytes) (index : Nat) (s : State) : HitEnd × PFrame × Bytes × State :=
  let a? := verVal s .action (entAction m) f.gen
  let k := flowLevel f.pres prof
  let v6 := l3Kind f.pres k = 1
  match a? with
  | none => (.drop 7, f, m, s)
  | some a =>
    if v6 && acNat a != 0 then (.drop 7, f, m, s)
    else
      let o := slotOf f.pres k 2
      let q := slotOf f.pres k 3
      let l4 := hasSlot f.pres k 3
      let t := tickNow s
      let r1 := trackStep m prof (u8 f.shadow (q + 13)) t.1
      let m1 := r1.1
      let fl := (resFlags f.result ||| 2 ^ 16) ||| (if r1.2 then 2 ^ 19 else 0)
      let f0 := { f with result := overlay f.result 0 (toLe 4 fl), entry := index }
      if r1.2 && prCtInvalid prof = 1 then (.drop 9, f0, m1, t.2)
      else if r1.2 && prCtInvalid prof = 2 then (.engine 6 (prCtHook prof), f0, m1, t.2)
      else if (acFlags a).testBit 1 && u8 f.shadow (ttlAt o v6) ≤ 1 then
        (if prTtlHook prof = 0 then .drop 10 else .engine 5 (prTtlHook prof), f0, m1, t.2)
      else
        let d1 := if (acFlags a).testBit 1 then ttlEdit f.shadow o v6 else f.shadow
        let nat := acNat a != 0 && !icmpError f.shadow o q l4
        let d2 := if !nat then d1 else natEdit d1 o q l4 (acNat a) (entXAddr m) (entXPort m)
        let d3 := if (acFlags a).testBit 2 then dscpEdit d2 o v6 (u8 a 7) else d2
        let fl1 := fl ||| (if nat then 2 ^ 18 else 0) ||| (if (acFlags a).testBit 1 then 2 ^ 20 else 0)
        let changed := acNat a != 0 && l4 && entProto m = 132 &&
          slice f.shadow q 4 != slice d3 q 4
        finishHit { f0 with shadow := d3 } a m1 index k fl1 changed t.2

end Sys2Proof.Machine
end

