-- ==== Sys2Proof/Machine/Flow.lean ====
section
/-! DEFINITION. The flow cache, lookups, claims, followers and misses (R263-R264, R271-R273). -/

namespace Sys2Proof.Machine

open Sys2Proof

/-! ## The cache (R264) -/

def nSets (s : State) : Nat := byBuild s 0x4000 0x4000 0x2000
def nWays (s : State) : Nat := byBuild s 4 2 2

def cacheSet (s : State) (key : Bytes) : List Way := s.flow.cache.getD (keyHash s key % nSets s) []

def setCache (key : Bytes) (l : List Way) (s : State) : State :=
  s.updFlow fun f => { f with cache := f.cache.set (keyHash s key % nSets s) l }

def cacheFind (s : State) (key : Bytes) : Option Way := (cacheSet s key).find? fun w => entKey w.image = key

/-- The cached way of a flow index. -/
def wayOf (s : State) (index : Nat) : Option Way := (s.flow.cache.vals.flatMap id).find? (·.index = index)

/-- Change every cached image of one flow index. -/
def updWay (index : Nat) (f : Way → Way) (s : State) : State :=
  s.updFlow fun x => { x with cache := x.cache.map fun p => (p.1, mapIf p.2 (·.index = index) f) }

def dropWay (index : Nat) (s : State) : State :=
  s.updFlow fun x => { x with cache := x.cache.map fun p => (p.1, p.2.filter (fun w => w.index != index)) }

/-- Where an entry lies in host memory (R259). -/
def entryAddr (s : State) (index : Nat) : Nat := bucketAddr s (index / 4) + 32 * (index % 4)

/-- Byte 0 of a bucket changes: the claims whose home it is hold what a write of OVERFLOW there is to keep. -/
def noteCtl (index ctl : Nat) (s : State) : State :=
  if index % 4 != 0 then s
  else s.updFlow fun f => { f with claims := f.claims.map fun p =>
    if p.2.ctl.isSome && homeBucket s p.2.key = index / 4 then (p.1, { p.2 with ctl := some ctl }) else p }

/-- Write an image back to its slot as one beat (R264). -/
def writeBackWay (w : Way) (s : State) : State :=
  let n := entLen w.image
  let a := entryAddr s w.index
  let s1 := bump cFlow 0 4 (noteCtl w.index (u8 w.image 0) s)
  if regionOk s1 a n then startXfer (.hitWrite w.index) true 0x201 a n (slice w.image 0 n) s1
  else bump cFlow 0 5 (lines (violation s1))

/-- While an entry to a low-power state runs, a dirty way is written back, one write at a time (R452). -/
def entryWash (index : Nat) (s : State) : State :=
  match wayOf s index with
  | some w =>
    if s.pwr.mode = .entering && w.dirty && !s.host.xfers.any (·.purp = .hitWrite index) then writeBackWay w s else s
  | none => s

/-- A claim holds a way. -/
def claimHolds (s : State) (index : Nat) : Bool := s.flow.claims.vals.any (·.index = index)

/-- The image that a flow operation has read of a slot is used no more, once the cache or a publish has another. -/
def forgetImgs (index : Nat) (s : State) : State :=
  s.updFlow fun f => { f with flops := mapIf f.flops (fun p => p.result = some (.exists_, index)) fun p => { p with img := none } }

/-- Put an entry into the cache: into a free way, or in place of the least recently hit way that no claim holds
(R264). -/
def cacheFill (index : Nat) (image : Bytes) (s0 : State) : State :=
  let s := forgetImgs index s0
  let key := entKey image
  let l := (cacheSet s key).filter fun w => w.index != index
  let w : Way := { index := index, image := image, used := s.flow.clock }
  let s1 := s.updFlow fun f => { f with clock := f.clock + 1 }
  if l.length < nWays s then setCache key (l ++ [w]) s1
  else
    let free := l.filter fun v => !claimHolds s v.index
    match free.foldl (fun b v => match b with | none => some v | some u => if v.used < u.used then some v else some u) none with
    | none => s1
    | some v =>
      let s2 := bump cFlow 0 3 (setCache key (l.filter (fun x => x.index != v.index) ++ [w]) s1)
      if v.dirty then writeBackWay v s2 else s2

/-- The image of a way after a hit. -/
def hitWay (index : Nat) (image : Bytes) (s : State) : State :=
  entryWash index ((updWay index (fun w => { w with image := image, dirty := true, used := s.flow.clock }) s).updFlow fun f =>
    { f with clock := f.clock + 1 })

/-! ## Frames that leave the stage -/

/-- The exit of the flow stage: the classifier's policer, unless step 6 of R265 has judged it (R401). -/
def exitFlow (f : PFrame) (s : State) : State :=
  let f1 := if f.reason = 0 then f else { f with result := overlay f.result 0 (toLe 4 (resFlags f.result ||| 8)) }
  if f.policer = 0xFFFFFFFF then leaveFlow f1 s
  else
    let r := judgePolicer f.policer f.len s
    if r.1 then leaveFlow { f1 with policer := 0xFFFFFFFF } r.2 else dropEarly f cFlowPort 11 r.2

/-- What becomes of a frame after the actions of a hit. -/
def afterHit (e : HitEnd) (f : PFrame) (s : State) : State :=
  match e with
  | .go => exitFlow { f with reason := 0, hook := 0 } s
  | .engine r h => exitFlow { f with reason := r, hook := h } s
  | .drop k => dropEarly f cFlowPort k s

/-- The flow profile of a frame, in its generation; a profile that is not present is all zero. -/
def profOf (s : State) (f : PFrame) : Bytes := (verVal s .profile (f.profile.getD 0 % 256) f.gen).getD (zeros 16)

/-- A frame hits a cached entry: the hit sets DIRTY, unless the entry's action is not valid in the frame's generation
(R264, R265). -/
def hitEntry (f : PFrame) (index : Nat) (image : Bytes) (s : State) : HitEnd × PFrame × State :=
  let r := applyHit f (profOf s f) image index s
  (r.1, r.2.1, if r.1 = .drop 7 && r.2.2.1 = image then r.2.2.2 else hitWay index r.2.2.1 r.2.2.2)

def takeHit (f : PFrame) (index : Nat) (image : Bytes) (s : State) : State :=
  let r := hitEntry f index image s
  afterHit r.1 r.2.1 r.2.2

def hitCached (f : PFrame) (w : Way) (s : State) : State := takeHit f w.index w.image s

/-! ## Reads of the table (R43, R263) -/

/-- A write to a bucket is outstanding. -/
def bucketBusy (s : State) (b : Nat) : Bool :=
  s.host.xfers.any fun x => match x.purp with | .hitWrite i => i / 4 = b | .overflow c => c = b | _ => false

/-- Start the read of a bucket: its transfer, none while a write to it is outstanding, or an error when it lies in
no region (R40). -/
def readBucket (p : Purp) (b : Nat) (s : State) : Except Unit (Option Nat) × State :=
  if bucketBusy s b then (.ok none, s)
  else if regionOk s (bucketAddr s b) 128 then
    (.ok (some (nextXfer s)), perf 1 2 (startXfer p false 0x201 (bucketAddr s b) 128 [] s))
  else (.error (), lines (violation s))

/-! ## Claims (R271) -/

def claimOn (s : State) (key : Bytes) : Option Claim := s.flow.claims.vals.find? (·.key = key)

/-- Make a claim on a slot; 1,024 claims may be held (R271). -/
def addClaim (key : Bytes) (index : Nat) (owner : Claimer) (ctl : Option Nat) (ovfl : Bool) (s : State) : Option Nat × State :=
  if s.flow.claims.length ≥ 1024 || claimHolds s index then (none, s)
  else (some index, s.updFlow fun f => { f with claims := f.claims.set index ⟨key, index, owner, ctl, ovfl⟩ })

/-- FLOW_TABLE_FULL, at most once per second (R281). -/
def tableFull (b : Nat) (s : State) : State :=
  let s1 := bump cFlow 0 2 s
  if recently s.flow.fullEvt (nowNs s) 1000000000 then s1
  else raise0 0x0681 noSubj (toLe 4 b) (s1.updFlow fun f => { f with fullEvt := some (nowNs s) })

/-- CLAIM_NEW with its buckets read: `b2` only when the home bucket has no free slot (R271). -/
def claimNewWith (key : Bytes) (owner : Claimer) (d1 : Bytes) (d2 : Option Bytes) (s : State) :
    Option (FlopRes × Nat) × State :=
  let b := homeBucket s key
  let v6 := u8 key 2 = 1
  let give (i : Nat) (s : State) : Option (FlopRes × Nat) × State :=
    let r := addClaim key i owner (some (u8 d1 0)) (bucketOverflow (if i / 4 = b then d1 else d2.getD [])) s
    match r.1 with
    | some c => (some (.granted, c), r.2)
    | none => (some (.busy, 0), s)
  match cacheFind s key, bucketFind d1 key with
  | some w, _ => (some (.exists_, w.index), s)
  | none, some x => (some (.exists_, 4 * b + x.1), s)
  | none, none =>
    match d2 with
    | some d =>
      match bucketFind d key with
      | some x => (some (.exists_, 4 * mirrorOf s b + x.1), s)
      | none =>
        match freeEntry s b d1 v6, freeEntry s (mirrorOf s b) d v6 with
        | some i, _ => give (4 * b + i) s
        | none, some i => give (4 * mirrorOf s b + i) s
        | none, none => (some (.full, 0), tableFull b s)
    | none =>
      if bucketOverflow d1 then (none, s)
      else
        match freeEntry s b d1 v6 with
        | some i => give (4 * b + i) s
        | none => (none, s)

/-! ## Lookups and misses (R263, R272, R273) -/

/-- Wait for the read of a bucket; a bucket in no region is an errored read.  At most 128 reads are outstanding. -/
def startLook (l : Look) (s : State) : Bool × State :=
  let r := if (s.flow.looks.filter (·.xfer.isSome)).length ≥ 128 then (.ok none, s) else readBucket .lookup l.bucket s
  match r.1 with
  | .ok x => (true, r.2.updFlow fun f => { f with looks := f.looks ++ [{ l with xfer := x }] })
  | .error _ => (false, r.2)

/-- A miss that may not learn, or whose learn is refused: the classifier's result stands. -/
def refuseLearn (f : PFrame) (s : State) : State := exitFlow f (bump cFlowPort f.port 4 s)

/-- An entry read from the table is hit: it fills the cache (R263). -/
def hitRead (f : PFrame) (index : Nat) (image : Bytes) (s : State) : State :=
  takeHit f index image (cacheFill index image (bump cFlowPort f.port 1 s))

/-- LEARN with the buckets in hand (R273). -/
def learnWith (f : PFrame) (key d1 : Bytes) (d2 : Option Bytes) (s : State) : State :=
  let prof := profOf s f
  if (claimOn s key).isSome then refuseLearn f s else
  let r := claimNewWith key (.frame f.h f.oseq) d1 d2 s
  match r.1 with
  | none =>
    let q := startLook { frame := f, key := key, b1 := some d1, bucket := mirrorOf s (homeBucket s key), learn := true } r.2
    if q.1 then q.2 else refuseLearn f q.2
  | some (.granted, c) =>
    leaveFlow { f with claim := some c, reason := 3, hook := prLearnHook prof
                       result := overlay f.result 0 (toLe 4 (resFlags f.result ||| 8)) } r.2
  | some (.exists_, i) =>
    let d := if i / 4 = homeBucket s key then d1 else d2.getD []
    match wayOf r.2 i, (bucketEntries d).find? (fun x => x.1 = i % 4) with
    | some w, _ => hitCached f w (bump cFlowPort f.port 1 r.2)
    | none, some x => hitRead f i x.2 r.2
    | none, none => refuseLearn f r.2
  | some _ => refuseLearn f r.2

/-- A miss (R273).  `d1` is the home bucket, none after an errored read. -/
def missFrame (f : PFrame) (key : Bytes) (d1 d2 : Option Bytes) (s : State) : State :=
  let prof := profOf s f
  let s1 := bump cFlowPort f.port 2 s
  match prMiss prof with
  | 0 => exitFlow f s1
  | 1 =>
    if s1.flow.claims.length ≥ 1024 then refuseLearn f s1
    else
      match d1 with
      | some d => learnWith f key d d2 s1
      | none =>
        let q := startLook { frame := f, key := key, bucket := homeBucket s1 key, learn := true } s1
        if q.1 then q.2 else refuseLearn f q.2
  | 2 => dropEarly f cFlowPort 8 s1
  | _ => exitFlow { f with reason := 4, hook := prLearnHook prof } s1

/-- Hold a follower, or let it go with the classifier's result when 4,096 are held (R272). -/
def holdFollower (f : PFrame) (key : Bytes) (s : State) : State :=
  if s.flow.followers.length ≥ 4096 then exitFlow f (bump cFlowPort f.port 5 s)
  else s.updFlow fun x => { x with followers := x.followers ++ [(f, key)] }

/-- Steps 1 to 3 of a lookup (R263). -/
def lookFrame (f : PFrame) (key : Bytes) (s : State) : State :=
  if (claimOn s key).isSome then holdFollower f key s
  else
    match cacheFind s key with
    | some w => hitCached f w (perf 1 1 (bump cFlowPort f.port 0 s))
    | none =>
      let q := startLook { frame := f, key := key, bucket := homeBucket s key } s
      if q.1 then q.2 else missFrame f key none none (bump cFlowPort f.port 6 q.2)

/-- FLOW_LOOKUP: the oldest frame that waits at the flow stage. -/
def flowLookup (s : State) : State :=
  match s.pipe.flowQ with
  | [] => s
  | f :: rest =>
    let s1 := s.updPipe fun p => { p with flowQ := rest }
    let d := f.shadow
    let prof := profOf s f
    if s.host.flow.size != 0 && eligible d f.pres prof then
      if s.flow.looks.length ≥ 128 && (claimOn s (lookupKey d f.pres prof)).isNone && (cacheFind s (lookupKey d f.pres prof)).isNone
      then s
      else lookFrame { f with look := true } (lookupKey d f.pres prof) s1
    else exitFlow f (bump cFlowPort f.port 3 s1)

/-- The mirror bucket belongs to a lookup in progress. -/
def nextRead (l : Look) (d1 : Bytes) (s : State) : State :=
  let q := startLook { l with b1 := some d1, bucket := mirrorOf s (homeBucket s l.key) } s
  if q.1 then q.2 else missFrame l.frame l.key (some d1) none (bump cFlowPort l.frame.port 6 q.2)

/-- Start the reads that waited, for a write to their bucket or for their turn. -/
def retryLooks (s : State) : State :=
  s.flow.looks.foldl (fun s l =>
    if l.xfer.isNone then
      let s1 := s.updFlow fun f => { f with looks := f.looks.erase l }
      let q := startLook l s1
      if q.1 then q.2 else missFrame l.frame l.key l.b1 none (bump cFlowPort l.frame.port 6 q.2)
    else s) s

/-- The read of a lookup has ended (R263): the claims and the cache are searched again before a miss. -/
def lookJudge (x : Xfer) (l : Look) (s : State) : State :=
  let d := x.data
  let onHome := l.b1.isNone
  if l.learn then
    if x.err then refuseLearn l.frame s
    else if onHome then learnWith l.frame l.key d none s
    else learnWith l.frame l.key (l.b1.getD []) (some d) s
  else if (claimOn s l.key).isSome then holdFollower l.frame l.key s
  else
    match cacheFind s l.key with
    | some w => hitCached l.frame w (perf 1 1 (bump cFlowPort l.frame.port 0 s))
    | none =>
      if x.err then missFrame l.frame l.key l.b1 none s
      else
        match bucketFind d l.key with
        | some e => hitRead l.frame (4 * l.bucket + e.1) e.2 s
        | none =>
          if onHome && bucketOverflow d then nextRead l d s
          else if onHome then missFrame l.frame l.key (some d) none s
          else missFrame l.frame l.key l.b1 (some d) s

/-- The read of a lookup has ended; an errored one is counted (R264). -/
def lookDone (x : Xfer) (s : State) : State :=
  match s.flow.looks.find? (·.xfer = some x.id) with
  | none => s
  | some l =>
    let s1 := s.updFlow fun f => { f with looks := f.looks.filter fun y => y.xfer != some x.id }
    retryLooks (lookJudge x l (if x.err then bump cFlowPort l.frame.port 6 s1 else s1))

/-! ## The end of a claim (R271, R272) -/

/-- Followers of a key are looked up again in arrival order. -/
def freeFollowers (key : Bytes) (s : State) : State :=
  let mine := s.flow.followers.filter fun x => x.2 = key
  let s1 := s.updFlow fun f => { f with followers := f.followers.filter fun x => x.2 != key }
  mine.foldl (fun s x => lookFrame x.1 key s) s1

def dropClaim (c : Claim) (s : State) : State := s.updFlow fun f => { f with claims := f.claims.erase c.index }

/-- A claim ends by PUBLISH or ABANDON, or is counted in CLAIMS_ABANDONED. -/
def endClaim (c : Claim) (count : Bool) (s : State) : State :=
  freeFollowers c.key (dropClaim c (if count then bump cFlow 0 6 s else s))

/-- The claims of a holder. -/
def claimsOf (s : State) (o : Claimer) : List Claim := s.flow.claims.vals.filter (·.owner = o)

/-- Every claim that a frame still holds at its commit or drop is abandoned, and a flow operation made for it gains none
(R271). -/
def abandonAll (o : Claimer) (s : State) : State :=
  (claimsOf s o).foldl (fun s c => endClaim c true s) (s.updFlow fun f => { f with flops := f.flops.filter (·.owner != o) })

/-- A valid image published in the mirror bucket sets OVERFLOW of the home bucket, and leaves the rest of slot 0 as it is (R259,
R271).  An entry claimed in the mirror bucket had set it when it was published there. -/
def setOverflow (c : Claim) (b : Nat) (s : State) : State :=
  match ((wayOf s (4 * b)).map fun w => u8 w.image 0).or c.ctl with
  | none => s
  | some old =>
    let ctl := old ||| 0x80
    let s0 := (noteCtl (4 * b) ctl s).updFlow fun f => { f with
      claims := mapIf f.claims (·.2.index = 4 * b) fun x => (x.1, { x.2 with ovfl := true }) }
    let s1 := updWay (4 * b) (fun w => { w with image := overlay w.image 0 (toLe 1 ctl) }) s0
    if regionOk s1 (bucketAddr s1 b) 1 then startXfer (.overflow b) true 0x201 (bucketAddr s1 b) 1 (toLe 1 ctl) s1
    else bump cFlow 0 5 (lines (violation s1))

/-- An image as it is written and cached: slot 0 keeps its bucket's OVERFLOW (R259, R275). -/
def keepOver (c : Claim) (image : Bytes) : Bytes :=
  if c.index % 4 = 0 && c.ovfl then overlay image 0 (toLe 1 (u8 image 0 ||| 0x80)) else image

/-- A publish makes what the aging scan has read of the bucket stale: it is read again (R275). -/
def freshView (b : Nat) (s : State) : State :=
  let reads := s.host.xfers.any fun x => x.purp = .svcRead 17 && !x.gone && x.addr = bucketAddr s b
  s.updFlow fun f => { f with looking := f.looking.map fun c =>
    { c with view := c.view.filter (·.b != b), stale := if reads then b :: c.stale else c.stale } }

/-- PUBLISH (R271). -/
def publishClaim (o : Claimer) (id : Nat) (image : Bytes) (s : State) : (FlopRes × Nat) × State :=
  match s.flow.claims.get? id with
  | none => ((.notFound, id), s)
  | some c =>
    if c.owner != o then ((.notFound, id), s)
    else if entValid image && entKey image != c.key then ((.mismatch, id), s)
    else
      let m := keepOver c image
      let s1 := freshView (c.index / 4) (forgetImgs c.index (noteCtl c.index (u8 m 0) (perf 1 6 (bump cFlow 0 0 s))))
      if entValid image then
        let b := homeBucket s1 c.key
        let s2 := cacheFill c.index (slice m 0 (entLen image)) (dropWay c.index s1)
        let s3 := if c.index / 4 = b then s2 else setOverflow c b s2
        ((.ok, id), endClaim c false s3)
      else ((.ok, id), endClaim c false (dropWay c.index s1))

/-- ABANDON (R271). -/
def abandonClaim (o : Claimer) (id : Nat) (s : State) : (FlopRes × Nat) × State :=
  match s.flow.claims.get? id with
  | none => ((.notFound, id), s)
  | some c => if c.owner != o then ((.notFound, id), s) else ((.ok, id), endClaim c false s)

/-! ## Flow operations in progress (R271) -/

def setFlop (b : FlopBy) (f : Flop → Flop) (s : State) : State :=
  s.updFlow fun x => { x with flops := x.flops.map fun p => if p.by_ = b then f p else p }

def flopOf (s : State) (b : FlopBy) : Option Flop := s.flow.flops.find? (·.by_ = b)

def flopEnd (b : FlopBy) (r : FlopRes × Nat) (s : State) : State := setFlop b (fun p => { p with result := some r, xfer := none }) s

/-- The port code that a table read of a flow operation is counted at: the frame's, or the engine's that runs the table service
(DESIGN CHOICE, log 72). -/
def flopPort (s : State) (p : Flop) : Nat :=
  match p.owner with
  | .frame h _ => ((getBuf s h).map fun b => recPort b.record).getD 0xFFF
  | .svc => 0xE0 + (serviceEngine s).getD 0

/-- Read a bucket for a flow operation; one in no region is an errored read. -/
def flopRead (p : Flop) (b : Nat) (s : State) : State :=
  let r := readBucket .flopRead b s
  match r.1 with
  | .ok x => setFlop p.by_ (fun q => { q with bucket := b, xfer := x, b1 := p.b1 }) r.2
  | .error _ => flopEnd p.by_ (.error, 0) (bump cFlowPort (flopPort s p) 6 r.2)

/-- CLAIM_NEW begins: what the claims held decide, else the read of the home bucket. -/
def startClaimNew (p : Flop) (s : State) : State :=
  let s1 := s.updFlow fun x => { x with flops := x.flops ++ [p] }
  match claimOn s p.key with
  | some c => flopEnd p.by_ (if c.owner = p.owner then (.resumed, c.index) else (.busy, 0)) s1
  | none =>
    if s.flow.claims.length ≥ 1024 then flopEnd p.by_ (.busy, 0) s1
    else
      match cacheFind s p.key with
      | some w => flopEnd p.by_ (.exists_, w.index) s1
      | none => flopRead p (homeBucket s p.key) s1

/-- A live LAST_SEEN is newer than the one expected (R271). -/
def newerSeen (expect : Option Nat) (m : Bytes) : Bool :=
  match expect with
  | some e => 0 < sext 12 (entSeen m + 4096 - e)
  | none => false

/-- Grant a claim on an entry whose image is known. -/
def grantEntry (p : Flop) (m : Bytes) (s : State) : State :=
  let r := addClaim (entKey m) p.index p.owner none (p.index % 4 = 0 && bucketOverflow m) s
  match r.1 with
  | some c => setFlop p.by_ (fun q => { q with img := some m }) (flopEnd p.by_ (.granted, c) r.2)
  | none => flopEnd p.by_ (.busy, 0) s

/-- CLAIM_ENTRY of a cached entry: it is evicted, and written back if dirty; the grant awaits the write response (R271). -/
def claimCached (p : Flop) (w : Way) (s : State) : State :=
  if newerSeen p.expect w.image then flopEnd p.by_ (.stale, 0) s
  else
    let s1 := bump cFlow 0 3 (dropWay p.index s)
    if !w.dirty then grantEntry p w.image s1
    else if regionOk s1 (entryAddr s1 p.index) (entLen w.image) then
      setFlop p.by_ (fun q => { q with img := some w.image, xfer := some (nextXfer s1) }) (writeBackWay w s1)
    else flopEnd p.by_ (.error, 0) (writeBackWay w s1)

/-- CLAIM_ENTRY begins. -/
def startClaimEntry (p : Flop) (s : State) : State :=
  let s1 := s.updFlow fun x => { x with flops := x.flops ++ [p] }
  if s.flow.claims.length ≥ 1024 || claimHolds s p.index then flopEnd p.by_ (.busy, 0) s1
  else
    match wayOf s p.index with
    | some w => claimCached p w s1
    | none => flopRead p (p.index / 4) s1

/-- The read or write-back of a flow operation has ended; an errored read is counted (R264), and the cache is searched again
before the bytes read are used (R263). -/
def flopDone (x : Xfer) (s : State) : State :=
  match s.flow.flops.find? (·.xfer = some x.id) with
  | none => s
  | some p =>
    if x.err then flopEnd p.by_ (.error, 0) (if x.write then s else bump cFlowPort (flopPort s p) 6 s)
    else if p.entry then
      match p.img with
      | some m => if (claimOn s (entKey m)).isSome then flopEnd p.by_ (.busy, 0) s else grantEntry p m s
      | none =>
        match wayOf s p.index, (bucketEntries x.data).find? (fun y => y.1 = p.index % 4) with
        | some w, _ => if (claimOn s (entKey w.image)).isSome then flopEnd p.by_ (.busy, 0) s else claimCached p w s
        | none, none => flopEnd p.by_ (.notFound, 0) s
        | none, some y =>
          if newerSeen p.expect y.2 then flopEnd p.by_ (.stale, 0) s
          else if (claimOn s (entKey y.2)).isSome then flopEnd p.by_ (.busy, 0) s
          else grantEntry p y.2 s
    else
      match claimOn s p.key with
      | some c => flopEnd p.by_ (if c.owner = p.owner then (.resumed, c.index) else (.busy, 0)) s
      | none =>
        let d1 := p.b1.getD x.data
        let r := claimNewWith p.key p.owner d1 (if p.b1.isSome then some x.data else none) s
        match r.1 with
        | some y =>
          let m := ((d1 :: (if p.b1.isSome then [x.data] else [])).findSome? (bucketFind · p.key)).map (·.2)
          setFlop p.by_ (fun q => { q with img := if y.1 = .exists_ then m else none }) (flopEnd p.by_ y r.2)
        | none => flopRead { p with b1 := some d1 } (mirrorOf s (homeBucket s p.key)) r.2

/-- Start the reads of flow operations that waited for a write to their bucket. -/
def retryFlops (s : State) : State :=
  s.flow.flops.foldl (fun s p => if p.xfer.isNone && p.result.isNone then flopRead p p.bucket s else s) s

/-- A way is clean once its image has been written, or its write-back has failed (R264). -/
def washed (x : Xfer) (s : State) : State :=
  match x.purp with
  | .hitWrite index =>
    entryWash index (updWay index (fun w =>
      if x.err || slice w.image 0 x.data.length = x.data then { w with dirty := false } else w) s)
  | _ => s

/-- A write to the table has ended: an errored write-back is counted, and what waited goes on (R264).  Its transfer is
no longer among those of the host port. -/
def tableWriteDone (x : Xfer) (s : State) : State :=
  let s1 := if x.err then bump cFlow 0 5 s else s
  retryFlops (retryLooks (washed x s1))

end Sys2Proof.Machine
end

