-- ==== Sys2Proof/Machine/Rss.lean ====
section
/-! DEFINITION. The receive hash, the filters and the checksum checks of a host channel (R337-R343). -/

namespace Sys2Proof.Machine

open Sys2Proof

/-- Skip up to `n` tags: the offset of the EtherType. -/
def skipTags (d : Bytes) : Nat → Nat → Nat
  | 0, o => o
  | n + 1, o => if be d o 2 = 0x8100 || be d o 2 = 0x88A8 then skipTags d n (o + 4) else o

/-- The header chain that R338 recognises: the offset of the IP header and whether it is IPv6. -/
def ipHeader (d : Bytes) : Option (Nat × Bool) :=
  let o := skipTags d 2 12
  let t := be d o 2
  if t = 0x0800 && u8 d (o + 2) % 16 ≥ 5 && o + 22 ≤ d.length then some (o + 2, false)
  else if t = 0x86DD && o + 42 ≤ d.length then some (o + 2, true)
  else none

/-- The offset of a TCP or UDP header behind an IP header, and its protocol. -/
def l4Header (d : Bytes) (o : Nat) (v6 : Bool) : Option (Nat × Nat) :=
  let proto := if v6 then u8 d (o + 6) else u8 d (o + 9)
  let q := if v6 then o + 40 else o + 4 * (u8 d o % 16)
  if (proto = 6 || proto = 17) && (v6 || be d (o + 6) 2 &&& 0x3FFF = 0) && q + 4 ≤ d.length then some (q, proto) else none

/-- The bits of bytes, the most significant bit of the first byte first. -/
def bitsOf (b : Bytes) : List Bool := b.flatMap fun x => [7, 6, 5, 4, 3, 2, 1, 0].map fun i => x.toNat.testBit i

/-- The Toeplitz hash of input bits under a key, as the 40 bytes' number shifts out bit by bit (R338). -/
def toeplitz (key : Nat) (input : List Bool) : Nat :=
  (input.foldl (fun (a : Nat × Nat) b =>
    (if b then a.1 ^^^ (a.2 / 2 ^ 288) else a.1, a.2 * 2 % 2 ^ 320)) (0, key)).1

/-- The hash input of a frame under HASH_TYPES, none when no enabled type is recognised. -/
def hashInput (types : Nat) (d : Bytes) : Option Bytes :=
  match ipHeader d with
  | none => none
  | some (o, v6) =>
    let ab := if v6 then 2 else 0
    if !types.testBit ab then none
    else
      let addrs := if v6 then slice d (o + 8) 32 else slice d (o + 12) 8
      match (if types.testBit (ab + 1) then l4Header d o v6 else none) with
      | some (q, _) => some (addrs ++ slice d q 4)
      | none => some addrs

/-- h and HASHED (R338). -/
def rxHash (c : Ch) (d : Bytes) : Nat × Bool :=
  match hashInput c.hashTypes d with
  | none => (0, false)
  | some i => (toeplitz (be c.key 0 40) (bitsOf i), true)

def chSpread (c : Ch) : Bool := c.flags.testBit 4
def chAddrFilter (c : Ch) : Bool := c.flags.testBit 1
def chVlanFilter (c : Ch) : Bool := c.flags.testBit 2
def chAllMcast (c : Ch) : Bool := c.flags.testBit 3
def chKeepFcs (c : Ch) : Bool := c.flags.testBit 0

/-- The filters of R339. -/
def filtersPass (c : Ch) (d : Bytes) : Bool :=
  let a := slice d 0 6
  let group := (u8 d 0).testBit 0
  let k := crc32 a % 256
  let addrOk := !chAddrFilter c || c.addrs.contains a || (group && (chAllMcast c || (u8 c.mcast (k / 8)).testBit (k % 8)))
  let vid := if be d 12 2 = 0x8100 || be d 12 2 = 0x88A8 then be d 14 2 % 4096 else 0
  addrOk && (!chVlanFilter c || (u8 c.vlan (vid / 8)).testBit (vid % 8))

/-- A TCP or UDP checksum over its pseudo-header verifies (R343). -/
def l4Verifies (d : Bytes) (o q proto : Nat) (v6 : Bool) : Bool :=
  let fin := if v6 then o + 40 + be d (o + 4) 2 else o + be d (o + 2) 2
  let seg := slice d q (fin - q)
  let pseudo := (if v6 then slice d (o + 8) 32 else slice d (o + 12) 8) ++ toBe 4 (fin - q) ++ toBe 4 proto
  (proto = 17 && !v6 && be d (q + 6) 2 = 0) || (fin ≤ d.length && q ≤ fin && fold16 (onesSum (pseudo ++ seg)) = 65535)

/-- The checksum flags of a completion: CSUM_CHECKED, L3_OK, L4_OK (R343). -/
def csumFlags (d : Bytes) : Nat :=
  match ipHeader d with
  | none => 0
  | some (o, v6) =>
    let n := if v6 then 40 else 4 * (u8 d o % 16)
    if o + n > d.length then 0
    else
      let l3 := v6 || fold16 (onesSum (slice d o n)) = 65535
      let l4 := match l4Header d o v6 with
        | some (q, proto) => l4Verifies d o q proto v6
        | none => false
      2 + 4 * b2n l3 + 8 * b2n l4

end Sys2Proof.Machine
end

