-- ==== Sys2Proof/Machine/Release.lean ====
section
/-! DEFINITION. Result commit, release and the enqueue on the destinations (R30, R211, R212, R295). -/

namespace Sys2Proof.Machine

open Sys2Proof

/-! ## Destinations (R210, R240) -/

/-- The queue that an OWNER_ID names, for a frame of an ingress port code. -/
def queueOf (s : State) (id ingress : Nat) : Option QKey :=
  let p := id / 65536
  let q := id % 65536
  if p < 4 then (if p < nPorts s && q < 8 then some (.wire p q (subQueue ingress)) else none)
  else if 0xE0 ≤ p && p < 0xE8 then (if p - 0xE0 < nEngines s && q = 0 then some (.eng (p - 0xE0)) else none)
  else if p = 0xF0 then (if q = 0 then some .onyx else none)
  else if p = 0x100 then (if q / 4 < nStations s then some (.sta (q / 4) (q % 4)) else none)
  else if 0x200 ≤ p && p < 0x400 then (if p - 0x200 < nChannels s && q < 8 then some (.ring (p - 0x200) q) else none)
  else none

/-- Where a drop at a destination is counted: a group, an identifier and a place, up to twice. -/
abbrev DropAt := List (Nat × Nat × Nat)

def countAt (l : DropAt) (s : State) : State := l.foldl (fun s c => bump c.1 c.2.1 c.2.2 s) s

/-- A receive drop of a channel: per channel and per ingress port code (R352). -/
def chDropAt (c k ingress : Nat) : DropAt := [(0x80, c, 11 + k), (0x81, ingress, k)]

/-- The drops before owners are created: the state of the destination's unit, and the filters (R303, R322, R339,
R355). -/
def beforeOwners (s : State) (k : QKey) (d : Bytes) (ingress : Nat) : Option DropAt :=
  match k with
  | .wire _ _ _ => none
  | .ring c r =>
    let x := getCh s c
    if x.state != .enabled || (x.rx.getD r {}).mode = 0 then some (chDropAt c 7 ingress)
    else if filtersPass x d then none else some (chDropAt c 6 ingress)
  | .sta st _ =>
    if (getSta s st).state = .active then none else some [(cSta, st, 11), (cStaPort, ingress, 4)]
  | .eng e => if (getEng s e).mode = .active || (getEng s e).mode = .draining then none else some [(cEngPort, ingress, 5)]
  | .onyx => none

/-- A core of the Onyx pair runs firmware that serves the input queue (R304, R486). -/
def onyxServes (s : State) : Bool := s.sys.fw && !domainAbsent s 17

/-- The drops at enqueue (R148, R149, R168, R303, R304, R341, R380, R394). -/
def atEnqueue (s : State) (k : QKey) (ingress : Nat) : Option DropAt :=
  match k with
  | .wire p tc _ =>
    let x := getPort s p
    if (!x.link && x.holdOver) || txHeld (getLane s p) then some [(0x30, p, 23)]
    else if classDepth s p tc ≥ (getWire s p).qlimit.getD tc 4096 then some [(0xA0, p, 3 * tc + 1), (0xA1, ingress, 0)]
    else none
  | .ring c r =>
    if (getQ s k).length ≥ ((getCh s c).rx.getD r {}).qlimit then some (chDropAt c 4 ingress) else none
  | .sta st a =>
    if (getQ s k).length ≥ (getSta s st).qlimit.getD a 0 then some [(cSta, st, 9), (cStaPort, ingress, 2)] else none
  | .eng _ => if (getQ s k).length ≥ 256 then some [(cEngPort, ingress, 4)] else none
  | .onyx =>
    if (getQ s k).length ≥ 256 then some (if onyxServes s then [(cEngPort, ingress, 7)] else [(cResPort, ingress, 0)])
    else none

/-- A frame leaves its LPI request behind when it is enqueued on a port that asked for LPI (R179). -/
def pushQueue (k : QKey) (e : QE) (s : State) : State :=
  match k with
  | .wire p tc sq => endLpi p (pushWire p tc sq e (bump 0xA0 p (3 * tc) s))
  | .ring c r => pushRing c r e s
  | .sta st a => pushSta st a e s
  | _ => pushQ k e s

/-- The entry of a frame on a channel's ring carries what the channel's settings of this moment make of it (R338, R351). -/
def markEntry (s : State) (k : QKey) (e : QE) : QE :=
  match k with
  | .ring c _ =>
    let h := rxHash (getCh s c) (((getBuf s e.h).map (·.data)).getD [])
    { e with hash := h.1, hashed := h.2, fcs := chKeepFcs (getCh s c) }
  | _ => e

/-- Enqueue one owner of a buffer on its queue, or drop it there. -/
def enqueueOne (h oseq ingress : Nat) (wake : Bool) (d : QKey × Nat) (s : State) : State :=
  match atEnqueue s d.1 ingress with
  | some l => releaseOwner h d.1.owner (countAt l s)
  | none => pushQueue d.1 (markEntry s d.1 { h := h, oseq := oseq, rewrite := d.2, time := nowNs s, wake := wake }) s

/-- The ring that a destination names after SPREAD (R337). -/
def spreadRing (s : State) (k : QKey) (d : Bytes) : QKey :=
  match k with
  | .ring c 0 => if chSpread (getCh s c) then .ring c (u8 (getCh s c).indir ((rxHash (getCh s c) d).1 % 128) % 8) else k
  | _ => k

/-- Give a frame its destination owners and enqueue it (R211, R212).  The frame is dropped when it has none. -/
def giveOwners (h oseq ingress : Nat) (wake : Bool) (dests : List (QKey × Nat)) (s : State) : State :=
  match dests with
  | [] => releaseOwner h ownPipeline s
  | [d] => enqueueOne h oseq ingress wake d (updBuf h (fun b => { b with owner := d.1.owner }) s)
  | d :: rest =>
    if s.store.table.length ≥ 16384 then
      enqueueOne h oseq ingress wake d
        (updBuf h (fun b => { b with owner := d.1.owner }) (bumpN cPoolPort ingress 1 rest.length s))
    else
      let sig := dests.foldl (fun a x => a ^^^ ownerSig x.1.owner) 0
      let s1 := updBuf h (fun b => { b with owner := 0xFFFFFFFF }) s
      let s2 := s1.updStore fun t => { t with table := t.table.set h { count := dests.length, sig := sig } }
      dests.foldl (fun s x => enqueueOne h oseq ingress wake x s) s2

/-- The destinations that a result names, in order, in the frame's generation (R240, R244). -/
def resultDests (s : State) (r : Bytes) (gen : Nat) : List (Nat × Nat) :=
  match resKind r with
  | 1 => [(resDest r, resRewrite r)]
  | 2 =>
    match verVal s .mcast (resDest r) gen with
    | some v => (List.range ((v.length - 8) / 8)).map fun i => (u32 v (8 + 8 * i), u32 v (12 + 8 * i))
    | none => []
  | _ => []

/-- Judge the destinations of a committed frame, count those dropped before owners are created, and enqueue the
others. -/
def dispose (h oseq ingress gen : Nat) (wake : Bool) (data r : Bytes) (s : State) : State :=
  let l := (resultDests s r gen).filterMap fun d => (queueOf s d.1 ingress).map fun k => (spreadRing s k data, d.2)
  let bad := l.filterMap fun d => beforeOwners s d.1 data ingress
  let good := l.filter fun d => (beforeOwners s d.1 data ingress).isNone
  giveOwners h oseq ingress wake good (bad.foldl (fun s x => countAt x s) s)

/-! ## Result commit (R30, R292) -/

/-- The committed record: the ingress part with the new stored length, and the result part. -/
def commitRecord (r : Bytes) (len : Nat) (result : Bytes) : Bytes :=
  overlay (overlay r 4 (toLe 2 len)) 32 (slice result 0 32)

/-- The committed bytes: the header shadow replaces the first bytes (R292). -/
def commitData (f : PFrame) (d : Bytes) : Bytes := slice f.shadow 0 f.hdrNew ++ d.drop f.hdrOld

/-- The egress rewrite entry a result names is not present in the frame's generation (R296). -/
def rewriteGone (s : State) (f : PFrame) : Bool :=
  resRewrite f.result != 0xFFFFFFFF && (verVal s .rewrite (resRewrite f.result) f.gen).isNone

/-- The multicast group a result names is not held by the frame's generation.  The manual names no counter for such a frame:
it is counted as one with a reference that is not present (R35, R296, log 73). -/
def groupGone (s : State) (f : PFrame) : Bool :=
  resKind f.result = 2 && (verVal s .mcast (resDest f.result) f.gen).isNone

/-- A reference of the result is not present in the frame's generation: the frame is dropped in FLOW_STALE_DROPS. -/
def staleRef (s : State) (f : PFrame) : Bool := rewriteGone s f || groupGone s f

/-- Commit a frame that the reorder stage has pinned and read (R205, R214), and enqueue it. -/
def commitFrame (f : PFrame) (x : Option Xfer) (s0 : State) : State :=
  let s := unpinBuf f.h s0
  if f.bad || !readGood s f.h f.oseq x then releaseOwner f.h ownPipeline (checkFail f.h f.oseq (readKind 1 x) 0xFFF s)
  else if staleRef s f then releaseOwner f.h ownPipeline (bump cFlowPort f.port 7 s)
  else
    let d := commitData f (readData s f.h x)
    let r := commitRecord (readRecord s f.h x) d.length f.result
    dispose f.h f.oseq f.port f.gen f.wake d f.result (writeBuf f.h r d s)

/-- Staged sends enter behind the frame that held them (R302). -/
def enterStaged (f : PFrame) (s : State) : State := s.updPipe fun p => { p with wait := p.wait ++ f.staged }

/-- The reorder entries that may be released now: each is its port code's next, and waits for nothing (R295). -/
def releasable (s : State) (e : ReEnt) : Bool :=
  e.frame.seq = nextSeq s e.frame.port &&
    (match e.state with
     | .ready => true
     | .drop _ _ => true
     | _ => false)

/-- A frame leaves the reorder window: what `f` makes of the state between its entry's end and its successors' turn. -/
def leaveWindow (i : Nat) (e : ReEnt) (f : State → State) (s : State) : State :=
  let s1 := perf 2 1 (s.updPipe fun p => { p with slots := p.slots.erase i })
  let s2 := enterStaged e.frame (abandonAll (.frame e.frame.h e.frame.oseq) (f s1))
  let s3 := passSeq e.frame.port s2
  pumpOut (s3.pipe.out.length + 1) s3

/-- The frame of a reorder entry ends without a commit: it is to be dropped, or its generation is RETIRING (R250). -/
def dropReleased (e : ReEnt) (s : State) : State :=
  let f := e.frame
  match e.state with
  | .drop g k => releaseOwner f.h ownPipeline (bump g f.port k s)
  | _ => releaseOwner f.h ownPipeline (bump 0x50 f.port 11 s)

/-- The frame of a reorder entry is committed. -/
def commits (s : State) (e : ReEnt) : Bool := e.state = .ready && !isRetiring s e.frame.gen

/-- RELEASE: one frame (R295), the one of the lowest entry that waits for no read (log 5). -/
def releaseNext (s : State) : State :=
  match s.pipe.slots.find? (fun x => releasable s x.2 && !reading s .commit x.2.frame.h) with
  | none => s
  | some (i, e) =>
    let f := e.frame
    if commits s e then
      let r := fetchPinned .commit f.h s
      match r.1 with
      | none => r.2
      | some x => leaveWindow i e (fun s => commitFrame f x (if f.reason = 0 then s else unpinBuf f.h s)) r.2
    else leaveWindow i e (dropReleased e) (forgetRead .commit f.h s)

def execRelease (s : State) : Out := .next (clocked s (releaseNext s))
def execFlowLookup (s : State) : Out := .next (clocked s (flowLookup s))

end Sys2Proof.Machine
end

