-- ==== Sys2Proof/Machine/CmdTable.lean ====
section
/-! DEFINITION. The commands of the Gelvor Host Interface: length, marks, where accepted, reserved bytes and bits. -/

namespace Sys2Proof.Machine

open Sys2Proof

/-- What a command's table says of its payload's length: fixed, a range, or a count of items after a head:
`counted head item off width lo hi`, the count being the field of `width` bytes at `off`; `parts` is CH_FILTER_SET's, by PART. -/
inductive LenRule where
  | fixed (n : Nat)
  | range (lo hi : Nat)
  | counted (head item off width lo hi : Nat)
  | parts
  deriving DecidableEq, Repr

/-- Where a command is accepted: on every granted mailbox, on MB0 only, or on MB0 and mailboxes of agent 0. -/
inductive Where where
  | any | mb0 | agent0
  deriving DecidableEq, Repr

structure CmdSpec where
  code   : Nat
  len    : LenRule
  staged : Bool := false
  place  : Where := .any
  rsvB   : List (Nat × Nat) := []
  rsvBit : List (Nat × Nat) := []
  deriving DecidableEq, Repr

/-- Unit 0x01, system (R117, R509, R510). -/
def cmdsSys : List CmdSpec :=
  [ { code := 0x0100, len := .fixed 0 },
    { code := 0x0101, len := .fixed 24, rsvB := [(3, 5)] },
    { code := 0x0102, len := .fixed 0 },
    { code := 0x0103, len := .fixed 8, rsvB := [(4, 4)] },
    { code := 0x0104, len := .fixed 8, rsvB := [(2, 2)] },
    { code := 0x0105, len := .fixed 32, rsvB := [(28, 4)], rsvBit := [(12, 0xFC), (13, 0xFF), (14, 0xFF), (15, 0xFF)] },
    { code := 0x0106, len := .fixed 4, rsvB := [(2, 2)], rsvBit := [(0, 1)] },
    { code := 0x0107, len := .fixed 4, place := .mb0, rsvBit := [(2, 1)] },
    { code := 0x0108, len := .fixed 12, place := .mb0, rsvB := [(2, 2)] },
    { code := 0x0109, len := .fixed 0, place := .mb0 },
    { code := 0x010A, len := .fixed 0, place := .mb0 },
    { code := 0x010B, len := .fixed 8, place := .agent0, rsvB := [(4, 4)] } ]

/-- Unit 0x05, classifier (R252 and the commands after it). -/
def cmdsCls : List CmdSpec :=
  [ { code := 0x0501, len := .fixed 88, staged := true,
      rsvB := [(13, 1), (19, 1), (25, 1), (31, 1), (37, 1), (43, 1), (49, 1), (55, 1), (61, 1), (67, 1), (84, 4)],
      rsvBit := [(1, 0xC0), (71, 0xE0), (75, 0xE0), (79, 0xE0), (83, 0xE0)] },
    { code := 0x0502, len := .fixed 12, staged := true, rsvB := [(9, 3)],
      rsvBit := (List.range 9).map fun i => (i, 0x40) },
    { code := 0x0503, len := .fixed 12, staged := true, rsvB := [(7, 1)] },
    { code := 0x0504, len := .fixed 176, staged := true, rsvB := [(1, 1), (8, 8), (149, 3), (165, 3), (172, 4)],
      rsvBit := [(145, 0xF0), (162, 0xE0), (163, 0xFF)] },
    { code := 0x0505, len := .fixed 8, staged := true, rsvB := [(1, 3)] },
    { code := 0x0506, len := .counted 8 8 2 2 8 2056, staged := true, rsvB := [(4, 4)] },
    { code := 0x0507, len := .fixed 36, staged := true, rsvB := [(1, 3), (9, 3), (25, 3), (32, 4)],
      rsvBit := [(5, 0xF0), (22, 0xE0), (23, 0xFF)] },
    { code := 0x0508, len := .fixed 8, staged := true, rsvB := [(2, 2)] },
    { code := 0x0509, len := .fixed 0 },
    { code := 0x050A, len := .fixed 4, rsvB := [(2, 2)] },
    { code := 0x050B, len := .fixed 12, rsvB := [(1, 1), (9, 3)] },
    { code := 0x050C, len := .fixed 4, rsvB := [(3, 1)], rsvBit := [(1, 0xF0)] } ]

/-- Unit 0x0B, time (R432). -/
def cmdsTime : List CmdSpec :=
  [ { code := 0x0B01, len := .fixed 24, rsvB := [(2, 6)] },
    { code := 0x0B02, len := .fixed 8, rsvB := [(1, 3)] },
    { code := 0x0B03, len := .fixed 4, rsvB := [(1, 3)] },
    { code := 0x0B04, len := .fixed 8, rsvB := [(6, 2)] },
    { code := 0x0B05, len := .fixed 16, rsvB := [(5, 3), (10, 2)] },
    { code := 0x0B06, len := .fixed 48, rsvB := [(28, 4), (38, 10)], rsvBit := [(2, 0xF8), (27, 0xC0)] },
    { code := 0x0B07, len := .fixed 4, rsvB := [(1, 3)] },
    { code := 0x0B08, len := .fixed 4, rsvB := [(2, 2)] },
    { code := 0x0B09, len := .fixed 0 },
    { code := 0x0B0A, len := .fixed 4 } ]

/-- Unit 0x0D, power (R466). -/
def cmdsPwr : List CmdSpec :=
  [ { code := 0x0D01, len := .fixed 8, place := .agent0, rsvB := [(2, 6)], rsvBit := [(1, 0xFE)] },
    { code := 0x0D02, len := .fixed 32, place := .agent0, rsvB := [(3, 1), (28, 4)],
      rsvBit := [(0, 0xF0), (1, 0xF0), (2, 0xF0)] },
    { code := 0x0D03, len := .fixed 136, place := .agent0, rsvB := [(2, 6)], rsvBit := [(1, 0xF0)] },
    { code := 0x0D04, len := .fixed 0, place := .agent0 },
    { code := 0x0D05, len := .fixed 4, place := .agent0 } ]

/-- Unit 0x02, wire ports (R192). -/
def cmdsPort : List CmdSpec :=
  [ { code := 0x0201, len := .fixed 16, staged := true, rsvB := [(2, 2)],
      rsvBit := [(1, 0xF8), (4, 0xC0), (5, 0xFF), (7, 0xC0), (8, 0xF0), (10, 0xFF), (11, 0xFF), (12, 0xE0), (14, 0x80), (15, 0xFF)] },
    { code := 0x0202, len := .fixed 64, staged := true, rsvB := [(2, 2), (7, 1), (15, 1), (42, 22)] },
    { code := 0x0203, len := .counted 32 8 2 2 32 2080, staged := true, rsvB := [(4, 4), (14, 2), (28, 4)] },
    { code := 0x0204, len := .fixed 4, rsvB := [(1, 3)] },
    { code := 0x0205, len := .fixed 4, rsvB := [(2, 2)] } ]

/-- Unit 0x03, lanes (R159). -/
def cmdsLane : List CmdSpec :=
  [ { code := 0x0301, len := .fixed 32, staged := true, rsvB := [(1, 1)],
      rsvBit := [(2, 0xC0), (3, 0xFF), (4, 0x80), (5, 0xF8), (6, 0xFF), (7, 0xFF), (8, 0xF0), (9, 0xC0), (10, 0xE0),
                 (11, 0xE0), (12, 0xF0), (13, 0xFE), (14, 0xFF), (15, 0xFF), (16, 0xFC), (17, 0xC0), (19, 0xC0),
                 (25, 0xFE), (28, 0xFC), (29, 0xFF), (30, 0xFF), (31, 0xFF)] },
    { code := 0x0302, len := .fixed 4, rsvB := [(1, 3)] },
    { code := 0x0303, len := .fixed 4, rsvB := [(2, 2)] } ]

/-- Unit 0x04, store (R226). -/
def cmdsStore : List CmdSpec :=
  [ { code := 0x0401, len := .fixed 16, place := .agent0, rsvB := [(12, 4)] },
    { code := 0x0402, len := .fixed 8, place := .agent0, staged := true, rsvB := [(3, 1)] },
    { code := 0x0403, len := .fixed 0, place := .agent0 },
    { code := 0x0404, len := .fixed 8, place := .agent0, rsvB := [(5, 3)], rsvBit := [(3, 0xF0)] },
    { code := 0x0405, len := .fixed 4, place := .agent0, rsvB := [(1, 3)] } ]

/-- Unit 0x08, host channels (R351). -/
def cmdsCh : List CmdSpec :=
  [ { code := 0x0801, len := .fixed 16, rsvB := [(4, 12)], rsvBit := [(2, 0xE0), (3, 0xF0)] },
    { code := 0x0802, len := .fixed 40, rsvB := [(6, 2), (32, 8)] },
    { code := 0x0803, len := .fixed 32, rsvB := [(3, 1), (20, 12)] },
    { code := 0x0804, len := .parts, rsvB := [(3, 1), (5, 3)] },
    { code := 0x0805, len := .fixed 176, rsvB := [(2, 6)] },
    { code := 0x0806, len := .fixed 32, rsvB := [(20, 12)] },
    { code := 0x0807, len := .fixed 4, rsvB := [(2, 2)] },
    { code := 0x0808, len := .fixed 4, rsvB := [(2, 2)] },
    { code := 0x0809, len := .fixed 4, rsvB := [(2, 2)] },
    { code := 0x080A, len := .fixed 4 } ]

/-- Unit 0x09, stations and radio links (R383). -/
def cmdsSta : List CmdSpec :=
  [ { code := 0x0901, len := .fixed 48, rsvB := [(6, 2), (40, 8)], rsvBit := [(3, 0xF8), (5, 0xF0)] },
    { code := 0x0902, len := .fixed 4, rsvB := [(2, 2)] },
    { code := 0x0903, len := .fixed 4, rsvB := [(3, 1)], rsvBit := [(2, 0xF0)] },
    { code := 0x0904, len := .fixed 4, rsvB := [(2, 2)] },
    { code := 0x0905, len := .fixed 4 },
    { code := 0x0906, len := .fixed 24, place := .agent0, rsvB := [(3, 1), (10, 2), (18, 6)] },
    { code := 0x0907, len := .fixed 4, place := .agent0, rsvB := [(1, 3)] } ]

/-- Unit 0x0A, scheduling (R403). -/
def cmdsSch : List CmdSpec :=
  [ { code := 0x0A01, len := .fixed 64, staged := true, place := .agent0, rsvB := [(1, 3), (48, 16)] },
    { code := 0x0A02, len := .fixed 16, staged := true, place := .agent0, rsvB := [(3, 1), (12, 4)] },
    { code := 0x0A03, len := .fixed 40, staged := true, rsvB := [(2, 2)] },
    { code := 0x0A04, len := .fixed 4, rsvB := [(1, 1)] },
    { code := 0x0A05, len := .fixed 4 } ]

/-- Unit 0x06, flows (R279, R280 and the commands before it). -/
def cmdsFlow : List CmdSpec :=
  [ { code := 0x0601, len := .fixed 16, staged := true, place := .agent0, rsvB := [(10, 6)], rsvBit := [(1, 0xE0)] },
    { code := 0x0602, len := .fixed 40, staged := true, place := .agent0, rsvB := [(11, 1), (34, 6)], rsvBit := [(2, 0xF0)] },
    { code := 0x0603, len := .fixed 128, staged := true, place := .agent0, rsvB := [(14, 2), (112, 16)], rsvBit := [(6, 0xC0)] },
    { code := 0x0604, len := .fixed 16, place := .agent0, rsvB := [(12, 4)] },
    { code := 0x0605, len := .fixed 136, place := .agent0, rsvB := [(1, 7)], rsvBit := [(0, 0xFC)] },
    { code := 0x0606, len := .fixed 8, place := .agent0, rsvB := [(5, 3)], rsvBit := [(4, 0xFE)] },
    { code := 0x0607, len := .fixed 4, place := .agent0 },
    { code := 0x0608, len := .fixed 20, place := .agent0, rsvB := [(2, 2)] },
    { code := 0x0609, len := .fixed 8, place := .agent0, rsvB := [(5, 3)] },
    { code := 0x060A, len := .fixed 4, place := .agent0 },
    { code := 0x060B, len := .fixed 4, place := .agent0 } ]

/-- Unit 0x07, engines (R316). -/
def cmdsEng : List CmdSpec :=
  [ { code := 0x0701, len := .fixed 8, staged := true, place := .agent0, rsvB := [(4, 4)] },
    { code := 0x0702, len := .fixed 4, place := .agent0, rsvB := [(1, 3)] },
    { code := 0x0703, len := .fixed 8, place := .agent0, rsvB := [(4, 4)] },
    { code := 0x0704, len := .fixed 4, place := .agent0, rsvB := [(1, 3)] },
    { code := 0x0705, len := .counted 8 1 2 2 12 4096, place := .agent0, rsvB := [(1, 1)] },
    { code := 0x0706, len := .fixed 0, place := .agent0 },
    { code := 0x0707, len := .fixed 4, place := .agent0 },
    { code := 0x0708, len := .fixed 4, place := .agent0, rsvB := [(2, 2)] },
    { code := 0x0709, len := .fixed 28, place := .agent0, rsvB := [(1, 1), (24, 4)], rsvBit := [(0, 0xFE)] } ]

/-- Unit 0x0E, resilience (R500). -/
def cmdsRes : List CmdSpec :=
  [ { code := 0x0E01, len := .fixed 32, place := .agent0, rsvB := [(17, 15)], rsvBit := [(16, 0xFE)] },
    { code := 0x0E02, len := .fixed 4, place := .agent0, rsvB := [(1, 3)] },
    { code := 0x0E03, len := .fixed 4, place := .agent0, rsvB := [(1, 3)] },
    { code := 0x0E04, len := .fixed 4, place := .agent0, rsvB := [(1, 3)] },
    { code := 0x0E05, len := .fixed 0, place := .agent0 },
    { code := 0x0E06, len := .fixed 4, place := .agent0 },
    { code := 0x0E07, len := .fixed 0, place := .agent0 },
    { code := 0x0E08, len := .fixed 4, place := .agent0, rsvB := [(1, 3)] },
    { code := 0x0E09, len := .fixed 4, place := .agent0 } ]

/-- Unit 0x0F, measurement (R527). -/
def cmdsMt : List CmdSpec :=
  [ { code := 0x0F01, len := .fixed 96, place := .agent0, rsvB := [(5, 3), (24, 8)] },
    { code := 0x0F02, len := .fixed 8, place := .agent0, rsvB := [(5, 3)] },
    { code := 0x0F03, len := .fixed 4, place := .agent0, rsvB := [(2, 2)] },
    { code := 0x0F04, len := .fixed 8, place := .agent0, rsvB := [(5, 3)] } ]

end Sys2Proof.Machine
end

