-- ==== Sys2Proof/Machine/CmdAll.lean ====
section
/-! DEFINITION. The whole table of Gelvor commands. -/

namespace Sys2Proof.Machine

/-- Every command that a CODE names. -/
def allCmds : List CmdSpec :=
  cmdsSys ++ cmdsPort ++ cmdsLane ++ cmdsStore ++ cmdsCls ++ cmdsFlow ++ cmdsEng ++ cmdsCh ++ cmdsSta ++ cmdsSch ++
    cmdsTime ++ cmdsPwr ++ cmdsRes ++ cmdsMt

end Sys2Proof.Machine
end

