-- ==== Sys2Proof/Machine/Gelvor.lean ====
section
/-! DEFINITION. Mailboxes, requests, tokens, responses and commit groups (R85-R116). -/

namespace Sys2Proof.Machine

open Sys2Proof

/-! ## Status codes (R105) -/

def stOk := 0x00
def stInvalid := 0x01
def stUnknown := 0x02
def stBadHeader := 0x03
def stBadLength := 0x04
def stBadSequence := 0x05
def stConflict := 0x06
def stNotOwner := 0x07
def stHostRead := 0x08
def stNotConfigured := 0x09
def stWrongState := 0x0A
def stNotFound := 0x0B
def stExists := 0x0C
def stNoResource := 0x0D
def stAborted := 0x0E
def stGroupUnknown := 0x10
def stGroupFull := 0x11
def stInconsistent := 0x12
def stGenLimit := 0x13
def stStaging := 0x14
def stImgVersion := 0x20
def stImgAuth := 0x21
def stImgFormat := 0x22
def stTrgExpired := 0x30
def stTrgHorizon := 0x31
def stStepUsed := 0x32
def stDeferred := 0x38

/-- What a command answers: its status, DETAIL and response data (R98). -/
structure Reply where
  st     : Nat := 0
  detail : Nat := 0xFFFFFFFF
  data   : Bytes := []
  deriving DecidableEq, Repr

def okR : Reply := {}
def okD (d : Bytes) : Reply := { data := d }
/-- INVALID_ARG with the byte offset of the field found wrong. -/
def inv (off : Nat) : Reply := { st := stInvalid, detail := off }
def errR (st : Nat) : Reply := { st := st }
/-- Another error status, with the byte offset of the field found wrong. -/
def errAt (st off : Nat) : Reply := { st := st, detail := off }

/-- The first failure among checks in order. -/
def firstErr : List (Bool × Reply) → Option Reply
  | [] => none
  | (bad, r) :: t => if bad then some r else firstErr t

/-! ## The request header (R95) -/

def rqCode (h : Bytes) : Nat := u16 h 0
def rqFlags (h : Bytes) : Nat := u16 h 2
def rqLen (h : Bytes) : Nat := u16 h 4
def rqSeq (h : Bytes) : Nat := u16 h 6
def rqToken (h : Bytes) : Nat := u64 h 8
def rqGroup (h : Bytes) : Nat := u32 h 16
def rqAddr (h : Bytes) : Nat := u64 h 24
def rqPtr (h : Bytes) : Bool := (rqFlags h).testBit 0

def specOf (code : Nat) : Option CmdSpec := allCmds.find? (·.code = code)

/-- The reserved bytes and bits of an entry image at an offset of FLOW_INSTALL's payload, by its FAMILY (R261, R262). -/
def rsvImage (p : Bytes) (o : Nat) : List (Nat × Nat × Nat) :=
  if (u8 p o).testBit 1 then [(o + 5, 1, 0xF0), (o + 6, 2, 0xFF), (o + 44, 12, 0xFF)] else [(o + 23, 1, 0xF0)]

/-- The reserved bytes and bits of a payload whose places its other fields give, as offset, length and mask: those of
PORT_GCL_SET's entries, of FLOW_INSTALL's images, of CH_FILTER_SET's parts, and of what follows TIME_STEP's MODE. -/
def rsvItems (code : Nat) (p : Bytes) : List (Nat × Nat × Nat) :=
  match code with
  | 0x0203 => (List.range ((p.length - 32) / 8)).map fun i => (33 + 8 * i, 3, 0xFF)
  | 0x0605 => rsvImage p 8 ++ (if (u8 p 0).testBit 0 then rsvImage p 72 else [])
  | 0x0804 =>
    (match u8 p 2 with
     | 0 => (List.range ((p.length - 8) / 8)).map fun i => (14 + 8 * i, 2, 0xFF)
     | 1 => [(4, 1, 0xFF)]
     | 2 => [(4, 1, 0xFF)]
     | _ => [])
  | 0x0B01 =>
    (match u8 p 1 with
     | 0 => [(19, 1, 0xC0), (20, 4, 0xFF)]
     | 1 => [(18, 6, 0xFF)]
     | _ => [])
  | _ => []

/-- The first reserved byte of a payload that is not 0 (R546). -/
def reservedBad (c : CmdSpec) (p : Bytes) : Option Nat :=
  (List.range p.length).find? fun i =>
    c.rsvB.any (fun r => r.1 ≤ i && i < r.1 + r.2 && u8 p i != 0) || c.rsvBit.any (fun r => r.1 = i && u8 p i &&& r.2 != 0) ||
    (rsvItems c.code p).any (fun r => r.1 ≤ i && i < r.1 + r.2.1 && u8 p i &&& r.2.2 != 0)

/-- LENGTH fits the command's table before its payload is read. -/
def lenFits (r : LenRule) (n : Nat) : Bool :=
  match r with
  | .fixed k => n = k
  | .range lo hi => lo ≤ n && n ≤ hi
  | .counted _ _ _ _ lo hi => lo ≤ n && n ≤ hi
  | .parts => 8 ≤ n && n ≤ 520

/-- LENGTH is the length that the payload's count gives (R96). -/
def countFits (r : LenRule) (p : Bytes) : Bool :=
  match r with
  | .counted head item off w _ _ => p.length = head + item * le p off w
  | .parts => if u8 p 2 = 0 then p.length = 8 + 8 * u8 p 4 else if u8 p 2 = 1 then p.length = 40 else u8 p 2 != 2 || p.length = 520
  | _ => true

/-- The digest of a token record (R100). -/
def digestOf (h payload : Bytes) : Nat :=
  crc32c (slice h 0 2 ++ slice h 2 2 ++ slice h 4 2 ++ slice h 16 4 ++ payload)

/-! ## Responses (R86, R89, R98, R100) -/

/-- The response header (R98). -/
def rspHeader (s : State) (h : Bytes) (r : Reply) : Bytes :=
  slice h 0 2 ++ toLe 1 r.st ++ [0#8] ++ toLe 2 r.data.length ++ slice h 6 2 ++ slice h 8 8 ++ toLe 4 r.detail ++
    toLe 2 s.cls.current ++ zeros 2 ++ toLe 8 (nowNs s) ++ zeros 32

/-- Keep a token record; the oldest beyond 1,024 goes (R100). -/
def keepToken (m : Nat) (t : Token) (s : State) : State :=
  setMb m (fun b =>
    let l := b.tokens ++ [t]
    { b with tokens := if l.length > 1024 then l.drop 1 else l }) s

/-- Put a response in the page, end BUSY, set DONE, and issue the ring's message if its flags ask (R86, R89).  A disabled ring
has no flags in force and sends none (DESIGN CHOICE, log 77). -/
def putResponse (m : Nat) (hdr data : Bytes) (s : State) : State :=
  let s1 := lines (setMb m (fun b => { b with rspHdr := hdr, rspData := overlay b.rspData 0 data, busy := false, done := true }) s)
  let g := (getMb s1 m).ring
  if g.entries > 0 && g.flags.testBit 1 && g.msgAddr != 0 && !s1.sys.quiesced then
    lines (sendMsg (.mailbox m) 0x211 g.msgAddr g.msgData s1).1
  else s1

/-- An Onyx core can write responses: one runs code, with its domain supplied and not isolated, and the block is not in a low-power
state (R74, R92, R103, R452). -/
def onyxAnswers (s : State) : Bool :=
  (s.sys.boot || s.sys.fw) && !domainAbsent s 17 &&
    (s.pwr.mode = .active || (s.pwr.mode = .entering && !s.pwr.isolated))

/-- Finish a request: its token record and its response (R86, R100, R103).  One that finishes while neither core runs has its record,
and a core writes the response when it runs again (R92, R103).  The response of an executed command becomes visible
once the events raised so far are in their rings (R121); it waits for those that another command or unit raised too (DESIGN
CHOICE, log 78). -/
def respond (q : Req) (r : Reply) (record : Bool) (s : State) : State :=
  let hdr := rspHeader s q.hdr r
  if record then
    let s1 := keepToken q.mb ⟨rqToken q.hdr, rqCode q.hdr, q.digest, hdr, r.data⟩ s
    if (pendingEvents s1).isEmpty && onyxAnswers s1 then putResponse q.mb hdr r.data s1 else awaitEvents (some (q.mb, hdr, r.data)) s1
  else putResponse q.mb hdr r.data s

/-- The responses whose events are in their rings become visible, in the order in which their commands finished, once a core can
write them. -/
def releaseAwaited (s : State) : State :=
  let ready (a : Awaited) : Bool := onyxAnswers s && a.ahead.all (·.2 = 0)
  (s.gv.awaited.filter ready).foldl (fun s a => match a.rsp with
    | some (m, hdr, data) => putResponse m hdr data s
    | none => s) (s.updGv fun g => { g with awaited := g.awaited.filter fun a => !ready a })

/-- An Onyx core runs again: the held events are written (R122), and the recorded responses (R103). -/
def onyxRuns (s : State) : State := releaseAwaited (deliverHeld s)

/-- Finish the request that Onyx has taken. -/
def finishTaken (q : Req) (r : Reply) (s : State) : State :=
  respond q r true (s.updGv fun g => { g with taken := none })

/-! ## Doorbell (R86, R87) -/

/-- A write of MB_DOORBELL.  The counter of ignored doorbells has no width or read path in the manual: it is kept whole, and
nothing reads it (DESIGN CHOICE, log 77). -/
def ringDoorbell (m value : Nat) (s : State) : State :=
  if (getMb s m).busy then
    setMb m (fun b => { b with dbIgnored := true, ignored := b.ignored + 1 }) s
  else
    let s1 := setMb m (fun b => { b with busy := true, done := false, bell := value % 65536, hdr := b.reqHdr, body := b.reqData }) s
    lines (s1.updGv fun g => { g with queue := g.queue ++ [m] })

/-! ## The checks of a request (R97) -/

/-- Checks 1 to 8; the status of the first that fails. -/
def checkHeader (s : State) (m : Nat) : Option Nat :=
  let b := getMb s m
  let h := b.hdr
  if andNot (rqFlags h) 1 != 0 || u32 h 20 != 0 || !allZero (slice h 32 32) ||
      (rqPtr h && rqAddr h % 64 != 0) then some stBadHeader
  else if rqSeq h != b.bell then some stBadSequence
  else
    match specOf (rqCode h) with
    | none => some stUnknown
    | some c =>
      let unit := rqCode h / 256
      if !b.caps.testBit unit || (m = 0 && unit != 1 && unit != 0xE) ||
          (c.place = .mb0 && m != 0) || (c.place = .agent0 && m != 0 && b.agent != 0) then some stNotOwner
      else if rqToken h = 0 then some stBadHeader
      else if !c.staged && rqGroup h != 0 then some stBadHeader
      else if !lenFits c.len (rqLen h) || (rqPtr h && (rqLen h = 0 || rqLen h > 4096)) ||
          (!rqPtr h && (rqLen h > 256 || !countFits c.len (b.body.take (rqLen h)))) then some stBadLength
      else if rqPtr h && !windowOk s b.agent (rqAddr h) (rqLen h) then some stNotOwner
      else none

/-- Check 10, the token rules (R101): a recorded response, a conflict, or execution as new. -/
def judgeToken (q : Req) (s : State) : State :=
  let q := { q with ready := true, digest := digestOf q.hdr q.payload }
  match (getMb s q.mb).tokens.find? (·.token = rqToken q.hdr) with
  | none => s.updGv fun g => { g with taken := some q }
  | some t =>
    let s1 := s.updGv fun g => { g with taken := none }
    if t.code = rqCode q.hdr && t.digest = q.digest then
      putResponse q.mb (overlay (overlay t.hdr 3 [1#8]) 6 (slice q.hdr 6 2)) t.data s1
    else respond q (errR stConflict) false s1

/-- A request that the boot code, or a quiesced block, turns away (R94, R510). -/
def turnedAway (q : Req) (s : State) : Bool :=
  let c := rqCode q.hdr
  (s.sys.boot && !(c = 0x0100 || c = 0x0101 || ((c = 0x0E01 || c = 0x0E02) && u8 q.payload 0 = 0))) ||
  (s.sys.quiesced && c != 0x0100 && c != 0x0109)

/-- Onyx takes a mailbox's accepted request: checks 1 to 9, and 10 for an inline payload (R90, R97). -/
def takeRequest (m : Nat) (s : State) : State :=
  let b := getMb s m
  let q : Req := { mb := m, hdr := b.hdr, payload := [], ready := false }
  match checkHeader s m with
  | some st => respond q (errR st) false s
  | none =>
    if rqPtr b.hdr then
      if s.sys.quiesced then respond q (errR stWrongState) false s
      else startXfer .payload false 0x210 (rqAddr b.hdr) (rqLen b.hdr) []
        (s.updGv fun g => { g with taken := some q })
    else judgeToken { q with payload := b.body.take (rqLen b.hdr) } s

/-- The pointer payload has arrived: check 9, the count's length, and check 10 (R96, R97). -/
def payloadDone (x : Xfer) (s : State) : State :=
  match s.gv.taken with
  | none => s
  | some q =>
    if q.ready then s
    else
      let s1 := s.updGv fun g => { g with taken := none }
      if x.err then respond q (errR stHostRead) false s1
      else
        match specOf (rqCode q.hdr) with
        | none => s
        | some c =>
          if countFits c.len x.data then judgeToken { q with payload := x.data } s
          else respond q (errR stBadLength) false s1

/-- REQUEST_TAKE: boot code takes requests of MB0 only (R90, R94).  Held events are written first (R122), and so is the response of
every command that has finished, whose mailbox is BUSY until then (R86, R124). -/
def takeNext (s : State) : State :=
  if s.gv.taken.isSome || !onyxUp s || !s.gv.awaited.isEmpty then s
  else
    match s.gv.queue.find? (fun m => s.sys.fw || m = 0) with
    | none => s
    | some m => takeRequest m (s.updGv fun g => { g with queue := g.queue.erase m })

/-! ## The execution of a command -/

/-- The request that Onyx has taken, when it is for this command. -/
def takenFor (code : Nat) (s : State) : Option Req :=
  match s.gv.taken with
  | some q => if q.ready && rqCode q.hdr = code then some q else none
  | none => none

/-- What every command is judged by first: the classes refused in two states, then R546. -/
def preJudge (q : Req) (s : State) : Option Reply :=
  if turnedAway q s then some (errR stWrongState)
  else
    match specOf (rqCode q.hdr) with
    | none => none
    | some c => (reservedBad c q.payload).map inv

/-- Execute an immediate command: `f` gives the new state and the answer. -/
def immediate (code : Nat) (f : Req → State → State × Reply) (s : State) : State :=
  match takenFor code s with
  | none => s
  | some q =>
    match preJudge q s with
    | some r => finishTaken q r s
    | none => let p := f q s; finishTaken q p.2 p.1

/-- Execute a long-running command: `f` answers at once, or leaves it running beside the queue (R90). -/
def longRunning (code : Nat) (f : Req → State → State × Option Reply) (s : State) : State :=
  match takenFor code s with
  | none => s
  | some q =>
    match preJudge q s with
    | some r => finishTaken q r s
    | none =>
      let p := f q s
      match p.2 with
      | some r => finishTaken q r p.1
      | none => p.1.updGv fun g => { g with taken := none, running := g.running ++ [q] }

/-- The long-running command of a code, if one runs. -/
def runningFor (code : Nat) (s : State) : Option Req := s.gv.running.find? (fun q => rqCode q.hdr = code)

/-- A long-running command finishes. -/
def finishRunning (q : Req) (r : Reply) (s : State) : State :=
  respond q r true (s.updGv fun g => { g with running := g.running.filter (fun x => x.mb != q.mb) })

def agentOf (q : Req) (s : State) : Nat := (getMb s q.mb).agent

/-- What a range is refused with: no window holds it, or none that the agent may use (R107). -/
def rangeBad (s : State) (agent a n off : Nat) : Option Reply :=
  if windowOk s agent a n then none
  else if inWindow s a n then some (errAt stNotOwner off)
  else some (inv off)

/-! ## Commit groups (R108-R116) -/

def findGroup (id m : Nat) (s : State) : Option Group :=
  s.gv.groups.find? fun g => g.id = id && g.mb = m

def dropGroup (id : Nat) (s : State) : State :=
  s.updGv fun g => { g with groups := g.groups.filter (fun x => x.id != id) }

/-- Add a staged command to a group that has room (R113). -/
def addStaged (g : Group) (c : Cmd) (s : State) : State × Reply :=
  if g.cmds.length ≥ 4096 || (g.cmds.map (·.payload.length)).sum + c.payload.length > 2 * 1024 * 1024 then
    (s, errR stGroupFull)
  else (s.updGv fun v => { v with groups := mapIf v.groups (·.id = g.id) fun x => { x with cmds := x.cmds ++ [c] } }, okR)

end Sys2Proof.Machine
end

