-- ==== Sys2Proof/Machine/Stations.lean ====
section
/-! DEFINITION. Stations and the radio port's downstream side (R355-R380). -/

namespace Sys2Proof.Machine

open Sys2Proof

/-! ## Drops of a station queue's owner -/

/-- Release an owner of a station queue. -/
def releaseSta (h st a : Nat) (s : State) : State := releaseOwner h (QKey.sta st a).owner s

/-- Count a station drop: at the station (place `k`) and against the ingress port code (place `kp`). -/
def countSta (st k kp h : Nat) (s : State) : State := bump cStaPort (ingressOf s h) kp (bump cSta st k s)

/-- Drop an owner of a station queue in STA_ADMIN_DROPS. -/
def dropStaAdmin (st a h : Nat) (s : State) : State := releaseSta h st a (countSta st 11 4 h s)

/-- A protocol error of a link, with its event at most once per 1 ms (R385). -/
def rlProtocol (l kind : Nat) (s : State) : State :=
  let s1 := errBit 4 (bump cRl l 4 s)
  let now := nowNs s1
  lines (if recently (getRl s1 l).lastEvt now 1000000 then s1
    else raise0 0x0984 (0x100 + l) (toLe 1 kind) (setRl l (fun r => { r with lastEvt := some now }) s1))


/-! ## Rate words, credit and cost (R364-R375) -/

/-- The rate word is stale: RATE_TIMEOUT is not 0, and has passed since RATE_TIME (R365). -/
def rateOld (s : State) (l : Nat) (x : StaLink) : Bool :=
  x.rate.isSome && (getRl s l).rateTo != 0 && x.rateNs + (getRl s l).rateTo * 1000000 ≤ nowNs s

/-- The rate word in use for a station on a link, and whether it is the default. -/
def rateInUse (s : State) (x : Sta) (l : Nat) : RateW × Bool :=
  let y := staLink x l
  match y.rate with
  | none => ((getRl s l).defRate, true)
  | some r => if rateOld s l y then ((getRl s l).defRate, true) else (r, false)

/-- The cost of D bytes (R374). -/
def costOf (r : RateW) (d : Nat) : Nat := (d * r.byteTime + 1023) / 1024 + (r.ovh + r.agg - 1) / r.agg

/-- D bytes have credit on a window (R367). -/
def hasCredit (w : Win) (d : Nat) : Bool :=
  0 ≤ sext 32 (w.limit + 2 ^ 33 - (w.sent + w.reserved + d) % 2 ^ 32)

/-- A link is a candidate for D bytes of queue (s, a) (R376). -/
def candidate (s : State) (st a d l : Nat) : Bool :=
  let x := getSta s st
  let r := getRl s l
  linkAdmits s x a l && r.launch.length < 8 && d ≤ r.maxDn &&
    hasCredit (staLink x l).win d && hasCredit r.win d

/-- When a link would serve (R377). -/
def effAvail (s : State) (st l : Nat) : Nat :=
  max (nowNs s) (max (staLink (getSta s st) l).win.avail (getRl s l).win.avail)

/-- The link chosen among the candidates (R377). -/
def chooseLink (s : State) (st a d : Nat) : Option Nat :=
  let x := getSta s st
  let key (l : Nat) : Nat × Nat := (effAvail s st l, costOf (rateInUse s x l).1 d)
  ((List.range 3).filter (candidate s st a d)).foldl
    (fun best l =>
      match best with
      | none => some l
      | some b =>
        let kb := key b
        let kl := key l
        if kl.1 < kb.1 || (kl.1 = kb.1 && kl.2 < kb.2) then some l else some b) none

/-- D exceeds MAX_DN of every enabled link that the queue may use (R378). -/
def oversizeSta (s : State) (st a d : Nat) : Bool :=
  let ls := (List.range 3).filter fun l => (getRl s l).enabled && acAllows (getSta s st) a l
  !ls.isEmpty && ls.all fun l => d > (getRl s l).maxDn

/-! ## The station scheduler (R397) -/

/-- Drop the head frames that a decision finds too old, too long, or of a RETIRING generation
(R250, R378, R380). -/
def pruneHead : Nat → Nat → Nat → State → State
  | 0, _, _, s => s
  | f + 1, st, a, s =>
    match getQ s (.sta st a) with
    | [] => s
    | e :: rest =>
      let x := getSta s st
      let ms := x.sojourn.getD a 0
      let d := egressLen s e.h e.rewrite
      let cut (s : State) : State :=
        let s1 := setQ (.sta st a) rest s
        if rest.isEmpty then setAcRound a (Drr.leave st) s1 else s1
      if isRetiring s (genOf s e.h) then
        pruneHead f st a (cut (releaseSta e.h st a (bump 0x50 (ingressOf s e.h) 11 s)))
      else if ms != 0 && e.time + ms * 1000000 < nowNs s then
        pruneHead f st a (cut (releaseSta e.h st a (countSta st 10 3 e.h s)))
      else if oversizeSta s st a d then
        pruneHead f st a (cut (releaseSta e.h st a (countSta st 12 5 e.h s)))
      else s

/-- The cost of a queue's head at this decision, none while it has no candidate link. -/
def headCost (s : State) (a st : Nat) : Option Nat :=
  match getQ s (.sta st a) with
  | [] => none
  | e :: _ =>
    let d := egressLen s e.h e.rewrite
    (chooseLink s st a d).map fun l => costOf (rateInUse s (getSta s st) l).1 d

def staQuantum (s : State) (a st : Nat) : Nat := (getSta s st).quantum.getD a 0

/-- The round of R388 over at most `n` station queues, each judged by the head that is left once those to be dropped are
gone: the station chosen, whose queue has been charged. -/
def walkRound (a : Nat) : Nat → State → Option Nat × State
  | 0, s => (none, s)
  | n + 1, s =>
    match (getAcRound s a).active with
    | [] => (none, s)
    | st :: _ =>
      let s1 := pruneHead (getQ s (.sta st a)).length st a s
      if (getQ s1 (.sta st a)).isEmpty then walkRound a n s1
      else
        match headCost s1 a st with
        | none => walkRound a n (setAcRound a (Drr.toTail st) s1)
        | some c =>
          let v := (getAcRound s1 a).visit st (staQuantum s1 a st) c
          if c ≤ v.def st then
            (some st, setAcRound a (fun _ => { v with deficit := v.deficit.set st (v.def st - c) }) s1)
          else walkRound a n (setAcRound a (fun _ => v.toTail st) s1)

/-- Some queue of the station holds a frame. -/
def staBacklog (s : State) (st : Nat) : Bool := (List.range 4).any fun a => !(getQ s (.sta st a)).isEmpty

/-- The service period of a station on a link after one of its frames was dequeued; true when it ended (R369). -/
def periodAfter (st l : Nat) (s : State) : Bool × State :=
  let y := staLink (getSta s st) l
  if y.ps != .period then (false, s)
  else
    let left := y.spLeft - 1
    let empty := !(List.range 4).any fun a => y.spMask.testBit a && !(getQ s (.sta st a)).isEmpty
    if (y.spLeft != 0 && left = 0) || empty then
      (true, setStaLink st l (fun y => { y with ps := .doze, spMask := 0, spLeft := 0 }) s)
    else (false, setStaLink st l (fun y => { y with spLeft := left }) s)

/-- Dequeue the head of a queue to a link's launch queue (R375, R377). -/
def launchHead (st a l : Nat) (s : State) : State :=
  match getQ s (.sta st a) with
  | [] => s
  | e :: rest =>
    let d := egressLen s e.h e.rewrite
    let rw := rateInUse s (getSta s st) l
    let cost := costOf rw.1 d
    let s0 := pinBuf e.h (perf 6 1 (pmuEvent 6 2 cost 0 s))
    let s1 := setQ (.sta st a) rest (if readsDram s0 e.h then (startDirect (.stage l st) e.h s0).2 else s0)
    let s2 := if rest.isEmpty then setAcRound a (Drr.leave st) s1 else s1
    let s3 := bumpN cSta st 2 cost (if rw.2 then bump cSta st 3 s2 else s2)
    let s4 := setStaLink st l (fun y => { y with win := { y.win with reserved := (y.win.reserved + d) % 2 ^ 32 } }) s3
    let p := periodAfter st l s4
    let item : Launch := { h := e.h, oseq := e.oseq, sta := st, ac := a, rewrite := e.rewrite, d := d, cost := cost
                           more := staBacklog p.2 st, eosp := p.1, sojourn := min 65535 ((nowNs s - e.time) / 1000) }
    let s5 := setRl l (fun r => { r with
      launch := r.launch ++ [item]
      win := { r.win with reserved := (r.win.reserved + d) % 2 ^ 32 } }) p.2
    if p.1 then evalParks st s5 else s5

/-- One round's part of a decision; true when it yielded a frame. -/
def decideRound (a : Nat) (s : State) : Bool × State :=
  let r := walkRound a (min 4 (getAcRound s a).active.length) s
  match r.1 with
  | none => (false, r.2)
  | some st =>
    match getQ r.2 (.sta st a) with
    | [] => (false, r.2)
    | e :: _ =>
      match chooseLink r.2 st a (egressLen r.2 e.h e.rewrite) with
      | none => (false, r.2)
      | some l => (true, launchHead st a l r.2)

/-- STATION_DECISION: the highest category whose round yields a frame (R397). -/
def stationDecide (s : State) : State :=
  if !(List.range 3).any (fun l => (getRl s l).enabled && (getRl s l).launch.length < 8) then s
  else if egressStops s then s
  else
    [3, 2, 1, 0].foldl (fun (acc : Bool × State) a => if acc.1 then acc else decideRound a acc.2) (false, s) |> fun r =>
      if r.1 then r.2 else perf 6 3 r.2

/-! ## Staging, start and end of a downstream frame (R360, R361, R371-R373) -/

/-- Release the reservation of a launch-queue frame on both windows. -/
def unreserve (l : Nat) (x : Launch) (s : State) : State :=
  let f (w : Win) : Win := { w with reserved := (w.reserved + 2 ^ 32 - x.d) % 2 ^ 32 }
  setRl l (fun r => { r with win := f r.win }) (setStaLink x.sta l (fun y => { y with win := f y.win }) s)

/-- A launch-queue frame leaves before its start: an unstaged one is read no more. -/
def leaveLaunch (l : Nat) (x : Launch) (s : State) : State :=
  if x.staged then unreserve l x s else dropDirect (.stage l x.sta) x.h (unpinBuf x.h (unreserve l x s))

/-- The bytes in a link's downstream staging buffer of 32 KiB (R361). -/
def stagedBytes (r : Rl) : Nat := (r.launch.map (·.bytes.length)).sum

/-- Discard what a station held on a link that it may no longer use, once nothing of it waits there (R386). -/
def forgetLink (st l : Nat) (s : State) : State :=
  if (getSta s st).links.testBit l || (getRl s l).launch.any (·.sta = st) then s
  else setSta st (fun x => { x with per := x.per.erase l }) s

/-- A frame has been read out and verified: it is shaped, and staged. -/
def stageGood (l : Nat) (x : Launch) (s : State) : State :=
  match getBuf s x.h with
  | none => s
  | some b =>
    let by_ := egressBytes s b x.rewrite
    let f (y : Launch) : Launch := if y = x then { y with staged := true, bytes := by_ } else y
    unpinBuf x.h (setRl l (fun r => { r with launch := r.launch.map f }) s)

/-- A frame fails its check while it is staged (R206). -/
def stageFailed (l : Nat) (x : Launch) (kind : Nat) (s : State) : State :=
  let s1 := unreserve l x (setRl l (fun r => { r with launch := r.launch.erase x }) s)
  forgetLink x.sta l (releaseSta x.h x.sta x.ac (unpinBuf x.h (checkFail x.h x.oseq kind (0x100 + l) s1)))

/-- The end of staging of the oldest unstaged launch-queue frame: verified and shaped, once the staging buffer has room for it
(R361) and its read out of host memory, if it lies there, has ended. -/
def stageDone (l : Nat) (s : State) : State :=
  match (getRl s l).launch.find? (fun x => !x.staged) with
  | none => s
  | some x =>
    if stagedBytes (getRl s l) + x.d > 32768 then s
    else if readsDram s x.h then
      match s.host.xfers.find? fun y => y.purp = .direct x.h (.stage l x.sta) && !y.gone with
      | none => stageFailed l x 5 s
      | some y =>
        if !y.finished then s
        else if directOk s x.h x.oseq y then stageGood l x (dropXfer y.id s)
        else stageFailed l x (directKind y) (dropXfer y.id s)
    else if verifies s x.h x.oseq then stageGood l x s
    else stageFailed l x 0 s

/-- The downstream metadata of a frame (R371). -/
def dnMeta (x : Launch) (tag up : Nat) : Bytes :=
  toLe 2 tag ++ toLe 2 x.sta ++ toLe 1 (x.ac + 4 * up + 32 * b2n x.more + 64 * b2n x.eosp) ++ zeros 3 ++
    toLe 2 x.d ++ toLe 4 x.cost ++ toLe 2 x.sojourn

/-- A window without a frame's own reservation still has credit for it (R372). -/
def stillCredit (w : Win) (d : Nat) : Bool := hasCredit { w with reserved := (w.reserved + 2 ^ 32 - d) % 2 ^ 32 } d

/-- DN_FRAME_START: the launch-queue head starts when R372 holds. -/
def frameStart (l : Nat) (s : State) : State :=
  let r := getRl s l
  match r.launch with
  | [] => s
  | x :: rest =>
    let w := (staLink (getSta s x.sta) l).win
    if !r.enabled || !x.staged || r.unfin.length ≥ 4096 || !stillCredit w x.d || !stillCredit r.win x.d then s
    else
      match lowestFree 4096 (r.unfin.map (·.tag)) with
      | none => s
      | some tag =>
        let up := ((getBuf s x.h).map fun b => u8 b.record 41 % 8).getD 0
        let f (w : Win) : Win :=
          { w with reserved := (w.reserved + 2 ^ 32 - x.d) % 2 ^ 32, sent := (w.sent + x.d) % 2 ^ 32 }
        let u : Unfin := { tag := tag, h := x.h, oseq := x.oseq, sta := x.sta, ac := x.ac
                           md := dnMeta x tag up, bytes := x.bytes }
        let s1 := setRl l (fun r => { r with launch := rest, unfin := r.unfin ++ [u], win := f r.win }) s
        let s2 := setStaLink x.sta l (fun y => { y with win := f y.win }) s1
        let s3 := bumpN cSta x.sta 1 x.d (bump cSta x.sta 0 s2)
        forgetLink x.sta l (bumpN cRl l 1 x.d (bump cRl l 0 s3))

/-- A removed station becomes FREE when nothing of it is left (STA_REMOVE, step 4). -/
def settleSta (st : Nat) (s : State) : State :=
  if (getSta s st).state = .removing &&
      !(List.range 3).any (fun l => (getRl s l).launch.any (·.sta = st) || (getRl s l).unfin.any (·.sta = st)) then
    let s1 := raiseTo (.agents [(getSta s st).agent]) 0x0981 st (toLe 1 0)
      (s.updSta fun t => t.set st { agent := (getSta s st).agent })
    match s1.gv.running.find? (fun q => rqCode q.hdr = 0x0902 && u16 q.payload 0 = st) with
    | some q => finishRunning q okR s1
    | none => s1
  else s

/-- The end of an unfinished downstream frame: its tag is free and its owner released (R54, R373). -/
def endFrame (l : Nat) (u : Unfin) (s : State) : State :=
  settleSta u.sta (releaseSta u.h u.sta u.ac
    (setRl l (fun r => { r with unfin := r.unfin.filter (·.tag != u.tag) }) s))

/-- DN_DONE (R54, R373). -/
def doneReport (l tag status : Nat) (s : State) : State :=
  if !(getRl s l).enabled then s
  else
    match (getRl s l).unfin.find? (·.tag = tag) with
    | none => rlProtocol l 1 s
    | some u =>
      if status = 0 then endFrame l u s
      else
        let s1 := bump cRl l 5 (countSta u.sta 7 0 u.h s)
        endFrame l u (if status ≥ 2 then rlProtocol l 2 s1 else s1)

/-- DN_DONE_TIMEOUT (R373). -/
def doneTimeout (l tag : Nat) (s : State) : State :=
  match (getRl s l).unfin.find? (·.tag = tag) with
  | none => s
  | some u =>
    if (getRl s l).doneTo = 0 then s
    else endFrame l u (rlProtocol l 3 (bump cRl l 6 (countSta u.sta 8 1 u.h s)))

/-! ## Feedback messages (R362-R370) -/

def fbType (m : Bytes) : Nat := bits (u8 m 0) 3 0
def fbLink (m : Bytes) : Nat := bits (u8 m 0) 5 4
def fbSta (m : Bytes) : Nat := u16 m 2 % 4096

/-- A link was disabled in this cycle. -/
def offNow (s : State) (l : Nat) : Bool := (getRl s l).offAt = some s.time.cycle

/-- A message that is out of order is discarded and counted in FB_ERRORS (R363); a message for a DISABLED link counts nothing,
but in the cycle in which the link was disabled (R84, R359). -/
def fbError (m : Bytes) (s : State) : State :=
  if fbLink m < 3 && !(getRl s (fbLink m)).enabled && !offNow s (fbLink m) then s else raiseErr 4 (bump cRadio 0 1 s)

/-- The common part of a message of a type is in order (R362, R363). -/
def fbHead (s : State) (type : Nat) (all : Bool) (m : Bytes) : Bool :=
  m.length = 16 && fbType m = type && fbLink m < 3 && u8 m 0 < 64 && u8 m 1 = 0 && u16 m 2 < 4096 &&
    (if fbSta m = 0xFFF then all else fbSta m < nStations s) && (getRl s (fbLink m)).enabled

/-- The station named is ACTIVE and may use the link. -/
def fbMember (s : State) (m : Bytes) : Bool :=
  let x := getSta s (fbSta m)
  x.state = .active && x.links.testBit (fbLink m)

def fbAccept (s : State) : State := perf 6 5 (bump cRadio 0 0 s)

/-- FB_RATE (R364). -/
def fbRateMsg (m : Bytes) (s : State) : State :=
  if fbHead s 1 false m && fbMember s m && le m 4 3 != 0 && u8 m 7 != 0 && allZero (slice m 10 6) then
    setStaLink (fbSta m) (fbLink m)
      (fun y => { y with rate := some ⟨le m 4 3, u8 m 7, u16 m 8⟩, rateNs := nowNs s, stale := false }) (fbAccept s)
  else fbError m s

/-- FB_CREDIT (R366). -/
def fbCreditMsg (m : Bytes) (s : State) : State :=
  if fbHead s 2 true m && (fbSta m = 0xFFF || fbMember s m) && allZero (slice m 10 6) then
    let f (w : Win) : Win := { w with limit := u32 m 4, avail := nowNs s + u16 m 8 * 1000 }
    if fbSta m = 0xFFF then setRl (fbLink m) (fun r => { r with win := f r.win }) (fbAccept s)
    else setStaLink (fbSta m) (fbLink m) (fun y => { y with win := f y.win }) (fbAccept s)
  else fbError m s

/-- The effect of a PS message on a station and link (R368, R369). -/
def psEffect (st l state mask frames : Nat) (s : State) : State :=
  let s1 := setStaLink st l (fun y => { y with
    ps := if state = 0 then .awake else if state = 1 then .doze else .period
    spMask := if state = 2 then mask else 0
    spLeft := if state = 2 then frames else 0 }) s
  let empty := !(List.range 4).any fun a => mask.testBit a && !(getQ s1 (.sta st a)).isEmpty
  evalParks st
    (if state = 2 && empty then setStaLink st l (fun y => { y with ps := .doze, spMask := 0, spLeft := 0 }) s1 else s1)

/-- FB_PS (R368). -/
def fbPsMsg (m : Bytes) (s : State) : State :=
  let okBody := if u8 m 4 = 2 then u8 m 5 != 0 && u8 m 5 < 16 else u8 m 4 < 2 && u8 m 5 = 0 && u16 m 6 = 0
  if fbHead s 3 false m && fbMember s m && okBody && allZero (slice m 8 8) then
    psEffect (fbSta m) (fbLink m) (u8 m 4) (u8 m 5) (u16 m 6) (fbAccept s)
  else fbError m s

/-- RATE_STALE: a rate word has turned stale, for the first time since it came (R365). -/
def rateStales (st l : Nat) (s : State) : State :=
  let y := staLink (getSta s st) l
  if (getSta s st).state = .active && rateOld s l y && !y.stale then
    raiseTo (.agents [(getSta s st).agent]) 0x0982 st (toLe 1 l)
      (setStaLink st l (fun y => { y with stale := true }) s)
  else s

/-! ## Commands (R383) -/

/-- The station of a command: present, and bound to the mailbox's agent (R6, R107). -/
def staArg (q : Req) (s : State) : Option Reply :=
  firstErr [(u16 q.payload 0 ≥ nStations s, inv 0),
    ((getSta s (u16 q.payload 0)).agent != agentOf q s, errAt stNotOwner 0)]

def listAt (p : Bytes) (off w n : Nat) : List Nat := (List.range n).map fun i => le p (off + w * i) w

/-- The offset of the first item of a list that fails a test. -/
def badAt (p : Bytes) (off w n : Nat) (okV : Nat → Bool) : Option Nat :=
  ((List.range n).find? fun i => !okV (le p (off + w * i) w)).map fun i => off + w * i

def staSetArgs (q : Req) (s : State) : Option Reply :=
  let p := q.payload
  let links := u8 p 3
  let acBad := (List.range 4).any fun a => andNot (bits (u16 p 4) (3 * a + 2) (3 * a)) links != 0
  match staArg q s with
  | some r => some r
  | none =>
    if u8 p 2 > 1 then some (inv 2)
    else if links = 0 then some (inv 3)
    else if acBad then some (inv 4)
    else
      match badAt p 8 4 4 (fun v => 1000 ≤ v && v ≤ 10000000), badAt p 24 2 4 (fun v => v != 0) with
      | some o, _ => some (inv o)
      | none, some o => some (inv o)
      | none, none => none

/-- The settings of a STA_SET payload. -/
def staFields (p : Bytes) (x : Sta) : Sta :=
  { x with links := u8 p 3, acLinks := u16 p 4, quantum := listAt p 8 4 4, qlimit := listAt p 24 2 4
           sojourn := listAt p 32 2 4 }

/-- STA_SET. -/
def staSetCmd (q : Req) (s : State) : State × Reply :=
  let p := q.payload
  let st := u16 p 0
  let x := getSta s st
  match staSetArgs q s with
  | some r => (s, r)
  | none =>
    if u8 p 2 = 0 then
      if x.state != .free then (s, errR stWrongState)
      else
        let fresh : StaLink := { win := { avail := nowNs s } }
        let n := staFields p { state := .active, agent := x.agent
                               per := (bitList 3 (u8 p 3)).map fun l => (l, fresh) }
        let s1 := s.updSta fun t => t.set st n
        let s2 := (List.range 4).foldl (fun s a => evalPark st a false s) s1
        (raiseTo (.agents [x.agent]) 0x0981 st (toLe 1 1) s2, okR)
    else if x.state != .active then (s, errR stWrongState)
    else
      let fresh : StaLink := { win := { avail := nowNs s } }
      let s1 := setSta st (staFields p) s
      let added := (bitList 3 (u8 p 3)).filter fun l => !x.links.testBit l
      let s2 := added.foldl (fun s l => setStaLink st l (fun _ => fresh) s) s1
      let s3 := ((bitList 3 x.links).filter fun l => !(u8 p 3).testBit l).foldl (fun s l => forgetLink st l s) s2
      (evalParks st s3, okR)

/-- Drop every queued owner of one of a station's queues. -/
def flushQ (st a : Nat) (s : State) : State :=
  setAcRound a (Drr.leave st)
    (setQ (.sta st a) [] ((getQ s (.sta st a)).foldl (fun s e => dropStaAdmin st a e.h s) s))

/-- Drop a station's launch-queue frames that have not started. -/
def flushLaunch (st l : Nat) (s : State) : State :=
  let l0 := (getRl s l).launch.filter (·.sta = st)
  let s1 := setRl l (fun r => { r with launch := r.launch.filter (·.sta != st) }) s
  l0.foldl (fun s x => dropStaAdmin st x.ac x.h (leaveLaunch l x s)) s1

/-- STA_REMOVE: runs until its started frames are done. -/
def staRemoveCmd (q : Req) (s : State) : State × Option Reply :=
  let st := u16 q.payload 0
  match staArg q s with
  | some r => (s, some r)
  | none =>
    if (getSta s st).state != .active then (s, some (errR stWrongState))
    else
      let s1 := raiseTo (.agents [(getSta s st).agent]) 0x0981 st (toLe 1 2)
        (setSta st (fun x => { x with state := .removing, parked := 0 }) s)
      let s2 := (List.range 4).foldl (fun s a => flushQ st a s) s1
      let s3 := (List.range 3).foldl (fun s l => flushLaunch st l s) s2
      let s4 := settleSta st s3
      if (getSta s4 st).state = .free then (s4, some okR) else (s4, none)

/-- STA_FLUSH. -/
def staFlushCmd (q : Req) (s : State) : State × Reply :=
  let st := u16 q.payload 0
  match staArg q s with
  | some r => (s, r)
  | none =>
    if u8 q.payload 2 = 0 then (s, inv 2)
    else if (getSta s st).state != .active then (s, errR stWrongState)
    else ((bitList 4 (u8 q.payload 2)).foldl (fun s a => flushQ st a s) s, okR)

def rateBytes (r : RateW) : Bytes := toLe 3 r.byteTime ++ toLe 1 r.agg ++ toLe 2 r.ovh

/-- One link's part of STA_STATUS_GET. -/
def staLinkBytes (s : State) (x : Sta) (l : Nat) : Bytes :=
  let y := staLink x l
  let src := if y.rate.isNone then 0 else if rateOld s l y then 2 else 1
  toLe 1 (match y.ps with | .awake => 0 | .doze => 1 | .period => 2) ++ toLe 1 y.spMask ++ toLe 2 y.spLeft ++
    rateBytes (rateInUse s x l).1 ++ toLe 1 src ++ zeros 1 ++ toLe 4 y.win.limit ++ toLe 4 y.win.sent ++
    toLe 4 y.win.reserved ++ toLe 8 y.win.avail

/-- STA_STATUS_GET. -/
def staStatusCmd (q : Req) (s : State) : State × Reply :=
  let st := u16 q.payload 0
  let x := getSta s st
  match staArg q s with
  | some r => (s, r)
  | none =>
    (s, okD (toLe 1 (match x.state with | .free => 0 | .active => 1 | .removing => 2) ++ toLe 1 x.links ++
      toLe 2 x.acLinks ++ toLe 1 x.parked ++ zeros 3 ++
      ((List.range 4).flatMap fun a => toLe 4 (getQ s (.sta st a)).length) ++
      ((List.range 4).flatMap fun a => toLe 4 ((getAcRound s a).def st)) ++
      ((List.range 3).flatMap fun l => staLinkBytes s x l)))

/-- STA_COUNTERS_GET. -/
def staCountersCmd (q : Req) (s : State) : State × Reply :=
  let p := q.payload
  let id := u16 p 2
  let get (g i n : Nat) : State × Reply :=
    let r := readCounters g i n (u8 p 1 = 1) s
    (r.2, okD r.1)
  if u8 p 0 ≤ 3 && u8 p 1 > 1 then (s, inv 1)
  else
    match u8 p 0 with
    | 0 =>
      if id ≥ nStations s then (s, inv 2)
      else if (getSta s id).agent != agentOf q s then (s, errAt stNotOwner 2)
      else get cSta id 13
    | 1 => if id ≥ 3 then (s, inv 2) else get cRl id 11
    | 2 => if portCodeOk s id then get cStaPort id 10 else (s, inv 2)
    | 3 => get cRadio 0 2
    | _ => (s, inv 0)

/-- Admission is open: the block runs, and no entry to a low-power state or quiesce is in progress. -/
def admission (s : State) : Bool :=
  s.sys.phase = 2 && s.pwr.mode = .active && !s.sys.quiescing && !s.sys.quiesced

/-- Enable a link (R358); while admission is closed its 1,024 beats of upstream credit wait for it to open (R55, R507). -/
def rlEnable (l : Nat) (s : State) : State :=
  let now := nowNs s
  let s1 := setRl l (fun r => { r with
    enabled := true
    unfin := []
    win := { avail := now }
    held := if admission s then 0 else 1024
    upCredit := if admission s then 1024 else 0 }) s
  let f (st : Nat) (s : State) : State :=
    if (getSta s st).state = .active && (getSta s st).links.testBit l then
      setStaLink st l (fun y => { y with win := { avail := now }, rate := none, stale := false }) s
    else s
  evalAllParks (raise0 0x0983 (0x100 + l) (toLe 1 1) (s1.sta.keys.foldl (fun s st => f st s) s1))

/-- Release a frame that a disabled link held, in RL_DISABLE_DROPS. -/
def rlDrop (l st a h : Nat) (s : State) : State :=
  releaseSta h st a (bump cStaPort (ingressOf s h) 6 (bump cRl l 7 s))

/-- Disable a link (R359). -/
def rlDisable (l : Nat) (s : State) : State :=
  let r := getRl s l
  let s1 := r.launch.foldl
    (fun s x => rlDrop l x.sta x.ac x.h (leaveLaunch l x s)) s
  let s2 := r.unfin.foldl (fun s u => rlDrop l u.sta u.ac u.h s) s1
  let off := setRl l (fun r => { r with
    enabled := false, launch := [], unfin := [], upCredit := 0, held := 0, offAt := some s.time.cycle }) s2
  let s3 := r.launch.foldl (fun s x => forgetLink x.sta l s) off
  let s4 := raise0 0x0983 (0x100 + l) (toLe 1 0 ++ zeros 3 ++ toLe 4 (r.launch.length + r.unfin.length)) s3
  s4.sta.keys.foldl (fun s st => settleSta st s) (evalAllParks s4)

/-- RL_CONFIG. -/
def rlConfigCmd (q : Req) (s : State) : State × Reply :=
  let p := q.payload
  let l := u8 p 0
  match firstErr [(l ≥ 3, inv 0), (u8 p 1 > 1, inv 1), (u8 p 2 > 7, inv 2), (le p 4 3 = 0, inv 4), (u8 p 7 = 0, inv 7),
      (u16 p 16 < 64 || u16 p 16 > 10336, inv 16)] with
  | some r => (s, r)
  | none =>
    let s1 := setRl l (fun r => { r with
      upTb := some (u8 p 2)
      defRate := ⟨le p 4 3, u8 p 7, u16 p 8⟩
      rateTo := u16 p 12
      doneTo := u16 p 14
      maxDn := u16 p 16 }) s
    if (getRl s l).enabled = (u8 p 1 = 1) then (s1, okR)
    else if u8 p 1 = 1 then (rlEnable l s1, okR) else (rlDisable l s1, okR)

/-- RL_STATUS_GET. -/
def rlStatusCmd (q : Req) (s : State) : State × Reply :=
  let l := u8 q.payload 0
  let r := getRl s l
  if l ≥ 3 then (s, inv 0)
  else
    (s, okD (toLe 1 (b2n r.enabled) ++ toLe 1 r.launch.length ++ toLe 2 r.unfin.length ++ toLe 4 r.win.limit ++
      toLe 4 r.win.sent ++ toLe 4 r.win.reserved ++ toLe 8 r.win.avail ++ toLe 4 r.upCredit ++ zeros 4))

/-! ## The meanings -/

def execFbRate (m : Bytes) (s : State) : Out := .next (clocked s (fbRateMsg m s))
def execFbCredit (m : Bytes) (s : State) : Out := .next (clocked s (fbCreditMsg m s))
def execFbPs (m : Bytes) (s : State) : Out := .next (clocked s (fbPsMsg m s))
def execRateStale (st l : Nat) (s : State) : Out := .next (clocked s (rateStales st l s))
def execStationDecision (s : State) : Out := .next (stationDecide s)
def execDnStageDone (l : Nat) (s : State) : Out := .next (clocked s (stageDone l s))
def execDnFrameStart (l : Nat) (s : State) : Out := .next (clocked s (frameStart l s))
def execDnDone (l tag status : Nat) (s : State) : Out := .next (clocked s (doneReport l tag status s))
def execDnDoneTimeout (l tag : Nat) (s : State) : Out := .next (clocked s (doneTimeout l tag s))
def execStaSet (s : State) : Out := .next (immediate 0x0901 staSetCmd s)
def execStaRemove (s : State) : Out := .next (longRunning 0x0902 staRemoveCmd s)
def execStaFlush (s : State) : Out := .next (immediate 0x0903 staFlushCmd s)
def execStaStatusGet (s : State) : Out := .next (immediate 0x0904 staStatusCmd s)
def execStaCountersGet (s : State) : Out := .next (immediate 0x0905 staCountersCmd s)
def execRlConfig (s : State) : Out := .next (immediate 0x0906 rlConfigCmd s)
def execRlStatusGet (s : State) : Out := .next (immediate 0x0907 rlStatusCmd s)

end Sys2Proof.Machine
end

