-- ==== Sys2Proof/Machine/Channels.lean ====
section
/-! DEFINITION. The host channels' rings, sends, deliveries and vectors (R320-R350). -/

namespace Sys2Proof.Machine

open Sys2Proof

/-- The host port issues nothing more (R510). -/
def stopped (s : State) : Bool := s.sys.quiesced

/-- Admission has stopped: step 1 of R452, or of SYS_QUIESCE. -/
def draining (s : State) : Bool := s.sys.quiescing || s.sys.quiesced || s.pwr.mode = .entering

def chPort (c : Nat) : Nat := 0x200 + c
def cCh : Nat := 0x80

def ringOf (s : State) (c : Nat) (tx : Bool) (r : Nat) : RingS := (if tx then (getCh s c).tx else (getCh s c).rx).getD r {}

def setRing (c : Nat) (tx : Bool) (r : Nat) (f : RingS → RingS) (s : State) : State :=
  setCh c (fun x => if tx then { x with tx := x.tx.upd r {} f } else { x with rx := x.rx.upd r {} f }) s

/-- An access lies wholly inside a window that the channel's agent may use (R321). -/
def chOk (s : State) (c a n : Nat) : Bool := windowOk s (getCh s c).agent a n

def raiseCh (c code : Nat) (d : Bytes) (s : State) : State := raiseTo (.agents [(getCh s c).agent]) code (chPort c) d s

def chModeNum : ChMode → Nat
  | .disabled => 0
  | .enabled => 1
  | .quarantined => 2
  | .resetting => 3

def chStateEvent (c : Nat) (s : State) : State :=
  raiseCh c 0x0881 (toLe 1 (chModeNum (getCh s c).state) ++ toLe 1 (getCh s c).cause) s

/-- Count a channel's drop, per channel and per ingress port code (R352). -/
def chDrop (c k ingress : Nat) (s : State) : State := countAt (chDropAt c k ingress) s

def chDropN (c k ingress : Nat) : Nat → State → State
  | 0, s => s
  | n + 1, s => chDropN c k ingress n (chDrop c k ingress s)

/-! ## Vectors (R344, R345) -/

def vecOf (s : State) (c v : Nat) : VecS := (getCh s c).vecs.getD v {}
def setVec (c v : Nat) (f : VecS → VecS) (s : State) : State := setCh c (fun x => { x with vecs := x.vecs.upd v {} f }) s

/-- Issue a vector's message when R344 lets it. -/
def judgeVec (c v : Nat) (s : State) : State :=
  let x := vecOf s c v
  if x.armed && !(getCh s c).mask.testBit v && x.addr != 0 && x.u > 0 && (x.u ≥ x.maxF || (x.maxD != 0 && x.due)) &&
      (getCh s c).state = .enabled && !stopped s then
    let s1 := perf 5 5 (bump cCh c 8 (setVec c v (fun y => { y with
      armed := false, sent := y.sent ++ [(y.u, y.due)], u := 0, due := false }) s))
    let r := if chOk s c x.addr 4 then sendMsg (.vector c v) c x.addr x.data s1 else (errBit 6 (violation s1), false)
    if r.2 then r.1 else lines (bump cCh c 9 (setVec c v (fun _ => x) r.1))
  else s

/-- A completion's write response was GOOD: its ring's vector counts it. -/
def vecCount (c v : Nat) (s : State) : State :=
  if v ≥ 8 then s
  else judgeVec c v (setVec c v (fun x => { x with u := x.u + 1, since := if x.u = 0 then nowNs s else x.since }) s)

/-- A message that announced completions has not arrived: the vector is armed with them in U, and with its MAX_DELAY passed
if it had. -/
def vecKeep (m : Nat × Bool) (x : VecS) : VecS := { x with armed := true, u := x.u + m.1, due := x.due || m.2 }

/-- The write of the oldest message of a vector has ended.  After an errored one the vector is judged again (R345). -/
def vecMsgDone (c v : Nat) (err : Bool) (s : State) : State :=
  let x := vecOf s c v
  let s1 := setVec c v (fun y => { y with sent := y.sent.tail }) s
  if err then
    judgeVec c v (lines (errBit 6 (bump cCh c 9 (setVec c v (vecKeep (x.sent.headD (0, false))) s1))))
  else s1

/-! ## Descriptor fetch (R326, R327) -/

/-- Descriptors of a TX ring that are fetched and belong to sends not finished. -/
def unfinished (s : State) (c r : Nat) : Nat := (((getCh s c).sends.filter (·.r = r)).map (·.descs.length)).sum

/-- A completion ring is full (R329). -/
def cqFull (g : RingS) : Bool := (g.written + 2 ^ 32 - g.cqCons) % 2 ^ 32 = g.entries

/-- A frame of the channel waits at the entry arbiter, so that no transmit descriptor is fetched (R26). -/
def chWaits (s : State) (c : Nat) : Bool := s.pipe.wait.any (·.port = chPort c)

def dFlags (d : Desc) : Nat := u16 d.data 10
def dLen (d : Desc) : Nat := u16 d.data 8
def dAddr (d : Desc) : Nat := u64 d.data 0

/-- A receive descriptor that is consumed without data (R340, R347). -/
def rxBad (s : State) (c mode : Nat) (d : Desc) : Bool :=
  dLen d < 64 || dAddr d % 64 != 0 || andNot (dFlags d) 4 != 0 || !allZero (slice d.data 12 12) ||
    (mode = 1 && u64 d.data 24 != 0) || !chOk s c (dAddr d) (dLen d)

/-- How many of the fetched descriptors a frame of `len` bytes takes, bad ones included. -/
def rxTake (s : State) (c mode : Nat) : List Desc → Nat → Option Nat
  | _, 0 => some 0
  | [], _ => none
  | d :: t, len =>
    (rxTake s c mode t (if rxBad s c mode d then len else len - dLen d)).map (· + 1)

/-- The bytes that a queue entry will deliver. -/
def deliverLen (s : State) (e : QE) : Nat := egressLen s e.h e.rewrite + (if e.fcs then 4 else 0)

/-- The fetched descriptors of a ring that the frames in delivery being read leave, and the records that those will write. -/
def rxLeft (s : State) (c r : Nat) : List Desc × Nat :=
  let g := ringOf s c false r
  ((getCh s c).rxReads.filter (·.r = r)).foldl (fun a y =>
    match rxTake s c g.mode a.1 (deliverLen s y.e) with
    | some n => (a.1.drop n, a.2 + 1 + ((a.1.take n).filter (rxBad s c g.mode)).length)
    | none => ([], a.2 + 1)) (g.fetched, 0)

/-- How many descriptors a ring may fetch now (R326).  A send in assembly is fetched to its end whatever the count; while no
further send may be fetched, one descriptor at a time.  In chain mode nothing bounds what the head frame needs (R341). -/
def fetchRoom (s : State) (c : Nat) (tx : Bool) (r : Nat) : Nat :=
  let g := ringOf s c tx r
  if draining s && (!tx || g.asm.isEmpty) then 0
  else if tx then
    if s.sys.phase != 2 || chWaits s c then 0
    else if g.asm.isEmpty then (if cqFull g then 0 else 16 - unfinished s c r)
    else if cqFull g || draining s then 1 else max 1 (16 - unfinished s c r)
  else
    let need : Bool := match getQ s (.ring c r) with
      | [] => false
      | e :: _ => (rxTake s c g.mode (rxLeft s c r).1 (deliverLen s e)).isNone
    if g.fetched.length < 64 then 64 - g.fetched.length
    else if need then (if g.mode = 2 then 1 else g.entries - g.fetched.length) else 0

/-- The requirements of CSUM_IP (R333). -/
def ipReq (d : Bytes) (l3 t : Nat) (v6 : Bool) : Bool :=
  let h := 4 * (u8 d l3 % 16)
  !v6 && 14 ≤ l3 && h ≥ 20 && l3 + h ≤ t && l3 + h ≤ 256

/-- The requirements of CSUM_L4 (R333). -/
def l4Req (d : Bytes) (l3 l4 t : Nat) (udp v6 : Bool) : Bool :=
  let h := if v6 then 40 else 4 * (u8 d l3 % 16)
  14 ≤ l3 && l3 + h ≤ 256 && l4 = l3 + h && l4 + (if udp then 8 else 20) ≤ t && l4 + (if udp then 7 else 17) < 256

/-- Write the IPv4 header checksum. -/
def putIpSum (d : Bytes) (l3 : Nat) : Bytes :=
  let z := putBe d (l3 + 10) 2 0
  putBe z (l3 + 10) 2 (csum16 (slice z l3 (4 * (u8 d l3 % 16))))

/-- Write the TCP or UDP checksum over its pseudo-header. -/
def putL4Sum (d : Bytes) (l3 l4 : Nat) (udp v6 : Bool) : Bytes :=
  let c := if udp then l4 + 6 else l4 + 16
  let z := putBe d c 2 0
  let n := d.length - l4
  let pseudo := (if v6 then slice d (l3 + 8) 32 else slice d (l3 + 12) 8) ++ toBe 4 n ++ toBe 4 (if udp then 17 else 6)
  let v := csum16 (pseudo ++ z.drop l4)
  putBe z c 2 (if udp && v = 0 then 0xFFFF else v)

/-- Segment `i` of `n` of a TSO send (R334). -/
def tsoSegment (d : Bytes) (h mss l3 l4 n i : Nat) (v6 : Bool) : Bytes :=
  let b := d.take h ++ slice d (h + i * mss) (min mss (d.length - h - i * mss))
  let b1 := if v6 then putBe b (l3 + 4) 2 (b.length - l3 - 40)
    else putBe (putBe b (l3 + 2) 2 (b.length - l3)) (l3 + 4) 2 (be d (l3 + 4) 2 + i)
  let b2 := putBe b1 (l4 + 4) 4 (be d (l4 + 4) 4 + i * mss)
  let fl := u8 d (l4 + 13)
  let fl1 := if i + 1 < n then andNot fl 0x09 else fl
  let fl2 := if i = 0 then fl1 else andNot fl1 0x80
  let b3 := overlay b2 (l4 + 13) (toLe 1 fl2)
  putL4Sum (if v6 then b3 else putIpSum b3 l3) l3 l4 false v6

/-- The frames that a send's data yield, none when it breaks R333 or R334. -/
def sendFrames (sop : Desc) (d : Bytes) : Option (List Bytes) :=
  let fl := dFlags sop
  let l3 := u8 sop.data 18
  let l4 := u8 sop.data 19
  let v6 := fl.testBit 6
  let udp := fl.testBit 5
  let mss := u16 sop.data 16
  if fl.testBit 7 then
    let h := l4 + 4 * (u8 d (l4 + 12) / 16)
    let p := d.length - h
    let n := max 1 ((p + mss - 1) / mss)
    let proto := if v6 then u8 d (l3 + 6) else u8 d (l3 + 9)
    if udp || proto != 6 || !l4Req d l3 l4 d.length false v6 || !(v6 || ipReq d l3 d.length v6) || h > 256 ||
        h > d.length || mss = 0 || mss > 10236 - h || n > 1024 || d.length > 262144 then none
    else some ((List.range n).map fun i => tsoSegment d h mss l3 l4 n i v6)
  else if (fl.testBit 3 && !ipReq d l3 d.length v6) || (fl.testBit 4 && !l4Req d l3 l4 d.length udp v6) then none
  else
    let d1 := if fl.testBit 3 then putIpSum d l3 else d
    some [if fl.testBit 4 then putL4Sum d1 l3 l4 udp v6 else d1]

/-- The offset of a descriptor's data in its send. -/
def dataOff (l : List Desc) (i : Nat) : Nat := ((l.take i).map dLen).sum

/-- How many bytes of a send's data have come back good without a gap from its start. -/
def gotPrefix (x : SendS) : Nat :=
  dataOff x.descs ((List.range x.descs.length).takeWhile fun i => dLen (x.descs.getD i ⟨0, []⟩) = 0 || x.got.contains i).length

/-- The frames that a send whose data has not all come back stands for: the segments of a TSO send once its header has
been read, else 1 (R335, R348, log 74). -/
def unreadFrames (x : SendS) : Nat :=
  let sop := x.descs.headD ⟨0, []⟩
  let l4 := u8 sop.data 19
  let n := gotPrefix x
  if x.tso && l4 + 13 ≤ n && l4 + 4 * (u8 x.data (l4 + 12) / 16) ≤ n then ((sendFrames sop x.data).map List.length).getD 1 else 1

/-- The frames of a send that have neither entered nor been counted: none of one that sends nothing, whose frame its
opening counted (R331, R335). -/
def framesLeft (x : SendS) : Nat :=
  if x.loaded then x.frames.length else if x.status = 0 || x.status = 2 then unreadFrames x else 0

/-- Steps 2 and 3 of R348: sends not entered are abandoned, and queued owners dropped. -/
def chEmpty (c : Nat) (s : State) : State :=
  let w := s.pipe.wait.filter (·.port = chPort c)
  let g := s.pipe.granted.filter (·.port = chPort c)
  let left := ((getCh s c).sends.map framesLeft).sum
  let s1 := chDropN c 7 (chPort c) (w.length + g.length + left) (s.updPipe fun p => { p with
    wait := p.wait.filter (·.port != chPort c)
    granted := p.granted.filter (·.port != chPort c) })
  let s2 := setCh c (fun x => { x with sends := [], tx := x.tx.map fun q => (q.1, { q.2 with asm := [], fetched := [] }) }) s1
  let s3 := (List.range 8).foldl (fun s r =>
    (getQ s (.ring c r)).foldl (fun s e => releaseOwner e.h (QKey.ring c r).owner (chDrop c 7 (ingressOf s e.h) s))
      s) s2
  let s4 := (List.range 8).foldl (fun s r => setQ (.ring c r) [] s) s3
  chLeave c s4

/-- Step 4 of R348: a frame whose data or completion writes are in flight, or which is being read, ends at their last response; one
with none in flight is dropped now.  One that had an errored data write counts as such (R347). -/
def chEndDeliv (c : Nat) (s : State) : State :=
  let f (s : State) (d : Deliv) : State :=
    if !d.wrote && d.writes = 0 then
      let s1 := setCh c (fun x => { x with deliv := x.deliv.filter (fun y => y.id != d.id) }) s
      if d.bad then s1
      else releaseOwner d.h (QKey.ring c d.r).owner (chDrop c (if d.err then 2 else 7) (ingressOf s d.h) s1)
    else setCh c (fun x => { x with deliv := mapIf x.deliv (·.id = d.id) fun y => { y with drop := true } }) s
  let g (s : State) (y : RxRead) : State := releaseOwner y.e.h (QKey.ring c y.r).owner (chDrop c 7 (ingressOf s y.e.h) (unpinBuf y.e.h s))
  let ready := (getCh s c).rxReads.filter (·.ready)
  let s1 := (getCh s c).deliv.foldl f s
  ready.foldl g (setCh c (fun x => { x with
    rxReads := (x.rxReads.filter (!·.ready)).map fun y => { y with drop := true } }) s1)

/-- What a channel that leaves ENABLED reads of descriptors and data is thrown away. -/
def chDropReads (c : Nat) (s : State) : State :=
  dropXfers (fun x => match x.purp with
    | .desc d _ _ => d = c
    | .txData d _ _ => d = c
    | _ => false) s

/-- What the channel has asked the host port to write: data, completion records and messages. -/
def chWrites (c : Nat) (p : Purp) : Bool :=
  match p with
  | .rxData d _ _ => d = c
  | .writeBack d _ _ _ => d = c
  | .msg (.vector d _) => d = c
  | _ => false

/-- A write of which nothing has been issued is taken back (R322, R349). -/
def takeBack (c : Nat) (s : State) (x : Xfer) : State :=
  match x.purp with
  | .rxData _ _ id => setCh c (fun y => { y with deliv := mapIf y.deliv (·.id = id) fun z => { z with writes := z.writes - 1 } }) s
  | .writeBack _ tx r id =>
    let s1 := setCh c (fun y => { y with
      deliv := if tx then y.deliv else
        mapIf y.deliv (fun z => y.wbs.any fun w => w.id = id && !w.tx && w.deliv = some z.id) fun z => { z with wrote := false }
      wbs := y.wbs.filter fun w => !(w.id = id && w.tx = tx) }) s
    setRing c tx r (fun g => { g with written := (g.written + 2 ^ 32 - 1) % 2 ^ 32 }) s1
  | .msg (.vector _ v) =>
    setVec c v (fun y => { vecKeep (y.sent.getLastD (0, false)) y with sent := y.sent.dropLast }) s
  | _ => s

/-- The host port issues nothing more for a channel: what it has issued completes, and the rest is taken back. -/
def haltWrites (c : Nat) (s : State) : State :=
  let idle := s.host.xfers.filter fun x => chWrites c x.purp && x.out = 0
  let s1 := s.updHost fun h => { h with
    xfers := (h.xfers.filter fun x => !(chWrites c x.purp && x.out = 0)).map fun x =>
      if chWrites c x.purp then { x with todo := [] } else x }
  idle.reverse.foldl (takeBack c) s1

/-- The fetches and writes of a channel stop (R348, R349). -/
def chStop (c : Nat) (s : State) : State := chDropReads c (chEndDeliv c (haltWrites c (chEmpty c s)))

/-- A quarantine cause stops an ENABLED channel (R349). -/
def quarantine (c cause : Nat) (s : State) : State :=
  if (getCh s c).state != .enabled then s
  else
    let s1 := setCh c (fun x => { x with state := .quarantined, cause := cause, events := x.events ||| 1 }) s
    chStateEvent c (chStop c s1)

/-- Issue the read of descriptors; one outside the channel's windows is an errored fetch (R40, R347). -/
def issueFetch (c : Nat) (tx : Bool) (r a n : Nat) (s : State) : State :=
  if chOk s c a (32 * n) then
    perf 5 1 (startXfer (.desc c tx r) false c a (32 * n) []
      (setRing c tx r (fun g => { g with fetching := some (nextXfer s, n) }) s))
  else quarantine c 1 (lines (violation s))

/-- Fetch descriptors of a ring as far as R326 and R327 allow. -/
def fetchPump (c : Nat) (tx : Bool) (r : Nat) (s : State) : State :=
  let g := ringOf s c tx r
  let room := fetchRoom s c tx r
  if (getCh s c).state != .enabled || g.mode = 0 || g.fetching.isSome || room = 0 || stopped s then s
  else if g.mode = 1 then
    let posted := (g.prod + 2 ^ 32 - g.next) % 2 ^ 32
    let i := g.next % g.entries
    let n := min (min posted room) (min 16 (g.entries - i))
    if n = 0 then s else issueFetch c tx r (g.base + 32 * i) n s
  else if g.parked then s
  else issueFetch c tx r g.cur 1 (setRing c tx r (fun g => { g with pending := false }) s)

/-! ## Sends (R330-R336) -/

/-- A transmit descriptor breaks its layout (R330, R347). -/
def descBad (mode : Nat) (first : Bool) (d : Desc) : Bool :=
  dFlags d ≥ 4096 || u32 d.data 20 != 0 || (mode = 1 && u64 d.data 24 != 0) ||
    (!first && (bits (dFlags d) 11 3 != 0 || u32 d.data 12 != 0 || u16 d.data 16 != 0 || u16 d.data 18 != 0))

def setSend (c id : Nat) (f : SendS → SendS) (s : State) : State :=
  setCh c (fun x => { x with sends := mapIf x.sends (·.id = id) f }) s

/-- A send's first failure is its status. -/
def failSend (st : Nat) (x : SendS) : SendS := if x.status = 0 then { x with status := st } else x

/-- The transmit completion record of a send (R335). -/
def txRecord (g : RingS) (x : SendS) : Bytes :=
  let ref := (x.descs.head?.map (·.ref)).getD 0
  toLe 1 x.status ++ toLe 1 (b2n (g.written / g.entries % 2 = 0)) ++ toLe 2 x.descs.length ++ toLe 2 x.entered ++
    zeros 2 ++ toLe 4 x.firstSeq ++ toLe 4 x.total ++ zeros 8 ++ toLe 8 (if g.mode = 1 then ref % 2 ^ 32 else ref)

/-- The completion write of a delivery has failed: the destination counts, its owner is released, and the channel is
quarantined (R347).  A frame that a force ends counts in CH_ADMIN_DROPS (R455). -/
def completionFailed (c r : Nat) (d : Deliv) (s : State) : State :=
  let s1 := quarantine c 3 (setCh c (fun y => { y with deliv := y.deliv.filter (fun z => z.id != d.id) }) s)
  if d.bad then s1 else releaseOwner d.h (QKey.ring c r).owner (chDrop c (if d.drop then 7 else 2) (ingressOf s d.h) s1)

/-- Issue a completion record's write (R329, R336, R341).  One outside the channel's windows is not issued, and is treated as
an errored write (R40). -/
def writeRecord (c : Nat) (tx : Bool) (r id count len : Nat) (deliv : Option Nat) (rec_ : Bytes) (s : State) : State :=
  let g := ringOf s c tx r
  let a := g.cqBase + 32 * (g.written % g.entries)
  let s1 := setRing c tx r (fun g => { g with written := (g.written + 1) % 2 ^ 32 }) s
  let w : WbS := { id := id, tx := tx, r := r, count := count, deliv := deliv, len := len }
  if chOk s1 c a 32 then
    startXfer (.writeBack c tx r id) true c a 32 rec_ (setCh c (fun x => { x with wbs := x.wbs ++ [w] }) s1)
  else
    let s2 := lines (violation s1)
    match deliv.bind fun i => (getCh s2 c).deliv.find? (·.id = i) with
    | some d => completionFailed c r d s2
    | none => quarantine c 3 s2

/-- A send has nothing left to do but its completion. -/
def SendS.finished (x : SendS) : Bool := x.frames.isEmpty && x.reads = 0 && x.waiting = 0 && (x.loaded || x.status != 0)

/-- Complete the sends of a ring, in descriptor order, that are finished (R332, R336). -/
def completeTx : Nat → Nat → Nat → State → State
  | 0, _, _, s => s
  | n + 1, c, r, s =>
    match (getCh s c).sends.find? (·.r = r) with
    | none => s
    | some x =>
      if x.finished && !cqFull (ringOf s c true r) && (getCh s c).state = .enabled && !stopped s then
        let s1 := setCh c (fun y => { y with sends := y.sends.filter (fun z => z.id != x.id) }) s
        let s2 := if x.status = 1 then bump cCh c 4 s1 else s1
        completeTx n c r (writeRecord c true r x.id x.descs.length x.total none (txRecord (ringOf s2 c true r) x) s2)
      else s

/-- Finish the sends of a ring and fetch on. -/
def txGoOn (c r : Nat) (s : State) : State :=
  fetchPump c true r (completeTx (getCh s c).sends.length c r s)

/-- Read the data of a send's descriptors, in order. -/
def readSend (c r id : Nat) : List Desc → Nat → State → State
  | [], _, s => s
  | d :: t, i, s =>
    if dLen d = 0 then readSend c r id t (i + 1) s
    else readSend c r id t (i + 1) (startXfer (.txData c r (64 * id + i)) false c (dAddr d) (dLen d) []
      (setSend c id (fun x => { x with reads := x.reads + 1 }) s))

/-- A send is complete as descriptors: judge it, and read its data (R331, R335, R347).  `broken` says that its run of
descriptors broke R331. -/
def openSend (c r : Nat) (l : List Desc) (broken : Bool) (s : State) : State :=
  let g := ringOf s c true r
  let total := (l.map dLen).sum
  let sop := l.headD ⟨0, []⟩
  let fl := dFlags sop
  let tso := fl.testBit 7
  let bad := broken || (l.zipIdx.any fun d => descBad g.mode (d.2 = 0) d.1)
  let out := l.any fun d => dLen d != 0 && !chOk s c (dAddr d) (dLen d)
  let id := (getCh s c).nextId
  let st := if bad then 3 else if total = 0 then 1
    else if total < 14 || (!tso && total > 10236) then 5
    else if tso && total > 262144 then 3 else if out then 4 else 0
  let x : SendS := { id := id, r := r, descs := l, total := total, status := st, data := if st = 0 then zeros total else []
                     tso := tso, tc := bits fl 11 9, tag := u32 sop.data 12, tsReq := fl.testBit 8 }
  let s1 := setCh c (fun y => { y with sends := y.sends ++ [x], nextId := id + 1 }) s
  match st with
  | 0 => readSend c r id l 0 s1
  | 1 => s1
  | 4 => chDrop c 1 (chPort c) (lines (violation s1))
  | _ => chDrop c 1 (chPort c) s1

/-- A transmit descriptor is handled (R331, R347). -/
def txDesc (c r : Nat) (d : Desc) (s : State) : State :=
  let asm := (ringOf s c true r).asm
  let sop := (dFlags d).testBit 0
  let eop := (dFlags d).testBit 1
  let keep (l : List Desc) (s : State) : State := setRing c true r (fun g => { g with asm := l }) s
  let fresh (s : State) : State :=
    if !sop then openSend c r [d] true (keep [] s)
    else if eop then openSend c r [d] false (keep [] s)
    else keep [d] s
  if asm.isEmpty then fresh s
  else if sop || asm.length ≥ 32 then fresh (openSend c r asm true (keep [] s))
  else if eop then openSend c r (asm ++ [d]) false (keep [] s)
  else keep (asm ++ [d]) s

/-- A data read of a send has returned (R335). -/
def txDataDone (c r pid : Nat) (x : Xfer) (s : State) : State :=
  let id := pid / 64
  match (getCh s c).sends.find? (·.id = id) with
  | none => s
  | some v =>
    let v1 := { v with reads := v.reads - 1
                       got := if x.err then v.got else v.got ++ [pid % 64]
                       data := if x.err then v.data else overlay v.data (dataOff v.descs (pid % 64)) x.data }
    let v2 := if x.err then failSend 2 v1 else v1
    let s1 := setSend c id (fun _ => v2) s
    if v2.reads != 0 then s1
    else if v2.status != 0 then
      txGoOn c r (chDropN c 0 (chPort c) (unreadFrames v2) (setSend c id (fun y => { y with loaded := true, data := [] }) s1))
    else
      match sendFrames (v2.descs.headD ⟨0, []⟩) v2.data with
      | none =>
        txGoOn c r (chDrop c 1 (chPort c) (setSend c id (fun y => { failSend 3 y with loaded := true, data := [] }) s1))
      | some fr => setSend c id (fun y => { y with loaded := true, data := [], frames := fr }) s1

/-- The next ring of a channel, after the last served, whose oldest send has a frame ready (R332). -/
def readyRing (s : State) (c : Nat) : Option (Nat × SendS) :=
  let x := getCh s c
  (List.range 8).findSome? fun i =>
    let r := (x.turn + 1 + i) % 8
    match x.sends.find? (·.r = r) with
    | some v => if v.loaded && !v.frames.isEmpty && v.waiting = 0 then some (r, v) else none
    | none => none

/-- Bring a channel's next frame to the entry arbiter, judged by the policer and held by the shaper (R332, R346). -/
def offerFrames : Nat → Nat → State → State
  | 0, _, s => s
  | n + 1, c, s =>
    if chWaits s c || (s.pipe.granted.any (·.port = chPort c)) || (getCh s c).state != .enabled || stopped s ||
        !(getChSch s c).txShaper.open then s
    else
      match readyRing s c with
      | none => s
      | some (r, v) =>
        match v.frames with
        | [] => s
        | d :: rest =>
          let j := (getCh s c).pol.judge (nowNs s) d.length
          let s1 := setCh c (fun x => { x with pol := j.2, turn := r }) s
          if j.1 then
            let a : Arr := { port := chPort c, data := d, tb := 7, chsta := c, tc := v.tc, tag := v.tag, tsReq := v.tsReq
                             send := some v.id }
            (setSend c v.id (fun y => { y with frames := rest, waiting := y.waiting + 1 }) s1).updPipe fun p =>
              { p with wait := p.wait ++ [a] }
          else
            let s2 := chDrop c 5 (chPort c) (setSend c v.id (fun y => { failSend 7 y with frames := rest }) s1)
            offerFrames n c (txGoOn c r s2)

/-- How many policer drops one offer may run through. -/
def offerAll (s : State) : State :=
  s.ch.keys.foldl (fun s c =>
    if (getCh s c).sends.isEmpty then s else offerFrames (((getCh s c).sends.map (·.frames.length)).sum + 1) c s) s

/-- A frame of a send no longer waits: every TX ring of the channel fetches on (R26, R326). -/
def fetchTx (c : Nat) (s : State) : State := (List.range 8).foldl (fun s r => fetchPump c true r s) s

/-- A frame of a send has entered (R332, R335, R399). -/
def txEntered (c id len seq : Nat) (s : State) : State :=
  match (getCh s c).sends.find? (·.id = id) with
  | none => s
  | some v =>
    let s1 := setSend c id (fun y => { y with waiting := y.waiting - 1, entered := y.entered + 1
                                              firstSeq := if y.entered = 0 then seq else y.firstSeq }) s
    let s2 := bumpN cCh c 2 len (bump cCh c 1 (setChSch c (fun x => { x with txShaper := x.txShaper.charge len }) s1))
    fetchTx c <| txGoOn c v.r (perf 5 2 (if v.tso then bump cCh c 3 s2 else s2))

/-- A frame of a send found no buffer, which `count` counts (R335). -/
def txNoBuffer (c id : Nat) (count : State → State) (s : State) : State :=
  match (getCh s c).sends.find? (·.id = id) with
  | none => s
  | some v => fetchTx c <| txGoOn c v.r (count (setSend c id (fun y => { failSend 6 y with waiting := y.waiting - 1 }) s))

/-! ## Doorbells and the chain walk (R324, R327) -/

/-- A descriptor of either direction is handled. -/
def handleDesc (c : Nat) (tx : Bool) (r : Nat) (d : Desc) (s : State) : State :=
  if tx then txDesc c r d s else setRing c false r (fun g => { g with fetched := g.fetched ++ [d] }) s

/-- The read of descriptors has returned. -/
def descDone (c : Nat) (tx : Bool) (r : Nat) (x : Xfer) (s : State) : State :=
  let g := ringOf s c tx r
  match g.fetching with
  | none => s
  | some (id, n) =>
    if id != x.id then s
    else
      let s1 := setRing c tx r (fun g => { g with fetching := none }) s
      if (getCh s1 c).state != .enabled then s1
      else if x.err then quarantine c 1 s1
      else if g.mode = 1 then
        let l := (List.range n).map fun i => (⟨(g.next + i) % 2 ^ 32, slice x.data (32 * i) 32⟩ : Desc)
        let s2 := setRing c tx r (fun g => { g with next := (g.next + n) % 2 ^ 32 }) s1
        let s3 := l.foldl (fun s d => handleDesc c tx r d s) s2
        if tx then txGoOn c r s3 else fetchPump c tx r s3
      else
        let d : Desc := ⟨g.cur, slice x.data 0 32⟩
        let s2 := if g.handled then s1
          else handleDesc c tx r d (setRing c tx r (fun g => { g with handled := true }) s1)
        let goOn (s : State) : State := if tx then txGoOn c r s else fetchPump c tx r s
        if !(u16 d.data 10).testBit 2 then
          let a := u64 d.data 24
          if a % 32 != 0 || !chOk s2 c a 32 then quarantine c 4 s2
          else goOn (setRing c tx r (fun g => { g with cur := a, handled := false }) s2)
        else if (ringOf s2 c tx r).pending then goOn s2
        else goOn (setRing c tx r (fun g => { g with parked := true }) s2)

/-- A doorbell write (R324). -/
def doorbell (c : Nat) (tx : Bool) (r value : Nat) (s : State) : State :=
  let g := ringOf s c tx r
  if (getCh s c).state != .enabled || g.mode = 0 || s.sys.quiescing || s.sys.quiesced then
    bump cCh c 10 (setCh c (fun x => { x with events := x.events ||| 4 }) s)
  else if g.mode = 1 then
    if value = g.prod then s
    else if sext 32 (value + 2 ^ 32 - g.prod) < 0 || (value + 2 ^ 32 - g.cons) % 2 ^ 32 > g.entries then quarantine c 5 s
    else fetchPump c tx r (setRing c tx r (fun g => { g with prod := value }) s)
  else fetchPump c tx r (setRing c tx r (fun g => { g with pending := true, parked := false }) s)

/-! ## Receive (R340-R343, R395, R396) -/

/-- A ring's head may be dequeued (R341): what the frames dequeued before it will take is no longer there. -/
def rxEligible (s : State) (c r : Nat) (e : QE) : Bool :=
  let g := ringOf s c false r
  let left := rxLeft s c r
  match rxTake s c g.mode left.1 (deliverLen s e) with
  | none => false
  | some n =>
    let bad := ((left.1.take n).filter (rxBad s c g.mode)).length
    (g.written + 2 ^ 32 - g.cqCons) % 2 ^ 32 + ((getCh s c).deliv.filter fun d => d.r = r && !d.wrote).length + left.2 + 1 + bad ≤
      g.entries

/-- Drop the heads of a ring that can never be delivered, and those of a RETIRING generation (R250, R341). -/
def pruneRing : Nat → Nat → Nat → State → State
  | 0, _, _, s => s
  | n + 1, c, r, s =>
    match getQ s (.ring c r) with
    | [] => s
    | e :: _ =>
      let g := ringOf s c false r
      if isRetiring s (genOf s e.h) then
        pruneRing n c r (popRing c r (releaseOwner e.h (QKey.ring c r).owner (bump 0x50 (ingressOf s e.h) 11 s)))
      else if g.mode = 1 && (rxLeft s c r).1.length ≥ g.entries &&
          (rxTake s c g.mode ((rxLeft s c r).1.take g.entries) (deliverLen s e)).isNone then
        pruneRing n c r (popRing c r (releaseOwner e.h (QKey.ring c r).owner (chDrop c 8 (ingressOf s e.h) s)))
      else s

/-- The cost of a ring's head at the lower level, none while it has no eligible head (R395). -/
def ringHead (s : State) (c r : Nat) : Option Nat :=
  ((getQ s (.ring c r)).head?).bind fun e => if rxEligible s c r e then some (deliverLen s e) else none

/-- Nominate the ring whose head a channel would dequeue next (R395): the dequeue charges it.  A nomination stands while the ring's
head may be dequeued and its deficit covers the cost.  A ring whose descriptors cannot hold its head fetches on (R326). -/
def nominateRing (c : Nat) (s : State) : State :=
  let s1 := (List.range 8).foldl (fun s r => fetchPump c false r (pruneRing (getQ s (.ring c r)).length c r s)) s
  let x := getChSch s1 c
  if x.nomRing.any fun r => (ringHead s1 c r).any (· ≤ x.round.def r) then s1
  else
    let d := x.round.select (ringHead s1 c) (fun r => x.ringQ.getD r 0) (min 4 x.round.active.length)
    setChSch c (fun y => { y with round := d.2, nomRing := d.1 }) s1

/-- The frames of a channel in delivery. -/
def inDelivery (x : Ch) : Nat := (x.deliv.filter (!·.bad)).length + x.rxReads.length

/-- The cost of a channel's head at the upper level, none while the channel is not eligible. -/
def chHead (s : State) (c : Nat) : Option Nat :=
  let x := getChSch s c
  match x.nomRing with
  | none => none
  | some r =>
    if (getCh s c).state = .enabled && x.rxShaper.open && inDelivery (getCh s c) < 16 then
      ((getQ s (.ring c r)).head?).map (deliverLen s)
    else none

/-- Spread bytes over descriptors: their writes. -/
def rxWrites (c r id : Nat) : List Desc → Bytes → State → State
  | [], _, s => s
  | d :: t, b, s =>
    if b.isEmpty then s
    else
      let n := min (dLen d) b.length
      rxWrites c r id t (b.drop n)
        (startXfer (.rxData c r id) true c (dAddr d) n (b.take n)
          (setCh c (fun x => { x with deliv := mapIf x.deliv (·.id = id) fun y => { y with writes := y.writes + 1 } }) s))

/-- The receive completion record of a frame, without PHASE (R342). -/
def rxRecord (e : QE) (b : Buf) (d : Bytes) (descs ref mode : Nat) : Bytes :=
  let fl := csumFlags (if e.fcs then d.take (d.length - 4) else d) + 16 * b2n e.fcs + 32 * b2n e.wake + 64 * b2n e.hashed
  toLe 1 0 ++ toLe 1 fl ++ toLe 2 d.length ++ toLe 4 e.hash ++ toLe 4 (recSeq b.record) ++ toLe 2 (u16 b.record 6 % 32768) ++
    toLe 1 descs ++ toLe 1 (u8 b.record 41 % 8) ++ toLe 4 (u32 b.record 24) ++ toLe 4 (u32 b.record 18) ++
    toLe 8 (if mode = 1 then ref % 2 ^ 32 else ref)

/-- The record of a bad descriptor (R342, R347). -/
def badRecord (ref mode : Nat) : Bytes := toLe 1 1 ++ zeros 13 ++ toLe 1 1 ++ zeros 9 ++ toLe 8 (if mode = 1 then ref % 2 ^ 32 else ref)

/-- Write the completion records of a ring that are due, in the order its descriptors finish (R329, R341). -/
def completeRx : Nat → Nat → Nat → State → State
  | 0, _, _, s => s
  | n + 1, c, r, s =>
    match (getCh s c).deliv.find? (fun d => d.r = r && !d.wrote) with
    | none => s
    | some d =>
      let g := ringOf s c false r
      if d.writes != 0 || d.err || d.drop || cqFull g || (getCh s c).state != .enabled || stopped s then s
      else
        let s1 := setCh c (fun x => { x with deliv := mapIf x.deliv (·.id = d.id) fun y => { y with wrote := true } }) s
        let rec_ := overlay d.record 1 (toLe 1 (u8 d.record 1 + b2n (g.written / g.entries % 2 = 0)))
        completeRx n c r (writeRecord c false r d.id d.descs d.len (some d.id) rec_ s1)

/-- A dequeued head that fails its check is dropped (R206). -/
def rxFailed (c r : Nat) (e : QE) (kind : Nat) (s : State) : State :=
  releaseOwner e.h (QKey.ring c r).owner (checkFail e.h e.oseq kind (chPort c) (unpinBuf e.h s))

/-- Deliver a dequeued, pinned and verified head (R341). -/
def deliverWith (c r : Nat) (e : QE) (s1 : State) : State :=
      let g := ringOf s1 c false r
      let x := getCh s1 c
      match getBuf s1 e.h, rxTake s1 c g.mode g.fetched (deliverLen s1 e) with
      | some b, some n =>
        let body := egressBytes s1 b e.rewrite
        let d := if e.fcs then body ++ toLe 4 (crc32 body) else body
        let used := g.fetched.take n
        let good := used.filter fun y => !rxBad s1 c g.mode y
        let bads := used.filter (rxBad s1 c g.mode)
        let id := x.nextId
        let ref := (good.head?.map (·.ref)).getD 0
        let item : Deliv := { id := id, r := r, h := e.h, oseq := e.oseq, descs := good.length, len := d.length
                              record := rxRecord e b d good.length ref g.mode, writes := 0, wake := e.wake }
        let marks : List Deliv := bads.zipIdx.map fun y =>
          { id := id + 1 + y.2, r := r, bad := true, h := 0, oseq := 0, descs := 1, len := 0, record := badRecord y.1.ref g.mode
            writes := 0 }
        let s2 := setRing c false r (fun g => { g with fetched := g.fetched.drop n }) (unpinBuf e.h s1)
        let s3 := bumpN cCh c 7 bads.length
          (setCh c (fun y => { y with deliv := y.deliv ++ marks ++ [item], nextId := id + 1 + bads.length }) s2)
        let s4 := rxWrites c r id good d s3
        fetchPump c false r (completeRx (getCh s4 c).deliv.length c r s4)
      | _, _ => releaseOwner e.h (QKey.ring c r).owner (chDrop c 7 (ingressOf s1 e.h) (unpinBuf e.h s1))

/-- The frames of a ring that have been read are delivered, in the order of their dequeues. -/
def rxNext : Nat → Nat → Nat → State → State
  | 0, _, _, s => s
  | n + 1, c, r, s =>
    match (getCh s c).rxReads.find? (·.r = r) with
    | some y =>
      if y.ready then
        rxNext n c r (deliverWith c r y.e (setCh c (fun x => { x with rxReads := x.rxReads.filter (· != y) }) s))
      else s
    | none => s

/-- Frames of a ring that have been read go on. -/
def rxGoOn (c r : Nat) (s : State) : State := rxNext (getCh s c).rxReads.length c r s

/-- Dequeue the head of a ring into delivery (R341); one that lies in host memory is read out of it first. -/
def deliver1 (c r : Nat) (s : State) : State :=
  match getQ s (.ring c r) with
  | [] => s
  | e :: _ =>
    let s1 := pinBuf e.h (popRing c r s)
    let add (ready : Bool) (s : State) : State := setCh c (fun x => { x with rxReads := x.rxReads ++ [⟨r, e, ready, false⟩] }) s
    if readsDram s1 e.h then
      let d := startDirect (.ring c r) e.h s1
      if d.1 then add false d.2 else rxFailed c r e 5 d.2
    else if verifies s1 e.h e.oseq then rxGoOn c r (add true s1)
    else rxFailed c r e 0 s1

/-- The dequeue of a channel's nominated head: it charges the ring's deficit and the receive shaper (R395). -/
def dequeueRing (c r cost : Nat) (s : State) : State :=
  deliver1 c r (perf 5 3 (setChSch c (fun x => { x with
    round := x.round.charge r cost, rxShaper := x.rxShaper.charge cost }) s))

/-- HOST_RX_DECISION (R395, R396).  It visits the channels at the front when it starts; one that leaves the round meanwhile is not
replaced (R388). -/
def hostRxDecide (s : State) : State :=
  if (s.ch.vals.map inDelivery).sum ≥ 128 || egressStops s then s
  else
    let front := s.sch.upper.active.take 4
    let s1 := front.foldl (fun s c => nominateRing c s) s
    let n := (front.filter fun c => s1.sch.upper.active.contains c).length
    let d := s1.sch.upper.decide (chHead s1) (fun c => (getChSch s1 c).quantum) n
    let s2 := s1.updSch fun t => { t with upper := d.2 }
    match d.1 with
    | none => s2
    | some c =>
      match (getChSch s2 c).nomRing, chHead s2 c with
      | some r, some cost => dequeueRing c r cost s2
      | _, _ => s2

/-- The end of a reset once nothing of the channel is outstanding (R348). -/
def settleReset (c : Nat) (s : State) : State :=
  let x := getCh s c
  let mine (p : Purp) : Bool := match p with
    | .desc d _ _ => d = c
    | .txData d _ _ => d = c
    | _ => chWrites c p
  if x.state != .resetting || !x.deliv.isEmpty || !x.rxReads.isEmpty || !x.wbs.isEmpty || s.host.xfers.any (fun y => mine y.purp) then s
  else
    let clear (g : RingS) : RingS := { g with
      prod := 0, cons := 0, next := 0, fetched := [], cur := g.base, handled := false, pending := false, parked := true
      fetching := none, written := 0, cqCons := 0, asm := [] }
    let s1 := setCh c (fun x => { x with
      state := .disabled, cause := 0, mask := 0, sends := []
      tx := x.tx.map fun q => (q.1, clear q.2)
      rx := x.rx.map fun q => (q.1, clear q.2)
      vecs := x.vecs.map fun q => (q.1, { q.2 with armed := true, u := 0, sent := [], due := false }) }) s
    let s2 := chStateEvent c s1
    match s2.gv.running.find? (fun q => rqCode q.hdr = 0x0808 && u16 q.payload 0 = c) with
    | some q => finishRunning q okR s2
    | none => s2

/-- Every reset that waits for transactions is judged again. -/
def settleResets (s : State) : State :=
  s.ch.keys.foldl (fun s c => if (getCh s c).state = .resetting then settleReset c s else s) s

/-- The read of a dequeued frame out of host memory has ended.  A channel that has left ENABLED takes it no more (R348, R349). -/
def rxReadDone (c r h : Nat) (x : Xfer) (s : State) : State :=
  match (getCh s c).rxReads.find? fun y => y.r = r && y.e.h = h && !y.ready with
  | none => s
  | some y =>
    let s1 := setCh c (fun z => { z with rxReads := z.rxReads.filter (· != y) }) s
    settleReset c <| rxGoOn c r <|
      if y.drop || (getCh s1 c).state != .enabled then
        releaseOwner h (QKey.ring c r).owner (chDrop c 7 (ingressOf s1 h) (unpinBuf h s1))
      else if directOk s1 h y.e.oseq x then
        setCh c (fun z => { z with rxReads := z.rxReads.map fun w => if w = y then { y with ready := true } else w }) s
      else rxFailed c r y.e (directKind x) s1

/-- A data write of a delivery has ended (R341, R347, R348).  An error of a frame that ends without being delivered counts no more. -/
def rxDataDone (c r id : Nat) (x : Xfer) (s : State) : State :=
  match (getCh s c).deliv.find? (·.id = id) with
  | none => settleReset c s
  | some d =>
    let e := d.err || (x.err && !d.drop)
    let s1 := setCh c (fun y => { y with deliv := mapIf y.deliv (·.id = id) fun z => { z with writes := z.writes - 1, err := e } }) s
    let stop (s : State) : State := if x.err then quarantine c 2 s else s
    if d.writes > 1 then stop s1
    else if e || d.drop then
      let s2 := stop (setCh c (fun y => { y with deliv := y.deliv.filter (fun z => z.id != id) }) s1)
      settleReset c (releaseOwner d.h (QKey.ring c r).owner (chDrop c (if e then 2 else 7) (ingressOf s2 d.h) s2))
    else completeRx (getCh s1 c).deliv.length c r s1

/-- The wake frame has been delivered (R350). -/
def chWake (c r : Nat) (d : Deliv) (s : State) : State :=
  let b := ((getBuf s d.h).map (·.record)).getD (zeros 64)
  if d.wake then
    raiseCh c 0x0882 (toLe 4 (recSeq b) ++ toLe 2 (recPort b) ++ toLe 1 r)
      (setCh c (fun x => { x with wake := true, events := x.events ||| 2 }) s)
  else s

/-- The write of a completion record has ended (R341, R345, R347, R348). -/
def writeBackDone (c : Nat) (tx : Bool) (r id : Nat) (x : Xfer) (s : State) : State :=
  match (getCh s c).wbs.find? (fun w => w.id = id && w.tx = tx) with
  | none => settleReset c s
  | some w =>
    let live := (getCh s c).state = .enabled
    let s1 := setCh c (fun y => { y with wbs := y.wbs.filter (fun z => !(z.id = id && z.tx = tx)) }) s
    let advance (s : State) : State :=
      if live then
        vecCount c (ringOf s c tx r).vector (setRing c tx r (fun g => { g with cons := (g.cons + w.count) % 2 ^ 32 }) s)
      else s
    if tx then
      if x.err then settleReset c (quarantine c 3 s1)
      else settleReset c (txGoOn c r (advance (bump cCh c 0 s1)))
    else
      match (getCh s1 c).deliv.find? (fun d => w.deliv = some d.id) with
      | none => settleReset c s1
      | some d =>
        let s2 := setCh c (fun y => { y with deliv := y.deliv.filter (fun z => z.id != d.id) }) s1
        let port := ingressOf s d.h
        let free (s : State) : State := if d.bad then s else releaseOwner d.h (QKey.ring c r).owner s
        if x.err then
          settleReset c (if live then completionFailed c r d s2
            else free (if d.bad then s2 else chDrop c 7 port s2))
        else
          let s3 := if d.bad then s2 else bumpN cCh c 6 d.len (bump cCh c 5 (chWake c r d s2))
          settleReset c (fetchPump c false r (advance (free s3)))

end Sys2Proof.Machine
end

