-- ==== Sys2Proof/Machine/ChannelCmd.lean ====
section
/-! DEFINITION. The register writes and the commands of the host channels (R323, R345, R351, R352). -/

namespace Sys2Proof.Machine

open Sys2Proof

/-! ## Register writes -/

/-- A doorbell of a channel's page (R324). -/
def doorbellWrite (c : Nat) (tx : Bool) (r value : Nat) (s : State) : State :=
  regWrite (c < nChannels s && r < 8) (chPage c + (if tx then 0 else 0x20) + 4 * r) (doorbell c tx r (value % 2 ^ 32)) s

/-- CH_EVENTS is W1C; with bit 1 WAKE of CH_STATE clears too (R350). -/
def chEventsClear (c value : Nat) (s : State) : State :=
  regWrite (c < nChannels s) (chPage c + 0xD0)
    (setCh c fun x => { x with events := andNot x.events (value % 8), wake := x.wake && !value.testBit 1 }) s

/-- INT_REARM arms vectors, and the issue condition is judged (R345). -/
def intRearm (c value : Nat) (s : State) : State :=
  regWrite (c < nChannels s) (chPage c + 0xC0)
    (fun s => (bitList 8 value).foldl (fun s v => judgeVec c v (setVec c v (fun x => { x with armed := true }) s)) s) s

/-- INT_MASK: a vector unmasked is judged again (R345). -/
def intMaskWrite (c value : Nat) (s : State) : State :=
  regWrite (c < nChannels s) (chPage c + 0xC4)
    (fun s => (List.range 8).foldl (fun s v => judgeVec c v s) (setCh c (fun x => { x with mask := value % 256 }) s)) s

/-- TX_CQ_CONS or RX_CQ_CONS (R329). -/
def cqConsWrite (c : Nat) (tx : Bool) (r value : Nat) (s : State) : State :=
  regWrite (c < nChannels s && r < 8) (chPage c + (if tx then 0x40 else 0x60) + 4 * r)
    (fun s =>
      let s1 := setRing c tx r (fun g => { g with cqCons := value % 2 ^ 32 }) s
      if tx then txGoOn c r s1 else fetchPump c false r (completeRx (getCh s1 c).deliv.length c r s1)) s

/-- MAX_DELAY has passed since a vector's U left 0 (R344). -/
def vectorDelay (c v : Nat) (s : State) : State :=
  if v < 8 && (vecOf s c v).maxD != 0 && (vecOf s c v).u > 0 then judgeVec c v (setVec c v (fun x => { x with due := true }) s)
  else s

/-! ## Commands -/

/-- The channel of a command: present, and bound to the mailbox's agent (R6, R107). -/
def chArg (q : Req) (s : State) : Option Reply :=
  firstErr [(u16 q.payload 0 ≥ nChannels s, inv 0), ((getCh s (u16 q.payload 0)).agent != agentOf q s, errAt stNotOwner 0)]

/-- Answer a command of a channel, once its channel is in order. -/
def chCmd (f : Req → Nat → State → State × Reply) (q : Req) (s : State) : State × Reply :=
  match chArg q s with
  | some r => (s, r)
  | none => f q (u16 q.payload 0) s

/-- CH_CONFIG. -/
def chConfigCmd : Req → State → State × Reply := chCmd fun q c s =>
  if (getCh s c).state = .resetting then (s, errR stWrongState)
  else (setCh c (fun x => { x with flags := u8 q.payload 2, hashTypes := u8 q.payload 3 }) s, okR)

def powerOf2 (n : Nat) : Bool := n != 0 && 2 ^ n.log2 = n

/-- The arguments of CH_RING_SET. -/
def ringArgs (s : State) (c : Nat) (p : Bytes) : Option Reply :=
  let mode := u8 p 4
  let n := u32 p 16
  let base := u64 p 8
  let tx := u8 p 2 = 0
  if u8 p 2 > 1 then some (inv 2)
  else if u8 p 3 > 7 then some (inv 3)
  else if mode > 2 then some (inv 4)
  else if mode = 0 then
    ([(5, 1), (8, 8), (16, 4), (20, 4), (24, 8)].find? fun f => le p f.1 f.2 != 0).map fun f => inv f.1
  else
    firstErr [(u8 p 5 > 7 && u8 p 5 != 0xFF, inv 5),
      (!(powerOf2 n && 16 ≤ n && n ≤ 65536), inv 16),
      (if mode = 1 then base % min (32 * n) 4096 != 0 else base % 32 != 0, inv 8),
      (!chOk s c base (if mode = 1 then 32 * n else 32), inv 8),
      (if tx then u32 p 20 != 0 else u32 p 20 = 0 || u32 p 20 > 65535, inv 20),
      (u64 p 24 % 64 != 0 || !chOk s c (u64 p 24) (32 * n), inv 24)]

/-- CH_RING_SET. -/
def chRingSetCmd : Req → State → State × Reply := chCmd fun q c s =>
  let p := q.payload
  match ringArgs s c p with
  | some r => (s, r)
  | none =>
    if (getCh s c).state != .disabled then (s, errR stWrongState)
    else
      (setRing c (u8 p 2 = 0) (u8 p 3) (fun g => { g with
        mode := u8 p 4, vector := if u8 p 4 = 0 then 0xFF else u8 p 5, base := u64 p 8, entries := u32 p 16
        qlimit := u32 p 20, cqBase := u64 p 24, cur := u64 p 8, handled := false, pending := false, parked := true }) s,
       okR)

/-- CH_VECTOR_SET. -/
def chVectorSetCmd : Req → State → State × Reply := chCmd fun q c s =>
  let p := q.payload
  let a := u64 p 8
  match firstErr [(u8 p 2 > 7, inv 2), (a != 0 && !(msgAddrOk a && chOk s c a 4), inv 8), (u16 p 16 = 0, inv 16)] with
  | some r => (s, r)
  | none =>
    (judgeVec c (u8 p 2) (setVec c (u8 p 2) (fun x => { x with
      data := u32 p 4, addr := a, maxF := u16 p 16, maxD := u16 p 18 }) s), okR)

/-- CH_FILTER_SET; its length and its reserved bytes have been judged (R96, R546). -/
def chFilterSetCmd : Req → State → State × Reply := chCmd fun q c s =>
  let p := q.payload
  let n := u8 p 4
  match u8 p 2 with
  | 0 =>
    if n > 16 then (s, inv 4)
    else (setCh c (fun x => { x with addrs := (List.range n).map fun i => slice p (8 + 8 * i) 6 }) s, okR)
  | 1 => (setCh c (fun x => { x with mcast := slice p 8 32 }) s, okR)
  | 2 => (setCh c (fun x => { x with vlan := slice p 8 512 }) s, okR)
  | _ => (s, inv 2)

/-- CH_HASH_SET. -/
def chHashSetCmd : Req → State → State × Reply := chCmd fun q c s =>
  let p := q.payload
  match (List.range 128).find? fun i => u8 p (48 + i) > 7 with
  | some i => (s, inv (48 + i))
  | none => (setCh c (fun x => { x with key := slice p 8 40, indir := slice p 48 128 }) s, okR)

/-- The fields of a policer's setting: MODE, RESET, RATE and BURST at their offsets (FLOW_POLICER_SET). -/
def policerArgs (p : Bytes) (mo re ra bu : Nat) : Option Reply :=
  let m := u8 p mo
  let rate := u32 p ra
  let burst := u32 p bu
  firstErr [(m > 2, inv mo), (u8 p re > 1, inv re),
    (m != 0 && (rate = 0 || rate > (if m = 1 then 100000000 else 200000000)), inv ra),
    (m = 1 && (burst < 10240 || burst > 16777216), inv bu), (m = 2 && (burst = 0 || burst > 65535), inv bu)]

/-- CH_RATE_SET. -/
def chRateSetCmd : Req → State → State × Reply := chCmd fun q c s =>
  let p := q.payload
  match policerArgs p 2 3 4 8 with
  | some r => (s, r)
  | none =>
    match firstErr [(u32 p 12 > 100000000, inv 12), (u32 p 16 > 100000000, inv 16)] with
    | some r => (s, r)
    | none =>
      let s1 := setCh c (fun x => { x with pol := x.pol.set (nowNs s) (u8 p 2) (u32 p 4) (u32 p 8) (u8 p 3 = 1) }) s
      (setChSch c (fun x => { x with
        txShaper := x.txShaper.setRate (u32 p 12) 16384
        rxShaper := x.rxShaper.setRate (u32 p 16) 16384 }) s1, okR)

/-- CH_ENABLE. -/
def chEnableCmd : Req → State → State × Reply := chCmd fun _ c s =>
  if (getCh s c).state != .disabled then (s, errR stWrongState)
  else (chStateEvent c (setCh c (fun x => { x with state := .enabled, cause := 0 }) s), okR)

/-- CH_RESET (R348): the steps up to the wait for what is outstanding. -/
def startReset (c : Nat) (s : State) : State :=
  let enabled := (getCh s c).state = .enabled
  let s1 := chStateEvent c (setCh c (fun x => { x with state := .resetting }) s)
  if enabled then chStop c s1 else chEmpty c s1

def chResetCmd (q : Req) (s : State) : State × Option Reply :=
  match chArg q s with
  | some r => (s, some r)
  | none =>
    let c := u16 q.payload 0
    match (getCh s c).state with
    | .disabled => (s, some okR)
    | .resetting => (s, some (errR stWrongState))
    | _ =>
      let s1 := settleReset c (startReset c s)
      if (getCh s1 c).state = .disabled then (s1, some okR) else (s1, none)

def maskOf (p : Nat → Bool) : Nat := ((List.range 8).filter p).foldl (fun a v => a + 2 ^ v) 0

def intPending (x : Ch) : Nat := maskOf fun v => (x.vecs.getD v {}).u > 0

/-- CH_STATUS_GET. -/
def chStatusCmd : Req → State → State × Reply := chCmd fun _ c s =>
  let x := getCh s c
  (s, okD (toLe 1 (chModeNum x.state) ++ toLe 1 x.cause ++ toLe 1 (maskOf fun v => (x.vecs.getD v {}).armed) ++
    toLe 1 (intPending x) ++ zeros 4 ++ ((List.range 8).flatMap fun r => toLe 4 (getQ s (.ring c r)).length) ++
    ((List.range 8).flatMap fun r => toLe 4 (x.sends.filter (·.r = r)).length)))

/-- CH_COUNTERS_GET. -/
def chCountersCmd (q : Req) (s : State) : State × Reply :=
  let p := q.payload
  let id := u16 p 2
  let get (g n : Nat) : State × Reply := let r := readCounters g id n (u8 p 1 = 1) s; (r.2, okD r.1)
  if u8 p 0 > 1 then (s, inv 0)
  else if u8 p 1 > 1 then (s, inv 1)
  else if u8 p 0 = 0 then
    -- a channel is named by SELECT 0 only: the code 0x200 + n of SELECT 1 is an ingress port code (DESIGN CHOICE, log 77)
    if id ≥ nChannels s then (s, inv 2)
    else if (getCh s id).agent != agentOf q s then (s, errAt stNotOwner 2)
    else get 0x80 20
  else if portCodeOk s id then get 0x81 9 else (s, inv 2)

/-! ## The meanings -/

def execTxDb (c r v : Nat) (s : State) : Out := .next (doorbellWrite c true r v s)
def execRxDb (c r v : Nat) (s : State) : Out := .next (doorbellWrite c false r v s)
def execChEventsClear (c v : Nat) (s : State) : Out := .next (chEventsClear c v s)
def execIntRearm (c v : Nat) (s : State) : Out := .next (intRearm c v s)
def execIntMaskWrite (c v : Nat) (s : State) : Out := .next (intMaskWrite c v s)
def execVectorDelay (c v : Nat) (s : State) : Out := .next (clocked s (vectorDelay c v s))
def execCqConsWrite (c : Nat) (tx : Bool) (r v : Nat) (s : State) : Out := .next (cqConsWrite c tx r v s)
def execHostRxDecision (s : State) : Out := .next (hostRxDecide s)
def execChConfig (s : State) : Out := .next (immediate 0x0801 chConfigCmd s)
def execChRingSet (s : State) : Out := .next (immediate 0x0802 chRingSetCmd s)
def execChVectorSet (s : State) : Out := .next (immediate 0x0803 chVectorSetCmd s)
def execChFilterSet (s : State) : Out := .next (immediate 0x0804 chFilterSetCmd s)
def execChHashSet (s : State) : Out := .next (immediate 0x0805 chHashSetCmd s)
def execChRateSet (s : State) : Out := .next (immediate 0x0806 chRateSetCmd s)
def execChEnable (s : State) : Out := .next (immediate 0x0807 chEnableCmd s)
def execChReset (s : State) : Out := .next (longRunning 0x0808 chResetCmd s)
def execChStatusGet (s : State) : Out := .next (immediate 0x0809 chStatusCmd s)
def execChCountersGet (s : State) : Out := .next (immediate 0x080A chCountersCmd s)

end Sys2Proof.Machine
end

