-- ==== Sys2Proof/Machine/Entry.lean ====
section
/-! DEFINITION. Pipeline entry, the entry of a frame, the parser stage, and upstream frames
(R20-R26, R55, R230-R243, R381, R382). -/

namespace Sys2Proof.Machine

open Sys2Proof

/-! ## The entry arbiter (R26) -/

/-- Frames may pass the arbiter: the block runs, and the core domain is neither off nor quiesced (R452, R507, R510). -/
def entryOpen (s : State) : Bool := s.sys.phase = 2 && !coreOff s && !s.sys.quiesced

/-- The lowest port code above the one served last, with wrap. -/
def nextCodeOf (turn : Nat) (codes : List Nat) : Option Nat :=
  match (codes.filter (· > turn)).min? with
  | some c => some c
  | none => codes.min?

/-- The frame that the arbiter serves next: wire ports in order of entry, then the other port codes in turn. -/
def nextArrival (s : State) : Option Arr :=
  match s.pipe.wait.find? (·.port < 4) with
  | some a => some a
  | none => (nextCodeOf s.pipe.turn (s.pipe.wait.map (·.port))).bind fun c => s.pipe.wait.find? (·.port = c)

/-- A link that waited gives back the upstream credit it held (R26, R55). -/
def giveCredit (port : Nat) (s : State) : State :=
  if 0x100 ≤ port && port < 0x103 && !s.pipe.wait.any (·.port = port) && admission s then
    setRl (port - 0x100) (fun r => { r with upCredit := r.upCredit + r.held, held := 0 }) s
  else s

/-- PIPELINE_ENTRY. -/
def pipelineEntry (s : State) : State :=
  if !entryOpen s then s
  else
    let s1 := offerAll s
    if entryHeld s1 then s1
    else
      match nextArrival s1 with
      | none => s1
      | some a =>
        giveCredit a.port (s1.updPipe fun p => { p with
          wait := p.wait.erase a
          granted := p.granted ++ [a]
          turn := if a.port < 4 then p.turn else a.port })

/-! ## A frame enters (R23-R25) -/

/-- Count an upstream frame that enters, per link and station (R384). -/
def countUp (a : Arr) (s : State) : State :=
  if 0x100 ≤ a.port && a.port < 0x103 then
    let s1 := bumpN cRl (a.port - 0x100) 3 a.data.length (bump cRl (a.port - 0x100) 2 s)
    if a.chsta = 0xFFF then s1 else bumpN cSta a.chsta 6 a.data.length (bump cSta a.chsta 5 s1)
  else s

/-- The place of a frame in the statistics by its destination: 0 unicast, 1 multicast, 2 broadcast (R190). -/
def destKind (d : Bytes) : Nat := if (slice d 0 6).all (· == 0xFF#8) then 2 else u8 d 0 % 2

/-- Count a received frame that enters at a wire port, with its FCS (R190). -/
def countWireRx (a : Arr) (s : State) : State :=
  if a.port < 4 then
    bump 0x30 a.port (2 + destKind a.data) (bumpN 0x30 a.port 1 (a.data.length + 4) (bump 0x30 a.port 0 s))
  else s

/-- What the arrival point does once its frame has entered. -/
def afterEntry (a : Arr) (seq : Nat) (s : State) : State :=
  let s1 := countWireRx a (countUp a s)
  let s2 := match a.thr with
    | some (e, t) => setThr e t (fun x => { x with park := .none }) s1
    | none => s1
  match a.send with
  | some id => txEntered (a.port - 0x200) id a.data.length seq s2
  | none => s2

/-- The ingress timestamp: that of the arrival, or TB7 at the entry for a host channel, an engine and Onyx. -/
def entryTime (s : State) (a : Arr) : Nat := if ingressClass a.port ≥ 2 then (getTb s 7).v else a.time

/-- The frame enters with its buffer written. -/
def enterWith (a : Arr) (h oseq : Nat) (s : State) : State :=
  let g := s.cls.current
  let seq := s.pipe.seqs.getD a.port 0
  let r := mkRecord h a.data.length a.port a.tb a.chsta a.tc g (entryTime s a) seq
  let f : PFrame := { h := h, oseq := oseq, port := a.port, seq := seq, gen := g, tc := a.tc, len := a.data.length
                      tag := a.tag, tsReq := a.tsReq, wake := a.wake }
  let s1 := updBuf h (fun b => { b with owner := ownPipeline }) (writeBuf h r a.data s)
  let s2 := s1.updPipe fun p => { p with seqs := p.seqs.set a.port ((seq + 1) % 2 ^ 32), parseQ := p.parseQ ++ [f] }
  afterEntry a seq (perf 0 1 (addOcc h r (genInc g s2)))

/-- FRAME_ENTERS: the oldest frame that the arbiter has admitted. -/
def frameEnters (s : State) : State :=
  match s.pipe.granted with
  | [] => s
  | a :: rest =>
    if coreOff s then s
    else
    let s1 := s.updPipe fun p => { p with granted := rest }
    match a.h with
    | some h =>
      match getBuf s1 h with
      | some b => enterWith a h b.oseq s1
      | none => badHandle h s1
    | none =>
      match poolFor a.data.length with
      | none => s1
      | some p =>
        let r := allocBuf p s1
        match r.1 with
        | some h => enterWith a h s1.store.alloc r.2
        | none =>
          match a.send with
          | some id => txNoBuffer (a.port - 0x200) id (countFailed s1 p a.port (chDrop (a.port - 0x200) 3 a.port)) r.2
          | none => r.2

/-! ## The parser and the classifier (R231-R243) -/

/-- A frame whose parse exception's action is PUNT: one destination and nothing else (R235). -/
def puntFrame (f : PFrame) (dest : Nat) (s : State) : State :=
  leaveFlow { f with result := mkResult 0 0xFFFFFFFF 1 f.tc dest 0xFFFFFFFF 0 } (bump 0x50 f.port 8 s)

/-- The merged result becomes the frame's pending result part (R202, R243); TS_REQ sets its timestamp request (R332). -/
def takeResult (f : PFrame) (r : ClsRes) (partly : Bool) : PFrame :=
  { f with
    result := mkResult (clsFlags r partly) 0xFFFFFFFF r.kind (r.tc.getD f.tc) r.dest
      r.rewrite (if f.tsReq then r.ptp ||| 4 else r.ptp)
    reason := if r.verdict = 3 then 1 else 0
    hook := if r.verdict = 3 then r.hook else 0
    profile := r.profile
    policer := r.policer.getD 0xFFFFFFFF }

/-- Classify a parsed frame and send it on (R241, R242). -/
def classifyFrame (f : PFrame) (partly : Bool) (s : State) : State :=
  let c := classify s f.gen f.port f.key partly
  let s1 := pmuEvent 0 4 ((List.range 8).filter fun t => c.1.hits.testBit t).length 0 (if c.1.dflt then perf 0 5 c.2 else c.2)
  if c.1.verdict = 2 then dropEarly f 0x50 (if c.1.dflt then 10 else 9) s1
  else
    let f1 := takeResult f c.1 partly
    if f1.profile.isSome then s1.updPipe fun p => { p with flowQ := p.flowQ ++ [f1] } else exitFlow f1 s1

/-- A frame is parsed and classified from the bytes that the parser has of it. -/
def parseFrame (f0 : PFrame) (x : Option Xfer) (s : State) : State :=
  let d := readData s f0.h x
  let r := parseData s f0.gen f0.port d
  let act := if r.2 = 0 then (0, 0) else excAction s f0.gen r.2
  let partly := r.2 != 0 && act.1 = 0
  let n := min d.length 256
  let chsta := recCh (readRecord s f0.h x)
  let f : PFrame := { f0 with
    key := parseKey r.1 r.2 f0.port chsta f0.tc f0.len f0.tag partly
    pres := parseResult r.1 r.2
    shadow := d.take 256, hdrOld := n, hdrNew := n }
  let s1 := updBuf f.h (fun b => { b with pres := f.pres, key := f.key }) s
  let s2 := if r.2 = 0 then s1 else perf 0 3 (bump 0x50 f.port (r.2 - 1) s1)
  match act.1 with
  | 1 => dropEarly f 0x50 7 s2
  | 2 => puntFrame f act.2 s2
  | _ => classifyFrame f partly s2

/-- A frame whose read the parser cannot use is dropped as a check failure (R206). -/
def parseLost (f : PFrame) (x : Option Xfer) (s : State) : State :=
  postSkip f.port f.seq (releaseOwner f.h ownPipeline (checkFail f.h f.oseq (readKind 0 x) 0xFFF s))

/-- PARSE: the oldest frame that has entered is parsed and classified, once the parser has its bytes (R214, R215). -/
def parseNext (s : State) : State :=
  match s.pipe.parseQ with
  | [] => s
  | f :: rest =>
    let r := fetchPinned .parser f.h s
    match r.1 with
    | none => r.2
    | some x =>
      let s1 := r.2.updPipe fun p => { p with parseQ := rest }
      if x.any (·.err) || isBad s1 f.h then parseLost f x s1 else parseFrame f x s1

/-- FLOW_READ_RETURN: beats of a bucket read (R263). -/
def flowReadReturn (tag : Nat) (beats : List Beat) (s : State) : State :=
  let mine := (s.host.reads.find? (·.tag = tag)).bind fun t => (getXfer s t.xfer).map (·.purp)
  if mine = some .lookup then
    let r := readReturn tag beats s
    match r.2 with
    | some x => lookDone x (dropXfer x.id r.1)
    | none => r.1
  else s

/-! ## Upstream frames (R55, R381, R382) -/

/-- Upstream beats taken in are granted again, unless a frame of the link waits at the arbiter.  Of a frame sent beyond the
credit, no more beats than the radio held are granted again, so that a breach wins it no credit (log 19). -/
def grantBeats (l n : Nat) (s : State) : State :=
  if s.pipe.wait.any (·.port = 0x100 + l) || !admission s then setRl l (fun r => { r with held := r.held + n }) s
  else setRl l (fun r => { r with upCredit := r.upCredit + n }) s

/-- An upstream frame is dropped at its link: at place `k` of the link's counters and `kp` of its port code's. -/
def dropUp (l k kp : Nat) (s : State) : State := bump cStaPort (0x100 + l) kp (bump cRl l k s)

def upMetaBad (md : Bytes) : Bool :=
  u16 md 0 ≥ 4096 || u16 md 2 < 14 || u16 md 2 > 10236 || u8 md 4 ≥ 8 || !allZero (slice md 5 3) || !allZero (slice md 12 4)

/-- UP_FRAME: the beats of one frame on a link's upstream stream, with the metadata of its first.  Before SYS_START a link holds no
credit, and no buffer is taken (R507, R511).  One that ends in the cycle
in which the link was disabled was in reception then, and is dropped (step 5 of R359). -/
def upFrameIn (l : Nat) (md data : Bytes) (framed : Bool) (s : State) : State :=
  if s.sys.held || coreOff s then s
  else if !(getRl s l).enabled then (if offNow s l then dropUp l 8 7 s else s)
  else
    let beats := max 1 ((data.length + 15) / 16)
    let have_ := (getRl s l).upCredit
    let breach := have_ < beats
    let s1 := setRl l (fun r => { r with upCredit := r.upCredit - beats }) s
    let back (s : State) : State := grantBeats l (min beats have_) s
    let st := u16 md 0 % 4096
    let kind := if breach then 4 else if !framed then 5 else 6
    if upMetaBad md then back (rlProtocol l kind (dropUp l 8 7 s1))
    else if st != 0xFFF && (st ≥ nStations s || (getSta s st).state != .active) then
      back (if breach || !framed || data.length != u16 md 2 then rlProtocol l kind (dropUp l 8 7 s1) else dropUp l 10 9 s1)
    else if s.sys.phase != 2 then back (rlProtocol l kind (dropUp l 8 7 s1))
    else
      match poolFor (u16 md 2) with
      | none => back s1
      | some p =>
        let r := allocBuf p s1
        if breach || !framed || data.length != u16 md 2 then
          let s2 := match r.1 with
            | some h => freeBuf h r.2
            | none => r.2
          back (rlProtocol l kind (dropUp l 8 7 s2))
        else
          match r.1 with
          | none => back (countFailed s1 p (0x100 + l) (dropUp l 9 8) r.2)
          | some h =>
            let tb := (getRl s l).upTb.getD (4 + l)
            let a : Arr := { port := 0x100 + l, h := some h, data := data, tb := tb, time := (getTb s tb).v, chsta := st
                             tc := u8 md 4 % 8, tag := u32 md 8, beats := beats }
            back (r.2.updPipe fun q => { q with wait := q.wait ++ [a] })

def execPipelineEntry (s : State) : Out := .next (pipelineEntry s)
def execFrameEnters (s : State) : Out := .next (frameEnters s)
def execParse (s : State) : Out := .next (clocked s (parseNext s))
def execFlowReadReturn (tag : Nat) (beats : List Beat) (s : State) : Out := .next (flowReadReturn tag beats s)
def execUpFrame (l : Nat) (md data : Bytes) (framed : Bool) (s : State) : Out := .next (upFrameIn l md data framed s)

end Sys2Proof.Machine
end

