-- ==== Sys2Proof/Machine/Faults.lean ====
section
/-! DEFINITION. The fault log (R473), the power requests of the domains (R71-R73, R447), and drawn bytes. -/

namespace Sys2Proof.Machine

open Sys2Proof

/-- The kinds of a fault record (R473). -/
def fkCorrected := 1
def fkUncorrected := 2
def fkRow := 3
def fkColumn := 4
def fkExhausted := 5
def fkBank := 6
def fkCondemned := 7
def fkEngFailed := 8
def fkReturned := 9
def fkOnyx := 10
def fkTakeover := 11
def fkCold := 12
def fkLane := 13
def fkCopy := 14
def fkUnrecovered := 15

/-- The 32 bytes of a fault record (R473). -/
def faultRecord (s : State) (kind : Nat) (p : Place) (info : Nat) : Bytes :=
  toLe 1 kind ++ toLe 1 p.sub ++ toLe 1 p.tile ++ toLe 1 p.unit ++ toLe 2 p.mac ++ toLe 2 p.row ++ toLe 2 p.col ++
    toLe 1 s.res.blockId ++ toLe 1 s.res.packageId ++ toLe 4 s.res.seq ++ toLe 8 (nowNs s) ++ toLe 8 info

/-- RES_FAULT; those of KIND 1 at most once per 1 ms and subsystem (R502). -/
def faultEvent (kind seq : Nat) (p : Place) (s : State) : State :=
  let d := toLe 1 kind ++ toLe 1 p.sub ++ toLe 1 p.unit ++ zeros 1 ++ toLe 4 seq
  if kind != 1 then raise0 0x0E81 noSubj d s
  else if recently (s.res.ceEvt.get? p.sub) (nowNs s) 1000000 then s
  else raise0 0x0E81 noSubj d (s.updRes fun r => { r with ceEvt := r.ceEvt.set p.sub (nowNs s) })

/-- Write a fault record (R473). -/
def logFault (kind : Nat) (p : Place) (info : Nat) (s : State) : State :=
  let r := faultRecord s kind p info
  let full := s.res.log.length ≥ 256
  let s1 := s.updRes fun x => { x with
    log := (if full then x.log.drop 1 else x.log) ++ [r]
    seq := (x.seq + 1) % 2 ^ 32 }
  faultEvent kind s.res.seq p (if full then bump 0xE0 0 9 s1 else s1)

/-! ## The repair record (R480, R524) -/

/-- The CHECK of a repair record entry: over bits 63:16, the most significant byte first. -/
def recordCheck (e : Nat) : Nat := crcOf 2 ((toLe 6 (e / 65536)).reverse)

/-- An entry of the repair record: KIND 1 row, 2 column, 3 bank retired. -/
def recordEntry (kind : Nat) (p : Place) (index spare : Nat) : Nat :=
  let e := kind * 2 ^ 62 + p.sub % 16 * 2 ^ 58 + (if p.unit = 0xFF then 0x3F else p.unit % 64) * 2 ^ 52 + p.mac % 4096 * 2 ^ 40 +
    index % 1024 * 2 ^ 30 + spare % 4 * 2 ^ 28
  e + recordCheck e

/-- Append an entry; the record that is full, or comes to be, sets reason RECORD (R480, R503). -/
def appendRecord (e : Nat) (s : State) : State :=
  if s.res.record.length ≥ 256 then setService 7 true s
  else
    let s1 := s.updRes fun r => { r with record := r.record ++ [e] }
    if s1.res.record.length ≥ 256 then setService 7 true s1 else s1

/-! ## Power requests -/

/-- A tile that the build has and that holds an unretired bank. -/
def tileUsed (s : State) (t : Nat) : Bool := (List.range (nBanks s)).any fun b => b / 8 = t && s.store.banks.getD b 4 != 4

def laneOn (s : State) (n : Nat) : Bool := (getLane s n).applied.mode.testBit 0 && !(getLane s n).retired

/-- The core domain has been given up: from the commit point of an entry until the wake (R452, R457). -/
def released (s : State) : Bool :=
  s.pwr.mode = .watch || s.pwr.mode = .dormant || (s.pwr.mode = .entering && s.pwr.committed)

/-- The block is on its way into a low-power state, in it, or on its way out of it (R457). -/
def lowPower (s : State) : Bool := released s || s.pwr.mode = .waking

/-- The domain outputs are isolated, and the supplies of R447 for a low-power state hold. -/
def isolated (s : State) : Bool :=
  s.pwr.mode = .watch || s.pwr.mode = .dormant || (s.pwr.mode = .entering && s.pwr.isolated)

/-- The target of the low-power state that the block is in or has committed to is WATCH. -/
def watching (s : State) : Bool := s.pwr.mode = .watch || (s.pwr.mode = .entering && s.pwr.committed && s.pwr.target = 1)

/-- A port whose link is watched. -/
def watched (s : State) (n : Nat) : Bool := s.pwr.watchPorts.testBit n

/-- The supply that the block wants for a domain (R447, R451). -/
def wanted (s : State) (k : Nat) : Bool :=
  if s.sys.held then false
  else if 1 ≤ k && k < 5 then tileUsed s (k - 1)
  else if isolated s then 13 ≤ k && k < 17 && watching s && watched s (k - 13) && laneOn s (k - 13)
  else if k = 0 || k = 17 then true
  else if k < 13 then (k - 5 < nEngines s && ((getEng s (k - 5)).mode != .off || (getEng s (k - 5)).testing))
  else k < 17 && k - 13 < nPorts s && laneOn s (k - 13)

/-- The block wants the retention of a tile. -/
def wantedRet (s : State) (t : Nat) : Bool := !s.sys.held && isolated s && tileUsed s t

/-- The next level of a REQ under the four phases: it rises once its ACK is low, and falls once its ACK is high or has
timed out (R72-R74). -/
def fourPhase (want req ack late : Bool) : Bool :=
  if want && !req && !ack then true
  else if !want && req && (ack || late) then false
  else req

/-- A REQ that changes waits anew for its ACK (R74). -/
def hsMark (kind i : Nat) (changed : Bool) (l : List (Nat × Nat)) : List (Nat × Nat) := if changed then l.filter (· != (kind, i)) else l

def driveReq (k : Nat) (s : State) : State :=
  let r := fourPhase (wanted s k) (s.pwr.req.testBit k) (s.pwr.ack.testBit k) (timedOut s 0 k)
  s.updPwr fun p => { p with req := withBit p.req k r, hsTimeout := hsMark 0 k (r != p.req.testBit k) p.hsTimeout }

def driveRet (t : Nat) (s : State) : State :=
  let r := fourPhase (wantedRet s t) (s.pwr.retReq.testBit t) (s.pwr.retAck.testBit t) (timedOut s 1 t)
  s.updPwr fun p => { p with retReq := withBit p.retReq t r, hsTimeout := hsMark 1 t (r != p.retReq.testBit t) p.hsTimeout }

/-- CLK_REQ falls last: after every PWR_REQ that an entry lowers (R452). -/
def driveClk (s : State) : State :=
  let off := isolated s && (List.range 18).all fun k => s.pwr.req.testBit k = wanted s k
  let r := fourPhase (!isolated s || (s.pwr.clkReq && !off)) s.pwr.clkReq s.pwr.clkAck (timedOut s 2 0)
  s.updPwr fun p => { p with clkReq := r, hsTimeout := hsMark 2 0 (r != p.clkReq) p.hsTimeout }

/-- POWER_HANDSHAKE in SERVICE_STATUS (R74, R498). -/
def judgeHs (s : State) : State := setService 5 (!s.pwr.hsTimeout.isEmpty) s

/-- Move the requests as far as the four phases allow. -/
def driveReqs (s : State) : State :=
  judgeHs <| driveClk ((List.range 18).foldl (fun s k => driveReq k s) ((List.range 4).foldl (fun s t => driveRet t s) s))

/-- `8 * n` free bytes. -/
def drawBytes : Nat → State → Bytes × State
  | 0, s => ([], s)
  | n + 1, s =>
    let r := draw s
    let q := drawBytes n r.2
    (toLe 8 r.1 ++ q.1, q.2)

end Sys2Proof.Machine
end

