-- ==== Sys2Proof/Machine/Engine.lean ====
section
/-! DEFINITION. Engines and their threads: states, programs, dispatch, faults, budgets, input queues and condemnation
(R283-R298, R303, R304, R310-R313, R481). -/

namespace Sys2Proof.Machine

open Sys2Proof

/-! ## States of an engine (R284-R286) -/

def engModeNum : EngMode → Nat
  | .off => 0
  | .spare => 1
  | .active => 2
  | .draining => 3
  | .condemned => 4

def engPort (e : Nat) : Nat := 0xE0 + e

/-- Change an engine's state and raise ENG_STATE (R284, R318). -/
def setMode (e : Nat) (m : EngMode) (s : State) : State :=
  let s1 := setEng e (fun g => { g with mode := m }) s
  driveReqs (raise0 0x0783 (engPort e) (toLe 1 (engModeNum m) ++ zeros 1 ++ toLe 2 (getEng s e).epoch) s1)

/-- Thread T3 of the engine that runs the table service. -/
def isService (s : State) (e t : Nat) : Bool := t = 3 && serviceEngine s = some e

/-- A dispatch thread that is free, in an engine that is there (R74). -/
def threadFree (s : State) (e t : Nat) : Bool := !(getThr s e t).busy && !isService s e t && !domainAbsent s (5 + e)

def freeThread (s : State) (e : Nat) : Option Nat := (List.range 4).find? (threadFree s e)

/-! ## Programs and hooks (R307-R310) -/

/-- The program bound to a hook, and the byte address of its entry: a base program's entry is in its image and the
manual does not place it (log 3). -/
def hookEntry (s : State) (hook : Nat) : Option (Nat × Option Nat) :=
  if 1 ≤ hook && hook ≤ 4 then (if s.eng.baseImg.isSome then some (0, none) else none)
  else
    match s.eng.hooks.get? hook with
    | none => none
    | some b =>
      match s.eng.progs.get? b.prog with
      | none => none
      | some p => some (b.prog, some (0x8000 + 4096 * p.ipage + b.entry))

/-- Move a program's in-flight count (R310). -/
def progStart (p : Nat) (s : State) : State :=
  if p = 0 then s else s.updEng fun g => { g with progs := mapIf g.progs (·.1 = p) fun x => (x.1, { x.2 with inflight := x.2.inflight + 1 }) }

def progEnd (p : Nat) (s : State) : State :=
  if p = 0 then s else s.updEng fun g => { g with progs := mapIf g.progs (·.1 = p) fun x => (x.1, { x.2 with inflight := x.2.inflight - 1 }) }

/-! ## The frame of a thread -/

/-- The frame that a thread holds. -/
def heldFrame (s : State) (e t : Nat) : Option PFrame :=
  match (getThr s e t).hold with
  | .none => none
  | .slot i => (getSlot s i).map (·.frame)
  | .inq f => some f

/-- The holder of a thread's claims (R271). -/
def claimerOf (s : State) (e t : Nat) : Option Claimer :=
  match heldFrame s e t with
  | some f => some (.frame f.h f.oseq)
  | none => if isService s e t then some .svc else none

/-- The dispatch descriptor of a frame (R291). -/
def descriptor (s : State) (f : PFrame) (reason slot : Nat) : Bytes :=
  toLe 4 f.h ++ toLe 4 f.oseq ++ slice (frameRec s f) 0 32 ++ toLe 1 f.hook ++ toLe 1 reason ++ toLe 1 f.redisp ++
    zeros 1 ++ toLe 4 (f.claim.getD 0xFFFFFFFF) ++ toLe 4 f.entry ++ toLe 2 slot ++ zeros 10 ++ slice f.pres 0 48 ++
    zeros 16 ++ slice f.key 0 64 ++ slice f.result 0 32 ++ zeros 32

/-- A frame starts on a thread at the entry of its hook's program (R293, R303). -/
def startThread (e t : Nat) (f : PFrame) (hold : Hold) (reason slot prog : Nat) (entry : Option Nat) (s : State) : State :=
  let r := match entry with
    | some a => (a, s)
    | none => let d := draw s; (d.1 % 2 ^ 32, d.2)
  let d := descriptor s f reason slot
  progStart prog (setThr e t (fun x => { x with
    busy := true, pc := r.1, desc := d, shadow := slice f.shadow 0 256, hdrOld := f.hdrOld, hdrNew := f.hdrNew
    park := .none, hold := hold, hook := f.hook, prog := prog, epoch := (getEng s e).epoch, since := nowNs s
    bad := false, stop := false, base := if prog = 0 then .fresh else .none }) r.2)

/-- A thread ends its frame and is idle; its program runs on it no more (R310). -/
def endThread (e t : Nat) (s : State) : State :=
  let x := getThr s e t
  let s1 := setThr e t (fun x => { x with busy := false, park := .none, hold := .none, stop := false, base := .none }) s
  if x.busy then progEnd x.prog s1 else s1

/-- The OWNER_ID of an engine's input queue. -/
def engOwner (e : Nat) : Nat := (QKey.eng e).owner

/-! ## DRAINING (R284, R285) -/

/-- An engine holds no frame, and its input queue is empty. -/
def engEmpty (s : State) (e : Nat) : Bool :=
  (List.range 4).all (fun t => !(getThr s e t).busy) && (getQ s (.eng e)).isEmpty

/-- A DRAINING engine that holds nothing reaches the state it drains to; one that drains for a reload waits there for
it. -/
def drainOne (e : Nat) (s : State) : State :=
  let g := getEng s e
  if g.mode = .draining && engEmpty s e && !g.reload then setMode e g.drainTo s else s

/-- An ENG_POLICY_SET of policy `p` takes effect, if it has not. -/
def policyStart (p : Nat) (s : State) : State :=
  if p = s.eng.policy then s
  else
    let s1 := s.updEng fun g => { g with policy := p }
    if p = 0 then
      match (enginesIn s1 .active).getLast? with
      | some e => drainOne e (setMode e .draining (setEng e (fun g => { g with drainTo := .spare, reload := false }) s1))
      | none => s1
    else (enginesIn s1 .spare).foldl (fun s e => setMode e .active s) s1

/-- The oldest ENG_POLICY_SET goes on: it waits for the replacement of a condemned engine (R319), and it finishes once no
engine drains for it (R285). -/
def settlePolicy : Nat → State → State
  | 0, s => s
  | n + 1, s =>
    match runningFor 0x0704 s with
    | none => s
    | some q =>
      if !(enginesIn s .condemned).isEmpty then s
      else
        let s1 := policyStart (u8 q.payload 0) s
        if (enginesIn s1 .draining).any fun e => !(getEng s1 e).reload then s1
        else settlePolicy n (finishRunning q okR s1)

/-- What an engine's last frame lets go on. -/
def settleDrain (e : Nat) (s : State) : State := settlePolicy 16 (drainOne e s)

/-! ## Dispatch (R293) -/

/-- The engines in the order the dispatcher tries them. -/
def dispatchOrder (s : State) : List Nat :=
  let l := enginesIn s .active
  l.filter (· > s.pipe.last) ++ l.filter (· ≤ s.pipe.last)

/-- ENGINE_DISPATCH: the queue head goes to a free thread, or is dropped for want of a program. -/
def dispatchNext (s : State) : State :=
  match s.pipe.disp with
  | [] => s
  | i :: rest =>
    match getSlot s i with
    | none => s
    | some x =>
      let f := x.frame
      let s1 := s.updPipe fun p => { p with disp := rest }
      match hookEntry s f.hook with
      | none => pumpOut (s1.pipe.out.length + 1) (slotDrop i cEngPort 0 s1)
      | some (prog, entry) =>
        match (dispatchOrder s).findSome? (fun e => (freeThread s e).map fun t => (e, t)) with
        | none => s
        | some (e, t) =>
          let n := s.pipe.nextDisp
          let s2 := setSlot i (fun y => { y with
            state := .held e t
            order := if f.redisp = 0 then n else y.order }) (pinBuf f.h s1)
          let s3 := s2.updPipe fun p => { p with last := e, nextDisp := n + 1 }
          let s4 := bump cEng e 0 (if f.redisp = 0 then s3 else bump cEng e 1 s3)
          let s5 := startThread e t f (.slot i) f.reason i prog entry s4
          pumpOut (s5.pipe.out.length + 1) (pmuEvent (8 + e) 7 1 t s5)

/-! ## Faults and budgets (R297, R298) -/

/-- Free the sends staged for a reorder entry's frame. -/
def freeStaged (i : Nat) (s : State) : State :=
  match getSlot s i with
  | none => s
  | some x =>
    let s1 := x.frame.staged.foldl (fun s a => match a.h with | some h => freeBuf h s | none => s) s
    setSlot i (fun y => { y with frame := { y.frame with staged := [] } }) s1

/-- Throw away what a thread has outstanding at the host port. -/
def dropThreadXfers (e t : Nat) (s : State) : State :=
  dropXfers (fun x => match x.purp with
    | .thread e' t' => e' = e && t' = t
    | .direct _ who => who = .thread e t
    | _ => false) s

/-- A thread's frame is to be dropped at release, or at once when it came from the input queue; counted at place `k`
of its port code's engine counters. -/
def dropHeld (e t k : Nat) (s : State) : State :=
  match (getThr s e t).hold with
  | .none => s
  | .slot i =>
    match getSlot s i with
    | none => s
    | some x => abandonAll (.frame x.frame.h x.frame.oseq) (slotDrop i cEngPort k s)
  | .inq f =>
    let s1 := abandonAll (.frame f.h f.oseq) (bump cEngPort f.port k (unpinBuf f.h s))
    releaseOwner f.h (engOwner e) s1

/-- A thread fault (R298): the thread stops and restarts idle. -/
def threadFault (e t cause : Nat) (s : State) : State :=
  let x := getThr s e t
  let s1 := match x.hold with
    | .slot i => freeStaged i s
    | _ => s
  let s2 := pmuEvent (8 + e) 0xB 1 t (endThread e t (dropThreadXfers e t (dropHeld e t 2 s1)))
  let now := nowNs s
  let s3 :=
    if recently (getEng s e).faultEvt now 1000000 then s2
    else raise0 0x0781 (engPort e) (toLe 1 t ++ toLe 1 cause ++ zeros 2 ++ toLe 4 x.pc ++ toLe 2 x.hook)
      (setEng e (fun g => { g with faultEvt := some now }) s2)
  settleDrain e s3

/-- The budget of a thread has run out (R297). -/
def overtime (e t : Nat) (s : State) : State :=
  let x := getThr s e t
  let s1 := pmuEvent (8 + e) 0xC 1 t (endThread e t (dropThreadXfers e t (dropHeld e t 3 s)))
  settleDrain e (raise0 0x0782 (engPort e) (toLe 1 t ++ zeros 3 ++ toLe 4 x.pc ++ toLe 2 x.hook) s1)

/-- FRAME_BUDGET_EXPIRE: a thread parked on a flow operation is stopped at its outcome (R319). -/
def budgetExpire (e t : Nat) (s : State) : State :=
  let x := getThr s e t
  match x.hold with
  | .slot _ =>
    if !x.busy then s
    else
      match x.park with
      | .flop => setThr e t (fun y => { y with stop := true }) s
      | _ => overtime e t s
  | _ => s

/-! ## Owners that are replaced (R303, R304) -/

/-- An input queue's owner of a buffer is replaced by destination owners, each enqueued. -/
def replaceOwner (h oseq ingress old : Nat) (wake : Bool) (dests : List (QKey × Nat)) (s : State) : State :=
  match dests with
  | [] => releaseOwner h old s
  | _ =>
    match s.store.table.get? h with
    | some x =>
      let sig := dests.foldl (fun a d => a ^^^ ownerSig d.1.owner) (x.sig ^^^ ownerSig old)
      dests.foldl (fun s d => enqueueOne h oseq ingress wake d s)
        (s.updStore fun t => { t with table := t.table.set h { count := x.count - 1 + dests.length, sig := sig } })
    | none => giveOwners h oseq ingress wake dests s

/-- Judge destinations and replace an input queue's owner by those that are left. -/
def redirect (h oseq ingress old : Nat) (wake : Bool) (data : Bytes) (dests : List (Nat × Nat)) (s : State) : State :=
  let l := dests.filterMap fun d => (queueOf s d.1 ingress).map fun k => (spreadRing s k data, d.2)
  let bad := l.filterMap fun d => beforeOwners s d.1 data ingress
  let good := l.filter fun d => (beforeOwners s d.1 data ingress).isNone
  replaceOwner h oseq ingress old wake good (bad.foldl (fun s x => countAt x s) s)

/-! ## Input queues (R303, R304) -/

/-- The entry at the head of an input queue leaves it. -/
def popInq (k : QKey) (s : State) : State := setQ k (getQ s k).tail s

/-- A frame of an input queue as a thread takes it: the record and the data that were read, and the parse result and the key that the
parser has handed on (R236, R291). -/
def inqFrame (e : Nat) (q : QE) (b : Buf) (r data : Bytes) (s : State) : PFrame :=
  let n := min data.length 256
  { h := q.h, oseq := q.oseq, port := recPort r, seq := recSeq r, gen := recGen r, tc := recTc r, len := data.length
    pres := b.pres, key := b.key, result := slice r 32 32, shadow := data.take 256, hdrOld := n, hdrNew := n
    hook := (getEng s e).destHook, wake := q.wake }

/-- The head of an engine's input queue is dropped. -/
def dropInqHead (e h : Nat) (s : State) : State := settleDrain e (releaseOwner h (engOwner e) s)

/-- INQ_TAKE: a free dispatch thread takes the head of the input queue when the dispatcher has no frame for the
engine, once the head has been read and verified. -/
def inqTake (e : Nat) (s : State) : State :=
  let g := getEng s e
  if !(g.mode = .active || g.mode = .draining) || (g.mode = .active && !s.pipe.disp.isEmpty) then s
  else
    match freeThread s e, getQ s (.eng e) with
    | some t, q :: _ =>
      match getBuf s q.h with
      | none => settleDrain e (badHandle q.h (popInq (.eng e) s))
      | some b =>
        let s1 := popInq (.eng e) (forgetRead (.inq e) q.h s)
        if isRetiring s (recGen b.record) then dropInqHead e q.h (bump 0x50 (recPort b.record) 11 s1)
        else
          match hookEntry s g.destHook with
          | none => dropInqHead e q.h (bump cEngPort (recPort b.record) 0 s1)
          | some (prog, entry) =>
            let r := fetchPinned (.inq e) q.h s
            match r.1 with
            | none => r.2
            | some x =>
              let s2 := popInq (.eng e) r.2
              if !readGood s2 q.h q.oseq x then
                dropInqHead e q.h (checkFail q.h q.oseq (readKind 0 x) (engPort e) (unpinBuf q.h s2))
              else
              let f := inqFrame e q b (readRecord s2 q.h x) (readData s2 q.h x) s2
              pmuEvent (8 + e) 8 1 t (startThread e t f (.inq f) 8 0xFFFF prog entry s2)
    | _, _ => s

/-- ONYX_INQ_SERVE: Onyx firmware disposes of the head of its input queue by the punt target (R304), once it has been read and
verified. -/
def onyxServe (s : State) : State :=
  if !onyxServes s then s
  else
    match getQ s .onyx with
    | [] => s
    | q :: _ =>
      let own := QKey.onyx.owner
      match getBuf s q.h with
      | none => badHandle q.h (popInq .onyx s)
      | some b =>
        let port := recPort b.record
        let s1 := popInq .onyx (forgetRead .onyx q.h s)
        if isRetiring s (recGen b.record) then releaseOwner q.h own (bump 0x50 port 11 s1)
        else if s.gv.puntTarget = 0xFFFFFFFF then releaseOwner q.h own (bump cEngPort port 6 s1)
        else
          let r := fetchPinned .onyx q.h s
          match r.1 with
          | none => r.2
          | some x =>
            let s2 := unpinBuf q.h (popInq .onyx r.2)
            if !readGood s2 q.h q.oseq x then releaseOwner q.h own (checkFail q.h q.oseq (readKind 0 x) 0xF0 s2)
            else redirect q.h q.oseq port own q.wake (readData s2 q.h x) [(s.gv.puntTarget, 0xFFFFFFFF)] s2

/-! ## Condemnation (R312, R313, R481) -/

/-- A host write that an engine has issued, the table service's among them, has not ended (R271, R313). -/
def engWrites (s : State) (e : Nat) : Bool := s.host.xfers.any fun x => x.write && !x.finished && x.sid = 0x208 + e

/-- One held frame goes back to the dispatcher, from the descriptor and shadow kept at its dispatch (R313). -/
def redispatchSlot (i : Nat) (s : State) : State :=
  match getSlot s i with
  | none => s
  | some x =>
    let n := x.frame.redisp + 1
    if n > 2 then slotDrop i cResPort 0 s
    else setSlot i (fun y => { y with frame := { y.first with redisp := n }, state := .queued }) s

/-- The reorder entries of a condemned engine, in the order of their first dispatch. -/
def movingSlots (s : State) (e : Nat) : List Nat :=
  let l := s.pipe.slots.filter fun x => x.2.state = .moving e
  (sortBy (fun a b => a.2.order ≤ b.2.order) l).map (·.1)

/-- REDISPATCH: once every host write of the condemned engine has ended, its frames enter the dispatcher at its
head. -/
def redispatchAll (e : Nat) (s : State) : State :=
  if engWrites s e then s
  else
    let l := movingSlots s e
    let s1 := l.foldl (fun s i => redispatchSlot i s) s
    let back := l.filter fun i => match getSlot s1 i with | some x => x.state = .queued | none => false
    s1.updPipe fun p => { p with disp := back ++ p.disp }

/-- What a thread of a condemned engine held is taken from it (R313). -/
def takeFrom (e t : Nat) (s : State) : State :=
  match (getThr s e t).hold with
  | .none => s
  | .slot i =>
    let s1 := setSlot i (fun y => { y with state := .moving e }) (freeStaged i s)
    let s2 := match getSlot s i with
      | some x => unpinBuf x.frame.h s1
      | none => s1
    setThr e t (fun x => { x with hold := .none }) s2
  | .inq f =>
    let s1 := setThr e t (fun x => { x with hold := .none }) (bump cResPort f.port 0 (unpinBuf f.h s))
    releaseOwner f.h (engOwner e) (abandonAll (.frame f.h f.oseq) s1)

/-- Drop the frames of an input queue in RECOVERY_DROPS, with what its reader has under way. -/
def dropInq (k : QKey) (who : Reader) (s : State) : State :=
  (getQ s k).foldl (fun s q => releaseOwner q.h k.owner (bump cResPort (ingressOf s q.h) 0 (forgetRead who q.h s))) (setQ k [] s)

/-- The table service leaves an engine that is condemned (R319): a FLOW_INSTALL in hand starts again, once the writes that the engine
has issued have ended, and its claims pass with it. -/
def moveService (e : Nat) (s : State) : State :=
  if serviceEngine s != some e then s
  else
    let again (j : SvcJob) : SvcJob :=
      match j.op with
      | .install _ _ _ _ => if j.phase = .start then j else { j with phase := .moved, left := 0, err := false }
      | _ => j
    let moved := s.flow.jobs.any fun j => again j != j
    let s1 := setEng e (fun g => { g with svc := true }) (s.updFlow fun f => { f with jobs := f.jobs.map again })
    if moved then
      dropXfers (fun x => x.purp = .flowWrite) (s1.updFlow fun f => { f with flops := f.flops.filter (·.by_ != .svc) })
    else s1

/-- Condemn an engine: steps 1 to 3 of R481. -/
def condemn (e cause : Nat) (s0 : State) : State :=
  let s := moveService e s0
  let g := getEng s e
  let spare := if s.eng.policy = 0 then (enginesIn s .spare).find? (· != e) else none
  let s1 := setEng e (fun g => { g with epoch := (g.epoch + 1) % 65536, reload := false, again := none, condemned := g.condemned ++ [nowNs s] }) s
  let s2 := bump cRes 0 5 (logFault fkCondemned { sub := 3, unit := e } cause (setMode e .condemned s1))
  let s3 := if g.mode = .active || g.mode = .draining then
      (match spare with
       | some x => (setMode x .active s2).updEng fun v => { v with spareUsed := true }
       | none => s2)
    else s2
  (List.range 4).foldl (fun s t => takeFrom e t s) (dropInq (.eng e) (.inq e) s3)

/-- ENGINE_WATCHDOG, for the causes that hardware finds (R481). -/
def watchdog (e cause : Nat) (s : State) : State :=
  let m := (getEng s e).mode
  if e < nEngines s && (m = .active || m = .draining) && 1 ≤ cause && cause ≤ 4 then condemn e cause s else s

/-! ## The test and the return of an engine (steps 4 to 6 of R481, R494) -/

/-- An instruction memory as the retained images give it (R288, R309). -/
def imemImage (s : State) : Mem :=
  s.eng.progs.vals.foldl (fun m p => Mem.wrN m (0x8000 + 4096 * p.ipage) p.icode)
    (Mem.wrN [] 0 ((s.eng.baseImg.getD []).take 0x8000))

/-- A data memory as the retained images give it. -/
def dmemImage (s : State) : Mem :=
  s.eng.progs.vals.foldl (fun m p => Mem.wrN m (0x8000 + 4096 * p.dpage) p.ddata)
    (Mem.wrN [] 0 (((s.eng.baseImg.getD []).drop 0x8000).take 0x8000))

/-- The memories of an engine, loaded from the retained images (R288, R309, R494). -/
def loadImages (e : Nat) (s : State) : State :=
  setEng e (fun g => { g with imem := imemImage s, dmem := dmemImage s, base := s.eng.baseImg.isSome }) s

/-- The base image of an engine is loaded again; its extension pages keep what they hold (R494). -/
def reloadBase (e : Nat) (s : State) : State :=
  let im := s.eng.baseImg.getD []
  setEng e (fun g => { g with
    imem := Mem.wrN g.imem 0 (slice im 0 0x8000), dmem := Mem.wrN g.dmem 0 (slice im 0x8000 0x8000), base := s.eng.baseImg.isSome }) s

/-- How often an engine was condemned in the last 24 h of TB7. -/
def condemnedLately (s : State) (e : Nat) : Nat :=
  ((getEng s e).condemned.filter fun t => nowNs s < t + 86400 * 1000000000).length

/-- No frame at the entry arbiter answers a thread of the engine any more. -/
def forgetSender (e : Nat) (a : Arr) : Arr :=
  match a.thr with
  | some (x, _) => if x = e then { a with thr := none } else a
  | none => a

/-- An engine's threads after its reset, with their registers as they are. -/
def idleThreads (e : Nat) (s : State) : State :=
  let s1 := (List.range 4).foldl (fun s t => endThread e t (dropThreadXfers e t s)) s
  let mine (p : Flop) : Bool := match p.by_ with | .thread x _ => x = e | .svc => false
  (setEng e (fun g => { g with svc := false }) (s1.updFlow fun f => { f with flops := f.flops.filter fun p => !mine p })).updPipe fun p =>
    { p with wait := p.wait.map (forgetSender e), granted := p.granted.map (forgetSender e) }

/-- ENGINE in SERVICE_STATUS follows the FAILED engines (R498). -/
def judgeFailed (s : State) : State := setService 0 ((List.range (nEngines s)).any fun e => (getEng s e).failed) s

/-- The threads of an engine that returns to service carry its valid epoch (R312). -/
def freshEpochs (e : Nat) (s : State) : State :=
  (List.range 4).foldl (fun s t => setThr e t (fun x => { x with epoch := (getEng s e).epoch }) s) s

/-- A condemned engine is held in reset 1 µs after it was condemned, at the latest that R284 allows (DESIGN CHOICE, log 82). -/
def holdReset (s : State) : State :=
  (enginesIn s .condemned).foldl (fun s e =>
    if !(getEng s e).inReset && !recently (getEng s e).condemned.getLast? (nowNs s) 1000 then
      setEng e (fun g => { g with inReset := true }) s
    else s) s

/-- An engine that passed its test returns (step 5). -/
def engReturn (e : Nat) (s : State) : State :=
  let s1 := setEng e (fun g => { g with inReset := false, testing := false, failed := false })
    (loadImages e (freshEpochs e (idleThreads e s)))
  let m : EngMode := if s.eng.policy = 0 && (enginesIn s .spare).isEmpty then .spare else .active
  judgeFailed (logFault fkReturned { sub := 3, unit := e } 0
    ((setMode e m s1).updEng fun v => { v with spareUsed := false }))

/-- An engine fails (step 6). -/
def engFail (e : Nat) (s : State) : State :=
  let s1 := setEng e (fun g => { g with inReset := false, testing := false, failed := true, again := none }) (idleThreads e s)
  judgeFailed (logFault fkEngFailed { sub := 3, unit := e } 0 (setMode e .off s1))

end Sys2Proof.Machine
end

