-- ==== Sys2Proof/Machine/EngineIsa.lean ====
section
/-! DEFINITION. The instructions of a Garnet thread that reach no other unit, but for the frame window
(R283, R287-R290, R299-R301). -/

namespace Sys2Proof.Machine

open Sys2Proof

/-! ## Issue and retirement -/

/-- A thread issues an instruction: its engine runs threads, and it runs a program and is parked on nothing (R284, R299). -/
def canRun (s : State) (e t : Nat) : Bool :=
  let g := getEng s e
  let x := getThr s e t
  e < nEngines s && t < 4 && !s.sys.held && !coreOff s && (g.mode = .active || g.mode = .draining || g.mode = .condemned) &&
    !g.inReset && !g.testing && (x.busy || isService s e t || (g.svc && t = 3)) && x.park = .none

/-- An instruction of a thread that can issue one; of any other, nothing (log 4). -/
def isa (e t : Nat) (f : State → State) (s : State) : State := if canRun s e t then f s else s

/-- The instruction retires, and the thread goes on at `pc`. -/
def retireTo (e t pc : Nat) (s : State) : State :=
  setThr e t (fun x => { x with pc := pc % 2 ^ 32 }) (pmuEvent (8 + e) 1 1 t s)

/-- The instruction retires, and the thread goes on at the next one. -/
def retire (e t : Nat) (s : State) : State := retireTo e t ((getThr s e t).pc + 4) s

def wreg (s : State) (e t : Nat) (r : Reg) : Word := (getThr s e t).regs.getD r.val 0#32

def setW (e t : Nat) (r : Reg) (v : Word) (s : State) : State := setThr e t (fun x => { x with regs := x.regs.set r.val v }) s

/-- Write the destination and retire. -/
def retireW (e t : Nat) (rd : Reg) (v : Word) (s : State) : State := retire e t (setW e t rd v s)

/-- Retire with a free value in the destination (log 3). -/
def retireFree (e t : Nat) (rd : Reg) (s : State) : State :=
  let r := draw s
  retireW e t rd (BitVec.ofNat 32 r.1) r.2

/-! ## Integer operations (R299) -/

/-- The second source: a register, or a signed immediate. -/
def srcVal (s : State) (e t : Nat) (b : Src) : Word :=
  match b with
  | .reg r => wreg s e t r
  | .imm v => BitVec.ofInt 32 v

/-- An integer operation. -/
def intOp (f : Word → Word → Word) (e t : Nat) (rd ra : Reg) (b : Src) (s : State) : State :=
  isa e t (fun s => retireW e t rd (f (wreg s e t ra) (srcVal s e t b)) s) s

/-- A shift; the manual states no result for an amount of 32 or more, which is a free value (log 3). -/
def shiftOp (f : Word → Nat → Word) (e t : Nat) (rd ra : Reg) (b : Src) (s : State) : State :=
  isa e t (fun s =>
    let n := (srcVal s e t b).toNat
    if n < 32 then retireW e t rd (f (wreg s e t ra) n) s else retireFree e t rd s) s

def mpyHigh (a b : Int) : Word := BitVec.ofInt 32 (a * b / (2 ^ 32 : Nat))

def execPlus (e t : Nat) (rd ra : Reg) (b : Src) (s : State) : Out := .next (intOp (· + ·) e t rd ra b s)
def execMinus (e t : Nat) (rd ra : Reg) (b : Src) (s : State) : Out := .next (intOp (· - ·) e t rd ra b s)
def execBand (e t : Nat) (rd ra : Reg) (b : Src) (s : State) : Out := .next (intOp (· &&& ·) e t rd ra b s)
def execBor (e t : Nat) (rd ra : Reg) (b : Src) (s : State) : Out := .next (intOp (· ||| ·) e t rd ra b s)
def execBxor (e t : Nat) (rd ra : Reg) (b : Src) (s : State) : Out := .next (intOp (· ^^^ ·) e t rd ra b s)
def execShl (e t : Nat) (rd ra : Reg) (b : Src) (s : State) : Out := .next (shiftOp (· <<< ·) e t rd ra b s)
def execShr (e t : Nat) (rd ra : Reg) (b : Src) (s : State) : Out := .next (shiftOp (· >>> ·) e t rd ra b s)
def execShra (e t : Nat) (rd ra : Reg) (b : Src) (s : State) : Out := .next (shiftOp BitVec.sshiftRight e t rd ra b s)
def execCmplt (e t : Nat) (rd ra : Reg) (b : Src) (s : State) : Out :=
  .next (intOp (fun x y => if x.slt y then 1#32 else 0#32) e t rd ra b s)
def execCmpltu (e t : Nat) (rd ra : Reg) (b : Src) (s : State) : Out :=
  .next (intOp (fun x y => if x.ult y then 1#32 else 0#32) e t rd ra b s)
def execImmh (e t : Nat) (rd : Reg) (imm : BitVec 16) (s : State) : Out :=
  .next (isa e t (fun s => retireW e t rd (imm ++ 0#16) s) s)
def execImml (e t : Nat) (rd : Reg) (imm : BitVec 16) (s : State) : Out :=
  .next (isa e t (fun s => retireW e t rd (wreg s e t rd ||| imm.setWidth 32) s) s)
def execMpy (e t : Nat) (rd ra rb : Reg) (s : State) : Out := .next (intOp (· * ·) e t rd ra (.reg rb) s)
def execMpyhs (e t : Nat) (rd ra rb : Reg) (s : State) : Out :=
  .next (intOp (fun x y => mpyHigh x.toInt y.toInt) e t rd ra (.reg rb) s)
def execMpyhu (e t : Nat) (rd ra rb : Reg) (s : State) : Out :=
  .next (intOp (fun x y => mpyHigh x.toNat y.toNat) e t rd ra (.reg rb) s)

/-! ## Bit fields (R299) -/

def execBxt (e t : Nat) (rd rs : Reg) (pos width : Nat) (s : State) : Out :=
  .next (isa e t (fun s =>
    if 1 ≤ width && pos + width ≤ 32 then
      retireW e t rd (BitVec.ofNat 32 ((wreg s e t rs).toNat / 2 ^ pos % 2 ^ width)) s
    else retireFree e t rd s) s)

def execBins (e t : Nat) (rd rs : Reg) (pos width : Nat) (s : State) : Out :=
  .next (isa e t (fun s =>
    if 1 ≤ width && pos + width ≤ 32 then
      let m : Word := BitVec.ofNat 32 ((2 ^ width - 1) * 2 ^ pos)
      retireW e t rd ((wreg s e t rd &&& ~~~m) ||| ((wreg s e t rs <<< pos) &&& m)) s
    else retireFree e t rd s) s)

def execBrev8 (e t : Nat) (rd rs : Reg) (s : State) : Out :=
  .next (isa e t (fun s => retireW e t rd (BitVec.ofNat 32 (be (toLe 4 (wreg s e t rs).toNat) 0 4)) s) s)

/-! ## Checksum and CRC (R299, R301) -/

def execOcadd (e t : Nat) (rs : Reg) (s : State) : Out :=
  .next (isa e t (fun s =>
    let v := (wreg s e t rs).toNat
    retire e t (setThr e t (fun x => { x with csum := fold16 (x.csum + v / 65536 + v % 65536) }) s)) s)

/-- Feed the low `n` bytes of a register in network order. -/
def crcOp (n e t : Nat) (rs : Reg) (s : State) : State :=
  isa e t (fun s =>
    let v := toBe n (wreg s e t rs).toNat
    retire e t (setThr e t (fun x => { x with crcVal := crcFeed (crcSel x.crcSel) x.crcVal v }) s)) s

def execCrc8 (e t : Nat) (rs : Reg) (s : State) : Out := .next (crcOp 1 e t rs s)
def execCrc16 (e t : Nat) (rs : Reg) (s : State) : Out := .next (crcOp 2 e t rs s)
def execCrc32 (e t : Nat) (rs : Reg) (s : State) : Out := .next (crcOp 4 e t rs s)

/-! ## Control (R299) -/

/-- The address that a word offset names, from the instruction's own address. -/
def jumpAddr (pc : Nat) (off : Int) : Nat := unsx 32 ((pc : Int) + 4 * off)

/-- A conditional jump. -/
def jumpIf (p : Word → Word → Bool) (e t : Nat) (ra rb : Reg) (off : Int) (s : State) : State :=
  isa e t (fun s =>
    if p (wreg s e t ra) (wreg s e t rb) then retireTo e t (jumpAddr (getThr s e t).pc off) s else retire e t s) s

def execJeq (e t : Nat) (ra rb : Reg) (off : Int) (s : State) : Out := .next (jumpIf (· == ·) e t ra rb off s)
def execJne (e t : Nat) (ra rb : Reg) (off : Int) (s : State) : Out := .next (jumpIf (· != ·) e t ra rb off s)
def execJlt (e t : Nat) (ra rb : Reg) (off : Int) (s : State) : Out := .next (jumpIf BitVec.slt e t ra rb off s)
def execJge (e t : Nat) (ra rb : Reg) (off : Int) (s : State) : Out := .next (jumpIf (fun x y => !x.slt y) e t ra rb off s)
def execJltu (e t : Nat) (ra rb : Reg) (off : Int) (s : State) : Out := .next (jumpIf BitVec.ult e t ra rb off s)
def execJgeu (e t : Nat) (ra rb : Reg) (off : Int) (s : State) : Out := .next (jumpIf (fun x y => !x.ult y) e t ra rb off s)

/-- The register that takes the return address. -/
def linkReg : Reg := 31

def execCall (e t : Nat) (off : Int) (s : State) : Out :=
  .next (isa e t (fun s =>
    let pc := (getThr s e t).pc
    retireTo e t (jumpAddr pc off) (setW e t linkReg (BitVec.ofNat 32 (pc + 4)) s)) s)

def execJumpr (e t : Nat) (rs : Reg) (off : Int) (s : State) : Out :=
  .next (isa e t (fun s =>
    let pc := (getThr s e t).pc
    retireTo e t (wreg s e t rs).toNat (if off % 2 = 0 then s else setW e t linkReg (BitVec.ofNat 32 (pc + 4)) s)) s)

/-! ## Loads and stores (R287-R290, R299) -/

/-- The areas of the thread's address map. -/
inductive Area where
  | imem | dmem | desc | shadow | window
  deriving DecidableEq, Repr

/-- The area that an address lies in, and its offset there. -/
def areaOf (a : Nat) : Option (Area × Nat) :=
  if a < 0x10000 then some (.imem, a)
  else if a < 0x30000 then some (.dmem, a - 0x10000)
  else if 0x40000 ≤ a && a < 0x40100 then some (.desc, a - 0x40000)
  else if 0x40100 ≤ a && a < 0x40200 then some (.shadow, a - 0x40100)
  else if 0x50000 ≤ a && a < 0x52800 then some (.window, a - 0x50000)
  else none

/-- The address that a memory instruction names. -/
def memAddr (s : State) (e t : Nat) (ra : Reg) (off : Int) : Nat := (wreg s e t ra + BitVec.ofInt 32 off).toNat

/-- `n` bytes of the frame window: zero at and beyond the stored length (R289). -/
def windowBytes (s : State) (e t off n : Nat) : Bytes :=
  match heldFrame s e t with
  | some f => slice (frameData s f) off n
  | none => zeros n

/-- The number that `n` bytes hold, extended by sign or by zero. -/
def extWord (sign : Bool) (n v : Nat) : Word := if sign then BitVec.ofInt 32 (sext (8 * n) v) else BitVec.ofNat 32 v

/-- The frame's stored length that a thread sees: LENGTH in its descriptor, which outlasts a condemnation. -/
def windowLen (s : State) (e t : Nat) : Nat := if (getThr s e t).busy then u16 (getThr s e t).desc 12 else 0

/-- An operation outside the engine whose epoch is not the engine's valid one is not performed, and is counted (R311). -/
def fenced (s : State) (e t : Nat) : Bool :=
  ((getThr s e t).busy || ((getEng s e).svc && t = 3)) && (getThr s e t).epoch != (getEng s e).epoch

def fence (e t : Nat) (s : State) : State := retire e t (bump cEngBlock 0 0 s)

/-- The beat that a window load needs is read out of host memory, where its buffer's contents are (R215, R289). -/
def startWindow (e t h off : Nat) (s : State) : State :=
  match (getBuf s h).bind (·.loc.held?) with
  | none => s
  | some i =>
    let a := dramAddr s (hPool h) i + 64 + off / 64 * 64
    if isBad s h then s
    else if regionOk s a 64 then startXfer (.direct h (.thread e t)) false 0x200 a 64 [] s
    else violation s

/-- A load from the frame window: at once in its first 256 bytes and past its end, else the thread parks. -/
def windowLoad (sign : Bool) (n e t : Nat) (rd : Reg) (off : Nat) (s : State) : State :=
  if off < 256 || windowLen s e t ≤ off then retireW e t rd (extWord sign n (be (windowBytes s e t off n) 0 n)) s
  else if fenced s e t then fence e t s
  else
    let h := ((heldFrame s e t).map (·.h)).getD 0
    let a := access h false (64 + off / 64 * 64) (off % 64 + n) s
    if !a.1 then threadFault e t 5 a.2
    else
      startWindow e t h off
        (setThr e t (fun x => { x with park := .window rd.val (if sign then n + 8 else n) off }) (retire e t a.2))

/-- The faults of an access that any load or store may meet: alignment, then address (R287, R298). -/
def accessFault (n a : Nat) : Option Nat :=
  if a % n != 0 then some 2 else if (areaOf a).isNone then some 3 else none

/-- A load of `n` bytes; a frame load names the window only. -/
def loadOp (frame sign : Bool) (n e t : Nat) (rd ra : Reg) (off : Int) (s : State) : State :=
  isa e t (fun s =>
    let a := memAddr s e t ra off
    match accessFault n a, areaOf a with
    | some c, _ => threadFault e t c s
    | none, none => s
    | none, some (.window, o) => windowLoad sign n e t rd o s
    | none, some (k, o) =>
      if frame then threadFault e t 3 s
      else
        let b := match k with
          | .imem => Mem.rdN (getEng s e).imem o n
          | .dmem => Mem.rdN (getEng s e).dmem o n
          | .desc => slice (getThr s e t).desc o n
          | _ => slice (getThr s e t).shadow o n
        retireW e t rd (extWord sign n (le b 0 n)) s) s

/-- A store of `n` bytes: DMEM, the header shadow, and RESULT of the descriptor take it. -/
def storeOp (n e t : Nat) (rs ra : Reg) (off : Int) (s : State) : State :=
  isa e t (fun s =>
    let a := memAddr s e t ra off
    let v := toLe n (wreg s e t rs).toNat
    match accessFault n a, areaOf a with
    | some c, _ => threadFault e t c s
    | none, some (.dmem, o) => retire e t (setEng e (fun g => { g with dmem := Mem.wrN g.dmem o v }) s)
    | none, some (.shadow, o) => retire e t (setThr e t (fun x => { x with shadow := overlay x.shadow o v }) s)
    | none, some (.desc, o) =>
      if 192 ≤ o && o < 224 then retire e t (setThr e t (fun x => { x with desc := overlay x.desc o v }) s)
      else threadFault e t 4 s
    | none, _ => threadFault e t 4 s) s

def execLd8 (e t : Nat) (rd ra : Reg) (off : Int) (s : State) : Out := .next (loadOp false false 1 e t rd ra off s)
def execLd8s (e t : Nat) (rd ra : Reg) (off : Int) (s : State) : Out := .next (loadOp false true 1 e t rd ra off s)
def execLd16 (e t : Nat) (rd ra : Reg) (off : Int) (s : State) : Out := .next (loadOp false false 2 e t rd ra off s)
def execLd16s (e t : Nat) (rd ra : Reg) (off : Int) (s : State) : Out := .next (loadOp false true 2 e t rd ra off s)
def execLd32 (e t : Nat) (rd ra : Reg) (off : Int) (s : State) : Out := .next (loadOp false false 4 e t rd ra off s)
def execSt8 (e t : Nat) (rs ra : Reg) (off : Int) (s : State) : Out := .next (storeOp 1 e t rs ra off s)
def execSt16 (e t : Nat) (rs ra : Reg) (off : Int) (s : State) : Out := .next (storeOp 2 e t rs ra off s)
def execSt32 (e t : Nat) (rs ra : Reg) (off : Int) (s : State) : Out := .next (storeOp 4 e t rs ra off s)
def execFld8 (e t : Nat) (rd ra : Reg) (off : Int) (s : State) : Out := .next (loadOp true false 1 e t rd ra off s)
def execFld16 (e t : Nat) (rd ra : Reg) (off : Int) (s : State) : Out := .next (loadOp true false 2 e t rd ra off s)
def execFld32 (e t : Nat) (rd ra : Reg) (off : Int) (s : State) : Out := .next (loadOp true false 4 e t rd ra off s)

/-- A window load cannot be served: a word of the buffer is uncorrectable, the buffer is BAD, or its read out of host memory was
errored or lay in no region (R206, R290). -/
def windowLost (s : State) (h : Nat) (x : Option Xfer) : Bool :=
  (getBuf s h).any (fun b => b.lost || b.bad) || x.any (·.err) || (x.isNone && readsDram s h)

/-- WINDOW_LOAD_RETURN: the data of a window load, once a read out of host memory that it needs has ended; an uncorrectable word
returns zeros and marks the frame READ_BAD. -/
def windowReturn (e t : Nat) (bad : Bool) (s : State) : State :=
  let x := getThr s e t
  let h := ((heldFrame s e t).map (·.h)).getD 0
  match x.park with
  | .window rd n off =>
    if reading s (.thread e t) h then s
    else
      let k := n % 8
      let r := readOf s (.thread e t) h
      let lost := bad || windowLost s h r
      let b := match r with
        | some y => slice y.data (off % 64) k
        | none => windowBytes s e t off k
      let v := if lost then 0#32 else extWord (n ≥ 8) k (be b 0 k)
      setThr e t (fun x => { x with regs := x.regs.set rd v, park := .none, bad := x.bad || lost }) (dropDirect (.thread e t) h s)
  | _ => s

def execWindowLoadReturn (e t : Nat) (bad : Bool) (s : State) : Out := .next (clocked s (windowReturn e t bad s))

/-! ## Control registers (R300, R301) -/

/-- The register after the output reflection and the final XOR. -/
def crcFinalOf (x : Thread) : Nat := crcFinal (crcSel x.crcSel) x.crcVal

/-- The value of a control register. -/
def csrVal (s : State) (e t : Nat) (c : Csr) : Nat :=
  let x := getThr s e t
  match c with
  | .engineId => e
  | .threadId => t
  | .epoch => x.epoch
  | .cycle => (getPmu s (8 + e)).cycle
  | .timeLo => nowNs s
  | .timeHi => x.timeHi
  | .hdrOld => x.hdrOld
  | .hdrNew => x.hdrNew
  | .csumAcc => x.csum
  | .crcSel => x.crcSel
  | .crcValLo => x.crcVal
  | .crcValHi => x.crcVal / 2 ^ 32
  | .crcFinalLo => crcFinalOf x
  | .crcFinalHi => crcFinalOf x / 2 ^ 32
  | .faultInfo => x.fault

def execCrd (e t : Nat) (r : Reg) (csr : Csr) (s : State) : Out :=
  .next (isa e t (fun s =>
    let v := csrVal s e t csr
    let s1 := if csr = .timeLo then setThr e t (fun x => { x with timeHi := v / 2 ^ 32 % 2 ^ 32 }) s else s
    retireW e t r (BitVec.ofNat 32 v) s1) s)

/-- A thread with a control register written; none where the table forbids the write. -/
def csrWrite (x : Thread) (c : Csr) (v : Nat) : Option Thread :=
  let w := 2 ^ (crcSel x.crcSel).width
  match c with
  | .hdrNew => if v ≤ 256 then some { x with hdrNew := v } else none
  | .csumAcc => some { x with csum := v % 65536 }
  | .crcSel => if v ≤ 3 then some { x with crcSel := v, crcVal := (crcSel v).ini } else none
  | .crcValLo => some { x with crcVal := (x.crcVal / 2 ^ 32 * 2 ^ 32 + v) % w }
  | .crcValHi => some { x with crcVal := (v * 2 ^ 32 + x.crcVal % 2 ^ 32) % w }
  | _ => none

def execCwr (e t : Nat) (r : Reg) (csr : Csr) (s : State) : Out :=
  .next (isa e t (fun s =>
    match csrWrite (getThr s e t) csr (wreg s e t r).toNat with
    | some x => retire e t (setThr e t (fun _ => x) s)
    | none => threadFault e t 7 s) s)

end Sys2Proof.Machine
end

