-- ==== Sys2Proof/Machine/EngineOps.lean ====
section
/-! DEFINITION. The instructions of a thread that reach another unit, and the events of the engines
(R271, R289, R293, R296-R305, R311, R313). -/

namespace Sys2Proof.Machine

open Sys2Proof

/-- An operation outside the engine: fenced when its epoch is not the valid one (R311). -/
def outside (e t : Nat) (f : State → State) (s : State) : State :=
  isa e t (fun s => if fenced s e t then fence e t s else f s) s

/-! ## The numbers that a thread reads (log 8) -/

def codeOf (n : Nat) : Word := Config.code n

def flopCode : FlopRes → Nat
  | .granted => 0
  | .exists_ => 1
  | .resumed => 2
  | .full => 3
  | .busy => 4
  | .error => 5
  | .stale => 6
  | .notFound => 7
  | .ok => 8
  | .mismatch => 9

def cBadResult : Nat := 16
def cGrow : Nat := 17
def cBadSend : Nat := 18
def cSendLimit : Nat := 19
def cNoBuffer : Nat := 20
def cSendOk : Nat := 21
def cHostOk : Nat := 24
def cHostError : Nat := 25

/-- The register of a status, and the one of an index. -/
def statusReg : Reg := 1
def indexReg : Reg := 2

/-- The status of an instruction in w1. -/
def setStatus (e t code : Nat) (s : State) : State := setW e t statusReg (codeOf code) s

/-- A refused DONE or SEND: its status in w1, its cause in FAULT_INFO; the thread goes on. -/
def refuseEnd (e t code : Nat) (s : State) : State :=
  retire e t (setThr e t (fun x => { x with fault := (codeOf (32 + code)).toNat }) (setStatus e t code s))

/-! ## Flow operations (R271, R299) -/

/-- The thread parks on a flow operation. -/
def parkFlop (e t : Nat) (s : State) : State := setThr e t (fun x => { x with park := .flop }) (retire e t s)

/-- A flow operation for the holder of the thread's claims. -/
def flopOp (e t : Nat) (f : Claimer → State → State) (s : State) : State :=
  outside e t (fun s =>
    match claimerOf s e t with
    | some o => f o (parkFlop e t s)
    | none => s) s

/-- A flow operation that is decided at once. -/
def flopNow (e t : Nat) (o : Claimer) (r : (FlopRes × Nat) × State) : State :=
  r.2.updFlow fun x => { x with flops := x.flops ++ [{ by_ := .thread e t, owner := o, entry := false, result := some r.1 }] }

/-- The expected LAST_SEEN of CLAIM_ENTRY: 2 bytes, or none. -/
def expectedSeen (b : Bytes) : Option Nat := if b.isEmpty then none else some (u16 b 0 % 4096)

def execClaimNew (e t : Nat) (key : Bytes) (s : State) : Out :=
  .next (flopOp e t (fun o s => startClaimNew { by_ := .thread e t, owner := o, entry := false, key := slice key 0 40 } s) s)

def execClaimEntry (e t index : Nat) (expected : Bytes) (s : State) : Out :=
  .next (flopOp e t (fun o s =>
    startClaimEntry { by_ := .thread e t, owner := o, entry := true, index := index, expect := expectedSeen expected } s) s)

def execPublish (e t claim : Nat) (image : Bytes) (s : State) : Out :=
  .next (flopOp e t (fun o s => flopNow e t o (publishClaim o claim image s)) s)

def execAbandon (e t claim : Nat) (s : State) : Out :=
  .next (flopOp e t (fun o s => flopNow e t o (abandonClaim o claim s)) s)

/-- FLOP_OUTCOME: the outcome in w1 and the index in w2; a stop that waited for it applies (R319). -/
def flopOutcome (e t : Nat) (s : State) : State :=
  match flopOf s (.thread e t) with
  | none => s
  | some p =>
    match p.result with
    | none => s
    | some (r, i) =>
      let s1 := s.updFlow fun x => { x with flops := x.flops.filter (·.by_ != .thread e t) }
      if (getThr s e t).park != .flop then s1
      else
        let s2 := setThr e t (fun x => { x with park := .none })
          (setW e t indexReg (BitVec.ofNat 32 i) (setStatus e t (flopCode r) s1))
        if (getThr s e t).stop then overtime e t s2 else s2


/-! ## Host access (R305) -/

/-- The range is DMEM's in the thread's address map. -/
def inDmem (a n : Nat) : Bool := 0x10000 ≤ a && a + n ≤ 0x30000

/-- An access into FLOW_TABLE covers exactly the slot or slots of a claim that the thread holds. -/
def claimedSlot (s : State) (e t a n : Nat) : Bool :=
  match claimerOf s e t with
  | some o => (claimsOf s o).any fun c => entryAddr s c.index = a && n = (if u8 c.key 2 = 1 then 64 else 32)
  | none => false

/-- A write at an address of FLOW_TABLE changes byte 0 of a bucket, if it starts there (R259). -/
def noteSlot (a ctl : Nat) (s : State) : State :=
  match s.flow.claims.vals.find? fun c => entryAddr s c.index = a with
  | some c => noteCtl c.index ctl s
  | none => s

/-- HRD and HWR. -/
def hostOp (write : Bool) (e t haddr daddr len : Nat) (s : State) : State :=
  outside e t (fun s =>
    let flow := s.host.flow.covers haddr len
    if len = 0 || len > 4096 then threadFault e t 6 s
    else if !inDmem daddr len then threadFault e t 3 s
    else if !(inWindow s haddr len || flow) then threadFault e t 6 (lines (violation s))
    else if write && flow && !claimedSlot s e t haddr len then threadFault e t 6 s
    else
      let d := if write then Mem.rdN (getEng s e).dmem (daddr - 0x10000) len else []
      startXfer (.thread e t) write (0x208 + e) haddr len d
        (setThr e t (fun x => { x with park := .host daddr }) (retire e t (if write then noteSlot haddr (u8 d 0) s else s)))) s

def execHrd (e t haddr daddr len : Nat) (s : State) : Out := .next (hostOp false e t haddr daddr len s)
def execHwr (e t haddr daddr len : Nat) (s : State) : Out := .next (hostOp true e t haddr daddr len s)

/-- HOST_ACCESS_DONE: the data goes to DMEM, the status to w1. -/
def hostAccessDone (e t : Nat) (s : State) : State :=
  match doneXfer s (· = .thread e t), (getThr s e t).park with
  | some x, .host d =>
    let s1 := setThr e t (fun y => { y with park := .none })
      (setStatus e t (if x.err then cHostError else cHostOk) (dropXfer x.id s))
    if x.write || x.err then s1 else setEng e (fun g => { g with dmem := Mem.wrN g.dmem (d - 0x10000) x.data }) s1
  | _, _ => s


/-! ## SEND (R302) -/

/-- The bytes of the tail that a SEND names. -/
def tailBytes (s : State) (e t : Nat) (tail : Option Nat) : Bytes :=
  match tail, heldFrame s e t with
  | some o, some f => (frameData s f).drop o
  | _, _ => []

/-- A SEND that returns BAD_SEND. -/
def badSend (s : State) (e t len : Nat) (tail : Option Nat) : Bool :=
  len < 14 || len > 10236 ||
    (match tail with
     | some o => windowLen s e t ≤ o
     | none => false) ||
    len + (tailBytes s e t tail).length > 10236

/-- The sends staged for the frame that a thread holds. -/
def stagedCount (s : State) (e t : Nat) : Nat :=
  match (getThr s e t).hold with
  | .slot i => ((getSlot s i).map fun x => x.frame.staged.length).getD 0
  | _ => 0

/-- The frame of a SEND is staged behind the dispatched frame that the thread holds, or goes to the entry arbiter. -/
def placeSend (e t : Nat) (a : Arr) (s : State) : State :=
  match (getThr s e t).hold with
  | .slot i => retire e t (setSlot i (fun x => { x with frame := { x.frame with staged := x.frame.staged ++ [a] } }) s)
  | _ =>
    setThr e t (fun x => { x with park := .send })
      (retire e t (s.updPipe fun p => { p with wait := p.wait ++ [{ a with thr := some (e, t) }] }))

/-- A SEND takes a buffer of a pool for its bytes, and its frame goes its way.  In the configuration phase it stalls, and takes no
buffer (R507). -/
def sendFrame (e t : Nat) (d : Bytes) (tag tc : Nat) (s : State) : State :=
  match poolFor d.length with
  | none => refuseEnd e t cBadSend s
  | some p =>
    if s.sys.phase != 2 then setThr e t (fun x => { x with park := .stalled d tag tc }) s
    else
      let r := allocBuf p s
      match r.1 with
      | none => retire e t (setStatus e t cNoBuffer (countFailed s p (engPort e) (bump cEng e 5) r.2))
      | some h =>
        placeSend e t { port := engPort e, h := some h, data := d, tag := tag % 2 ^ 32, tc := tc % 8 }
          (setStatus e t cSendOk (bump cEng e 4 r.2))

/-- A SEND with a tail reads its frame's buffer, out of host memory where the bytes are there (R215, R302).  What cannot be read goes
as zeros, and the frame is marked READ_BAD, as with a window load (R290; DEDUCED, log 11). -/
def sendTail (e t : Nat) (f : PFrame) (d : Bytes) (off tag tc : Nat) (s : State) : State :=
  let r := fetchBuf (.thread e t) f.h s
  match r.1 with
  | none => setThr e t (fun x => { x with park := .tail d off tag tc }) r.2
  | some y =>
    let lost := windowLost r.2 f.h y
    let b := (readData r.2 f.h y).drop off
    sendFrame e t (d ++ (if lost then zeros b.length else b)) tag tc
      (setThr e t (fun x => { x with park := .none, bad := x.bad || lost }) r.2)

/-- The sends that stalled in the configuration phase go on at the start point (R507). -/
def resumeSends (s : State) : State :=
  (List.range (nEngines s)).foldl (fun s e => (List.range 4).foldl (fun s t =>
    match (getThr s e t).park with
    | .stalled d tag tc => sendFrame e t d tag tc (setThr e t (fun x => { x with park := .none }) s)
    | _ => s) s) s

/-- SEND (R295, R302). -/
def sendOp (e t src len : Nat) (tail : Option Nat) (tag tc : Nat) (s : State) : State :=
  outside e t (fun s =>
    if badSend s e t len tail then refuseEnd e t cBadSend s
    else if stagedCount s e t ≥ 4 then refuseEnd e t cSendLimit s
    else if !inDmem src len then threadFault e t 3 s
    else
      let d := Mem.rdN (getEng s e).dmem (src - 0x10000) len
      match tail, heldFrame s e t with
      | some o, some f => sendTail e t f d o tag tc s
      | _, _ => sendFrame e t d tag tc s) s

def execSend (e t src len : Nat) (tail : Option Nat) (tag tc : Nat) (s : State) : Out := .next (sendOp e t src len tail tag tc s)

/-! ## DONE (R296, R303) -/

/-- The pending result in a thread's descriptor. -/
def thrResult (x : Thread) : Bytes := slice x.desc 192 32

/-- The stored length that result commit would give the frame (R292). -/
def newLen (s : State) (x : Thread) (f : PFrame) : Nat := (frameData s f).length - x.hdrOld + x.hdrNew

/-- The largest stored length of a pool (R22). -/
def largestLen (p : Nat) : Nat := [184, 952, 1976, 10236].getD p 0

/-- What a FORWARD is refused with (R296); its check of DEST covers queues, and no multicast group. -/
def doneRefused (s : State) (x : Thread) (f : PFrame) : Option Nat :=
  let r := thrResult x
  let present := match resKind r with
    | 1 => (queueOf s (resDest r) f.port).isSome
    | 2 => true
    | _ => false
  if !present then some cBadResult
  else if newLen s x f > largestLen (hPool f.h) then some cGrow
  else none

/-- The frame with what its thread has made of it. -/
def withShadow (x : Thread) (f : PFrame) : PFrame :=
  { f with result := thrResult x, shadow := x.shadow, hdrOld := x.hdrOld, hdrNew := x.hdrNew, bad := f.bad || x.bad }

/-- DONE FORWARD of an input-queue frame commits it in one step and enqueues it (R303); a frame of a RETIRING generation is
dropped (R250). -/
def commitInq (e : Nat) (f : PFrame) (x : Option Xfer) (s : State) : State :=
  let s1 := abandonAll (.frame f.h f.oseq) (unpinBuf f.h s)
  if isRetiring s1 f.gen then releaseOwner f.h (engOwner e) (bump 0x50 f.port 11 s1)
  else if f.bad || !readGood s1 f.h f.oseq x then
    releaseOwner f.h (engOwner e) (checkFail f.h f.oseq (readKind 1 x) (engPort e) s1)
  else if staleRef s1 f then releaseOwner f.h (engOwner e) (bump cFlowPort f.port 7 s1)
  else
    let d := commitData f (readData s1 f.h x)
    let r := commitRecord (readRecord s1 f.h x) d.length f.result
    redirect f.h f.oseq f.port (engOwner e) f.wake d (resultDests s1 f.result f.gen) (writeBuf f.h r d s1)

/-- The end of a frame that its thread drops, counted at place `k` of group `g`; one marked READ_BAD ends as a check failure, whatever
the verdict (R290). -/
def dropBy (e g k : Nat) (hold : Hold) (f : PFrame) (s : State) : State :=
  match hold with
  | .slot i =>
    if f.bad then setSlot i (fun y => { y with frame := { y.frame with bad := true }, state := .ready }) s else slotDrop i g k s
  | _ =>
    let s1 := unpinBuf f.h s
    releaseOwner f.h (engOwner e) (abandonAll (.frame f.h f.oseq)
      (if f.bad then checkFail f.h f.oseq 1 (engPort e) s1 else bump g f.port k s1))

/-- DONE with DROP, counted at place `k` of group `g`. -/
def doneDrop (e t g k : Nat) (f : PFrame) (s : State) : State :=
  let x := getThr s e t
  let s1 := pmuEvent (8 + e) 0xA 1 t (bump cEng e 3 s)
  settleDrain e (endThread e t (retire e t (dropBy e g k x.hold { f with bad := f.bad || x.bad } s1)))

/-- An accepted DONE with FORWARD, for an input-queue frame with what its commit has read.  A frame that the classifier's policer has
not judged is judged here (R401): only the learn program holds one. -/
def forwardWith (e t : Nat) (f : PFrame) (y : Option Xfer) (s : State) : State :=
  let x := getThr s e t
  let g := withShadow x f
  let j := if f.policer = 0xFFFFFFFF then (true, s) else judgePolicer f.policer f.len s
  let s1 := pmuEvent (8 + e) 9 1 t (bump cEng e 2 j.2)
  let s2 := match x.hold with
    | .slot i =>
      if j.1 then setSlot i (fun y => { y with frame := { g with staged := y.frame.staged }, state := .ready }) s1
      else slotDrop i cFlowPort 11 s1
    | _ => commitInq e g y s1
  settleDrain e (endThread e t (retire e t s2))

/-- The commit of an input-queue frame that its DONE has asked for, once the buffer has been read (R205, R303). -/
def forwardInq (e t : Nat) (f : PFrame) (s : State) : State :=
  let r := fetchBuf (.thread e t) f.h s
  match r.1 with
  | none => setThr e t (fun x => { x with park := .done }) r.2
  | some y => forwardWith e t f y (setThr e t (fun x => { x with park := .none }) r.2)

/-- DONE with FORWARD. -/
def doneForward (e t : Nat) (f : PFrame) (s : State) : State :=
  let x := getThr s e t
  match doneRefused s x f with
  | some c => refuseEnd e t c s
  | none =>
    match x.hold with
    | .slot _ => forwardWith e t f none s
    | _ => forwardInq e t f s

/-- The read that a DONE or a SEND waits for has ended. -/
def doneRead (e t : Nat) (s : State) : State :=
  match (getThr s e t).park, heldFrame s e t with
  | .done, some f => forwardInq e t f s
  | .tail d o tag tc, some f => sendTail e t f d o tag tc s
  | _, _ => s

/-- The frame goes to the dispatcher once more, for a reason and to a hook, as its thread has left it (DESIGN CHOICE, log 82). -/
def doneAgain (e t reason hook : Nat) (f : PFrame) (s : State) : State :=
  let g := { withShadow (getThr s e t) f with reason := reason, hook := hook }
  let s1 := match (getThr s e t).hold with
    | .slot i => (setSlot i (fun y => { y with frame := { g with staged := y.frame.staged }, first := g, state := .queued })
        (unpinBuf f.h s)).updPipe fun p => { p with disp := p.disp ++ [i] }
    | _ => s
  settleDrain e (endThread e t (retire e t s1))

/-- DONE.  A base program whose rule gives its end ends its frame so, whatever the operand, and not before it has come to its end;
every other program by the operand. -/
def doneOp (e t : Nat) (forward : Bool) (s : State) : State :=
  outside e t (fun s =>
    match heldFrame s e t with
    | none => s
    | some f =>
      match (getThr s e t).base with
      | .none => if forward then doneForward e t f s else doneDrop e t cEngPort 1 f s
      | .ended .forward => doneForward e t f s
      | .ended (.drop g k) => doneDrop e t g k f s
      | .ended (.again r h) => doneAgain e t r h f s
      | _ => s) s

def execDone (e t : Nat) (forward : Bool) (s : State) : Out := .next (doneOp e t forward s)

/-! ## WAIT (R299) -/

def execWait (e t untl : Nat) (s : State) : Out :=
  .next (isa e t (fun s => setThr e t (fun x => { x with park := .wait untl }) (retire e t s)) s)

def waitWake (e t : Nat) (s : State) : State :=
  match (getThr s e t).park with
  | .wait _ => setThr e t (fun x => { x with park := .none }) s
  | _ => s

def execWaitWake (e t : Nat) (s : State) : Out := .next (clocked s (waitWake e t s))

/-! ## Events of the engines -/

def execFrameBudgetExpire (e t : Nat) (s : State) : Out := .next (clocked s (budgetExpire e t s))
def execOnyxInqServe (s : State) : Out := .next (clocked s (onyxServe s))
def execEngineWatchdog (e cause : Nat) (s : State) : Out := .next (clocked s (watchdog e cause s))
def execRedispatch (e : Nat) (s : State) : Out := .next (clocked s (redispatchAll e s))

end Sys2Proof.Machine
end

