-- ==== Sys2Proof/Machine/FlowSvc.lean ====
section
/-! DEFINITION. The table service: its jobs, the deletion of entries, and the aging scan (R268, R275, R286). -/

namespace Sys2Proof.Machine

open Sys2Proof

/-! ## The partner of an entry (R268) -/

/-- The flow action of an entry in the current generation. -/
def actOf (s : State) (m : Bytes) : Option Bytes := verVal s .action (entAction m) s.cls.current

def entSrc (m : Bytes) : Bytes := slice (entKey m) 4 16
def entDst (m : Bytes) : Bytes := slice (entKey m) 20 16
def entSport (m : Bytes) : Bytes := slice (entKey m) 36 2
def entDport (m : Bytes) : Bytes := slice (entKey m) 38 2

/-- An echo flow keys its identifier in the source port and 0 in the destination port (R268).  An ICMP entry with both ports 0 is
taken as that of another message, and not as echo identifier 0 (DESIGN CHOICE, log 86). -/
def entEcho (m : Bytes) : Bool := (entProto m = 1 || entProto m = 58) && allZero (entDport m) && !allZero (entSport m)

/-- The key of an entry's partner under the entry's action: the tables of R268, which hold in both directions; `echo` that its flow
is an echo flow. -/
def replyKey (a m : Bytes) (echo : Bool) : Bytes :=
  let x := entXAddr m ++ zeros 12
  let head := toLe 1 (u8 a 10) ++ toLe 1 (entProto m) ++ toLe 1 (b2n (entV6 m)) ++ zeros 1
  let src := if acNat a = 2 then x else entDst m
  let dst := if acNat a = 1 then x else entSrc m
  let ports :=
    if echo then (if acNat a = 0 then entSport m else entXPort m) ++ zeros 2
    else (if acNat a = 2 then entXPort m else entDport m) ++ (if acNat a = 1 then entXPort m else entSport m)
  head ++ src ++ dst ++ ports

/-- The key of an entry's partner, if it has one.  An original whose action has REPLY_ACTION 0xFFFF is taken to have none, and an
entry whose action the current generation does not hold has none that could be derived (DESIGN CHOICE, log 87). -/
def partnerKey (s : State) (m : Bytes) : Option Bytes :=
  (actOf s m).bind fun a => if !entReply m && u16 a 32 = 0xFFFF then none else some (replyKey a m (entEcho m))

/-! ## The job in hand -/

/-- The job that the service works on: the one begun, else the oldest that waits. -/
def jobAt (s : State) : Option Nat :=
  match idxOf? s.flow.jobs fun j => j.phase != .scan && j.phase != .start with
  | some i => some i
  | none => idxOf? s.flow.jobs (·.phase = .start)

def setJobAt (i : Nat) (f : SvcJob → SvcJob) (s : State) : State :=
  s.updFlow fun x => { x with jobs := match x.jobs[i]? with | some j => x.jobs.set i (f j) | none => x.jobs }

def dropJob (i : Nat) (s : State) : State := s.updFlow fun x => { x with jobs := x.jobs.eraseIdx i }

/-- The stream identifier of the service's engine (R41). -/
def svcSid (s : State) : Nat := 0x208 + (serviceEngine s).getD 0

/-- A job ends with an answer; the service holds no claim after it. -/
def endJob (i : Nat) (j : SvcJob) (r : Reply) (s : State) : State :=
  let s1 := dropJob i ((claimsOf s .svc).foldl (fun s c => endClaim c false s) s)
  match j.mb.bind fun m => s1.gv.running.find? (·.mb = m) with
  | some q => finishRunning q r s1
  | none => s1

/-- Take the outcome of the service's flow operation. -/
def takeFlop (s : State) : Option (Flop × (FlopRes × Nat)) × State :=
  match flopOf s .svc with
  | some p =>
    match p.result with
    | some r => (some (p, r), s.updFlow fun x => { x with flops := x.flops.filter (·.by_ != .svc) })
    | none => (none, s)
  | none => (none, s)

def askNew (key : Bytes) (s : State) : State := startClaimNew { by_ := .svc, owner := .svc, entry := false, key := key } s
def askEntry (index : Nat) (expect : Option Nat) (s : State) : State :=
  startClaimEntry { by_ := .svc, owner := .svc, entry := true, index := index, expect := expect } s

/-! ## Writes and publishes -/

def claimLen (c : Claim) : Nat := if u8 c.key 2 = 1 then 64 else 32

/-- Write the image of a claimed slot; false when it lies in no region, which counts as an errored write (R40). -/
def writeSlot (c : Claim) (image : Bytes) (s : State) : Bool × State :=
  let a := entryAddr s c.index
  let n := claimLen c
  let m := keepOver c image
  if regionOk s a n then (true, startXfer .flowWrite true (svcSid s) a n (slice m 0 n) (noteCtl c.index (u8 m 0) s))
  else (false, bump cFlow 0 5 (lines (violation s)))

/-- Write a list of claimed slots, in order. -/
def writeSlots (i : Nat) (l : List (Claim × Bytes)) (s : State) : State :=
  l.foldl (fun s x =>
    let r := writeSlot x.1 x.2 s
    setJobAt i (fun j => if r.1 then { j with left := j.left + 1 } else { j with err := true }) r.2)
    (setJobAt i (fun j => { j with phase := .writing, left := 0, err := false }) s)

/-- The slots that a job writes, in the order in which it publishes them: the reply before the original. -/
def jobSlots (s : State) (j : SvcJob) : List (Claim × Bytes) :=
  match j.op with
  | .install a b _ _ =>
    let l := claimsOf s .svc
    (l.filter (·.index = j.idxB)).map (fun c => (c, b)) ++ (l.filter (·.index = j.idxA)).map (fun c => (c, a))
  | _ => (claimsOf s .svc).map fun c => (c, zeros 64)

def publishSlots (l : List (Claim × Bytes)) (s : State) : State :=
  l.foldl (fun s x => (publishClaim .svc x.1.index x.2 s).2) s

/-! ## Installing -/

/-- The claims of an install are complete: write its entries. -/
def installWrite (i : Nat) (j : SvcJob) (s : State) : State := writeSlots i (jobSlots s j) s

/-- A claim of an install is granted. -/
def installGot (i : Nat) (second : Bool) (c : Nat) (pair : Bool) (s : State) : State :=
  let s1 := setJobAt i (fun j => if second then { j with idxB := c } else { j with idxA := c }) s
  if !second && pair then setJobAt i (fun j => { j with phase := .askNew true }) s1
  else match s1.flow.jobs[i]? with
    | some j => installWrite i j s1
    | none => s1

/-! ## Deleting -/

/-- The next group of a deletion, or its end. -/
def delNext (i : Nat) (j : SvcJob) (s : State) : State :=
  match j.groups with
  | g :: rest => setJobAt i (fun j => { j with todo := g, groups := rest, phase := .askDel, first := true }) s
  | [] =>
    match j.op with
    | .flush _ _ _ =>
      if j.pos ≥ nBuckets s / 2 then endJob i j (okD (toLe 8 j.pairs)) s else setJobAt i (fun j => { j with phase := .scan }) s
    | .delete _ _ => endJob i j (okD (toLe 8 j.packets ++ toLe 8 j.octets)) s
    | _ => endJob i j okR s

/-- The group in hand is left alone, and what it claimed is let go. -/
def delSkip (i : Nat) (j : SvcJob) (s : State) : State :=
  delNext i j ((claimsOf s .svc).foldl (fun s c => (abandonClaim .svc c.index s).2) s)

/-- The group's entries are claimed: write VALID 0. -/
def delWrite (i : Nat) (j : SvcJob) (s : State) : State := writeSlots i (jobSlots s j) s

/-- An entry of a group is claimed. -/
def delGot (i : Nat) (j : SvcJob) (m : Bytes) (s : State) : State :=
  let j1 := { j with todo := j.todo.drop 1, first := false
                     packets := if j.first then entPackets m else j.packets
                     octets := if j.first then entOctets m else j.octets }
  let s1 := setJobAt i (fun _ => j1) s
  match j.op, j.first, partnerKey s m with
  | .delete _ true, true, some k =>
    match cacheFind s1 k with
    | some w => setJobAt i (fun j => { j with todo := [(w.index, none)], phase := .askDel }) s1
    | none => setJobAt i (fun j => { j with key := k, phase := .finding true }) s1
  | _, _, _ => if j1.todo.isEmpty then delWrite i j1 s1 else setJobAt i (fun j => { j with phase := .askDel }) s1

/-- An entry of a group is not claimed. -/
def delMissed (i : Nat) (j : SvcJob) (r : FlopRes) (s : State) : State × Bool :=
  match j.op, r with
  | .expire, _ => (delSkip i j s, true)
  | _, .busy => (setJobAt i (fun j => { j with phase := .askDel }) s, false)
  | .delete _ _, _ =>
    if j.first then (endJob i j (errR stNotFound) s, true)
    else (delWrite i { j with todo := [] } (setJobAt i (fun j => { j with todo := [] }) s), true)
  | _, _ =>
    if j.first || !(j.todo.drop 1).isEmpty then (delSkip i j s, true)
    else (delWrite i { j with todo := [] } (setJobAt i (fun j => { j with todo := [] }) s), true)

/-- A group's slots are written VALID 0 and published. -/
def delDone (i : Nat) (j : SvcJob) (s : State) : State :=
  let s1 := publishSlots (jobSlots s j) s
  match j.op with
  | .expire => delNext i j (bump cFlow 0 1 (s1.updFlow fun f => { f with expired := f.expired + 1 }))
  | _ => delNext i { j with pairs := j.pairs + 1 } (setJobAt i (fun j => { j with pairs := j.pairs + 1 }) s1)

/-- The bucket of the partner's key that is read. -/
def findBucket (s : State) (j : SvcJob) (home : Bool) : Nat :=
  if home then homeBucket s j.key else mirrorOf s (homeBucket s j.key)

/-- A bucket of the partner's key has been read, with data `d`, none when the read was errored. -/
def findDone (d : Option Bytes) (i : Nat) (j : SvcJob) (home : Bool) (s : State) : State :=
  match d, d.bind (bucketFind · j.key) with
  | some _, some y => setJobAt i (fun k => { k with todo := [(4 * findBucket s j home + y.1, none)], phase := .askDel }) s
  | some x, none =>
    if home && bucketOverflow x then setJobAt i (fun k => { k with phase := .finding false }) s
    else delWrite i { j with todo := [] } s
  | none, _ => delWrite i { j with todo := [] } s

/-- An errored table read of the service is counted at the port code of its engine (R264; DESIGN CHOICE, log 72). -/
def svcReadErr (s : State) : State := bump cFlowPort (0xE0 + (serviceEngine s).getD 0) 6 s

/-- The service reads a bucket, once no write to it is outstanding (R43): its data, if they are in, none after an errored
read; and the state.  The outer none says that it waits. -/
def svcBucket (key b : Nat) (s : State) : Option (Option Bytes) × State :=
  match doneXfer s (· = .svcRead key) with
  | some x => if x.err then (some none, svcReadErr (dropXfer x.id s)) else (some (some x.data), dropXfer x.id s)
  | none =>
    if s.host.xfers.any (fun x => x.purp = .svcRead key && !x.gone) || bucketBusy s b then (none, s)
    else if regionOk s (bucketAddr s b) 128 then (none, startXfer (.svcRead key) false (svcSid s) (bucketAddr s b) 128 [] s)
    else (some none, svcReadErr (lines (violation s)))

/-! ## The steps of a job -/

/-- One step of the job in hand; false when it waits.  FLOW_DELETE whose write of VALID 0 comes back errored answers NOT_FOUND (R279;
DESIGN CHOICE, log 26). -/
def svcStep (s : State) : State × Bool :=
  match jobAt s with
  | none => (s, false)
  | some i =>
    match s.flow.jobs[i]? with
    | none => (s, false)
    | some j =>
      match j.phase with
      | .start =>
        (match j.op with
         | .install _ _ _ _ => (setJobAt i (fun j => { j with phase := .askNew false }) s, true)
         | .delete n _ => (setJobAt i (fun j => { j with todo := [(n, none)], phase := .askDel }) s, true)
         | _ => (delNext i j s, true))
      | .moved =>
        if s.host.xfers.any (fun x => x.purp = .flowWrite && !x.finished) then (s, false)
        else (setJobAt i (fun j => { j with phase := .askNew false }) s, true)
      | .askNew second =>
        (match j.op with
         | .install a b _ _ =>
           (setJobAt i (fun j => { j with phase := .newAsked second }) (askNew (entKey (if second then b else a)) s), true)
         | _ => (s, false))
      | .newAsked second =>
        (match takeFlop s, j.op with
         | (some (_, (.granted, c)), s1), .install _ _ pair _ => (installGot i second c pair s1, true)
         | (some (_, (.resumed, c)), s1), .install _ _ pair _ => (installGot i second c pair s1, true)
         | (some (_, (.exists_, n)), s1), .install _ _ _ replace =>
           if replace then (setJobAt i (fun j => { j with phase := .entryAsked second }) (askEntry n none s1), true)
           else (endJob i j (errR stExists) s1, true)
         | (some (_, (.busy, _)), s1), _ => (setJobAt i (fun j => { j with phase := .askNew second }) s1, false)
         | (some _, s1), _ => (endJob i j (errR stNoResource) s1, true)
         | (none, _), _ => (s, false))
      | .entryAsked second =>
        (match takeFlop s, j.op with
         | (some (_, (.granted, c)), s1), .install _ _ pair _ => (installGot i second c pair s1, true)
         | (some (_, (.notFound, _)), s1), _ => (setJobAt i (fun j => { j with phase := .askNew second }) s1, true)
         | (some (_, (.busy, _)), s1), _ => (setJobAt i (fun j => { j with phase := .askNew second }) s1, false)
         | (some _, s1), _ => (endJob i j (errR stNoResource) s1, true)
         | (none, _), _ => (s, false))
      | .askDel =>
        (match j.todo with
         | (n, x) :: _ => (setJobAt i (fun j => { j with phase := .delAsked }) (askEntry n x s), true)
         | [] => (delNext i j s, true))
      | .delAsked =>
        (match takeFlop s with
         | (some (p, (.granted, _)), s1) => (delGot i j (p.img.getD []) s1, true)
         | (some (_, (r, _)), s1) => delMissed i j r s1
         | (none, _) => (s, false))
      | .finding home =>
        (match svcBucket 16 (findBucket s j home) s with
         | (some d, s1) => (findDone d i j home s1, true)
         | (none, s1) => (s1, false))
      | .writing =>
        (match doneXfer s (· = .flowWrite) with
         | some x =>
           -- an errored write of a slot is counted in WRITEBACK_ERR (DESIGN CHOICE, log 72)
           (setJobAt i (fun j => { j with left := j.left - 1, err := j.err || x.err })
             (dropXfer x.id (if x.err then bump cFlow 0 5 s else s)), true)
         | none =>
           if j.left != 0 then (s, false)
           else
             match j.op with
             | .install _ _ _ _ =>
               if j.err then (endJob i j (errR stNoResource) s, true)
               else (endJob i j (okD (toLe 4 j.idxA ++ toLe 4 j.idxB)) (publishSlots (jobSlots s j) s), true)
             -- an errored write of FLOW_DELETE answers NOT_FOUND (DESIGN CHOICE, log 26)
             | .delete _ _ => (if j.err then endJob i j (errR stNotFound) s else delDone i j s, true)
             | _ => (if j.err then delSkip i j s else delDone i j s, true))
      | .scan => (s, false)

/-! ## The aging scan (R275) -/

/-- A bucket as the scan's reads return it. -/
def viewOf (view : List Bucket) (b : Nat) : Option Bytes := (view.find? (·.b = b)).map (·.data)

/-- The entry of a key in the view: none when a bucket that could hold it is not in it. -/
def viewFind (s : State) (view : List Bucket) (key : Bytes) : Option (Option (Nat × Bytes)) :=
  let b := homeBucket s key
  match viewOf view b with
  | none => none
  | some d =>
    match bucketFind d key with
    | some x => some (some (4 * b + x.1, x.2))
    | none =>
      if !bucketOverflow d then some none
      else (viewOf view (mirrorOf s b)).map fun d2 => (bucketFind d2 key).map fun x => (4 * mirrorOf s b + x.1, x.2)

/-- The row of R275 that a pair ages under, from 0. -/
def ageRow (a : Nat) (b : Option Nat) : Nat :=
  let l := a :: b.toList
  let tcp (x : Nat) : Bool := (1 ≤ x && x ≤ 5) || x = 7
  if l.contains 5 then 0
  else if b.isSome && l.all (· = 4) then 1
  else if l.contains 4 then 2
  else if b.isSome && l.contains 3 && l.all (fun x => x = 3 || x = 2) then 3
  else if l.any tcp then 4
  else if b.isSome && l.all (· = 6) then 5
  else if l.contains 8 || (b.isNone && a = 6) then 6
  else 7

/-- The age of an entry in ticks. -/
def ageOf (now seen : Nat) : Int := sext 12 (now + 4096 - seen)

/-- An entry, or a pair, has reached its timeout. -/
def aged (s : State) (now : Nat) (m : Bytes) (r : Option Bytes) : Bool :=
  let row := ageRow (entState m) (r.map entState)
  let young := match r with
    | some x => min (ageOf now (entSeen m)) (ageOf now (entSeen x))
    | none => ageOf now (entSeen m)
  (s.flow.timeouts.getD row 0 : Int) ≤ young

/-- The entries of one bucket of a view. -/
def viewEntries (view : List Bucket) (b : Nat) : List (Nat × Bytes) :=
  (bucketEntries ((viewOf view b).getD [])).map fun x => (4 * b + x.1, x.2)

/-- What the scan deletes on account of one entry.  One whose partner cannot be derived, its action being absent, ages alone, and a
reply as an orphan (R275; DESIGN CHOICE, log 87). -/
def agedGroup (s : State) (view : List Bucket) (now : Nat) (x : Nat × Bytes) : Option (List (Nat × Option Nat)) :=
  let m := x.2
  let mine := (x.1, some (entSeen m))
  if entStatic m then none
  else if entReply m then
    match (partnerKey s m).map (viewFind s view) with
    | some (some (some _)) => none
    | some none => none
    | _ => if (s.flow.timeouts.getD 7 0 : Int) ≤ ageOf now (entSeen m) then some [mine] else none
  else
    match (partnerKey s m).map (viewFind s view) with
    | some none => none
    | some (some (some y)) => if aged s now m (some y.2) then some [mine, (y.1, some (entSeen y.2))] else none
    | _ => if aged s now m none then some [mine] else none

/-- Clear a bucket's OVERFLOW when its mirror holds no entry whose home it is. -/
def clearOverflow (view : List Bucket) (b : Nat) (s : State) : State :=
  match viewOf view b, viewOf view (mirrorOf s b) with
  | some d, some d2 =>
    let used := (bucketEntries d2).any fun x => homeBucket s (entKey x.2) = b
    let claimed := s.flow.claims.vals.any fun c => c.index = 4 * b || c.index / 4 = mirrorOf s b
    if bucketOverflow d && !used && !claimed then
      let ctl := ((wayOf s (4 * b)).map fun w => u8 w.image 0).getD (u8 d 0) % 128
      if regionOk s (bucketAddr s b) 1 then
        startXfer (.overflow b) true (svcSid s) (bucketAddr s b) 1 (toLe 1 ctl)
          (noteCtl (4 * b) ctl <| updWay (4 * b) (fun w => { w with image := overlay w.image 0 (toLe 1 ctl) }) s)
      else bump cFlow 0 5 (lines (violation s))
    else s
  | _, _ => s

/-- An entry that a flush deletes. -/
def flushPicks (op : SvcOp) (m : Bytes) : Bool :=
  match op with
  | .flush mode zone action =>
    !entStatic m && !entReply m && (mode = 0 || (mode = 1 && entZone m = zone) || (mode = 2 && entAction m = action))
  | _ => false

/-- What a flush deletes on account of one entry. -/
def flushGroup (s : State) (view : List Bucket) (op : SvcOp) (x : Nat × Bytes) : Option (List (Nat × Option Nat)) :=
  if !flushPicks op x.2 then none
  else
    match (partnerKey s x.2).bind (viewFind s view) with
    | some (some y) => some [(x.1, none), (y.1, none)]
    | _ => some [(x.1, none)]

/-- The next bucket that the examination of a pair needs: the two of the pair, and then, for each entry whose reply or original
counts, the buckets that may hold it. -/
def scanNeeds (s : State) (c : Scan) (counts : Bytes → Bool) : Option Nat :=
  let have_ (b : Nat) : Bool := c.bad.contains b || (viewOf c.view b).isSome
  let other (k : Bytes) : Option Nat :=
    let h := homeBucket s k
    if !have_ h then some h
    else
      match viewOf c.view h with
      | some d => if (bucketFind d k).isNone && bucketOverflow d && !have_ (mirrorOf s h) then some (mirrorOf s h) else none
      | none => none
  (([c.pos, mirrorOf s c.pos].find? fun b => !have_ b)).or
    ((viewEntries c.view c.pos ++ viewEntries c.view (mirrorOf s c.pos)).findSome? fun x =>
      if counts x.2 then (partnerKey s x.2).bind other else none)

/-- The flush that looks for its next pair. -/
def flushJob (s : State) : Option (Nat × SvcJob) :=
  (idxOf? s.flow.jobs (·.phase = .scan)).bind fun i => s.flow.jobs[i]?.map fun j => (i, j)

/-- A pair has been read: what is to be deleted becomes a job of the service, or the next groups of the flush. -/
def scanEnd (c : Scan) (s0 : State) : State :=
  let s := s0.updFlow fun f => { f with looking := none }
  let l := viewEntries c.view c.pos ++ viewEntries c.view (mirrorOf s c.pos)
  if c.flush then
    match flushJob s with
    | none => s
    | some (i, _) => setJobAt i (fun j => { j with pos := j.pos + 1, groups := l.filterMap (flushGroup s c.view j.op), phase := .start }) s
  else
    let g := l.filterMap (agedGroup s c.view (tickNow s).1)
    let s1 := clearOverflow c.view (mirrorOf s c.pos) (clearOverflow c.view c.pos s)
    s1.updFlow fun f => { f with
      scan := c.pos + 1, seen := f.seen + l.length
      jobs := if g.isEmpty then f.jobs else f.jobs ++ [{ mb := none, op := .expire, groups := g }] }

/-- The service goes on with the pair in hand, bucket by bucket, until it waits for a read. -/
def scanGo : Nat → State → State
  | 0, s => s
  | n + 1, s =>
    match s.flow.looking with
    | none => s
    | some c =>
      let counts := match c.flush, flushJob s with
        | true, some x => flushPicks x.2.op
        | _, _ => fun m => !entStatic m
      match scanNeeds s c counts with
      | none => scanEnd c s
      | some b =>
        match svcBucket 17 b s with
        | (none, s1) => s1
        | (some d, s1) =>
          scanGo n (s1.updFlow fun f => { f with looking := some (match c.stale.contains b, d with
            | true, _ => { c with stale := c.stale.filter (· != b) }
            | _, some x => { c with view := c.view ++ [⟨b, x⟩] }
            | _, none => { c with bad := c.bad ++ [b] }) })

/-! ## The service at work -/

/-- FLOW_AGE_PASS at the end of a pass, once its last pair is done (R281). -/
def passEnd (s : State) : State :=
  if s.flow.scan != 0 && s.flow.scan ≥ nBuckets s / 2 && !s.flow.jobs.any (·.op = .expire) then
    raise0 0x0682 noSubj (toLe 4 s.flow.expired ++ toLe 4 s.flow.seen)
      (s.updFlow fun f => { f with scan := 0, expired := 0, seen := 0 })
  else s

/-- The service works until it waits; it takes up no job while it examines a pair. -/
def svcRun : Nat → State → State
  | 0, s => s
  | n + 1, s =>
    if (serviceEngine s).isNone || s.flow.looking.isSome then s
    else
      let r := svcStep s
      if r.2 then svcRun n r.1 else r.1

def svcPump (s0 : State) : State :=
  let s := if (serviceEngine s0).isNone then s0 else scanGo 64 s0
  passEnd (svcRun (32 * (s.flow.jobs.length + (s.flow.jobs.map fun j => j.groups.length + j.todo.length).sum) + 8) s)

/-- AGING_PAIR: the service examines the next pair of buckets, for a flush that runs or else for the aging pass; it does so
only while it has nothing else in hand.  A flush goes on while SYS_QUIESCE waits for it (R511). -/
def agingPair (s : State) : State :=
  if (draining s && (flushJob s).isNone) || s.host.flow.size = 0 || (serviceEngine s).isNone || (jobAt s).isSome || s.flow.looking.isSome then svcPump s
  else
    match flushJob s with
    | some (_, j) => svcPump (s.updFlow fun f => { f with looking := some { pos := j.pos, flush := true } })
    | none =>
      if s.flow.tick = 0 then s
      else svcPump (s.updFlow fun f => { f with looking := some { pos := f.scan, flush := false } })

def execAgingPair (s : State) : Out := .next (clocked s (agingPair s))

end Sys2Proof.Machine
end

