-- ==== Sys2Proof/Machine/BasePrograms.lean ====
section
/-! DEFINITION. The base programs of R307: LEARN (R274), TTL_EXPIRED (R308), SCTP_CSUM and ICMP_NAT (R266).  Each goes on whenever its
thread does: at its dispatch, and at the outcome of a flow operation or the end of a host access that it waits for; DONE ends it. -/

namespace Sys2Proof.Machine

open Sys2Proof

def setBase (e t : Nat) (b : BaseSt) (s : State) : State := setThr e t (fun x => { x with base := b }) s

/-- A base program has come to its DONE. -/
def baseEnd (e t : Nat) (v : BaseEnd) (s : State) : State := setBase e t (.ended v) s

/-! ## TTL_EXPIRED (R307, R308) -/

/-- The ones' complement checksum of some bytes. -/
def inetSum (b : Bytes) : Nat := 65535 - fold16 (fold16 (onesSum b))

/-- The IPv4 packet with the time-exceeded message for the IPv4 packet at `o` of a frame (R308). -/
def ipv4Exceeded (s : State) (d : Bytes) (o : Nat) : Bytes :=
  let ihl := 4 * (u8 d o % 16)
  let quote := slice d o (min (ihl + 8) (d.length - o))
  let icmp (sum : Nat) : Bytes := toBe 1 11 ++ zeros 1 ++ toBe 2 sum ++ zeros 4 ++ quote
  let ip (sum : Nat) : Bytes := [0x45#8, 0#8] ++ toBe 2 (28 + quote.length) ++ zeros 4 ++ toBe 1 64 ++ toBe 1 1 ++ toBe 2 sum ++
    slice s.eng.ipv4Src 0 4 ++ slice d (o + 12) 4
  ip (inetSum (ip 0)) ++ icmp (inetSum (icmp 0))

/-- The bytes of an IPv6 packet at `o` of a frame: its header and its payload. -/
def ipv6Packet (d : Bytes) (o : Nat) : Bytes := slice d o (min (40 + be d (o + 4) 2) (d.length - o))

/-- The IPv6 packet with the time-exceeded message for the IPv6 packet at `o` of a frame (R308). -/
def ipv6Exceeded (s : State) (d : Bytes) (o : Nat) : Bytes :=
  let quote := (ipv6Packet d o).take (1280 - 48)
  let icmp (sum : Nat) : Bytes := toBe 1 3 ++ zeros 1 ++ toBe 2 sum ++ zeros 4 ++ quote
  let n := 8 + quote.length
  let addrs := slice s.eng.ipv6Src 0 16 ++ slice d (o + 8) 16
  [0x60#8, 0#8, 0#8, 0#8] ++ toBe 2 n ++ toBe 1 58 ++ toBe 1 64 ++ addrs ++
    icmp (inetSum (addrs ++ toBe 4 n ++ toBe 4 58 ++ icmp 0))

/-- The protocol of an IPv6 packet and where its header starts, behind the extension headers: hop-by-hop options, routing,
destination options, the first fragment, and authentication; none of another fragment. -/
def ipv6Upper (d : Bytes) : Nat → Nat → Nat → Option (Nat × Nat)
  | 0, _, _ => none
  | n + 1, nh, q =>
    if nh = 0 || nh = 43 || nh = 60 then ipv6Upper d n (u8 d q) (q + 8 * (u8 d (q + 1) + 1))
    else if nh = 44 then (if be d (q + 2) 2 / 8 = 0 then ipv6Upper d n (u8 d q) (q + 8) else none)
    else if nh = 51 then ipv6Upper d n (u8 d q) (q + 4 * (u8 d (q + 1) + 2))
    else some (nh, q)

/-- The expired frame is an ICMP or ICMPv6 error message, found from its IP header at `o`. -/
def errorMessage (d : Bytes) (o : Nat) (v6 : Bool) : Bool :=
  if v6 then
    match ipv6Upper d 16 (u8 d (o + 6)) (o + 40) with
    | some (p, q) => p = 58 && u8 d q < 128
    | none => false
  else be d (o + 6) 2 &&& 0x1FFF = 0 && icmpError d o (o + 4 * (u8 d o % 16)) true

/-- The time-exceeded message for an expired frame: none in the cases that the rule names, and for a frame without an IP header at
level 0.  Header bytes that the rule does not give are 0 (DESIGN CHOICE, log 82). -/
def exceededFrame (s : State) (f : PFrame) (d : Bytes) : Option Bytes :=
  let o := slotOf f.pres 0 2
  let v6 := l3Kind f.pres 0 = 1
  if !hasSlot f.pres 0 2 || l3Kind f.pres 0 > 1 || (u8 d 6).testBit 0 || errorMessage d o v6 then none
  else if (if v6 then u8 d (o + 8) = 255 else 224 ≤ u8 d (o + 12) && u8 d (o + 12) < 240) then none
  else if v6 && allZero s.eng.ipv6Src then none
  else
    some (slice d 6 6 ++ slice d 0 6 ++ slice d 12 (o - 12) ++ (if v6 then ipv6Exceeded s d o else ipv4Exceeded s d o))

/-- ICMP_RATE messages are sent in each second of TB7 (DESIGN CHOICE, log 82). -/
def rateLeft (s : State) (e : Nat) : Bool :=
  let g := getEng s e
  g.icmpSec != nowNs s / 1000000000 || g.icmpSent < s.eng.icmpRate

def noteIcmp (e : Nat) (s : State) : State :=
  let sec := nowNs s / 1000000000
  setEng e (fun g => { g with icmpSec := sec, icmpSent := if g.icmpSec = sec then g.icmpSent + 1 else 1 }) s

/-- The message is sent behind the expired frame, which is then dropped; `d` is the frame. -/
def ttlExpired (e t : Nat) (f : PFrame) (d : Bytes) (s : State) : State :=
  let s1 := baseEnd e t (.drop cFlowPort 10) s
  if !s.eng.icmp || !rateLeft s e then s1
  else
    match exceededFrame s f d with
    | none => s1
    | some m =>
      match poolFor m.length with
      | none => s1
      | some p =>
        let r := allocBuf p (noteIcmp e s1)
        match r.1 with
        | none => countFailed s1 p (engPort e) (bump cEng e 5) r.2
        | some h => placeSend e t { port := engPort e, h := some h, data := m, tag := 2, tc := f.tc } (bump cEng e 4 r.2)

/-! ## SCTP_CSUM (R267, R301, R307) -/

/-- The frame's bytes up to the end of its IP packet. -/
def ipEnd (d : Bytes) (o : Nat) (v6 : Bool) : Bytes := d.take (o + (if v6 then 40 + be d (o + 4) 2 else be d (o + 2) 2))

/-- The header shadow with the SCTP checksum of the rewritten frame `d0`: a CRC-32C over the SCTP packet with its checksum field at 0, stored
low byte first (PRESUMED, log 82). -/
def sctpShadow (s : State) (f : PFrame) (d0 : Bytes) (x : Thread) : Bytes :=
  let k := flowLevel f.pres (profOf s f)
  let o := slotOf f.pres k 2
  let q := slotOf f.pres k 3
  let v6 := l3Kind f.pres k = 1
  let d := commitData { f with shadow := x.shadow, hdrOld := x.hdrOld, hdrNew := x.hdrNew } d0
  if !hasSlot f.pres k 3 || ipProto d o v6 != 132 || q + 12 > x.hdrNew then x.shadow
  else overlay x.shadow (q + 8) (toLe 4 (crc32c (overlay ((ipEnd d o v6).drop q) 8 (zeros 4))))

def sctpCsum (e t : Nat) (f : PFrame) (d : Bytes) (s : State) : State :=
  baseEnd e t .forward (setThr e t (fun x => { x with shadow := sctpShadow s f d x }) s)

/-- A program that needs its whole frame reads it, where it lies in host memory (R215, R289).  One that cannot be read is marked
READ_BAD, and ends as a check failure (R290). -/
def withFrame (e t : Nat) (f : PFrame) (go : Bytes → State → State) (s : State) : State :=
  let r := fetchBuf (.thread e t) f.h s
  match r.1 with
  | none => r.2
  | some x =>
    if windowLost r.2 f.h x then baseEnd e t .forward (setThr e t (fun y => { y with bad := true }) r.2)
    else go (readData r.2 f.h x) r.2

/-! ## LEARN (R268, R274) -/

/-- The claimer of a frame. -/
def frameClaimer (f : PFrame) : Claimer := .frame f.h f.oseq

/-- The learn program abandons every claim that it holds for the frame. -/
def letGo (f : PFrame) (s : State) : State :=
  (claimsOf s (frameClaimer f)).foldl (fun s c => (abandonClaim (frameClaimer f) c.index s).2) s

/-- The frame is dropped, counted at place `k` of the flow counters of its port code. -/
def learnDrop (e t k : Nat) (f : PFrame) (s : State) : State := baseEnd e t (.drop cFlowPort k) (letGo f s)

/-- The end of a frame under the result it was dispatched with: forwarded where that names a destination, and else dropped in
ENG_PROGRAM_DROPS. -/
def underResult (f : PFrame) : BaseEnd := if resKind f.result = 1 || resKind f.result = 2 then .forward else .drop cEngPort 1

/-- A refused learn: the frame ends under the result it was dispatched with. -/
def learnRefused (e t : Nat) (f : PFrame) (s : State) : State :=
  baseEnd e t (underResult f) (letGo f (bump cFlowPort f.port 4 s))

/-- The lookup key of a frame: the original key. -/
def origKey (s : State) (f : PFrame) : Bytes := lookupKey f.shadow f.pres (profOf s f)

/-- The frame is an ICMP or ICMPv6 echo message (R257). -/
def echoFrame (s : State) (f : PFrame) : Bool :=
  let k := flowLevel f.pres (profOf s f)
  let v6 := l3Kind f.pres k = 1
  hasSlot f.pres k 3 && isEcho v6 (ipProto f.shadow (slotOf f.pres k 2) v6) (u8 f.shadow (slotOf f.pres k 3))

/-- Action A in the frame's generation. -/
def learnAction (s : State) (f : PFrame) : Option Bytes := verVal s .action (u16 (profOf s f) 8 % 4096) f.gen

/-- An entry for a key (R261, R262): its CTL bits beyond VALID, FAMILY and ZONE, its CT_STATE and LAST_SEEN, and its counts. -/
def mkEntry (key : Bytes) (ctl st seen action : Nat) (xaddr xport : Bytes) (packets octets : Nat) : Bytes :=
  let v6 := u8 key 2 = 1
  let head := toLe 1 (1 + 2 * b2n v6 + ctl + 16 * (u8 key 0 % 8)) ++ slice key 1 1 ++ toLe 2 (st + 16 * seen)
  if v6 then
    head ++ toLe 2 action ++ zeros 2 ++ slice key 4 32 ++ slice key 36 4 ++ zeros 12 ++ toLe 3 packets ++ toLe 5 octets
  else
    head ++ slice key 4 4 ++ slice key 20 4 ++ slice key 36 4 ++ slice xaddr 0 4 ++ slice xport 0 2 ++ toLe 2 action ++
      toLe 3 packets ++ toLe 5 octets

/-- The state of a flow's first frame: what it moves to from the state that a reply starts in, or that state where it is invalid
there (DEDUCED, log 82). -/
def firstState (s : State) (f : PFrame) (reply : Bool) : Nat :=
  let prof := profOf s f
  let key := origKey s f
  let tcp := u8 key 1 = 6
  let st := if tcp then 7 else 8
  if reply then st
  else (ctMove st (u8 key 1) (u8 f.shadow (slotOf f.pres (flowLevel f.pres prof) 3 + 13))).getD st

/-- Candidate `n` for XLATE_PORT (step 4). -/
def snatPort (s : State) (a key : Bytes) (n : Nat) : Nat :=
  let lo := u16 a 28
  let span := u16 a 30 - lo + 1
  let own := be key 36 2
  let first := if lo ≤ own && own ≤ u16 a 30 then own - lo else keyHash s key % span
  lo + (first + n) % span

def xlatePort (s : State) (a key : Bytes) (n : Nat) : Nat :=
  match acNat a with
  | 0 => 0
  | 1 => snatPort s a key n
  | _ => u16 a 28

/-- The images of the original and of the reply for a translated port. -/
def learnImages (s : State) (f : PFrame) (a : Bytes) (port tick : Nat) : Bytes × Bytes :=
  let key := origKey s f
  let nat := acNat a
  let xa := if nat = 0 then zeros 4 else slice a 24 4
  let xp := if nat = 0 then zeros 2 else toBe 2 port
  let echo := echoFrame s f
  let m := mkEntry key 0 (firstState s f false) tick (u16 (profOf s f) 8 % 4096) xa xp 1 f.len
  let ra := if nat = 1 then slice key 4 4 else if nat = 2 then slice key 20 4 else zeros 4
  let rp := if nat = 0 then zeros 2 else if nat = 1 || echo then slice key 36 2 else slice key 38 2
  (m, mkEntry (replyKey a m echo) 8 (firstState s f true) tick (u16 a 32 % 4096) ra rp 0 0)

/-- The program makes a CLAIM_NEW and parks. -/
def askClaim (e t : Nat) (f : PFrame) (key : Bytes) (b : BaseSt) (s : State) : State :=
  startClaimNew { by_ := .thread e t, owner := frameClaimer f, entry := false, key := key } (parkFlop e t (setBase e t b s))

/-- The program claims the reply key of a candidate. -/
def askReply (e t : Nat) (f : PFrame) (a : Bytes) (claim n : Nat) (s : State) : State :=
  let port := xlatePort s a (origKey s f) n
  let r := tickNow s
  let m := learnImages s f a port r.1
  askClaim e t f (entKey m.2) (.reply { claim := claim, port := port, imgA := m.1, imgB := m.2 } n) r.2

/-- A base program comes to its DONE with what it has made of its frame: the RESULT and the header shadow. -/
def baseTake (e t : Nat) (v : BaseEnd) (f : PFrame) (s : State) : State :=
  let s1 := setThr e t (fun x => { x with
    desc := overlay x.desc 192 (slice f.result 0 32), shadow := overlay x.shadow 0 (slice f.shadow 0 256) }) s
  let s2 := match (getThr s1 e t).hold with
    | .slot i => setSlot i (fun y => { y with frame := { f with staged := y.frame.staged, shadow := y.frame.shadow } }) s1
    | _ => s1
  baseEnd e t v s2

/-- The end of a hit that the program applies to the frame, with what the hit has made of it. -/
def learnApply (e t flags : Nat) (r : HitEnd × PFrame × State) : State :=
  baseTake e t
    (match r.1 with
     | .go => .forward
     | .engine reason hook => .again reason hook
     | .drop k => .drop cFlowPort k)
    { r.2.1 with result := overlay r.2.1.result 0 (toLe 4 (resFlags r.2.1.result ||| flags)) } r.2.2

/-- The original key has an entry: it is applied as a hit.  Where what was read of it is used no more, the program asks again. -/
def learnExists (e t : Nat) (f : PFrame) (index : Nat) (img : Option Bytes) (s : State) : State :=
  let s1 := letGo f s
  match wayOf s1 index, img with
  | some w, _ => learnApply e t 0 (hitEntry f index w.image s1)
  | none, some m => learnApply e t 0 (hitEntry f index m (cacheFill index m s1))
  | none, none => askClaim e t f (origKey s f) .orig s1

/-- Both entries are written: they are published, the reply first, and the actions of R265 are applied (steps 7 and 8). -/
def learnPublish (e t : Nat) (f : PFrame) (l : Learn) (s : State) : State :=
  let o := frameClaimer f
  let s1 := match l.reply with
    | some r => (publishClaim o r l.imgB s).2
    | none => s
  let s2 := (publishClaim o l.claim l.imgA s1).2
  let r := applyHit f (profOf s2 f) l.imgA l.claim s2
  learnApply e t (2 ^ 17) (r.1, r.2.1, r.2.2.2)

/-- Write the slot of a claim and park; an access to no region is an errored write. -/
def learnWrite (e t : Nat) (f : PFrame) (l : Learn) (second : Bool) (s : State) : State :=
  let c := if second then some l.claim else l.reply
  match c.bind s.flow.claims.get? with
  | none => learnDrop e t 14 f s
  | some x =>
    let a := entryAddr s x.index
    let n := claimLen x
    let m := keepOver x (if second then l.imgA else l.imgB)
    if regionOk s a n then
      startXfer (.thread e t) true (0x208 + e) a n (slice m 0 n)
        (setThr e t (fun x => { x with park := .host 0x10000 }) (retire e t (setBase e t (.writing l second) (noteCtl x.index (u8 m 0) s))))
    else learnDrop e t 14 f (lines (violation s))

/-- The original key is claimed: steps 2 to 5 begin. -/
def learnClaimed (e t : Nat) (f : PFrame) (claim : Nat) (s : State) : State :=
  match learnAction s f with
  | none => learnDrop e t 7 f s
  | some a =>
    if u8 (origKey s f) 2 = 1 && acNat a != 0 then learnDrop e t 7 f s
    else if acNat a = 0 && u16 a 32 = 0xFFFF then
      let r := tickNow s
      learnWrite e t f { claim := claim, imgA := (learnImages s f a 0 r.1).1 } true r.2
    else askReply e t f a claim 0 s

/-- The claim on candidate `n` of the reply key has an outcome (steps 3 to 5). -/
def learnReply (e t : Nat) (f : PFrame) (l : Learn) (n : Nat) (r : FlopRes) (c : Nat) (s : State) : State :=
  match learnAction s f with
  | none => learnDrop e t 7 f s
  | some a =>
    if r = .granted || r = .resumed then learnWrite e t f { l with reply := some c } false s
    else
      match acNat a with
      | 0 => learnWrite e t f l true s
      | 1 => if n + 1 < 64 then askReply e t f a l.claim (n + 1) s else learnDrop e t 13 f s
      | _ => if r = .exists_ then learnDrop e t 13 f s else learnRefused e t f s

/-- The learn program starts (step 1).  A re-dispatched frame's program makes CLAIM_NEW, which finds the claim that has passed with the
frame, or the entry that it has published meanwhile (R271). -/
def learnStart (e t : Nat) (f : PFrame) (s : State) : State :=
  match u8 (getThr s e t).desc 41, f.claim with
  | 3, some c => if f.redisp = 0 then learnClaimed e t f c s else askClaim e t f (origKey s f) .orig s
  | 4, _ => askClaim e t f (origKey s f) .orig s
  | _, _ => baseEnd e t (.drop cEngPort 1) s

/-! ## ICMP_NAT (R266, R307) -/

/-- The flow profile that a frame was classified with; a frame without one is taken at level 0 and in zone 0. -/
def icmpProf (s : State) (f : PFrame) : Bytes := if f.profile.isSome then profOf s f else zeros 16

/-- The bytes of the header shadow that belong to the IPv4 packet at `o`. -/
def packetHead (f : PFrame) (o : Nat) : Bytes := f.shadow.take (min f.hdrNew (o + be f.shadow (o + 2) 2))

/-- The transport header behind the IPv4 header that an ICMP error at `q` carries. -/
def quotedL4 (d : Bytes) (q : Nat) : Nat := q + 8 + 4 * (u8 d (q + 8) % 16)

/-- A frame is an IPv4 ICMP error at a level, and its header shadow holds the header that it carries with the first 8 bytes of a
transport header behind it. -/
def icmpQuotes (f : PFrame) (k : Nat) : Bool :=
  let o := slotOf f.pres k 2
  let q := slotOf f.pres k 3
  let d := packetHead f o
  hasSlot f.pres k 2 && l3Kind f.pres k = 0 && icmpError d o q (hasSlot f.pres k 3) && u8 d (q + 8) / 16 = 4 &&
    5 ≤ u8 d (q + 8) % 16 && be d (q + 14) 2 &&& 0x1FFF = 0 && quotedL4 d q + 8 ≤ d.length

/-- The key of the flow that an ICMP error travels along: that of the tuple it carries, with the two ends exchanged. -/
def icmpKey (prof d : Bytes) (q : Nat) : Bytes :=
  let i := q + 8
  let p := quotedL4 d q
  let proto := ipProto d i false
  let sport := if hasPorts proto then slice d (p + 2) 2 else if isEcho false proto (u8 d p) then slice d (p + 4) 2 else zeros 2
  let dport := if hasPorts proto then slice d p 2 else zeros 2
  toLe 1 (prZone prof) ++ toLe 1 proto ++ zeros 2 ++ slice d (i + 16) 4 ++ zeros 12 ++ slice d (i + 12) 4 ++ zeros 12 ++
    sport ++ dport

/-- Fold the words of an ICMP message at `q` that an edit of the header it carries has changed into its checksum (R267). -/
def icmpSum (old new : Bytes) (q : Nat) : Bytes :=
  let at_ := ((List.range ((new.length - (q + 8)) / 2)).map (q + 8 + 2 * ·)).filter fun i => slice old i 2 != slice new i 2
  editAt new (q + 2) (toBe 2 (at_.foldl (fun v i => incr v (be old i 2) (be new i 2)) (be new (q + 2) 2)))

/-- The translation of an ICMP error by the entry of the flow that it travels along: of its own header as R266 has it, and of the
header it carries at the other end. -/
def icmpEdit (d : Bytes) (o q nat : Nat) (xaddr xport : Bytes) : Bytes :=
  let d1 := icmpSum d (natEdit d (q + 8) (quotedL4 d q) true (3 - nat) xaddr xport) q
  editSum d1 (if nat = 1 then o + 12 else o + 16) xaddr [o + 10]

/-- The entry of the tuple that an ICMP error carries is found: the error is translated, and takes the verdict group of the entry's
action (DESIGN CHOICE, log 85). -/
def icmpHit (e t : Nat) (f : PFrame) (index : Nat) (m : Bytes) (s : State) : State :=
  let k := flowLevel f.pres (icmpProf s f)
  let o := slotOf f.pres k 2
  match verVal s .action (entAction m) f.gen with
  | none => baseEnd e t (.drop cFlowPort 7) s
  | some a =>
    match stripOf f.pres a k with
    | none => baseEnd e t (.drop cFlowPort 7) s
    | some strip =>
      let nat := acNat a != 0
      let d := packetHead f o
      let d1 := if nat then icmpEdit d o (slotOf f.pres k 3) (acNat a) (entXAddr m) (entXPort m) else d
      let fl := resFlags f.result ||| 2 ^ 16 ||| (if nat then 2 ^ 18 else 0)
      baseTake e t (if acVerdict a = 1 then .forward else .drop cEngPort 1)
        { f with
          shadow := overlay f.shadow 0 d1, entry := index
          result := takeAction a f.result fl index strip (resTc f.result) } s

/-- The program asks for the entry of the tuple that an ICMP error carries, by a CLAIM_NEW on its key; every other frame ends under
its result (DESIGN CHOICE, log 85). -/
def icmpStart (e t : Nat) (f : PFrame) (s : State) : State :=
  let prof := icmpProf s f
  let k := flowLevel f.pres prof
  if icmpQuotes f k && s.host.flow.size != 0 then
    askClaim e t f (icmpKey prof (packetHead f (slotOf f.pres k 2)) (slotOf f.pres k 3)) .icmp s
  else baseEnd e t (underResult f) s

/-- The tuple that an ICMP error carries has an entry. -/
def icmpFound (e t : Nat) (f : PFrame) (index : Nat) (img : Option Bytes) (s : State) : State :=
  match wayOf s index, img with
  | some w, _ => icmpHit e t f index w.image s
  | none, some m => icmpHit e t f index m s
  | none, none => icmpStart e t f s

/-! ## The programs go on -/

/-- A base program that has just been started on a thread begins. -/
def baseStart (e t : Nat) (s : State) : State :=
  match heldFrame s e t, (getThr s e t).base with
  | some f, .fresh =>
    (match (getThr s e t).hook with
     | 1 => learnStart e t f s
     | 2 => withFrame e t f (ttlExpired e t f) s
     | 3 => withFrame e t f (sctpCsum e t f) s
     | 4 => icmpStart e t f s
     | _ => setBase e t .none s)
  | _, _ => s

/-- The base programs that the last command has started begin. -/
def baseStarts (s : State) : State :=
  (List.range (nEngines s)).foldl (fun s e => (List.range 4).foldl (fun s t => baseStart e t s) s) s

/-- The next operation of a base program on a condemned engine is fenced, and the program hangs there (R311). -/
def baseFence (e t : Nat) (s : State) : State :=
  if fenced s e t && (getThr s e t).base != .none then setBase e t .none (bump cEngBlock 0 0 s) else s

/-- A base program takes the outcome of its flow operation, unless its engine has been condemned (R311). -/
def baseFlop (e t : Nat) (p : Option Flop) (s0 : State) : State :=
  let s := if (p.bind (·.result)).isSome && (getThr s0 e t).park = .none then baseFence e t s0 else s0
  match p.bind (·.result), heldFrame s e t with
  | some (r, c), some f =>
    if fenced s e t || (getThr s e t).park != .none then s
    else
      match (getThr s e t).base with
      | .orig =>
        if r = .granted || r = .resumed then learnClaimed e t f c s
        else if r = .exists_ then learnExists e t f c (p.bind (·.img)) s
        else learnRefused e t f s
      | .reply l n => learnReply e t f l n r c s
      | .icmp => if r = .exists_ then icmpFound e t f c (p.bind (·.img)) s else baseEnd e t (underResult f) (letGo f s)
      | _ => s
  | _, _ => s

/-- The learn program goes on after a write (steps 6 and 7); an errored one drops the frame. -/
def baseWrite (e t : Nat) (x : Option Xfer) (s0 : State) : State :=
  let s := if x.isSome && (getThr s0 e t).park = .none then baseFence e t s0 else s0
  match x, heldFrame s e t with
  | some x, some f =>
    if fenced s e t || (getThr s e t).park != .none then s
    else
      match (getThr s e t).base with
      | .writing l second =>
        if x.err then learnDrop e t 14 f s
        else if second then learnPublish e t f l s
        else learnWrite e t f l true s
      | _ => s
  | _, _ => s

def execEngineDispatch (s : State) : Out := .next (clocked s (baseStarts (dispatchNext s)))
def execInqTake (e : Nat) (s : State) : Out := .next (clocked s (baseStarts (inqTake e s)))
def execFlopOutcome (e t : Nat) (s : State) : Out := .next (clocked s (baseFlop e t (flopOf s (.thread e t)) (flopOutcome e t s)))
def execHostAccessDone (e t : Nat) (s : State) : Out :=
  .next (clocked s (baseWrite e t (doneXfer s (· = .thread e t)) (hostAccessDone e t s)))

end Sys2Proof.Machine
end

