-- ==== Sys2Proof/Machine/FlowCmd.lean ====
section
/-! DEFINITION. The commands of flows (R279, R280 and the commands between them). -/

namespace Sys2Proof.Machine

open Sys2Proof

/-! ## Destinations as commands name them (R107, R240) -/

/-- What a destination is refused with: its resource is absent, or bound to another agent. -/
def destStatus (s : State) (agent id : Nat) : Option Nat :=
  match queueOf s id 0 with
  | none => some stInvalid
  | some (.ring c _) => if (getCh s c).agent = agent then none else some stNotOwner
  | some (.sta st _) => if (getSta s st).agent = agent then none else some stNotOwner
  | some _ => none

/-- DEST_KIND, DEST and REWRITE_REF of an action at their offsets (R240). -/
def destArgs (s : State) (agent : Nat) (p : Bytes) (forward : Bool) (ki de rw : Nat) : Option Reply :=
  let k := u8 p ki
  let r := u32 p rw
  match firstErr [(if forward then k != 1 && k != 2 else k != 0, inv ki), (k = 2 && u32 p de > 4095, inv de)] with
  | some e => some e
  | none =>
    match (if k = 1 then destStatus s agent (u32 p de) else none) with
    | some st => some (errAt st de)
    | none => firstErr [(r != 0xFFFFFFFF && (r > 4095 || k = 2), inv rw)]

/-! ## The staged commands' checks -/

/-- The first byte of a range that is not 0. -/
def firstNonZero (p : Bytes) (lo n : Nat) : Option Reply := ((upto lo n).find? fun i => u8 p i != 0).map inv

/-- FLOW_PROFILE_SET. -/
def profileArgs (p : Bytes) : Option Reply :=
  if !(u8 p 1).testBit 0 then firstNonZero p 1 9
  else
    firstErr [(u8 p 1 &&& 6 = 0, inv 1), (u8 p 2 > 7, inv 2), (u8 p 3 > 3, inv 3),
      (u8 p 4 = 0 && (u8 p 3 = 1 || u8 p 3 = 3), inv 4), (u8 p 5 > 2, inv 5), (u8 p 6 = 0 && u8 p 5 = 2, inv 6),
      (u16 p 8 > 4095, inv 8)]

/-- FLOW_ACTION_SET. -/
def actionArgs (s : State) (agent : Nat) (p : Bytes) : Option Reply :=
  let nat := u8 p 3
  if u16 p 0 > 4095 then some (inv 0)
  else if !(u8 p 2).testBit 0 then none
  else
    match firstErr [(nat > 2, inv 3), (u8 p 4 = 0 || u8 p 4 > 3, inv 4), (u8 p 6 > 2, inv 6), (u8 p 7 > 63, inv 7),
        (u8 p 8 > 7, inv 8)] with
    | some r => some r
    | none =>
      match destArgs s agent p (u8 p 4 = 1) 9 12 16 with
      | some r => some r
      | none =>
        firstErr [(u8 p 10 > 7, inv 10),
          (u32 p 20 > 4095 && u32 p 20 != 0xFFFFFFFF, inv 20), (nat != 0 && u16 p 28 = 0, inv 28),
          (nat != 0 && (u16 p 30 < u16 p 28 || (nat = 2 && u16 p 30 != u16 p 28)), inv 30),
          (u16 p 32 > 4095 && u16 p 32 != 0xFFFF, inv 32)]

/-- FLOW_REWRITE_SET. -/
def rewriteArgs (p : Bytes) : Option Reply :=
  let n := u8 p 4
  let fix (m : Nat) : Bool := u8 p 3 = 2 && u8 p 6 &&& m != 0
  if u16 p 0 > 4095 then some (inv 0)
  else if u8 p 2 > 1 then some (inv 2)
  else if u8 p 2 = 0 then none
  else
    firstErr [(u8 p 3 > 2, inv 3),
      (if u8 p 3 = 0 then n != 0 else if u8 p 3 = 1 then n != 12 else n < 14 || n > 96, inv 4), (u8 p 5 > 3, inv 5),
      (fix 0x23 && u8 p 7 ≥ n, inv 7), (fix 0x0C && u8 p 8 ≥ n, inv 8), (fix 0x10 && u8 p 9 ≥ n, inv 9)]

/-! ## The immediate commands -/

def flowPolicerCmd (q : Req) (s : State) : State × Reply :=
  let p := q.payload
  match firstErr [(u16 p 0 > 4095, inv 0)] with
  | some r => (s, r)
  | none =>
    match policerArgs p 2 3 4 8 with
    | some r => (s, r)
    | none =>
      (s.updFlow fun f => { f with policers := f.policers.upd (u16 p 0) {} fun x =>
                                     x.set (nowNs s) (u8 p 2) (u32 p 4) (u32 p 8) (u8 p 3 = 1) }, okR)

/-- An image of FLOW_INSTALL at an offset of the payload (R261, R262); its reserved bytes and bits are judged before. -/
def imageArgs (p : Bytes) (o : Nat) : Option Reply :=
  let c := u8 p o
  if !c.testBit 0 || c.testBit 7 then some (inv o)
  else if c.testBit 1 then none
  else firstNonZero p (o + 32) 32

def installArgs (p : Bytes) : Option Reply :=
  match imageArgs p 8 with
  | some r => some r
  | none =>
    if (u8 p 0).testBit 0 then
      match imageArgs p 72 with
      | some r => some r
      | none => if entKey (slice p 8 64) = entKey (slice p 72 64) then some (inv 72) else none
    else firstNonZero p 72 64

/-- A long-running flow command that becomes a job of the table service. -/
def svcCommand (code : Nat) (args : Bytes → State → Option Reply) (op : Bytes → SvcOp) (s : State) : State :=
  svcPump (longRunning code (fun q s =>
    match args q.payload s with
    | some r => (s, some r)
    | none => (s.updFlow fun f => { f with jobs := f.jobs ++ [{ mb := some q.mb, op := op q.payload }] }, none)) s)

/-- FLOW_TABLE is not set. -/
def noTable (s : State) : Option Reply := if s.host.flow.size = 0 then some (errR stNotConfigured) else none

/-- FLOW_INSTALL. -/
def flowInstallRun : State → State :=
  svcCommand 0x0605 (fun p s => (installArgs p).or (noTable s)) fun p =>
    .install (slice p 8 64) (slice p 72 64) ((u8 p 0).testBit 0) ((u8 p 0).testBit 1)

/-- A flow index that the table has. -/
def indexArg (p : Bytes) (s : State) : Option Reply :=
  (noTable s).or (if u32 p 0 ≥ 4 * nBuckets s then some (inv 0) else none)

/-- FLOW_DELETE. -/
def flowDeleteRun : State → State := svcCommand 0x0606 indexArg fun p => .delete (u32 p 0) ((u8 p 4).testBit 0)

/-- FLOW_FLUSH. -/
def flowFlushRun : State → State :=
  svcCommand 0x060A (fun p s =>
    (firstErr [(u8 p 0 > 2, inv 0), (u8 p 1 > 7, inv 1), (u16 p 2 > 4095, inv 2)]).or (noTable s)) fun p =>
    .flush (u8 p 0) (u8 p 1) (u16 p 2)

/-- The answer of FLOW_READ. -/
def flowImage (s : State) (index : Nat) (m : Bytes) (cached : Bool) : Reply :=
  okD (slice (m.take (entLen m)) 0 64 ++ toLe 1 (b2n cached) ++ toLe 1 (b2n (claimHolds s index)) ++ zeros 14)

/-- FLOW_READ: a cached entry at once, another through a read of its bucket. -/
def flowReadRun (s : State) : State :=
  match takenFor 0x0607 s with
  | none => s
  | some q =>
    let i := u32 q.payload 0
    if s.host.xfers.any (·.purp = .svcRead q.mb) then s
    else
      match (preJudge q s).or (indexArg q.payload s) with
      | some r => finishTaken q r s
      | none =>
        match wayOf s i with
        | some w => finishTaken q (flowImage s i w.image true) s
        | none =>
          if bucketBusy s (i / 4) then s
          else if regionOk s (bucketAddr s (i / 4)) 128 then
            startXfer (.svcRead q.mb) false (svcSid s) (bucketAddr s (i / 4)) 128 [] s
          else finishTaken q (errR stHostRead) (svcReadErr (lines (violation s)))

/-- The bucket of FLOW_READ has been read. -/
def flowReadDone (x : Xfer) (mb : Nat) (s : State) : State :=
  match takenFor 0x0607 s with
  | none => s
  | some q =>
    let i := u32 q.payload 0
    if q.mb != mb then s
    else if x.err then finishTaken q (errR stHostRead) (svcReadErr s)
    else
      match wayOf s i with
      | some w => finishTaken q (flowImage s i w.image true) s
      | none =>
        match (bucketEntries x.data).find? (fun y => y.1 = i % 4) with
        | some y => finishTaken q (flowImage s i y.2 false) s
        | none => finishTaken q (errR stNotFound) s

def flowAgeCmd (q : Req) (s : State) : State × Reply :=
  let p := q.payload
  let per := u16 p 0
  let l := (List.range 8).map fun i => u16 p (4 + 2 * i)
  if per = 0 || per > 2047 then (s, inv 0)
  else
    match (List.range 8).find? fun i => l.getD i 0 = 0 || l.getD i 0 > 2047 || per + l.getD i 0 > 2047 with
    | some i => (s, inv (4 + 2 * i))
    | none => (s.updFlow fun f => { f with scanPer := per, timeouts := l }, okR)

def flowTableCmd (q : Req) (s : State) : State × Reply :=
  let p := q.payload
  if u8 p 4 > 60 then (s, inv 4)
  else if s.sys.phase != 1 then (s, errR stWrongState)
  else (s.updFlow fun f => { f with seed := u32 p 0, tick := u8 p 4 }, okR)

def flowCountersCmd (q : Req) (s : State) : State × Reply :=
  let p := q.payload
  let id := u16 p 2
  let get (g i n : Nat) : State × Reply := let r := readCounters g i n (u8 p 1 = 1) s; (r.2, okD r.1)
  if u8 p 0 > 2 then (s, inv 0)
  else if u8 p 1 > 1 then (s, inv 1)
  else if u8 p 0 = 2 then get cFlow 0 7
  else if u8 p 0 = 1 then (if id ≤ 4095 then get cPolicer id 4 else (s, inv 2))
  else if portCodeOk s id then get cFlowPort id 15 else (s, inv 2)

def execFlowPolicerSet (s : State) : Out := .next (immediate 0x0604 flowPolicerCmd s)
def execFlowInstall (s : State) : Out := .next (flowInstallRun s)
def execFlowDelete (s : State) : Out := .next (flowDeleteRun s)
def execFlowRead (s : State) : Out := .next (flowReadRun s)
def execFlowAgeSet (s : State) : Out := .next (immediate 0x0608 flowAgeCmd s)
def execFlowTableSet (s : State) : Out := .next (immediate 0x0609 flowTableCmd s)
def execFlowFlush (s : State) : Out := .next (flowFlushRun s)
def execFlowCountersGet (s : State) : Out := .next (immediate 0x060B flowCountersCmd s)

end Sys2Proof.Machine
end

