-- ==== Sys2Proof/Machine/ClsCmd.lean ====
section
/-! DEFINITION. The commands of the classifier: the arguments of the staged ones, the immediate ones, and the events of
generations (R240, R244-R254). -/

namespace Sys2Proof.Machine

open Sys2Proof

/-! ## Arguments of the staged commands -/

/-- An action at an offset of the payload (R240); the reserved bits are judged before.  With SET bit 3 POLICER_REF names a policer:
0xFFFF_FFFF, which means none in FLOW_ACTION_SET, is refused here (DESIGN CHOICE, log 93). -/
def clsActionArgs (s : State) (agent : Nat) (p : Bytes) (b : Nat) : Option Reply :=
  let set := u8 p (b + 1)
  let v := u8 p b
  match firstErr [(v > 3, inv b), (u8 p (b + 2) > 7, inv (b + 2)), (v != 3 && u8 p (b + 3) != 0, inv (b + 3))] with
  | some r => some r
  | none =>
    match destArgs s agent p (v = 1) (b + 4) (b + 8) (b + 12) with
    | some r => some r
    | none =>
      firstErr [(u8 p (b + 16) % 4 = 3, inv (b + 16)), (set.testBit 3 && u32 p (b + 24) > 4095, inv (b + 24))]

/-- A header length that an offset of two bytes fits in. -/
def fitsTwo (off len : Nat) : Bool := off + 2 ≤ len

/-- A next code of R233; code 3 is reserved. -/
def nextBad (v : Nat) : Bool := v ≥ 192

/-- The first bad transition. -/
def transBad (p : Bytes) (n : Nat) : Option Reply :=
  (List.range n).findSome? fun i =>
    let o := 20 + 6 * i
    firstErr [(andNot (u16 p o) (u16 p (o + 2)) != 0, inv o), (nextBad (u8 p (o + 4)), inv (o + 4))]

/-- The first bad extract, for a header of some bytes. -/
def extractBad (p : Bytes) (len n : Nat) : Option Reply :=
  (List.range n).findSome? fun j =>
    let o := 68 + 4 * j
    firstErr [(u8 p o + u8 p (o + 1) > len, inv o), (u8 p (o + 1) = 0 || u8 p (o + 1) > 16, inv (o + 1)),
      (u8 p (o + 2) + u8 p (o + 1) > 48, inv (o + 2)), (u8 p (o + 3) % 16 = 0, inv (o + 3))]

/-- CLS_PARSE_NODE_SET. -/
def nodeArgs (p : Bytes) : Option Reply :=
  let role := bits (u8 p 1) 5 3
  let len := u8 p 4
  let m1 := u8 p 3 = 1
  if u8 p 0 > 63 then some (inv 0)
  else if !(u8 p 1).testBit 0 then firstNonZero p 1 87
  else
    match firstErr [(role > 4, inv 1), (u8 p 2 > 2 || (u8 p 2 != 2 && role != 2), inv 2), (u8 p 3 > 1, inv 3), (len = 0, inv 4),
        (if m1 then !fitsTwo (u8 p 5) len else u8 p 5 != 0, inv 5), (if m1 then u16 p 6 = 0 else u16 p 6 != 0, inv 6),
        (if m1 then u8 p 8 > 15 else u8 p 8 != 0, inv 8), (if m1 then u8 p 9 > 7 else u8 p 9 != 0, inv 9),
        (if m1 then u16 p 10 > 255 else u16 p 10 != 0, inv 10), (u8 p 12 != 0xFF && !fitsTwo (u8 p 12) len, inv 12),
        (nextBad (u8 p 16), inv 16), (u8 p 17 > 8, inv 17), (u8 p 18 > 4, inv 18)] with
    | some r => some r
    | none =>
      (transBad p (u8 p 17)).or ((firstNonZero p (20 + 6 * u8 p 17) (48 - 6 * u8 p 17)).or
        ((extractBad p len (u8 p 18)).or (firstNonZero p (68 + 4 * u8 p 18) (16 - 4 * u8 p 18))))

/-- CLS_EXCEPTION_SET. -/
def exceptionArgs (s : State) (agent : Nat) (p : Bytes) : Option Reply :=
  match (List.range 7).find? fun i => u8 p i > 2 with
  | some i => some (inv i)
  | none =>
    if (List.range 7).any fun i => u8 p i = 2 then (destStatus s agent (u32 p 8)).map fun st => errAt st 8 else none

/-- CLS_RULE_ADD. -/
def ruleAddArgs (s : State) (agent : Nat) (p : Bytes) : Option Reply :=
  if u8 p 0 > 7 then some (inv 0)
  else
    match (List.range 64).find? fun i => andNot (u8 p (16 + i)) (u8 p (80 + i)) != 0 with
    | some i => some (inv (16 + i))
    | none => clsActionArgs s agent p 144

/-- CLS_RULE_DELETE. -/
def ruleDeleteArgs (p : Bytes) : Option Reply := firstErr [(u8 p 0 > 7, inv 0)]

/-- CLS_MCAST_SET. -/
def mcastArgs (s : State) (agent : Nat) (p : Bytes) : Option Reply :=
  match firstErr [(u16 p 0 > 4095, inv 0), (u16 p 2 > 256, inv 2)] with
  | some r => some r
  | none =>
    (List.range (u16 p 2)).findSome? fun i =>
      let o := 8 + 8 * i
      match destStatus s agent (u32 p o) with
      | some st => some (errAt st o)
      | none =>
        firstErr [((List.range i).any (fun j => u32 p (8 + 8 * j) = u32 p o), inv o),
          (u32 p (o + 4) != 0xFFFFFFFF && u32 p (o + 4) > 4095, inv (o + 4))]

/-- CLS_DEFAULT_SET. -/
def defaultArgs (s : State) (agent : Nat) (p : Bytes) : Option Reply :=
  match firstErr [(u8 p 0 > 3, inv 0), (u8 p 4 = 0, inv 4)] with
  | some r => some r
  | none => clsActionArgs s agent p 4

/-- CLS_TABLE_SET. -/
def tableArgs (p : Bytes) : Option Reply :=
  firstErr [(u8 p 0 > 7, inv 0), (u8 p 1 > 1, inv 1), (u32 p 4 > 16384, inv 4)]

/-! ## Generations (R246, R250, R251) -/

/-- The version of the immediate commands: 16 bytes for one resident generation. -/
def genEntry (s : State) (x : Gen) : Bytes :=
  let cur := x.gen = s.cls.current
  toLe 2 x.gen ++ toLe 1 (if cur then 0 else if x.retiring then 2 else 1) ++ zeros 1 ++ toLe 4 x.inflight ++
    toLe 8 (if cur then 0 else x.since)

/-- Rule slots in use, across all resident generations. -/
def ruleSlots (s : State) : Nat := (s.cls.vers.filter (·.kind = .rule)).length

def genStatusBytes (s : State) : Bytes :=
  let l := s.cls.resident.flatMap (genEntry s)
  toLe 2 s.cls.current ++ toLe 1 s.cls.resident.length ++ toLe 1 (b2n (sweepRuns s)) ++ toLe 4 (ruleSlots s) ++
    toLe 4 (memberCount s.cls.vers) ++ zeros 4 ++ slice l 0 64

/-- Drop a queued owner of a RETIRING generation. -/
def dropRetired (k : QKey) (s : State) (e : QE) : State :=
  releaseOwner e.h k.owner (bump 0x50 (ingressOf s e.h) 11 s)

/-- What an emptied queue leaves. -/
def leaveRound (k : QKey) (s : State) : State :=
  if !(getQ s k).isEmpty then s
  else
    match k with
    | .wire p tc sq => setRound p tc (Drr.leave sq) s
    | .ring c r =>
      let s1 := setChSch c (fun x => { x with round := x.round.leave r, nomRing := if x.nomRing = some r then none else x.nomRing }) s
      if chQueued s1 c = 0 then chLeave c s1 else s1
    | .sta st a => setAcRound a (Drr.leave st) s
    | _ => s

/-- The queued owners of a generation in one queue are dropped. -/
def purgeQueue (g : Nat) (s : State) (k : QKey) : State :=
  let l := getQ s k
  let bad := l.filter fun e => genOf s e.h = g
  if bad.isEmpty then s
  else leaveRound k (bad.foldl (dropRetired k) (setQ k (l.filter fun e => genOf s e.h != g) s))

/-- The nominated heads of a wire port are still queued. -/
def purgeNom (g n : Nat) (s : State) : State :=
  (List.range 8).foldl (fun s tc =>
    match (getWire s n).nom.get? tc with
    | some x => if genOf s x.qe.h = g then dropRetired (.wire n tc 0) (clearNom n tc s) x.qe else s
    | none => s) s

/-- The marking finds every queued owner of the generation (R250). -/
def purgeGen (g : Nat) (s : State) : State :=
  let s1 := (List.range (nPorts s)).foldl (fun s n => purgeNom g n s) s
  (s1.sch.queues.map (·.1)).foldl (purgeQueue g) s1

def genRetireCmd (q : Req) (s : State) : State × Reply :=
  let g := u16 q.payload 0
  match findGen s g with
  | none => (s, errR stNotFound)
  | some x =>
    if x.sweeping then (s, errR stNotFound)
    else if g = s.cls.current || x.retiring then (s, errR stWrongState)
    else (purgeGen g (updGen g (fun x => { x with retiring := true }) s), okR)

/-- CLS_GEN_SLOW: a generation is still resident 1 s after it stopped being current, or another 10 s later. -/
def genSlow (g : Nat) (s : State) : State :=
  match findGen s g with
  | some x =>
    if g = s.cls.current || s.sys.held || coreOff s then s
    else raiseAll 0x0582 (toLe 2 g ++ zeros 2 ++ toLe 4 x.inflight ++ toLe 4 ((nowNs s - x.since) / 1000000000)) s
  | none => s

/-- GEN_SWEEP_END. -/
def genSweepEnd (s : State) : State := if s.sys.held || coreOff s then s else endSweep s

/-! ## The other immediate commands -/

def ruleReadCmd (q : Req) (s : State) : State × Reply :=
  let p := q.payload
  let t := u8 p 0
  let g := u16 p 2
  let key := t * 2 ^ 32 + u32 p 4
  match firstErr [(t > 7, inv 0), (u8 p 8 > 1, inv 8), ((findGen s g).isNone, errR stNotFound)] with
  | some r => (s, r)
  | none =>
    match findVer s .rule key g with
    | none => (s, errR stNotFound)
    | some v =>
      let d := toLe 1 t ++ toLe 1 (b2n v.bornAny + 2 * b2n v.died.isSome) ++ slice v.val 2 2 ++ toLe 4 (u32 p 4) ++ toLe 2 v.born ++
        toLe 2 (v.died.getD 0) ++ toLe 4 v.slot ++ toLe 8 v.hits ++ zeros 8 ++ slice v.val 16 64 ++ slice v.val 80 64 ++
        slice v.val 144 32
      (if u8 p 8 = 1 then
         s.updCls fun c => { c with vers := mapIf c.vers (fun w => w.kind = .rule && w.slot = v.slot) fun w => { w with hits := 0 } }
       else s, okD d)

def clsCountersCmd (q : Req) (s : State) : State × Reply :=
  let p := q.payload
  let id := u16 p 0
  if !portCodeOk s id then (s, inv 0)
  else if u8 p 2 > 1 then (s, inv 2)
  else let r := readCounters 0x50 id 12 (u8 p 2 = 1) s; (r.2, okD r.1)

def execGenSweepEnd (s : State) : Out := .next (genSweepEnd s)
def execClsGenSlow (g : Nat) (s : State) : Out := .next (genSlow g s)
def execClsGenStatus (s : State) : Out := .next (immediate 0x0509 (fun _ s => (s, okD (genStatusBytes s))) s)
def execClsGenRetire (s : State) : Out := .next (immediate 0x050A genRetireCmd s)
def execClsRuleRead (s : State) : Out := .next (immediate 0x050B ruleReadCmd s)
def execClsCountersGet (s : State) : Out := .next (immediate 0x050C clsCountersCmd s)

end Sys2Proof.Machine
end

