-- ==== Sys2Proof/Machine/EngineCmd.lean ====
section
/-! DEFINITION. The commands of the engines (R316). -/

namespace Sys2Proof.Machine

open Sys2Proof

/-! ## ENG_HOOK_BIND: its check at staging, its check at commit, and its effect -/

def hookBindArgs (p : Bytes) : Option Reply :=
  firstErr [(u8 p 0 < 0x40, inv 0), (u8 p 1 > 15, inv 1), (u16 p 2 % 4 != 0 || u16 p 2 ≥ 4096, inv 2)]

def hookBindCheck (p : Bytes) (s : State) : Option Nat :=
  if u8 p 1 != 0 && (s.eng.progs.get? (u8 p 1)).isNone then some stNotFound else none

def hookBindApply (p : Bytes) (s : State) : State :=
  s.updEng fun g => { g with hooks := if u8 p 1 = 0 then g.hooks.erase (u8 p 0) else g.hooks.set (u8 p 0) ⟨u8 p 1, u16 p 2⟩ }

/-! ## The immediate commands -/

/-- A program number that a command names. -/
def progArg (p : Bytes) (s : State) : Option Reply :=
  firstErr [(u8 p 0 = 0 || u8 p 0 > 15, inv 0), ((s.eng.progs.get? (u8 p 0)).isNone, errR stNotFound)]

def progUnloadCmd (q : Req) (s : State) : State × Reply :=
  let n := u8 q.payload 0
  match progArg q.payload s with
  | some r => (s, r)
  | none =>
    if s.eng.hooks.vals.any (·.prog = n) || ((s.eng.progs.get? n).map (·.inflight)).getD 0 != 0 then (s, errR stWrongState)
    else (s.updEng fun g => { g with progs := g.progs.erase n }, okR)

def engConfigCmd (q : Req) (s : State) : State × Reply :=
  let p := q.payload
  match firstErr [(u8 p 0 ≥ nEngines s && u8 p 0 != 0xFF, inv 0), (u16 p 2 = 0 || u16 p 2 > 1000, inv 2)] with
  | some r => (s, r)
  | none =>
    let l := if u8 p 0 = 0xFF then List.range (nEngines s) else [u8 p 0]
    (l.foldl (fun s e => setEng e (fun g => { g with destHook := u8 p 1, budget := u16 p 2 }) s) s, okR)

/-- ENG_POLICY_SET: it runs beside the queue until the states of R285 are reached. -/
def engPolicySet (s : State) : State :=
  settlePolicy 16 (longRunning 0x0704 (fun q s =>
    let v := u8 q.payload 0
    if v > 1 then (s, some (inv 0))
    else if v = 0 && s.eng.spareUsed then (s, some (errR stWrongState))
    else (s, none)) s)

/-- The engines that hold the programs: ACTIVE, DRAINING and SPARE. -/
def loadedEngines (s : State) : List Nat :=
  (List.range (nEngines s)).filter fun e =>
    let m := (getEng s e).mode
    m = .active || m = .draining || m = .spare

def engDataCmd (q : Req) (s : State) : State × Reply :=
  let p := q.payload
  let n := u16 p 2
  let off := u32 p 4
  match firstErr [(u8 p 0 = 0 || u8 p 0 > 15, inv 0), (n < 4 || n > 4088 || n % 4 != 0, inv 2), (off % 4 != 0, inv 4)] with
  | some r => (s, r)
  | none =>
    match s.eng.progs.get? (u8 p 0) with
    | none => (s, errR stNotFound)
    | some g =>
      if off + n > 4096 * g.dpages then (s, inv 4)
      else
        ((loadedEngines s).foldl (fun s e =>
          setEng e (fun x => { x with dmem := Mem.wrN x.dmem (0x8000 + 4096 * g.dpage + off) (slice p 8 n) }) s) s, okR)

/-- 16 bytes of ENG_STATUS_GET for one engine. -/
def engStatus (s : State) (e : Nat) : Bytes :=
  let g := getEng s e
  let l := if (loadedEngines s).contains e then s.eng.progs.vals else []
  let mask := ((List.range 4).filter fun t => (getThr s e t).busy).foldl (fun a t => a + 2 ^ t) 0
  toLe 1 (engModeNum g.mode) ++ toLe 1 mask ++ toLe 2 g.epoch ++ toLe 2 (getQ s (.eng e)).length ++
    toLe 1 ((l.map (·.ipages)).sum) ++ toLe 1 ((l.map (·.dpages)).sum) ++ zeros 8

/-- ENG_STATUS_GET; which engine is named while none runs the table service, the manual does not say (log 3). -/
def engStatusCmd (_q : Req) (s : State) : State × Reply :=
  let r := match serviceEngine s with
    | some e => (e, s)
    | none => draw s
  (r.2, okD (toLe 1 s.eng.policy ++ toLe 1 r.1 ++ toLe 2 s.pipe.slots.length ++ toLe 4 s.pipe.disp.length ++
    toLe 8 ((s.eng.progs.keys.map (2 ^ ·)).sum) ++ ((List.range 8).flatMap fun e => if e < nEngines s then engStatus s e else zeros 16) ++
    zeros 16))

def engCountersCmd (q : Req) (s : State) : State × Reply :=
  let p := q.payload
  let id := u16 p 2
  let get (g i n : Nat) : State × Reply := let r := readCounters g i n (u8 p 1 = 1) s; (r.2, okD r.1)
  if u8 p 0 > 2 then (s, inv 0)
  else if u8 p 1 > 1 then (s, inv 1)
  else if u8 p 0 = 2 then get cEngBlock 0 2
  else if u8 p 0 = 1 then (if id < nEngines s then get cEng id 7 else (s, inv 2))
  else if portCodeOk s id then get cEngPort id 8 else (s, inv 2)

/-- A sample as ENG_SAMPLE_READ returns it. -/
def sampleBytes (x : Sample) : Bytes :=
  toLe 1 x.thread ++ toLe 1 x.hook ++ toLe 1 x.prog ++ zeros 1 ++ toLe 4 x.pc ++ toLe 8 x.time ++ toLe 1 x.ctr ++ zeros 7

def engSampleCmd (q : Req) (s : State) : State × Reply :=
  let e := u8 q.payload 0
  let n := u8 q.payload 1
  match firstErr [(e ≥ nEngines s, inv 0), (n = 0 || n > 8, inv 1)] with
  | some r => (s, r)
  | none =>
    let l := (getEng s e).samples.take n
    (setEng e (fun g => { g with samples := g.samples.drop n }) s, okD (toLe 1 l.length ++ zeros 7 ++ l.flatMap sampleBytes))

/-- ENG_BASE_SET: the values that TTL_EXPIRED sends with (R308).  Where they lie in the base programs' DMEM is not stated, so they are held
beside the engines (DESIGN CHOICE, log 82). -/
def engBaseCmd (q : Req) (s : State) : State × Reply :=
  let p := q.payload
  let on := (u8 p 0).testBit 0
  match firstErr [(on && u16 p 2 = 0, inv 2), (on && u32 p 4 = 0, inv 4)] with
  | some r => (s, r)
  | none =>
    (s.updEng fun g => { g with icmp := on, icmpRate := u16 p 2, ipv4Src := slice p 4 4, ipv6Src := slice p 8 16 }, okR)

def execEngProgUnload (s : State) : Out := .next (immediate 0x0702 progUnloadCmd s)
def execEngConfigSet (s : State) : Out := .next (immediate 0x0703 engConfigCmd s)
def execEngPolicySet (s : State) : Out := .next (engPolicySet s)
def execEngDataWrite (s : State) : Out := .next (immediate 0x0705 engDataCmd s)
def execEngStatusGet (s : State) : Out := .next (immediate 0x0706 engStatusCmd s)
def execEngCountersGet (s : State) : Out := .next (immediate 0x0707 engCountersCmd s)
def execEngSampleRead (s : State) : Out := .next (immediate 0x0708 engSampleCmd s)
def execEngBaseSet (s : State) : Out := .next (immediate 0x0709 engBaseCmd s)

end Sys2Proof.Machine
end

