-- ==== Sys2Proof/Machine/Capture.lean ====
section
/-! DEFINITION. The capture channels, and the triggers as the other units see them (R417-R419, R433). -/

namespace Sys2Proof.Machine

open Sys2Proof

/-- The counter groups of the time unit: bases, capture channels, triggers, links (R433). -/
def cBase : Nat := 0xB0
def cCap : Nat := 0xB1
def cTrg : Nat := 0xB2
def cLink : Nat := 0xB3

def getTrg (s : State) (t : Nat) : Trg := s.time.trg.getD t {}
def setTrg (t : Nat) (f : Trg → Trg) (s : State) : State := s.updTime fun x => { x with trg := x.trg.upd t {} f }

/-- A linear time, modulo the span of a base. -/
def wrapTime (i : Int) : Nat := (i % (tbSpan : Int)).toNat

def getCap (s : State) (c : Nat) : CapCh := s.time.cap.getD c {}
def setCap (c : Nat) (f : CapCh → CapCh) (s : State) : State := s.updTime fun x => { x with cap := x.cap.upd c {} f }

/-- Base `k` has stepped since the channel's previous record, or steps in this cycle (R417, R435). -/
def steppedSince (s : State) (x : CapCh) (k : Nat) : Bool := x.stepped.testBit k || (getTb s k).stepAt = some s.time.cycle

/-- A base steps: every channel that has made a record remembers it. -/
def markStep (k : Nat) (s : State) : State :=
  s.updTime fun t => { t with cap := t.cap.map fun x =>
    (x.1, if x.2.had then { x.2 with stepped := x.2.stepped ||| 2 ^ k } else x.2) }

/-- An edge of an enabled channel, `delay` core cycles after this one (R417-R419). -/
def capAccept (c delay : Nat) (s : State) : State :=
  let x := getCap s c
  if x.minInt != 0 && recently x.lastEdge (nowNs s + delay) x.minInt then bump cCap c 2 s
  else
    let b := getTb s x.base
    let adj : Int := if x.base = 7 then 0 else b.rate
    let t := wrapTime ((b.v : Int) + delay * ((nsUnit : Int) + adj))
    let r : CapRec := { time := t, base := x.base, stepped := steppedSince s x x.base }
    let s1 := setCap c (fun x => { x with lastEdge := some (nowNs s + delay), stuck := false }) s
    let s2 :=
      if x.fifo.length ≥ 16 then bump cCap c 1 (setCap c (fun x => { x with overflow := true }) s1)
      else raiseTime1 c (bump cCap c 0 (setCap c (fun x => { x with fifo := x.fifo ++ [r], had := true, stepped := 0 }) s1))
    if x.stuck then raise0 0x0B83 c (toLe 1 0) (raiseTime1 27 s2) else s2

/-- The channels that capture this trigger's firings take an edge, 2 core cycles later (R417). -/
def trgCaptures (t : Nat) (s : State) : State :=
  (List.range 16).foldl (fun s c =>
    let x := getCap s c
    if x.enable && x.source = 1 && x.srcTrg = t then capAccept c 2 s else s) s

end Sys2Proof.Machine
end

