-- ==== Sys2Proof/Machine/Mac.lean ====
section
/-! DEFINITION. What the receive paths of a wire port and of the watch matcher share: the lane's rate, the checks of a
frame, reassembly, and the wake (R126, R172, R186, R459-R463). -/

namespace Sys2Proof.Machine

open Sys2Proof

/-! ## Rates and applied fields (R126, R541, R543) -/

def rateMbps (r : Nat) : Nat := [1000, 2500, 5000, 10000, 25000].getD r 10000
def cfgRate (c : LaneCfg) : Nat := bits c.mode 3 1
def laneRate (l : Lane) : Nat := cfgRate l.applied
def loopback (c : LaneCfg) : Nat := bits c.mode 9 8

def ptFec (c : PtCfg) : Nat := bits c.mode 1 0
def ptAn (c : PtCfg) : Nat := bits c.mode 3 2
def ptTrain (c : PtCfg) : Bool := c.mode.testBit 4
def ptEee (c : PtCfg) : Bool := c.mode.testBit 5
def ptMax (c : PtCfg) : Nat := bits c.mode 29 16
def ptQbv (c : PtCfg) : Bool := c.preempt.testBit 4

/-- The counter group of a wire port's statistics (R190). -/
def cWire : Nat := 0x30

/-! ## The checks of a received frame (R172) -/

/-- The counter of the first failing check, in the table's order. -/
def rxVerdict (maxF : Nat) (rx : RxFrame) : Option Nat :=
  let n := rx.data.length + 4
  if n < 64 then some 6
  else if n > maxF then some 7
  else if !rx.fcsOk then some 5
  else if rx.coding then some 8
  else none

/-- The frame is a MAC control frame. -/
def isControl (d : Bytes) : Bool := be d 12 2 = 0x8808

/-! ## Reassembly (R186) -/

/-- What one packet does to the reassembly: the reassembly after it, the counters it steps, and the whole frame it
completes, if any. -/
def reassemble (a : Option Asm) (rx : RxFrame) : Option Asm × List Nat × Option RxFrame :=
  match rx.kind with
  | .express => (a, [], some rx)
  | .verify => (a, [], none)
  | .respond => (a, [], none)
  | .badSmd => (a, [31], none)
  | .start =>
    let lost := if a.isSome then [30] else []
    if rx.fcsOk then (some { data := rx.data, bad := rx.coding }, 28 :: lost, none) else (none, 28 :: lost ++ [30], none)
  | .cont =>
    match a with
    | none => (none, [28, 31], none)
    | some x =>
      if rx.seqOk && rx.fcsOk then (some { data := x.data ++ rx.data, bad := x.bad || rx.coding }, [28], none)
      else (none, [28, 30], none)
  | .last =>
    match a with
    | none => (none, [28, 31], none)
    | some x =>
      if rx.seqOk then
        (none, [28, 29], some { data := x.data ++ rx.data, fcsOk := rx.fcsOk, coding := x.bad || rx.coding })
      else (none, [28, 30], none)

/-! ## Wake sources (R459, R460, R462) -/

/-- A frame matches a pattern on a port (R459). -/
def patMatch (p : WakePat) (n : Nat) (d : Bytes) : Bool :=
  p.ports.testBit n && (List.range 64).all fun i => u8 d i &&& u8 p.mask i = u8 p.value i

/-- The lowest pattern that a frame matches. -/
def patHit (s : State) (n : Nat) (d : Bytes) : Option Nat :=
  (List.range 16).find? fun i =>
    match s.pwr.pats.get? i with
    | some p => patMatch p n d
    | none => false

/-- The frame's bytes from 12 hold six bytes of 0xFF and then 16 copies of an address (R460). -/
def addrRepeat (addr : Nat) (d : Bytes) : Bool :=
  let w := List.replicate 6 0xFF#8 ++ (List.range 16).flatMap fun _ => toLe 6 addr
  (upto 12 (d.length - 12)).any fun i => i + 102 ≤ d.length && slice d i 102 = w

/-- The wake cause of a frame and its pattern: 1 PATTERN, 2 ADDR_REPEAT; 0 for none.  A pattern is compared up to
the FCS, an address repeat up to byte `L - 1` of the stored frame. -/
def frameCause (s : State) (n : Nat) (d : Bytes) : Nat × Nat :=
  let w := d ++ toLe 4 (crc32 d)
  match patHit s n w with
  | some i => (1, i)
  | none => if s.pwr.addrWake.testBit n && addrRepeat (s.pwr.wakeAddr.getD n 0) d then (2, 0) else (0, 0)

/-! ## The start of a wake (R463 event 1, R469) -/

/-- Event 1 of a wake. -/
def beginWake (cause pat port : Nat) (s : State) : State :=
  driveReqs (bump 0xD0 0 2 (s.updPwr fun p => { p with
    mode := .waking
    cause := cause
    causePat := pat
    causePort := port
    heldCause := none
    committed := false
    isolated := false }))

/-- A wake cause arises: it starts a wake, is held until an entry ends, or is not recorded; of causes in one cycle the lowest code
is taken (R462, R469). -/
def wakeCause (cause pat port : Nat) (s : State) : State :=
  let now := (getTb s 7).v
  let first (c : Nat) : Bool := s.pwr.causeAt = now && cause < c
  match s.pwr.mode with
  | .watch => beginWake cause pat port (s.updPwr fun p => { p with causeAt := now })
  | .dormant => beginWake cause pat port (s.updPwr fun p => { p with causeAt := now })
  | .entering =>
    if (match s.pwr.heldCause with | some h => first h.1 | none => true) then
      s.updPwr fun p => { p with heldCause := some (cause, pat, port), causeAt := now }
    else s
  | .waking => if first s.pwr.cause then s.updPwr fun p => { p with cause := cause, causePat := pat, causePort := port } else s
  | .active => s

/-! ## The watch path (R452 step 1, R458, R461) -/

/-- The counters of the power unit against a port code (R467). -/
def cPwrPort : Nat := 0xD1

def watchSize (d : Bytes) : Nat := roundUp (d.length + 16) 16

/-- Store a frame in the watch buffer if it fits, with TB7 at its SFD point (R461). -/
def watchStore (n time : Nat) (d : Bytes) (s : State) : State :=
  if (s.pwr.buf.map fun f => watchSize f.data).sum + watchSize d ≤ 1024 * s.res.watchKib then
    s.updPwr fun p => { p with buf := p.buf ++ [{ port := n, data := d, time := time }] }
  else bump cPwrPort n 3 s

/-- A whole frame arrives at the watch-mode receive path of a port; its first byte arrived at `time`. -/
def watchWhole (n time : Nat) (rx : RxFrame) (s : State) : State :=
  if (rxVerdict (ptMax (getPort s n).applied) rx).isSome then bump cPwrPort n 2 s
  else if isControl rx.data then bump cPwrPort n 1 s
  else
    let c := if s.pwr.mode = .entering && s.pwr.target != 1 then (0, 0) else frameCause s n rx.data
    if !s.pwr.buf.isEmpty then watchStore n time rx.data s
    else if c.1 = 0 then bump cPwrPort n 1 s
    else wakeCause c.1 c.2 n (watchStore n time rx.data s)

/-- A packet arrives at the watch-mode receive path of a port. -/
def watchPacket (n : Nat) (rx : RxFrame) (s : State) : State :=
  let a := (getPort s n).asm
  let now := (getTb s 7).v
  let r := reassemble a rx
  let s1 := setPort n (fun p => { p with
    asm := if rx.kind = .start then r.1.map fun x => { x with at7 := now } else r.1 }) s
  match r.2.2 with
  | some w => watchWhole n (if rx.kind = .last then (a.map (·.at7)).getD now else now) w s1
  | none => if r.2.1.contains 30 || r.2.1.contains 31 then bump cPwrPort n 2 s1 else s1

/-- WATCH_RX_FRAME: a frame received on a watched port whose link is up, from step 1 of an entry until ACTIVE. -/
def watchRx (n : Nat) (rx : RxFrame) (s : State) : State :=
  if n < nPorts s && watched s n && (getPort s n).link && laneOn s n && !s.sys.held &&
      (s.pwr.mode = .entering || s.pwr.mode = .watch || s.pwr.mode = .waking) then
    watchPacket n rx s
  else s

def execWatchRxFrame (n : Nat) (rx : RxFrame) (s : State) : Out := .next (watchRx n rx s)

end Sys2Proof.Machine
end

