-- ==== Sys2Proof/Machine/Link.lean ====
section
/-! DEFINITION. The link of a wire port and the state of its lane: what a change of either does
(R135, R136, R142, R158, R165-R171, R542). -/

namespace Sys2Proof.Machine

open Sys2Proof

/-! ## Lane state (R158, R542) -/

/-- The bits of LN_STATUS that LN_EVENTS follows. -/
def laneBits (l : Lane) : Nat :=
  b2n l.pll + 2 * b2n l.los + 4 * b2n l.cdr + 8 * b2n l.rxReady + 16 * b2n l.aligned + 2 ^ 16 * b2n l.prbsLock +
    2 ^ 17 * b2n l.prbsDone + 2 ^ 24 * b2n l.retired

def txLpiNum : TxLpi → Nat
  | .active => 0
  | .sleep => 1
  | .quiet => 2
  | .refresh => 3
  | .wake => 4

def rxLpiNum : RxLpi → Nat
  | .active => 0
  | .sleep => 1
  | .quiet => 2
  | .wake => 3

/-- LN_STATUS. -/
def laneStatus (l : Lane) : Nat := laneBits l + 2 ^ 8 * txLpiNum l.txLpi + 2 ^ 12 * rxLpiNum l.rxLpi

/-- The change bits that a change of a lane sets; PRBS_DONE sets its bit on rising only. -/
def laneChanges (a b : Lane) : Nat :=
  let d := laneBits a ^^^ laneBits b
  if a.prbsDone && !b.prbsDone then withBit d 17 false else d

/-- Change a lane, with the change bits of LN_EVENTS. -/
def setLane (n : Nat) (f : Lane → Lane) (s : State) : State :=
  let a := getLane s n
  let b := f a
  s.updLanes fun q => { q with lanes := q.lanes.set n { b with events := b.events ||| laneChanges a b } }

/-- Add to counter `k` of a lane, at offset 0x40 + 4k; it saturates. -/
def laneCount (n k v : Nat) (s : State) : State :=
  setLane n (fun l => { l with counts := l.counts.set k (min (l.counts.getD k 0 + v) 0xFFFFFFFF) }) s

/-- A lane event (R160). -/
def laneEvent (code n : Nat) (d : Bytes) (s : State) : State := raise0 code n d s

/-! ## Training (R135, R136) -/

/-- Training ends without an outcome of its own: ABANDONED. -/
def abandonTraining (n : Nat) (s : State) : State :=
  if (getLane s n).training then laneEvent 0x0384 n (toLe 1 2) (setLane n (fun l => { l with training := false }) s) else s

/-- Training starts at INITIALIZE. -/
def startTraining (n : Nat) (s : State) : State :=
  setLane n (fun l => { l with
    training := true, trained := false, coef := 0, pre := 4, main := 47, post := 12 }) s

/-- Training starts if it is enabled and the lane is ready for it: with block lock and no negotiation, or with the
receiver ready while a negotiation runs. -/
def tryTraining (n : Nat) (s : State) : State :=
  let l := getLane s n
  let p := getPort s n
  if ptTrain p.applied && !l.training && !l.trained && !p.anWait && (if ptAn p.applied = 0 then l.aligned else l.rxReady) then
    startTraining n s
  else s

/-! ## The frames of a port whose link falls (R167, R168) -/

def getGc (s : State) (n : Nat) : GenChk := s.mt.gc.getD n {}
def setGc (n : Nat) (f : GenChk → GenChk) (s : State) : State := s.updMt fun m => { m with gc := m.gc.upd n {} f }

/-- A generated frame has been sent, or was ended by a falling link; the last of COUNT stops the generator.  A
frame of a run that was replaced counts in GEN_SENT only (R520, R527, R529). -/
def genSent (n : Nat) (s : State) : State :=
  let g := getGc s n
  let s1 := setGc n (fun g => { g with
    sent := (g.sent + 1) % 2 ^ 64, i := if g.old then g.i else g.i + 1, old := false, gen := g.gen && !g.stop, stop := false }) s
  if g.gen && !g.old && u32 g.set 16 != 0 && g.i + 1 = u32 g.set 16 then
    raise0 0x0F81 n (toLe 8 (g.sent + 1)) (setGc n (fun g => { g with gen := false }) s1)
  else s1

/-- A frame in transmission or a preempted remainder is ended. -/
def abortTx (n : Nat) (t : TxFrame) (s : State) : State :=
  let s1 := bump cWire n 21 s
  if t.gen then genSent n s1
  else if t.control then s1
  else
    let asked := match getBuf s1 t.handle with
      | some b => (recPtp b.record).testBit 2
      | none => false
    releaseOwner t.handle (n * 65536 + t.tc) (unpinBuf t.handle (if asked then bump cWire n 39 s1 else s1))

/-- A head that was being read into the FIFO stays the head of its class; its bytes there are discarded (R167). -/
def headBack (n : Nat) (t : TxFrame) (s : State) : State :=
  let s1 := dropDirect (.wire n) t.handle (unpinBuf t.handle s)
  match t.head with
  | some x => setWire n (fun w => { w with nom := w.nom.set t.tc x }) s1
  | none => s1

/-- What becomes of a port's frame in the FIFO when its link falls. -/
def endSending (n : Nat) (t : TxFrame) (s : State) : State := if t.reading then headBack n t s else abortTx n t s

/-- Every queued frame of a port is dropped. -/
def dropWireQueues (n : Nat) (s : State) : State :=
  (wireOwners s n).foldl (fun s x => releaseOwner x.2.h (n * 65536 + x.1) (bump cWire n 23 s)) (clearWire n s)

def linkEvent (n up cause : Nat) (s : State) : State := raise0 0x0281 n (toLe 1 up ++ toLe 1 cause) s

/-- A change of a watched port's link may wake the block (R462). -/
def linkWake (n : Nat) (s : State) : State :=
  if s.pwr.linkWake.testBit n && watched s n && (s.pwr.mode = .watch || (s.pwr.mode = .entering && s.pwr.target = 1)) then
    wakeCause 3 0 n s
  else s

/-- What a falling link does to its port; until ACTIVE the queues are kept (R457).  A request for LPI stands (R179). -/
def linkFall (n : Nat) (s : State) : State :=
  let p := getPort s n
  if !p.link then s
  else
    let s1 := setPort n (fun p => { p with link := false, tx := none, rem := none, asm := none, verify := 0
                                           paused := p.paused ||| p.stopping, stopping := 0
                                           holdOver := p.hold = 0 && !lowPower s }) s
    let s2 := match p.tx with
      | some t => endSending n t s1
      | none => s1
    let s3 := match p.rem with
      | some t => abortTx n t s2
      | none => s2
    let s4 := if p.asm.isSome then bump cWire n 8 s3 else s3
    let s5 := bump cWire n 36 s4
    if p.hold = 0 && !lowPower s then dropWireQueues n s5 else s5

/-- A link that stands goes down, which raises PORT_LINK and may wake the block. -/
def linkDown (n cause : Nat) (s : State) : State :=
  if (getPort s n).link then linkWake n (linkFall n (linkEvent n 0 cause s)) else s

/-! ## The conditions of a link (R165) -/

/-- The first condition of R165 that fails, by the causes of R193.  `quiet` says that the signal may be gone: in receive LPI's
QUIET, and in WAKE, where lock is regained (R144, R179). -/
def linkFault (quiet : Bool) (s : State) (n : Nat) : Option Nat :=
  let l := getLane s n
  let p := getPort s n
  if !laneOn s n || (!quiet && !l.rxReady) then some 1
  else if !quiet && !l.aligned then some 2
  else if p.hiBer then some 3
  else if !quiet && p.resFec != 0 && !p.fecLock then some 4
  else if p.localF then some 5
  else if p.remoteF then some 6
  else if ptAn p.applied != 0 && !p.anDone then some 7
  else if ptTrain p.applied && !l.trained then some 7
  else none

/-- The receive direction is in QUIET or WAKE. -/
def rxAway (l : Lane) : Bool := l.rxLpi = .quiet || l.rxLpi = .wake

/-- Bring the link down if a condition fails; a receive LPI indication, with its loss of signal, leaves it up (R179). -/
def checkLink (n : Nat) (s : State) : State :=
  match linkFault (rxAway (getLane s n)) s n with
  | some c => linkDown n c s
  | none => s

/-! ## Negotiation (R169-R171) -/

/-- A negotiation ends in an outcome. -/
def anEnd (n outcome : Nat) (s : State) : State :=
  raise0 0x0282 n (toLe 1 outcome ++ toLe 1 (getPort s n).resFec) (setPort n (fun p => { p with anOutcome := outcome }) s)

/-- What the block advertises in a negotiation (R169, R170): its technologies, the FEC ability F0 and the requests F1 to F3, and
symmetric PAUSE. -/
structure Advert where
  kr10  : Bool := false
  kr25  : Bool := false
  cr25  : Bool := false
  f0    : Bool := false
  f1    : Bool := false
  f2    : Bool := false
  f3    : Bool := false
  pause : Bool := false
  deriving DecidableEq, Repr

/-- The advertisement of a port, by its lane's rate and its applied set. -/
def advertOf (rate : Nat) (c : PtCfg) : Advert :=
  let kr := ptAn c = 2
  let fec := ptFec c
  { kr10 := kr && rate = 3, kr25 := kr && rate = 4, cr25 := kr && rate = 4, f0 := kr && rate = 3
    f1 := kr && rate = 3 && fec = 1, f2 := kr && rate = 4 && fec = 2, f3 := kr && rate = 4 && fec = 1
    pause := ptAn c != 0 && bits c.flow 1 0 = 1 }

/-- The FEC that a negotiation resolves, from both advertisements (R169). -/
def resolveFec (own : Advert) (a : AnPartner) : Nat :=
  if own.kr25 then (if own.f2 || a.reqF2 then 2 else if own.f3 || a.reqF3 then 1 else 0)
  else if own.f0 && a.fecAbility && (own.f1 || a.reqF1) then 1
  else 0

/-- A negotiation restarts, and with it the bring-up: training is abandoned (R136). -/
def anRestart (n : Nat) (s : State) : State :=
  let s1 := linkDown n 7 (abandonTraining n (bump cWire n 37 s))
  tryTraining n (setLane n (fun l => { l with trained := false })
    (setPort n (fun p => { p with anDone := false, anWait := false }) s1))

/-! ## Retirement (R142) -/

def judgeRetired (s : State) : State := setService 3 ((List.range (nPorts s)).any fun n => (getLane s n).retired) s

def laneDone (n reason : Nat) (s : State) : State := laneEvent 0x0383 n (toLe 1 reason) s

/-- What every restart of a receive path loses. -/
def rxRestart (l : Lane) : Lane :=
  { l with cdr := false, aligned := false, rxReady := false, rxLpi := .active, prbsLock := false, trained := false
           ctle := l.applied.rxeq % 16, dfe := [0, 0, 0, 0, 0] }

/-- Retire a lane: `cause` 0 for PLL failures, 1 for the command. -/
def retireLane (n cause : Nat) (s : State) : State :=
  let owed := (getLane s n).inSeq
  let s1 := setLane n (fun l => { rxRestart l with
    retired := true, pll := false, starting := false, retryWait := false, inSeq := false, applying := false, txLpi := .active }) (abandonTraining n s)
  let s2 := linkDown n 1 s1
  let s3 := laneEvent 0x0385 n (toLe 1 1 ++ toLe 1 cause) (judgeRetired s2)
  let s4 := logFault fkLane { sub := 10, unit := n } 0 s3
  driveReqs (if owed && cause = 0 then laneDone n 1 s4 else s4)

/-- A lane returns to service with its applied settings. -/
def returnLane (n : Nat) (s : State) : State :=
  let s1 := setLane n (fun l => { l with retired := false, fails := 0, starting := l.applied.mode.testBit 0, scrambler := 2 ^ 58 - 1 }) s
  driveReqs (laneEvent 0x0385 n (toLe 1 0 ++ toLe 1 1) (judgeRetired s1))

end Sys2Proof.Machine
end

