-- ==== Sys2Proof/Machine/Line.lean ====
section
/-! DEFINITION. What a lane sends: the scrambler, the patterns, and the line's activity (R130, R131, R143, R148-R151, R167,
R169). -/

namespace Sys2Proof.Machine

open Sys2Proof

/-! ## The scrambler (R130) -/

/-- One bit through the self-synchronous scrambler 1 + x^39 + x^58; bit 0 of its state is the latest bit sent. -/
def scrambleBit (st : Nat) (b : Bool) : Bool × Nat :=
  let o := (b != st.testBit 38) != st.testBit 57
  (o, (2 * st + b2n o) % 2 ^ 58)

/-- One bit through the descrambler, whose state is the bits received. -/
def descrambleBit (st : Nat) (b : Bool) : Bool × Nat :=
  ((b != st.testBit 38) != st.testBit 57, (2 * st + b2n b) % 2 ^ 58)

/-- Bits through a machine that takes one at a time. -/
def throughBits (f : Nat → Bool → Bool × Nat) : Nat → List Bool → List Bool × Nat
  | st, [] => ([], st)
  | st, b :: t =>
    let r := f st b
    let q := throughBits f r.2 t
    (r.1 :: q.1, q.2)

def scramble (st : Nat) (l : List Bool) : List Bool × Nat := throughBits scrambleBit st l
def descramble (st : Nat) (l : List Bool) : List Bool × Nat := throughBits descrambleBit st l

/-! ## The patterns (R149-R151) -/

/-- The two exponents of a pattern's polynomial x^n + x^m + 1. -/
def prbsTaps (sel : Nat) : Nat × Nat := [(7, 6), (9, 5), (15, 14), (23, 18), (31, 28)].getD sel (7, 6)

/-- The next bit of a pattern; bit 0 of the register is the latest one. -/
def prbsBit (sel st : Nat) : Bool × Nat :=
  let p := prbsTaps sel
  let o := st.testBit (p.1 - 1) != st.testBit (p.2 - 1)
  (o, (2 * st + b2n o) % 2 ^ p.1)

/-- The next bits of a pattern. -/
def prbsBits (sel st n : Nat) : List Bool × Nat := throughBits (fun st _ => prbsBit sel st) st (List.replicate n false)

def prbsInvert (l : Lane) : Bool := l.applied.prbs.testBit 8
def txPol (l : Lane) : Bool := l.applied.mode.testBit 5
def rxPol (l : Lane) : Bool := l.applied.mode.testBit 6

/-- The bits in a word of the lane: a 66-bit block, or a pair of code-groups. -/
def wordLen (l : Lane) : Nat := if 2 ≤ laneRate l then 66 else 20

/-- Received bits, the 64 last of which the checker finds free of errors: each is what its polynomial makes of the ones before it,
after RX_POL and INVERT (R131, R149, R150). -/
def prbsClean (l : Lane) (bs : List Bool) : Bool :=
  let p := prbsTaps (bits l.applied.prbs 7 5)
  let x := bs.map fun b => (b != rxPol l) != prbsInvert l
  let at_ (i : Nat) : Bool := x.getD i false
  x.length = p.1 + 64 && (List.range 64).all fun i => at_ (i + p.1) = (at_ i != at_ (i + p.1 - p.2))

/-! ## The line's activity -/

/-- What a lane's line carries. -/
inductive LineOut where
  | off
  | pattern
  | retimed
  | lpi
  | training
  | negotiation (a : Advert)
  | remoteFault
  | idle
  | frame
  deriving DecidableEq, Repr

/-- What lane `n` sends: electrical idle without a transmitter; a pattern; at far-end loopback the received data; the activity of
transmit LPI; training; a negotiation's base page; remote fault ordered sets under local fault; and else frames and idle. -/
def lineOut (s : State) (n : Nat) : LineOut :=
  let l := getLane s n
  let p := getPort s n
  if !laneOn s n || !l.pll then .off
  else if l.applied.prbs.testBit 0 then .pattern
  else if loopback l.applied = 3 then .retimed
  else
    match l.txLpi with
    | .sleep => .lpi
    | .quiet => .off
    | .refresh => .lpi
    | .wake => .idle
    | .active =>
      if ptAn p.applied != 0 && !p.anDone && !p.anWait && !l.training then .negotiation (advertOf (laneRate l) p.applied)
      else if l.training then .training
      else if p.localF then .remoteFault
      else if p.remoteF || p.tx.all (·.reading) then .idle
      else .frame

/-- What the transmit pins carry: electrical idle at a near-end loopback with TX_SQUELCH (R148). -/
def pinOut (s : State) (n : Nat) : LineOut :=
  let c := (getLane s n).applied
  if (loopback c = 1 || loopback c = 2) && c.mode.testBit 10 then .off else lineOut s n

/-! ## The words of a lane (R130, R131, R148) -/

/-- The 64 bits of a word of eight bytes, first sent first. -/
def payloadBits (l : List Nat) : List Bool := l.flatMap fun x => (List.range 8).map fun i => x.testBit i

/-- The payload of the control block that a line activity sends, in the block codes of IEEE 802.3 Clause 49 (PRESUMED, log 80):
idle, LPI, and remote fault ordered sets. -/
def controlPayload (o : LineOut) : Option (List Bool) :=
  match o with
  | .idle => some (payloadBits [0x1E, 0, 0, 0, 0, 0, 0, 0])
  | .lpi => some (payloadBits (0x1E :: (List.range 7).map fun i => (6 * (1 + 2 ^ 7 + 2 ^ 14 + 2 ^ 21 + 2 ^ 28 + 2 ^ 35 + 2 ^ 42 + 2 ^ 49)) / 2 ^ (8 * i) % 256))
  | .remoteFault => some (payloadBits [0x55, 0, 0, 2, 0, 0, 0, 2])
  | _ => none

/-- The block type of a terminate block that holds so many bytes before the end of the frame. -/
def endType (k : Nat) : Nat := [0x87, 0x99, 0xAA, 0xB4, 0xCC, 0xD2, 0xE1, 0xFF].getD k 0x87

/-- Block `i` of a frame with its FCS: whether it is a data block, and its payload.  The first block holds the preamble and the
SFD, the last the frame's last bytes; none comes after it (PRESUMED, log 80). -/
def frameBlock (d : Bytes) (i : Nat) : Option (Bool × List Bool) :=
  let b (off n : Nat) : List Nat := (List.range n).map fun k => u8 d (off + k)
  if i = 0 then some (false, payloadBits [0x78, 0x55, 0x55, 0x55, 0x55, 0x55, 0x55, 0xD5])
  else if 8 * i ≤ d.length then some (true, payloadBits (b (8 * (i - 1)) 8))
  else if 8 * (i - 1) ≤ d.length then
    let k := d.length % 8
    some (false, payloadBits (endType k :: b (8 * (i - 1)) k ++ List.replicate (7 - k) 0))
  else none

/-- A frame as the line carries it, with its FCS. -/
def withFcs (d : Bytes) : Bytes := d ++ toLe 4 (crc32 d)

/-- A far-end retimed lane sends what it receives (R148). -/
def echoRx (n : Nat) (rx : RxFrame) (s : State) : State :=
  if loopback (getLane s n).applied = 3 && lineOut s n = .retimed then
    setLane n (fun l => { l with echo := l.echo ++ [withFcs rx.data] }) s
  else s

/-- The block that a line activity sends next, for a lane at RATE 2 to 4: its header bit and payload. -/
def nextBlock (s : State) (n : Nat) (o : LineOut) : Option (Bool × List Bool) :=
  let l := getLane s n
  let idle := (controlPayload .idle).map fun p => (false, p)
  match o with
  | .frame =>
    match (getPort s n).tx with
    | some t => if t.express then (frameBlock (withFcs t.bytes) t.words).or idle else none
    | none => idle
  | .retimed =>
    match l.echo with
    | d :: _ => (frameBlock d l.echoWords).or idle
    | [] => idle
  | _ => (controlPayload o).map fun p => (false, p)

/-- One block more of the frame on the line has been sent. -/
def countWord (n : Nat) (o : LineOut) (s : State) : State :=
  match o with
  | .frame => setPort n (fun p => { p with tx := p.tx.map fun t => { t with words := t.words + 1 } }) s
  | .retimed =>
    setLane n (fun l =>
      match l.echo with
      | d :: rest =>
        if (frameBlock d (l.echoWords + 1)).isSome then { l with echoWords := l.echoWords + 1 } else { l with echo := rest, echoWords := 0 }
      | [] => l) s
  | _ => s

/-- A scrambled block leaves: the pins carry it unless they are squelched, and TX_POL inverts every bit. -/
def sendBlock (n : Nat) (data : Bool) (p : List Bool) (s : State) : State :=
  let off := pinOut s n = .off
  setLane n (fun l =>
    let r := scramble l.scrambler p
    { l with scrambler := r.2, word := if off then [] else ((!data) :: data :: r.1).map (· != txPol l) }) s

/-- Lane `n` sends its next word (one in a cycle, log 80): a word of the pattern, with the injected error in its first bit, or a
block with its header and its scrambled payload.  The words of a preempted frame's fragments are not spelled, and leave the scrambler
at a free value (log 3, log 80); neither are code-groups and training. -/
def sendWord (n : Nat) (s : State) : State :=
  let l := getLane s n
  let o := lineOut s n
  if o = .pattern then
    let r := prbsBits (bits l.applied.prbs 3 1) l.gen (wordLen l)
    let w := r.1.map (· != prbsInvert l)
    let e := match w with
      | b :: t => (b != l.errInject) :: t
      | [] => []
    let off := pinOut s n = .off
    setLane n (fun l => { l with gen := r.2, word := if off then [] else e.map (· != txPol l), errInject := false }) s
  else if laneRate l < 2 then setLane n (fun l => { l with word := [] }) s
  else
    match nextBlock s n o with
    | some b => countWord n o (sendBlock n b.1 b.2 s)
    | none =>
      if o = .frame then
        let r := draw s
        setLane n (fun l => { l with scrambler := r.1 % 2 ^ 58, word := [] }) r.2
      else setLane n (fun l => { l with word := [] }) s

end Sys2Proof.Machine
end

