-- ==== Sys2Proof/Machine/Lanes.lean ====
section
/-! DEFINITION. The serial lanes: the staged sets and APPLY, and what happens at a lane's receiver, PLL and timers
(R125-R161, R164). -/

namespace Sys2Proof.Machine

open Sys2Proof

/-! ## The checks of APPLY (R153, R164) -/

def rateOkFor (rate : Nat) (high : Bool) : Bool := if high then 2 ≤ rate && rate ≤ 4 else rate ≤ 3

/-- The declared frequency of the input that a set selects, under a quad word. -/
def refHigh (quad : Nat) (c : LaneCfg) : Bool := quad.testBit (b2n (c.mode.testBit 4))

/-- The FFE set breaks R134, or SWING exceeds 28. -/
def txeqBad (w : Nat) : Bool :=
  let pre := bits w 3 0
  let main := bits w 13 8
  let post := bits w 20 16
  main < 24 || pre + main + post > 63 || main < pre + post + 8 || bits w 28 24 > 28

/-- The first port check that fails, or 0 (R164). -/
def portCheck (p : Port) (lc : LaneCfg) : Nat :=
  let c := p.staged
  let rate := cfgRate lc
  let fec := ptFec c
  let an := ptAn c
  let fcm := bits c.flow 1 0
  if (fec = 1 && rate < 3) || (fec = 2 && rate != 4) || fec = 3 then 1
  else if (an = 1 && rate != 0) || (an = 2 && rate < 3) || an = 3 then 2
  else if ptTrain c && rate < 3 then 3
  else if ptMax c < 1518 || ptMax c > 10240 then 4
  else if ptEee c && (rate < 2 || bits lc.lpi0 1 0 != 3) then 5
  else if fcm = 3 || (bits c.flow 15 8 != 0 && fcm != 2) then 6
  else if c.preempt.testBit 0 && bits c.preempt 15 8 = 0xFF then 7
  else if ptQbv c && p.gcl.isNone && p.gclNext.isNone then 8
  else 0

/-- A changed quad declaration affects an enabled lane outside the named set. -/
def refInUse (s : State) (mask : Nat) : Bool :=
  let d := s.lanes.quadStaged ^^^ s.lanes.quadApplied
  (List.range (nPorts s)).any fun m =>
    !mask.testBit m && (getLane s m).applied.mode.testBit 0 && d.testBit (b2n ((getLane s m).applied.mode.testBit 4))

/-- The first reason of R153 that a named lane fails for, or 0. -/
def applyReason (s : State) (mask n : Nat) : Nat :=
  let l := getLane s n
  let c := l.staged
  if l.retired then 1
  else if cfgRate c > 4 || bits c.prbs 3 1 > 4 || bits c.prbs 7 5 > 4 then 2
  else if !rateOkFor (cfgRate c) (refHigh s.lanes.quadStaged c) then 3
  else if refInUse s mask then 4
  else if txeqBad c.txeq then 5
  else if bits c.lpi0 13 8 = 0 || bits c.lpi1 15 8 = 0 || bits c.lpi1 7 0 = 0 then 6
  else if bits c.lpi0 1 0 != 0 && cfgRate c < 2 then 7
  else if portCheck (getPort s n) c != 0 then 8
  else 0

def namedLanes (s : State) (mask : Nat) : List Nat := bitList (nPorts s) mask

/-- Some named lane fails. -/
def applyFails (s : State) (mask : Nat) : Bool := (namedLanes s mask).any fun n => applyReason s mask n != 0

/-! ## What a successful APPLY does to one lane and its port (R135, R155, R163, R170) -/

/-- The bits of LN_STAGE_MODE of the PLL class: ENABLE, RATE, REFCLK_SEL. -/
def pllBits (c : LaneCfg) : Nat := c.mode &&& 0x1F

/-- The classes of a change: PLL, RX, and LINK. -/
def changeClass (s : State) (n : Nat) : Bool × Bool × Bool :=
  let l := getLane s n
  let p := getPort s n
  let dq := s.lanes.quadStaged ^^^ s.lanes.quadApplied
  let quad := l.staged.mode.testBit 0 && dq.testBit (b2n (l.staged.mode.testBit 4))
  (pllBits l.staged != pllBits l.applied || quad,
   loopback l.staged != loopback l.applied || l.staged.rxeq % 16 != l.applied.rxeq % 16,
   p.staged.mode % 32 != p.applied.mode % 32)

/-- The coefficients in use after an APPLY: the staged ones, or, while training is enabled and a restart has taken the
trained ones away, values that the manual does not state (R135, R136; log 3). -/
def setCoefs (n : Nat) (bring : Bool) (s : State) : State :=
  let w := (getLane s n).applied.txeq
  if !ptTrain (getPort s n).applied then
    setLane n (fun l => { l with pre := bits w 3 0, main := bits w 13 8, post := bits w 20 16, swing := bits w 28 24 }) s
  else if bring then
    let r := draw s
    setLane n (fun l => { l with pre := r.1 % 16, main := 24 + r.1 / 16 % 40, post := r.1 / 1024 % 32 }) r.2
  else s

/-- The applied SWING is in use throughout, training or not (R135). -/
def setSwing (n : Nat) (s : State) : State := setLane n (fun l => { l with swing := bits l.applied.txeq 28 24 }) s

/-- The generator starts from a state that the manual does not give, and that is not all zeros (log 3). -/
def seedGen (n : Nat) (s : State) : State :=
  let l := getLane s n
  if l.applied.prbs.testBit 0 && l.gen = 0 then
    let r := draw s
    setLane n (fun l => { l with gen := r.1 % (2 ^ (prbsTaps (bits l.applied.prbs 3 1)).1 - 1) + 1 }) r.2
  else s

/-- A loopback or the PRBS generator keeps both directions out of LPI (R147). -/
def noLpi (c : LaneCfg) : Bool := loopback c != 0 || c.prbs.testBit 0

/-- The lane is inside the sequence of an APPLY, or its PLL is being started; a new APPLY restarts it (R156). -/
def inSequence (l : Lane) : Bool := l.applying || l.starting || l.retryWait

/-- The lane takes its staged set. -/
def takeLane (pllC rxC : Bool) (l : Lane) : Lane :=
  let on := l.staged.mode.testBit 0
  let restart := on && (pllC || inSequence l)
  let a := { l with applied := l.staged }
  let b := if pllC || restart then { rxRestart a with pll := false, txLpi := .active }
           else if rxC then rxRestart a else a
  let run := b.applied.prbs.testBit 4 && l.staged.prbs != l.applied.prbs
  let c := { b with
    starting := restart
    inSeq := restart
    applying := restart || (on && rxC)
    retryWait := false
    fails := if restart || !on then 0 else b.fails
    scrambler := if restart then 2 ^ 58 - 1 else b.scrambler
    prbsDone := b.prbsDone && !run
    prbsLock := b.prbsLock && !run && b.applied.prbs.testBit 4
    runMbits := if run then 0 else b.runMbits
    errInject := b.errInject && b.applied.prbs.testBit 0
    gen := if b.applied.prbs.testBit 0 && bits l.staged.prbs 3 0 = bits l.applied.prbs 3 0 then b.gen else 0 }
  if noLpi c.applied then { c with txLpi := .active, rxLpi := .active }
  else
    { c with
      txLpi := if c.txLpi != .active && !c.applied.lpi0.testBit 0 then .wake else c.txLpi
      rxLpi := if c.applied.lpi0.testBit 1 then c.rxLpi else .active }

/-- The port takes its staged set. -/
def takePort (bring : Bool) (p : Port) : Port :=
  let c := p.staged
  let an := ptAn c
  let pre := c.preempt &&& 0x7F000F != p.applied.preempt &&& 0x7F000F
  let fcChanged := bits c.flow 1 0 != bits p.applied.flow 1 0
  let q := { p with
    applied := c
    anOutcome := 7
    anDone := p.anDone && !bring
    anWait := p.anWait && !bring
    resFec := if an = 0 then ptFec c else if bring then 0 else p.resFec
    pauseOk := if an = 0 then true else p.pauseOk && !bring
    verify := if pre then (if p.link && bits c.preempt 1 0 = 3 then 1 else 0) else p.verify
    verifyN := if pre then 1 else p.verifyN
    xoffSent := if fcChanged then 0 else p.xoffSent
    atXoff := if fcChanged then 0 else p.atXoff }
  if rxFc q then q else { q with paused := 0, stopping := 0, pauseEnd := [] }

/-- The receive pins are in use (R148). -/
def pinsUsed (l : Lane) : Bool := loopback l.applied = 0 || loopback l.applied = 3

/-- LOS is counted, and what follows from it. -/
def losCounted (n : Nat) (s : State) : State :=
  let s1 := laneEvent 0x0381 n (toLe 1 1) (laneCount n 0 1 (setLane n (fun l => { l with
    los := true, losCounted := true, rxReady := false, aligned := false }) s))
  checkLink n (abandonTraining n s1)

/-- A direction that an APPLY takes out of QUIET or WAKE meets the LOS that is still present, or the lock that is not yet
regained, as in ACTIVE (R139, R141, R145). -/
def settleLos (n : Nat) (s : State) : State :=
  let l := getLane s n
  if l.rxLpi = .active && l.los && !l.losCounted && pinsUsed l then losCounted n s else checkLink n s

/-- A lane whose domain is powered by an applied ENABLE, in a block that is not held in reset. -/
def laneRuns (s : State) (n : Nat) : Bool :=
  n < nPorts s && laneOn s n && !s.sys.held && s.pwr.ack.testBit (13 + n) && (!released s || (watching s && watched s n))

/-- A lane that runs takes a request for transmit LPI. -/
def txLpiEnter (n : Nat) (s : State) : State :=
  let l := getLane s n
  if laneRuns s n && l.pll && !l.inSeq && l.applied.lpi0.testBit 0 && !noLpi l.applied && l.txLpi = .active then
    laneCount n 6 1 (setLane n (fun l => { l with txLpi := .sleep }) s)
  else s

/-- A request of the MAC that stands is taken once the lane can: at event 3 of an APPLY sequence, or after an APPLY (R161). -/
def lpiTake (n : Nat) (s : State) : State := if (getPort s n).lpiReq then txLpiEnter n s else s

/-- One named lane and its port take their staged sets.  An APPLY that names a lane in training abandons it, whatever it changes
(R136). -/
def applyOne (n : Nat) (s : State) : State :=
  let c := changeClass s n
  let l := getLane s n
  let p := getPort s n
  let on := l.staged.mode.testBit 0
  let seq := inSequence l
  let bring := c.1 || c.2.1 || c.2.2 || seq
  let negotiating := ptAn p.applied != 0 && l.applied.mode.testBit 0 && !p.anDone && !p.anWait
  let s0 := abandonTraining n s
  let s1 := if bring then linkDown n 8 s0 else s0
  let s2 := setPort n (takePort bring) (setLane n (takeLane c.1 c.2.1) s1)
  let s3 := if bring && negotiating then anEnd n 4 s2 else s2
  let s4 := seedGen n (setSwing n (setCoefs n (c.1 || c.2.1 || seq)
    (if c.2.2 then setLane n (fun l => { l with trained := false }) s3 else s3)))
  let s5 := if ptEee (getPort s4 n).applied && !ptQbv (getPort s4 n).applied then s4 else endLpi n s4
  let s6 := lpiTake n (checkOcc n (tryTraining n (settleLos n s5)))
  if on && (c.1 || c.2.1 || seq) then s6 else laneDone n 0 s6

/-- Record each named lane's first failing reason, and its port's first failing check. -/
def recordApply (mask : Nat) (s : State) : State :=
  (namedLanes s mask).foldl (fun t n =>
    setPort n (fun p => { p with check := portCheck (getPort s n) (getLane s n).staged })
      (setLane n (fun l => { l with applyStatus := applyReason s mask n }) t)) s

/-- APPLY of a set of lanes (R153, R154). -/
def applyLanes (mask : Nat) (s : State) : State :=
  let l := namedLanes s mask
  let m := mask % 2 ^ nPorts s
  let bad := applyFails s mask
  let s1 := (recordApply mask s).updLanes fun q => { q with applyErr := bad, applyMask := m }
  if bad then l.foldl (fun t n => laneDone n (applyReason s mask n) t) s1
  else
    let s2 := l.foldl (fun t n => applyOne n t) s1
    driveReqs (s2.updLanes fun q => { q with quadApplied := q.quadStaged })

/-- A write of LN_APPLY. -/
def lnApply (mask : Nat) (s : State) : State :=
  regWrite true 0x060804 (fun s => if mask % 2 ^ nPorts s = 0 then s else applyLanes mask s) s

/-- A write of ERR_INJECT in LN_EVENTS (R151). -/
def errInject (n : Nat) (s : State) : State :=
  regWrite (n < nPorts s) (0x060024 + 0x100 * n)
    (fun s => if (getLane s n).applied.prbs.testBit 0 then setLane n (fun l => { l with errInject := true }) s else s) s

/-! ## Signal and lock detection (R139-R142) -/

def losAssert (n : Nat) (s : State) : State :=
  let l := getLane s n
  if !laneRuns s n || l.los || !pinsUsed l then s
  else if l.rxLpi = .sleep then
    setLane n (fun l => { l with
      los := true, losCounted := false, rxReady := false, aligned := false, rxLpi := .quiet
      quietLimit := bits l.applied.lpi1 31 16 }) s
  else losCounted n s

def losDeassert (n : Nat) (s : State) : State :=
  let l := getLane s n
  if !laneRuns s n || !l.los || !pinsUsed l then s
  else
    let s1 := setLane n (fun l =>
      if l.rxLpi = .quiet then { l with los := false, losCounted := false, rxLpi := .wake, rxReady := l.cdr }
      else { l with los := false, losCounted := false }) s
    if l.losCounted then laneEvent 0x0381 n (toLe 1 0) (laneCount n 0 1 s1) else s1

def cdrLock (n : Nat) (s : State) : State :=
  let l := getLane s n
  if laneRuns s n && l.pll && !l.cdr && loopback l.applied != 2 then
    laneEvent 0x0382 n (toLe 1 1) (setLane n (fun l => { l with cdr := true }) s)
  else s

def cdrLockLoss (n : Nat) (s : State) : State :=
  let l := getLane s n
  if laneRuns s n && l.cdr && l.rxLpi != .quiet then
    checkLink n (laneEvent 0x0382 n (toLe 1 0) (laneCount n 1 1 (setLane n (fun l => { l with
      cdr := false, rxReady := false, aligned := false }) s)))
  else s

def pllLock (n : Nat) (s : State) : State :=
  let l := getLane s n
  if laneRuns s n && l.starting then
    let s1 := setLane n (fun l => { l with pll := true, starting := false, fails := 0, inSeq := false }) s
    lpiTake n (if l.inSeq then laneDone n 0 s1 else s1)
  else s

def pllStartFail (n : Nat) (s : State) : State :=
  let l := getLane s n
  if laneRuns s n && l.starting then
    let s1 := setLane n (fun l => { l with starting := false, fails := l.fails + 1, retryWait := l.fails < 2 }) s
    if l.fails ≥ 2 then retireLane n 0 s1 else s1
  else s

def pllRetry (n : Nat) (s : State) : State :=
  if laneRuns s n && (getLane s n).retryWait then
    setLane n (fun l => { l with starting := true, retryWait := false }) s
  else s

def pllLockLoss (n : Nat) (s : State) : State :=
  if laneRuns s n && (getLane s n).pll then
    laneCount n 2 1 (setLane n (fun l => { l with pll := false, starting := true }) s)
  else s

/-! ## The receive path (R128, R129, R132, R133, R137) -/

/-- The adaptation's values, unless it holds (R138): with LOS, in QUIET, or frozen. -/
def adapted (ctle : Nat) (dfe : List Int) (l : Lane) : Lane :=
  if l.applied.rxeq.testBit 8 || (l.los && pinsUsed l) || l.rxLpi = .quiet then l else { l with ctle := ctle, dfe := dfe }

/-- RX_READY: the first adaptation pass has converged; and, while RX_READY is high, the values to which the adaptation, which runs
on, has moved (R137). -/
def rxReadyRise (n ctle : Nat) (dfe : List Int) (s : State) : State :=
  let l := getLane s n
  if laneRuns s n && l.rxReady then setLane n (adapted ctle dfe) s
  else if laneRuns s n && (loopback l.applied = 2 || (l.cdr && (!l.los || !pinsUsed l))) then
    tryTraining n (setLane n (fun l => { adapted ctle dfe l with rxReady := true, applying := false }) s)
  else s

/-- Alignment is gained. -/
def alignGain (n : Nat) (s : State) : State :=
  let l := getLane s n
  if laneRuns s n && l.rxReady && !l.aligned then tryTraining n (setLane n (fun l => { l with aligned := true }) s) else s

/-- Alignment is lost. -/
def alignLoss (n : Nat) (s : State) : State :=
  let l := getLane s n
  if laneRuns s n && l.aligned && l.rxLpi != .quiet then checkLink n (setLane n (fun l => { l with aligned := false }) s) else s

def blockLock (n : Nat) (s : State) : State := if laneRate (getLane s n) ≥ 2 then alignGain n s else s
def blockSlip (n : Nat) (s : State) : State := if laneRate (getLane s n) ≥ 2 then alignLoss n s else s

def codeGroupSync (n : Nat) (gained : Bool) (s : State) : State :=
  if laneRate (getLane s n) ≤ 1 then (if gained then alignGain n s else alignLoss n s) else s

/-- Set the fill of the elastic buffer, and step counter `k`. -/
def ctcStep (n k fill : Nat) (s : State) : State :=
  if laneRuns s n then laneCount n k 1 (setLane n (fun l => { l with fill := fill }) s) else s

/-- CTC_INSERT and CTC_DELETE: between two frames the fill has drifted to `fill`; at 12 or less one idle is inserted, at 20 or more
one is deleted (R132). -/
def ctcInsert (n fill : Nat) (s : State) : State :=
  if fill ≤ 12 then ctcStep n 3 (fill + 1) s else if laneRuns s n then setLane n (fun l => { l with fill := fill }) s else s

def ctcDelete (n fill : Nat) (s : State) : State :=
  if 20 ≤ fill then ctcStep n 4 (fill - 1) s else if laneRuns s n then setLane n (fun l => { l with fill := fill }) s else s

/-- The buffer is recentred; a frame in reception carries a lane error (R133). -/
def ctcSlip (n : Nat) (s : State) : State :=
  if laneRuns s n then
    setPort n (fun p => { p with asm := p.asm.map fun a => { a with bad := true } }) (ctcStep n 5 16 s)
  else s

/-! ## Training (R135, R136) -/

/-- A set of coefficients keeps the ranges and the sum rules of R134. -/
def coefOk (pre main post : Int) : Bool :=
  0 ≤ pre && pre ≤ 15 && 24 ≤ main && main ≤ 63 && 0 ≤ post && post ≤ 31 && pre + main + post ≤ 63 && 8 ≤ main - pre - post

/-- One step of one coefficient, `i` 0 PRE, 1 MAIN, 2 POST: its sign is that of `d`, an increment raising the magnitude, of PRE
and POST too (DESIGN CHOICE, log 79).  The status of Clause 72 goes to
two bits of the coefficient status: 1 updated, 2 minimum, 3 maximum. -/
def coefStep (i : Nat) (d : Int) (l : Lane) : Lane :=
  let g : Int := if d > 0 then 1 else if d < 0 then -1 else 0
  let pre : Int := l.pre + (if i = 0 then g else 0)
  let main : Int := l.main + (if i = 1 then g else 0)
  let post : Int := l.post + (if i = 2 then g else 0)
  if g = 0 then l
  else if coefOk pre main post then
    { l with pre := pre.toNat, main := main.toNat, post := post.toNat, coef := l.coef + 4 ^ i }
  else { l with coef := l.coef + (if g > 0 then 3 else 2) * 4 ^ i }

/-- A request of the link partner's training.  One that steps several coefficients is judged in the order PRE, MAIN, POST (DESIGN
CHOICE, log 79). -/
def trainingRequest (n : Nat) (req : TrainReq) (s : State) : State :=
  if laneRuns s n && (getLane s n).training then
    setLane n (fun l =>
      match req with
      | .preset => { l with pre := 0, main := 63, post := 0, coef := 0x15 }
      | .initial => { l with pre := 4, main := 47, post := 12, coef := 0x15 }
      | .step a b c => coefStep 2 c (coefStep 1 b (coefStep 0 a { l with coef := 0 }))) s
  else s

def trained (n : Nat) (s : State) : State :=
  if laneRuns s n && (getLane s n).training && (getLane s n).rxReady then
    laneEvent 0x0384 n (toLe 1 0) (setLane n (fun l => { l with training := false, trained := true }) s)
  else s

/-- 500 ms of training without success; with a negotiation, it ends TRAIN_FAILED (R171). -/
def trainingTimeout (n : Nat) (s : State) : State :=
  if laneRuns s n && (getLane s n).training then
    let s1 := laneEvent 0x0384 n (toLe 1 1) (laneCount n 11 1 (setLane n (fun l => { l with
      training := false, pre := 4, main := 47, post := 12 }) s))
    let s2 := setPort n (fun p => { p with anWait := true, anDone := false }) s1
    if ptAn (getPort s n).applied = 0 then s2 else anEnd n 2 s2
  else s

/-! ## Low-power idle (R143-R147) -/

def txLpiTimer (n : Nat) (s : State) : State :=
  if laneRuns s n then
    setLane n (fun l =>
      match l.txLpi with
      | .active => l
      | .sleep => if bits l.applied.lpi0 29 16 = 0 then l else { l with txLpi := .quiet }
      | .quiet => { l with txLpi := .refresh }
      | .refresh => { l with txLpi := .quiet }
      | .wake => { l with txLpi := .active }) s
  else s

/-- The receive direction enters SLEEP. -/
def rxSleep (n : Nat) (s : State) : State :=
  laneCount n 7 1 (setLane n (fun l => { l with rxLpi := .sleep, aligned := true }) s)

def rxLpiBlocks (n : Nat) (lpi : Bool) (s : State) : State :=
  let l := getLane s n
  if !laneRuns s n || !l.applied.lpi0.testBit 1 || noLpi l.applied || laneRate l < 2 || l.los then s
  else
    match l.rxLpi with
    | .active => if lpi && l.rxReady && l.aligned then rxSleep n s else s
    | .sleep => if lpi then s else checkLink n (setLane n (fun l => { l with rxLpi := .active }) s)
    | .quiet => s
    | .wake => if !l.rxReady then s else if lpi then rxSleep n s else checkLink n (setLane n (fun l => { l with rxLpi := .active, aligned := true }) s)

def rxLpiFault (n cause : Nat) (s : State) : State :=
  let l := getLane s n
  let hit := (cause = 0 && l.rxLpi = .quiet && l.quietLimit != 0) || (cause = 1 && l.rxLpi = .wake && !l.aligned)
  if laneRuns s n && hit then
    let s1 := laneEvent 0x0386 n (toLe 1 cause) (laneCount n 10 1 (setLane n (fun l => { l with rxLpi := .active }) s))
    if l.los && !l.losCounted then losCounted n s1 else checkLink n s1
  else s

/-! ## The PRBS checker (R150) -/

def checking (l : Lane) : Bool := l.applied.prbs.testBit 4 && !l.prbsDone

/-- Errors and bits are counted.  PRBS_ERR begins again at 0 after 2^48 - 1 (R150; DESIGN CHOICE, log 92). -/
def prbsCount (n errs mbits : Nat) (s : State) : State :=
  laneCount n 15 mbits (setLane n (fun l => { l with
    prbsErr := (l.prbsErr + errs) % 2 ^ 48, runMbits := l.runMbits + mbits }) s)

/-- PRBS_LOCK: 64 received bits without an error lock the checker, which `bs` are to show; and, while it is locked, so many
mismatches and units checked since they were last reported. -/
def prbsLock (n : Nat) (bs : List Bool) (errs mbits : Nat) (s : State) : State :=
  let l := getLane s n
  let run := bits l.applied.prbs 31 16
  if !laneRuns s n || !checking l then s
  else if !l.prbsLock then (if prbsClean l bs then setLane n (fun l => { l with prbsLock := true }) s else s)
  else if run = 0 || l.runMbits + mbits < run then prbsCount n errs mbits s
  else setLane n (fun l => { l with prbsDone := true }) (prbsCount n errs (run - l.runMbits) s)

/-- Lock is lost, after so many mismatches and units checked since they were last reported. -/
def prbsLockLoss (n errs mbits : Nat) (s : State) : State :=
  let l := getLane s n
  if laneRuns s n && checking l && l.prbsLock then
    laneCount n 14 1 (setLane n (fun l => { l with prbsLock := false }) (prbsCount n errs mbits s))
  else s

/-- RUN units are done, with so many mismatches since they were last reported. -/
def prbsDone (n errs : Nat) (s : State) : State :=
  let l := getLane s n
  let run := bits l.applied.prbs 31 16
  if laneRuns s n && checking l && l.prbsLock && run != 0 then
    setLane n (fun l => { l with prbsDone := true }) (prbsCount n errs (run - l.runMbits) s)
  else s

def execLnApply (mask : Nat) (s : State) : Out := .next (lnApply mask s)
def execErrInject (n : Nat) (s : State) : Out := .next (errInject n s)
def execLosAssert (n : Nat) (s : State) : Out := .next (losAssert n s)
def execLosDeassert (n : Nat) (s : State) : Out := .next (losDeassert n s)
def execCdrLock (n : Nat) (s : State) : Out := .next (cdrLock n s)
def execCdrLockLoss (n : Nat) (s : State) : Out := .next (cdrLockLoss n s)
def execPllLock (n : Nat) (s : State) : Out := .next (pllLock n s)
def execPllStartFail (n : Nat) (s : State) : Out := .next (pllStartFail n s)
def execPllRetry (n : Nat) (s : State) : Out := .next (pllRetry n s)
def execPllLockLoss (n : Nat) (s : State) : Out := .next (pllLockLoss n s)
def execRxReady (n ctle : Nat) (dfe : List Int) (s : State) : Out := .next (rxReadyRise n ctle dfe s)
def execBlockLock (n : Nat) (s : State) : Out := .next (blockLock n s)
def execBlockSlip (n : Nat) (s : State) : Out := .next (blockSlip n s)
def execCodeGroupSync (n : Nat) (g : Bool) (s : State) : Out := .next (codeGroupSync n g s)
def execCtcInsert (n fill : Nat) (s : State) : Out := .next (ctcInsert n fill s)
def execCtcDelete (n fill : Nat) (s : State) : Out := .next (ctcDelete n fill s)
def execCtcSlip (n : Nat) (s : State) : Out := .next (ctcSlip n s)
def execTrainingRequest (n : Nat) (r : TrainReq) (s : State) : Out := .next (trainingRequest n r s)
def execTrained (n : Nat) (s : State) : Out := .next (trained n s)
def execTrainingTimeout (n : Nat) (s : State) : Out := .next (trainingTimeout n s)
def execTxLpiTimer (n : Nat) (s : State) : Out := .next (txLpiTimer n s)
def execRxLpiBlocks (n : Nat) (lpi : Bool) (s : State) : Out := .next (rxLpiBlocks n lpi s)
def execRxLpiFault (n cause : Nat) (s : State) : Out := .next (rxLpiFault n cause s)
def execPrbsLock (n : Nat) (bs : List Bool) (errs mbits : Nat) (s : State) : Out := .next (prbsLock n bs errs mbits s)
def execPrbsLockLoss (n errs mbits : Nat) (s : State) : Out := .next (prbsLockLoss n errs mbits s)
def execPrbsDone (n errs : Nat) (s : State) : Out := .next (prbsDone n errs s)

end Sys2Proof.Machine
end

