-- ==== Sys2Proof/Machine/Ports.lean ====
section
/-! DEFINITION. The wire ports: reception, transmit selection, flow control, gates, preemption and timestamps
(R165-R189). -/

namespace Sys2Proof.Machine

open Sys2Proof

/-! ## Timestamps (R187) -/

/-- D_RX and D_TX in tenths of a nanosecond. -/
def delays (rate fec : Nat) : Nat × Nat :=
  match rate, fec with
  | 0, _ => (1120, 640)
  | 1, _ => (448, 256)
  | 2, _ => (496, 310)
  | 3, 0 => (248, 155)
  | 3, _ => (2064, 279)
  | _, 0 => (99, 62)
  | _, 1 => (826, 112)
  | _, _ => (2286, 394)

def tenths (d : Nat) : Int := (d * nsUnit / 10 : Nat)

/-- A correction of 2^-16 ns in the units of a time base. -/
def corrUnits (c : Int) : Int := c * 2 ^ 24

def delaysOf (s : State) (n : Nat) : Nat × Nat := delays (laneRate (getLane s n)) (getPort s n).resFec

/-- The receive timestamp in a base, captured at this command: for a preempted frame, its first fragment. -/
def rxTime (s : State) (n tb : Nat) : Nat :=
  wrapTime ((getTb s tb).v - tenths (delaysOf s n).1 + corrUnits (getPort s n).rxCorr)

/-- The transmit timestamp in a base of a frame that starts at this command. -/
def txTime (s : State) (n tb : Nat) : Nat :=
  wrapTime ((getTb s tb).v + tenths (delaysOf s n).2 + corrUnits (getPort s n).txCorr)

/-! ## Bandwidth windows (R518) -/

def bwAdd (n : Nat) (rx : Bool) (octets : Nat) (s : State) : State :=
  s.updMt fun m => { m with bw := m.bw.upd n {} fun b =>
                       if !b.run then b
                       else if rx then { b with rxO := b.rxO + octets, rxF := b.rxF + 1 }
                       else { b with txO := b.txO + octets, txF := b.txF + 1 } }

/-! ## Reception (R172-R177) -/

/-- What applies to a frame whose first byte is received now. -/
def rxSetNow (s : State) (n : Nat) : RxSet :=
  let p := getPort s n
  { maxF := ptMax p.applied, time := rxTime s n p.tsBase, time7 := rxTime s n 7, tb := p.tsBase, defaultTc := p.defaultTc, pcpMap := p.pcpMap }

/-- The ingress traffic class (R175). -/
def wireTc (x : RxSet) (d : Bytes) : Nat :=
  if isTagged d then bits x.pcpMap (3 * (u8 d 14 / 32) + 2) (3 * (u8 d 14 / 32)) else x.defaultTc

/-- A frame is in transmission: its first preamble byte has been sent (R167). -/
def sending (p : Port) : Bool := p.tx.any (!·.reading)

/-- A stop of class `k` for some quanta; 0 ends it (R177).  During a frame in transmission it starts at the frame's end (R194). -/
def pauseClass (n k q : Nat) (s : State) : State :=
  let ns := q * 512000 / rateMbps (laneRate (getLane s n))
  setPort n (fun p => { p with
    paused := if q = 0 || !sending p then withBit p.paused k (q != 0) else p.paused
    stopping := withBit p.stopping k (q != 0 && sending p && !p.paused.testBit k)
    tx := if q = 0 then p.tx else p.tx.map fun t => { t with awaited := t.awaited || !t.reading }
    pauseEnd := if q = 0 then p.pauseEnd.erase k else p.pauseEnd.set k (nowNs s + ns) }) s

/-- A received MAC control frame is consumed (R172, R177). -/
def rxControl (n : Nat) (d : Bytes) (s : State) : State :=
  let p := getPort s n
  match be d 14 2 with
  | 0x0001 =>
    let s1 := bump cWire n 11 s
    if rxFc p && fcMode p = 1 then (List.range 8).foldl (fun s k => pauseClass n k (be d 16 2) s) s1 else s1
  | 0x0101 =>
    let s1 := bump cWire n 12 s
    if rxFc p && fcMode p = 2 then
      (bitList 8 (pfcEn p &&& be d 16 2)).foldl (fun s k => pauseClass n k (be d (18 + 2 * k) 2) s) s1
    else s1
  | _ => bump cWire n 13 s

/-- The enabled checker consumes a frame (R521). -/
def chkTakes (g : GenChk) (d : Bytes) : Bool := g.chk && d.length + 4 ≥ g.off + 20 && be d g.off 4 = 0xA53C5AC3

/-- What the checker makes of a consumed frame, received at a TB7 time. -/
def chkFrame (n time7 : Nat) (d : Bytes) (s : State) : State :=
  setGc n (fun g =>
    let seq := be d (g.off + 4) 4
    let lat : Int := (time7 / nsUnit : Nat) - (be d (g.off + 8) 8 : Nat)
    let diff := sext 32 (seq + 2 ^ 32 - g.expect.getD seq)
    let bad := (upto (g.off + 16) (d.length - (g.off + 16))).any fun x =>
      u8 d x != (if g.pattern = 0 then g.fill else (x + seq) % 256)
    let h := { g with
      frames := (g.frames + 1) % 2 ^ 64
      lost := if diff > 0 then (g.lost + diff.toNat) % 2 ^ 64 else g.lost
      ooo := if diff < 0 then sat32 g.ooo else g.ooo
      bad := if bad then sat32 g.bad else g.bad
      expect := if diff < 0 then g.expect else some ((seq + 1) % 2 ^ 32) }
    if lat < 0 then h
    else
      let l := min lat.toNat 0xFFFFFFFF
      { h with latMin := min h.latMin l, latMax := max h.latMax l, latSum := (h.latSum + lat.toNat) % 2 ^ 64 }) s

/-- The room a frame takes in the receive FIFO is held until it enters (R173). -/
def fifoFull (s : State) (n len : Nat) : Bool :=
  (((s.pipe.wait ++ s.pipe.granted).filter fun a => a.port = n).map (·.wlen)).sum + len > 20480

/-- A frame of a wire port gets its buffer, or is dropped for want of one, and goes to the entry arbiter (R23, R175). -/
def rxOffer (n : Nat) (d : Bytes) (x : RxSet) (wlen : Nat) (wake : Bool) (s : State) : State :=
  match poolFor d.length with
  | none => s
  | some k =>
    let r := allocBuf k s
    match r.1 with
    | none => countFailed s k n (bump cWire n 9) r.2
    | some h =>
      let a : Arr := { port := n, h := some h, data := d, tb := x.tb, time := x.time, chsta := 0xFFF
                       tc := wireTc x d, wlen := wlen, wake := wake }
      r.2.updPipe fun q => { q with wait := q.wait ++ [a] }

/-- A whole frame that passes the checks and is to enter (R173, R507). -/
def rxAdmit (n : Nat) (d : Bytes) (x : RxSet) (s : State) : State :=
  if s.sys.phase != 2 || fifoFull s n (d.length + 4) then bump cWire n 10 s
  else rxOffer n d x (d.length + 4) false s

/-- A whole frame at the receiver of a port, under the set that applied at its first byte (R163). -/
def rxWhole (n : Nat) (rx : RxFrame) (x : RxSet) (s : State) : State :=
  match rxVerdict x.maxF rx with
  | some k => bump cWire n k s
  | none =>
    let s1 := bwAdd n true (rx.data.length + 4) s
    if isControl rx.data then rxControl n rx.data s1
    else if chkTakes (getGc s n) rx.data then chkFrame n x.time7 rx.data s1
    else rxAdmit n rx.data x s1

/-- Preemption verification succeeds on the respond mPacket (R185). -/
def rxRespond (n : Nat) (s : State) : State :=
  if (getPort s n).verify = 1 then raise0 0x0283 n (toLe 1 0) (setPort n (fun p => { p with verify := 2 }) s) else s

/-- A packet at the receiver of a port whose link is up. -/
def rxPacket (n : Nat) (rx : RxFrame) (s : State) : State :=
  let a := (getPort s n).asm
  let now := rxSetNow s n
  let r := reassemble a rx
  let s1 := setPort n (fun p => { p with
    asm := if rx.kind = .start then r.1.map fun x => { x with set := some now, at7 := (getTb s 7).v } else r.1 }) s
  let s2 := r.2.1.foldl (fun s k => bump cWire n k s) s1
  match r.2.2 with
  | some w => rxWhole n w (if rx.kind = .last then (a.bind (·.set)).getD now else now) s2
  | none => if rx.kind = .respond then rxRespond n s2 else s2

/-- What the FEC in use found in the blocks or codewords of a packet: counters 32 to 34 (R190). -/
def fecCount (n : Nat) (rx : RxFrame) (s : State) : State :=
  match (getPort s n).resFec with
  | 0 => s
  | 1 => bumpN cWire n 33 rx.fecUncorrected (bumpN cWire n 32 rx.fecCorrected s)
  | _ => bumpN cWire n 34 rx.fecSymbols (bumpN cWire n 33 rx.fecUncorrected (bumpN cWire n 32 rx.fecCorrected s))

/-- A frame that has been received whole on a port that no watch path serves is discarded, once admission has stopped (R452). -/
def discardRx (n : Nat) (rx : RxFrame) (s : State) : State :=
  let r := reassemble (getPort s n).asm rx
  let s1 := setPort n (fun p => { p with asm := r.1 }) s
  if r.2.2.isSome then bump cPwrPort n 1 s1 else s1

/-- A packet at the receiver of a port (R148: from its own transmitter at LOOPBACK 1 and 2). -/
def lineRx (n : Nat) (rx : RxFrame) (s : State) : State :=
  if !laneRuns s n || !(getPort s n).link || checking (getLane s n) then s
  else if s.pwr.mode != .active then (if watched s n then watchRx n rx s else discardRx n rx s)
  else if s.sys.quiescing || s.sys.quiesced then discardRx n rx s
  else if coreOff s then s
  else rxPacket n rx (fecCount n rx s)

/-- WIRE_RX_FRAME: at LOOPBACK 1 and 2 the pins are ignored, and only the port's own respond mPacket can arrive.  At LOOPBACK 3 what
arrives is sent again (R148). -/
def wireRx (n : Nat) (rx : RxFrame) (s : State) : State :=
  if pinsUsed (getLane s n) || rx.kind = .respond then lineRx n rx (echoRx n rx s) else s

/-- What a port has transmitted returns as received at LOOPBACK 1 and 2 (R148). -/
def sendBack (n : Nat) (rx : RxFrame) (s : State) : State := if pinsUsed (getLane s n) then s else lineRx n rx s

/-! ## Gate control lists (R180-R184) -/

/-- The OWNED trigger of a port fires: it starts a cycle of the list in force (R417, R427, R429). -/
def ownedFires (n : Nat) (next period : Nat) (s : State) : State :=
  trgCaptures (28 + n) (raiseTime0 (28 + n) (bump cTrg (28 + n) 0 (setTrg (28 + n) (fun x => { x with
    late := false, set := { x.set with time := next * nsUnit, period := period } }) s)))

/-- A port takes its trigger when a list becomes pending; a list in operation keeps its base, time and period (R429). -/
def ownTrigger (n : Nat) (g : Gcl) (s : State) : State :=
  if (getPort s n).gcl.isSome then s
  else
    setTrg (28 + n) (fun x => { x with
      mode := .owned, out := false, set := { base := g.tb, time := g.start * nsUnit, period := g.cycle } }) s

/-- The entries of a list as start and stop in its cycle, with their gates; the last stays in force to the end. -/
def gclSegsFrom (cycle : Nat) : Nat → List (Nat × Nat) → List (Nat × Nat × Nat)
  | _, [] => []
  | at_, (g, iv) :: t =>
    if at_ ≥ cycle then []
    else
      let stop := if t.isEmpty then cycle else min (at_ + iv) cycle
      (at_, stop, g) :: gclSegsFrom cycle (at_ + iv) t

def Gcl.segs (g : Gcl) : List (Nat × Nat × Nat) := gclSegsFrom g.cycle 0 g.entries

/-- The first start of a cycle that is not earlier than a time. -/
def Gcl.firstStart (g : Gcl) (v : Nat) : Nat :=
  if v ≤ g.base * nsUnit then g.base else g.base + ((v - g.base * nsUnit) + g.cycle * nsUnit - 1) / (g.cycle * nsUnit) * g.cycle

/-- Place a port's operating list at the position of its base. -/
def gclReposition (n : Nat) (s : State) : State :=
  match (getPort s n).gcl with
  | none => s
  | some g =>
    let now : Int := (getTb s g.tb).v / nsUnit
    let off := ((now - g.base) % g.cycle).toNat
    let i := (g.segs.findIdx? fun x => x.1 ≤ off && off < x.2.1).getD 0
    let start := (now - off).toNat
    setPort n (fun p => { p with
      cycleStart := start, entry := i, gates := ((g.segs[i]?).map fun x => x.2.2).getD 0xFF }) s

/-- The gates in effect: all are open while QBV_EN is clear. -/
def gatesOf (p : Port) : Nat := if ptQbv p.applied && p.gcl.isSome then p.gates else 0xFF

/-- A port as a frame in transmission meets it: under the set that was applied when it started (R163). -/
def underOf (t : TxFrame) (p : Port) : Port := { p with applied := t.cfg }

/-- A frame in transmission whose gate a step or a list change has closed (R184). -/
def countOverrun (n : Nat) (before : Port) (s : State) : State :=
  match before.tx with
  | some t =>
    if !t.reading && !t.control && !t.gen && (gatesOf (underOf t before)).testBit t.tc &&
        !(gatesOf (underOf t (getPort s n))).testBit t.tc then bump cWire n 25 s
    else s
  | none => s

/-- The owned trigger of a port stands at the next cycle start of the list in operation, or at the start of the pending one
(R429). -/
def timeTrigger (n : Nat) (s : State) : State :=
  let p := getPort s n
  let at_ : Option Nat := match p.gcl with
    | some g => some (p.cycleStart + g.cycle)
    | none => p.gclNext.map (·.start)
  match at_ with
  | some x => setTrg (28 + n) (fun y => { y with set := { y.set with time := x * nsUnit } }) s
  | none => s

/-- A step of a base: pending starts are recomputed, operating lists are placed anew, and their triggers with them (R184, R194,
R429). -/
def gclStepPort (tb n : Nat) (s : State) : State :=
  let p := getPort s n
  let s1 := setPort n (fun p => { p with
    gclNext := p.gclNext.map fun g => if g.tb = tb then { g with start := g.firstStart (getTb s tb).v } else g }) s
  timeTrigger n (match p.gcl with
    | some g => if g.tb = tb then countOverrun n p (gclReposition n s1) else s1
    | none => s1)

def gclStep (tb : Nat) (s : State) : State := (List.range (nPorts s)).foldl (fun s n => gclStepPort tb n s) s

/-- GCL_START: a pending list comes into force. -/
def gclStart (n : Nat) (s : State) : State :=
  let p := getPort s n
  match p.gclNext with
  | none => s
  | some g =>
    let s1 := setPort n (fun p => { p with
      gcl := some g, gclNext := none, cycleStart := g.start, entry := 0
      gates := ((g.segs[0]?).map fun x => x.2.2).getD 0xFF }) s
    let s2 := setTrg (28 + n) (fun x => { x with set := { x.set with base := g.tb } }) s1
    raise0 0x0285 n (toLe 1 1) (countOverrun n p (ownedFires n (g.start + g.cycle) g.cycle s2))

/-- The pending list's start in the operating list's base: for another base, as the two bases stand to each other now. -/
def startIn (s : State) (g x : Gcl) : Nat :=
  if g.tb = x.tb then x.start else (((x.start : Int) - (getTb s x.tb).v / nsUnit) + (getTb s g.tb).v / nsUnit).toNat

/-- The operating cycle that ends at the last boundary before the pending list's start is extended to it: that boundary
and the start, in the operating list's base (R181). -/
def gclExtended (s : State) (p : Port) : Option (Nat × Nat) :=
  match p.gcl, p.gclNext with
  | some g, some x =>
    let st := startIn s g x
    let b := g.base + (st - 1 - g.base) / g.cycle * g.cycle
    if st > g.base && st - b < x.ext then some (b, st) else none
  | _, _ => none

/-- The end of the open window of a class, from an entry of the cycle at `c`: none when it has no end. -/
def windowEnd (segs : List (Nat × Nat × Nat)) (cycle tc : Nat) (stretch : Option (Nat × Nat)) : Nat → Nat → Nat → Nat → Option Nat
  | 0, _, _, _ => none
  | f + 1, i, c, e =>
    match segs[i]? with
    | some x => if x.2.2.testBit tc then windowEnd segs cycle tc stretch f (i + 1) c (c + x.2.1) else some e
    | none =>
      match stretch with
      | some b => if c + cycle ≥ b.1 then some b.2 else windowEnd segs cycle tc stretch f 0 (c + cycle) e
      | none => windowEnd segs cycle tc stretch f 0 (c + cycle) e

/-- `n` bytes and 20 more fit before `e` (in ns) from time `v`, at a rate in Mb/s (R182). -/
def fits (v n rate : Nat) (e : Option Nat) : Bool :=
  match e with
  | none => true
  | some e => v * rate + (n + 20) * 8000 * nsUnit ≤ e * nsUnit * rate

/-! ## Preemption (R185, R186) -/

def preemptActive (p : Port) : Bool :=
  p.applied.preempt.testBit 0 && (if p.applied.preempt.testBit 1 then p.verify = 2 else p.link)

/-- The class is preemptible now. -/
def preemptible (p : Port) (tc : Nat) : Bool := preemptActive p && (bits p.applied.preempt 15 8).testBit tc

/-- The length of a first fragment with its mCRC. -/
def minFrag (p : Port) : Nat := 64 * (bits p.applied.preempt 3 2 + 1)

/-- The first legal point at which a fragment of a frame of `len` bytes with FCS may end, `sent` bytes having gone
before; none when there is no such point. -/
def firstPoint (p : Port) (len sent : Nat) : Option Nat :=
  let x := max (minFrag p - 4) (sent + 1)
  if x + 64 ≤ len then some x else none

def txLen (t : TxFrame) : Nat := t.bytes.length + 4

/-- The bytes that a port has sent since its frame's start or resumption, preamble and SFD among them, by TB7. -/
def lineBytes (s : State) (n : Nat) (t : TxFrame) : Nat :=
  ((getTb s 7).v - t.start) * rateMbps (laneRate (getLane s n)) / (8000 * nsUnit)

/-- Where a frame is cut whose gate closes now (R186): the last legal point whose fragment, with its mCRC and the gap, has gone by,
or the first. -/
def cutPoint (s : State) (n : Nat) (p : Port) (t : TxFrame) : Option Nat :=
  (firstPoint p (txLen t) t.sent).map fun x => max x (min (t.sent + (lineBytes s n t - 24)) (txLen t - 64))

/-- Where a frame is cut for an express frame (R186): the first legal point that is still ahead; none once the last one has gone
by. -/
def nextPoint (s : State) (n : Nat) (p : Port) (t : TxFrame) : Option Nat :=
  (firstPoint p (txLen t) t.sent).bind fun x =>
    let y := max x (t.sent + (lineBytes s n t - 8))
    if y + 64 ≤ txLen t then some y else none

/-- No frame is in transmission any more: the stops that awaited its end start, unless they await the end of a preempted frame
(R194). -/
def endTx (p : Port) : Port :=
  if p.rem.any (·.awaited) then { p with tx := none } else { p with tx := none, paused := p.paused ||| p.stopping, stopping := 0 }

/-- The frame in transmission is preempted at a point. -/
def preempt (n x : Nat) (t : TxFrame) (s : State) : State :=
  sendBack n { data := (t.bytes.take x).drop t.sent, kind := if t.sent = 0 then .start else .cont } <|
    perf 7 5 (bump cWire n 26 (bump cWire n 27 (setPort n (fun p => endTx { p with rem := some { t with sent := x } }) s)))

/-- An entry's gates take effect, `wrap` saying that they begin a cycle, with the owned trigger's firing; a preemptible frame whose
gate closes is preempted. -/
def gateMove (n i : Nat) (wrap : Bool) (g : Gcl) (s : State) : State :=
  let p := getPort s n
  let s0 := if wrap then ownedFires n (p.cycleStart + 2 * g.cycle) g.cycle s else s
  let s1 := setPort n (fun p => { p with
    entry := i
    cycleStart := if wrap then p.cycleStart + g.cycle else p.cycleStart
    gates := ((g.segs[i]?).map fun x => x.2.2).getD 0xFF }) s0
  match p.tx with
  | some t =>
    let u := underOf t p
    if !t.express && p.rem.isNone && preemptActive u && !(gatesOf (underOf t (getPort s1 n))).testBit t.tc then
      match cutPoint s n u t with
      | some x => preempt n x t s1
      | none => s1
    else s1
  | none => s1

/-- The cycle that would begin next is the last one's extension (R181). -/
def stretched (s : State) (p : Port) (g : Gcl) : Bool :=
  match gclExtended s p with
  | some b => p.cycleStart + g.cycle ≥ b.1
  | none => false

/-- GATE_ENTRY_CHANGE: the next entry's gates take effect. -/
def gateChange (n : Nat) (s : State) : State :=
  let p := getPort s n
  match p.gcl with
  | none => s
  | some g =>
    if p.entry + 1 < g.segs.length then gateMove n (p.entry + 1) false g s
    else if stretched s p g then s
    else gateMove n 0 true g s

/-- The owned trigger falls due: the pending list comes into force if its start has come, and else the next cycle begins (R429). -/
def gateCycle (n : Nat) (s : State) : State :=
  let p := getPort s n
  match p.gcl with
  | none => gclStart n s
  | some g =>
    if p.gclNext.any fun x => x.start * nsUnit ≤ (getTb s x.tb).v then gclStart n s
    else if stretched s p g then s
    else gateMove n 0 true g s

/-! ## Whether a class may start (R176, R182, R186, R393) -/

/-- The end of the window that class `tc` is in, and the time to judge from. -/
def gateWindow (s : State) (p : Port) (tc : Nat) : Nat × Option Nat :=
  match p.gcl with
  | none =>
    (match p.gclNext with | some x => (getTb s x.tb).v | none => 0, none)
  | some g =>
    let segs := g.segs
    let st := (p.cycleStart + ((segs[p.entry]?).map (·.1)).getD 0) * nsUnit
    let e := windowEnd segs g.cycle tc (gclExtended s p) (2 * segs.length + 2) p.entry p.cycleStart p.cycleStart
    let cut := match p.gclNext with
      | some x => let st := startIn s g x; some (min (e.getD st) st)
      | none => e
    (max (getTb s g.tb).v st, cut)

/-- The bytes that must fit for a frame of a class to start: its whole length, or a legal first fragment. -/
def needBytes (p : Port) (tc len sent : Nat) : Nat :=
  if preemptible p tc then
    match firstPoint p len sent with
    | some x => min (len - sent) (x - sent + 4)
    | none => len - sent
  else len - sent

/-- The gate of a class is open, and `len` bytes less `sent` may start under the guard band, for a port as a frame meets it. -/
def gateAdmits (s : State) (n : Nat) (p : Port) (tc len sent : Nat) : Bool :=
  if !ptQbv p.applied || p.gcl.isNone then true
  else
    let w := gateWindow s p tc
    p.gates.testBit tc && fits w.1 (needBytes p tc len sent) (rateMbps (laneRate (getLane s n))) w.2

def shapersOpen (s : State) (n tc : Nat) : Bool :=
  let w := getWire s n
  (w.shaper.getD tc {}).open && w.port.open

/-- The longest open window of a class in a whole cycle; none when it has no end. -/
def longestWindow (g : Gcl) (tc : Nat) : Option Nat :=
  let segs := g.segs
  let runs := (List.range segs.length).map fun i =>
    match segs[i]? with
    | some x =>
      if x.2.2.testBit tc then (windowEnd segs g.cycle tc none (2 * segs.length + 2) i 0 x.1).map (· - x.1) else some 0
    | none => some 0
  if runs.any Option.isNone then none else some ((runs.filterMap id).foldl max 0)

/-! ## The egress bytes (R174, R189) -/

/-- Put an edited field in place, and update the UDP checksum at `udp`: 0 over IPv4, by the change over IPv6. -/
def editField (d : Bytes) (off udp : Nat) (w : Bytes) : Bytes :=
  let l3 := if isTagged d then (if isTagged (d.take 12 ++ d.drop 16) then 22 else 18) else 14
  let a := off - (off + udp) % 2
  let n := roundUp (off + w.length - a) 2
  let e := overlay d off w
  if udp = 0 then e
  else if u8 d l3 / 16 = 6 then
    let sum := (65535 - be d udp 2) + (65535 * (n + 2) - onesSum (slice d a n)) + onesSum (slice e a n)
    putBe e udp 2 (65535 - fold16 (fold16 sum))
  else putBe e udp 2 0

/-- The one-step edit of a frame that starts at a time in the port's base; whether it was skipped. -/
def oneStep (p : Port) (r d : Bytes) (t : Nat) : Bytes × Bool :=
  let ptp := recPtp r
  let off := bits ptp 11 3
  let udp := bits ptp 20 12
  let ns := t / nsUnit
  match ptp % 4 with
  | 1 => if off + 10 ≤ d.length then (editField d off udp (toBe 6 (ns / 1000000000) ++ toBe 4 (ns % 1000000000)), false) else (d, false)
  | 2 =>
    if recTb r != p.tsBase then (d, true)
    else if off + 8 ≤ d.length then
      let ing : Int := (le r 18 6 * 1000000000 + u32 r 24) * nsUnit + u16 r 16 * 2 ^ 24
      let v := ((be d off 8 : Nat) + ((t : Int) - ing) / 2 ^ 24) % 2 ^ 64
      (editField d off udp (toBe 8 v.toNat), false)
    else (d, false)
  | _ => (d, false)

/-- Pad to 60 bytes (R174). -/
def padFrame (d : Bytes) : Bytes := d ++ zeros (60 - d.length)

/-! ## Transmit selection (R176, R520) -/

/-- A PAUSE or PFC frame of a port (R178). -/
def controlFrame (p : Port) (k q : Nat) : Bytes :=
  padFrame ([0x01#8, 0x80#8, 0xC2#8, 0#8, 0#8, 1#8] ++ slice p.mac 0 6 ++ toBe 2 0x8808 ++
    (if k = 8 then toBe 2 1 ++ toBe 2 q
     else toBe 2 0x0101 ++ toBe 2 (2 ^ k) ++ (List.range 8).flatMap fun i => toBe 2 (if i = k then q else 0)))

def startControl (n k q : Nat) (rest : List (Nat × Nat)) (s : State) : State :=
  let t : TxFrame := { handle := 0, oseq := 0, tc := 0, rewrite := 0, bytes := controlFrame (getPort s n) k q, control := true
                       start := (getTb s 7).v }
  perf 7 1 (bump cWire n (if k = 8 then 19 else 20) (setPort n (fun p => { p with owed := rest, tx := some t }) s))

/-- Generated frame `i` (R519). -/
def genFrame (s : State) (n : Nat) : Bytes :=
  let g := getGc s n
  let h := u8 g.set 4
  let lo := u16 g.set 8
  let f := lo + g.i * u16 g.set 12 % (u16 g.set 10 - lo + 1)
  let seq := (u32 g.set 20 + g.i) % 2 ^ 32
  slice g.set 32 h ++ toBe 4 0xA53C5AC3 ++ toBe 4 seq ++ toBe 8 (txTime s n 7 / nsUnit) ++
    (upto (h + 16) (f - 4 - (h + 16))).map fun x => BitVec.ofNat 8 (if u8 g.set 2 = 0 then u8 g.set 3 else x + seq)

def startGen (n : Nat) (s : State) : State :=
  let t : TxFrame := { handle := 0, oseq := 0, tc := 0, rewrite := 0, bytes := genFrame s n, gen := true, start := (getTb s 7).v }
  perf 7 1 (setPort n (fun p => { p with tx := some t }) s)

/-- Drop a class's nominated head: its owner is released, counted at place `k` of group `g` of identifier `i`. -/
def dropHead (n tc g i k : Nat) (e : QE) (s : State) : State :=
  releaseOwner e.h (n * 65536 + tc) (bump g i k (clearNom n tc s))

/-- Nominate a class's head, and drop heads that may not be sent: of a RETIRING generation (R250), or longer than
MAX_FRAME (R174). -/
def prepareHead (n tc : Nat) : Nat → State → State
  | 0, s => s
  | f + 1, s =>
    let s1 := nominate n tc s
    match (getWire s1 n).nom.get? tc with
    | none => s1
    | some x =>
      if isRetiring s1 (genOf s1 x.qe.h) then prepareHead n tc f (dropHead n tc 0x50 (ingressOf s1 x.qe.h) 11 x.qe s1)
      else if wireLen s1 x.qe > ptMax (getPort s1 n).applied then prepareHead n tc f (dropHead n tc cWire n 22 x.qe s1)
      else s1

/-- A class qualifies at step 2 of R176. -/
def classReady (s : State) (n tc : Nat) : Bool :=
  let p := getPort s n
  match (getWire s n).nom.get? tc with
  | none => false
  | some x => !(p.paused ||| p.stopping).testBit tc && shapersOpen s n tc && !(preemptible p tc && p.rem.isSome) && gateAdmits s n p tc (wireLen s x.qe) 0

/-- A head that fails its check is dropped (R206). -/
def headFailed (n tc : Nat) (e : QE) (kind : Nat) (s : State) : State :=
  releaseOwner e.h (n * 65536 + tc) (checkFail e.h e.oseq kind n (unpinBuf e.h s))

/-- The port may transmit: its link is up, its lane is ACTIVE and its egress is not held. -/
def mayTransmit (s : State) (n : Nat) : Bool :=
  laneRuns s n && (getPort s n).link && (getLane s n).txLpi = .active && !txHeld (getLane s n) && !coreOff s

/-- A pinned and verified head goes on the line. -/
def beginHead (n tc : Nat) (e : QE) (s : State) : State :=
  match getBuf s e.h with
  | none => s
  | some b =>
      let p := getPort s n
      let t := txTime s n p.tsBase
      let o := oneStep p b.record (padFrame (egressBytes s b e.rewrite)) t
      let x : TxFrame := { handle := e.h, oseq := e.oseq, tc := tc, rewrite := e.rewrite, bytes := o.1
                           express := !preemptible p tc, stamp := t, tb := p.tsBase, start := (getTb s 7).v, cfg := p.applied }
      let c := Shaper.charge (o.1.length + 24)
      let s2 := setWire n (fun w => { w with shaper := w.shaper.upd tc {} c, port := c w.port }) s
      perf 7 1 (setPort n (fun p => { p with tx := some x }) (if o.2 then bump cWire n 38 s2 else s2))

/-- Start the nominated head of a class.  One that lies in host memory is read out of it first, and goes on the line once the
read has verified (DESIGN CHOICE, log 11). -/
def startHead (n tc : Nat) (x : Nom) (s : State) : State :=
  let e := x.qe
  let s1 := pinBuf e.h (clearNom n tc s)
  if readsDram s1 e.h then
    let r := startDirect (.wire n) e.h s1
    if r.1 then
      setPort n (fun p => { p with tx := some { handle := e.h, oseq := e.oseq, tc := tc, rewrite := e.rewrite, bytes := []
                                                reading := true, head := some x } }) r.2
    else headFailed n tc e 5 r.2
  else if verifies s1 e.h e.oseq then beginHead n tc e s1
  else headFailed n tc e 0 s1

/-- A head that has been read may start now (R176, R177, R182). -/
def headMayStart (s : State) (n tc : Nat) (e : QE) : Bool :=
  let p := getPort s n
  mayTransmit s n && !(p.paused ||| p.stopping).testBit tc && gateAdmits s n p tc (wireLen s e) 0

/-- The read of a port's frame out of host memory has ended; a head that may not start now is read again when its class is next
served. -/
def wireRead (n h : Nat) (x : Xfer) (s : State) : State :=
  match (getPort s n).tx with
  | none => s
  | some t =>
    let e : QE := { h := h, oseq := t.oseq, rewrite := t.rewrite }
    if !t.reading || t.handle != h then s
    else if !directOk s h t.oseq x then headFailed n t.tc e (directKind x) (setPort n (fun p => { p with tx := none }) s)
    else if headMayStart s n t.tc e then beginHead n t.tc e s
    else headBack n t (setPort n (fun p => { p with tx := none }) s)

/-- Resume the preempted remainder, which finishes under the set of its frame's start (R163). -/
def resumeRem (n : Nat) (t : TxFrame) (s : State) : State :=
  setPort n (fun p => { p with tx := some { t with start := (getTb s 7).v, words := 0 }, rem := none }) s

/-- The remainder may resume at its class: a stop that came while it was in transmission awaits its end (R177, R186, R194). -/
def remReady (s : State) (n tc : Nat) : Option TxFrame :=
  let p := getPort s n
  match p.rem with
  | some t =>
    if t.tc = tc && !p.paused.testBit tc && (t.awaited || !p.stopping.testBit tc) &&
        gateAdmits s n (underOf t p) tc (txLen t) t.sent then some t
    else none
  | none => none

/-- Step 2 of R176: the classes, highest first; `only` bounds the choice to express classes. -/
def selectClass (n : Nat) : List Nat → State → State
  | [], s => s
  | tc :: rest, s =>
    match remReady s n tc with
    | some t => resumeRem n t s
    | none =>
      let s1 := prepareHead n tc (classDepth s n tc) s
      if classReady s1 n tc then
        match (getWire s1 n).nom.get? tc with
        | some x => startHead n tc x s1
        | none => selectClass n rest s1
      else selectClass n rest s1

def classOrder : List Nat := [7, 6, 5, 4, 3, 2, 1, 0]

/-- Something express waits that a preemptible frame gives way to. -/
def expressWaits (s : State) (n : Nat) : Bool :=
  let p := getPort s n
  !p.owed.isEmpty || classOrder.any fun tc => !preemptible p tc && classReady s n tc

/-- Select at a frame boundary; while the schedulers stop, a remainder still finishes. -/
def selectNow (n : Nat) (s : State) : State :=
  if egressStops s then
    match (getPort s n).rem with
    | some t => if (remReady s n t.tc).isSome then resumeRem n t s else s
    | none => s
  else
  match (getPort s n).owed with
  | (k, q) :: rest => startControl n k q rest s
  | [] => if (getGc s n).gen then startGen n s else selectClass n classOrder s

/-- TX_SELECT: at a frame boundary, or at the first legal point of a preemptible frame that something express waits
for. -/
def txSelect (n : Nat) (s : State) : State :=
  if !mayTransmit s n then s
  else
    match (getPort s n).tx with
    | none => selectNow n s
    | some t =>
      let p := getPort s n
      if t.reading then s else
      let s1 := classOrder.foldl (fun s tc => if preemptible p tc then s else prepareHead n tc (classDepth s n tc) s) s
      if egressStops s || t.express || t.control || t.gen || p.rem.isSome || !preemptActive (underOf t p) || !expressWaits s1 n then s
      else
        match nextPoint s1 n (underOf t p) t with
        | some x => selectNow n (preempt n x t s1)
        | none => s1

/-! ## The end of a frame (R32, R188, R190) -/

/-- A transmit timestamp record (R188). -/
def keepStamp (n : Nat) (t : TxFrame) (r : Bytes) (s : State) : State :=
  let p := getPort s n
  if !(recPtp r).testBit 2 then s
  else if p.ts.length ≥ 64 then bump cWire n 39 s
  else
    raise0 0x0284 n (toLe 4 (recSeq r) ++ toLe 2 (recPort r))
      (setPort n (fun p => { p with ts := p.ts ++ [{ seq := recSeq r, port := recPort r, tb := t.tb, time := t.stamp }] }) s)

/-- The counters of a frame finished on the wire (R190, R518). -/
def countTx (n : Nat) (t : TxFrame) (s : State) : State :=
  let s1 := bump cWire n (16 + destKind t.bytes) (bumpN cWire n 15 (txLen t) (bump cWire n 14 s))
  let s2 := if t.sent = 0 then s1 else bump cWire n 26 s1
  let s3 := bwAdd n false (txLen t) s2
  if t.control || t.gen then s3
  else bumpN cWire n (56 + t.tc) (txLen t) (bump cWire n (48 + t.tc) s3)

/-- TX_FRAME_DONE. -/
def txFrameDone (n : Nat) (s : State) : State :=
  match (getPort s n).tx with
  | none => s
  | some t =>
    if t.reading then s
    else
    let s1 := countTx n t (setPort n endTx s)
    sendBack n { data := t.bytes.drop t.sent, kind := if t.sent = 0 then .express else .last } <|
    if t.gen then genSent n s1
    else if t.control then s1
    else
      let s2 := match getBuf s1 t.handle with
        | some b => keepStamp n t b.record s1
        | none => s1
      releaseOwner t.handle (n * 65536 + t.tc) (unpinBuf t.handle s2)

/-! ## Flow control, EEE, link and negotiation events -/

def pauseExpire (n tc : Nat) (s : State) : State :=
  setPort n (fun p =>
    if fcMode p = 2 then
      { p with paused := withBit p.paused tc false, stopping := withBit p.stopping tc false, pauseEnd := p.pauseEnd.erase tc }
    else { p with paused := 0, stopping := 0, pauseEnd := [] }) s

/-- PAUSE_REFRESH: the frame is sent again while the occupancy stays at XOFF or above. -/
def pauseRefresh (n tc : Nat) (s : State) : State :=
  let p := getPort s n
  let k := if fcMode p = 1 then 8 else tc
  let occ := if k = 8 then occSum p else occOf p k
  if p.xoff != 0 && txFc p && p.refresh != 0 && fcMode p != 0 && p.xoffSent.testBit k && occ ≥ p.xoff then oweFc n k p.quanta s else s

/-- LINK_UP: the conditions have held for 100 µs. -/
def linkUp (n : Nat) (s : State) : State :=
  let p := getPort s n
  if !laneRuns s n || p.link || (linkFault false s n).isSome then s
  else
    let v := if bits p.applied.preempt 1 0 = 3 then 1 else 0
    linkWake n (linkEvent n 1 0 (setPort n (fun p => { p with link := true, verify := v, verifyN := 1 }) s))

def linkHoldExpire (n : Nat) (s : State) : State :=
  let p := getPort s n
  if n < nPorts s && !p.link && !p.holdOver && !lowPower s then
    dropWireQueues n (setPort n (fun p => { p with holdOver := true }) s)
  else s

def hiBer (n : Nat) (on : Bool) (s : State) : State :=
  if !laneRuns s n || (getPort s n).hiBer = on then s
  else
    let s1 := setPort n (fun p => { p with hiBer := on }) s
    checkLink n (if on then bump cWire n 35 s1 else s1)

def fecLock (n : Nat) (on : Bool) (s : State) : State :=
  if laneRuns s n then checkLink n (setPort n (fun p => { p with fecLock := on }) s) else s

def rxFault (n : Nat) (loc rem : Bool) (s : State) : State :=
  if laneRuns s n then checkLink n (setPort n (fun p => { p with localF := loc, remoteF := rem }) s) else s

/-- A negotiation is under way. -/
def anRuns (s : State) (n : Nat) : Bool :=
  laneRuns s n && ptAn (getPort s n).applied != 0 && !(getPort s n).anDone && !(getPort s n).anWait

/-- AN_COMPLETE: the outcomes GOOD, NO_COMMON and TRAIN_FAILED; the others end a negotiation elsewhere. -/
def anComplete (n outcome : Nat) (a : AnPartner) (s : State) : State :=
  let p := getPort s n
  if !anRuns s n then s
  else
    match outcome with
    | 0 =>
      if ptTrain p.applied && !(getLane s n).trained then s
      else
        anEnd n 0 (setPort n (fun p => { p with
          anDone := true
          page := a.page
          resFec := resolveFec (advertOf (laneRate (getLane s n)) p.applied) a
          pauseOk := (advertOf (laneRate (getLane s n)) p.applied).pause && a.symPause }) s)
    | 1 => anEnd n 1 (setPort n (fun p => { p with anWait := true, page := a.page }) s)
    | 2 => anEnd n 2 (setPort n (fun p => { p with anWait := true }) s)
    | _ => s

/-- AN_RESTART_TIMER: the negotiation, or without one the training, restarts. -/
def anRestartTimer (n : Nat) (s : State) : State :=
  if laneRuns s n && (getPort s n).anWait then
    if ptAn (getPort s n).applied = 0 then tryTraining n (setPort n (fun p => { p with anWait := false }) s) else anRestart n s
  else s

/-- AN_LINK_FAIL: the link is not up in time after GOOD. -/
def anLinkFail (n : Nat) (s : State) : State :=
  let p := getPort s n
  if laneRuns s n && ptAn p.applied != 0 && p.anDone && !p.link then anRestart n (anEnd n 3 s) else s

/-- EEE_IDLE_EXPIRE: the port asks its lane for transmit LPI (R179); a watched port asks whatever it has queued (R457). -/
def eeeIdle (n : Nat) (s : State) : State :=
  let p := getPort s n
  let idle := p.tx.isNone && p.rem.isNone && p.owed.isEmpty && (wireOwners s n).isEmpty && !(getGc s n).gen
  if laneRuns s n && (watching s || (!coreOff s && idle)) && ptEee p.applied && !ptQbv p.applied && !p.lpiReq then
    txLpiEnter n (setPort n (fun p => { p with lpiReq := true }) s)
  else s

/-- GATE_OVERSIZE: a head that fits no window of a whole cycle is dropped (R183). -/
def gateOversize (n tc : Nat) (s : State) : State :=
  if coreOff s || (getPort s n).tx.any (·.reading) then s else
  let s1 := prepareHead n tc (classDepth s n tc) s
  let p := getPort s1 n
  match (getWire s1 n).nom.get? tc, p.gcl with
  | some x, some g =>
    let len := wireLen s1 x.qe
    if ptQbv p.applied && !fits 0 (needBytes p tc len 0) (rateMbps (laneRate (getLane s1 n))) (longestWindow g tc) then
      dropHead n tc cWire n 24 x.qe s1
    else s1
  | _, _ => s1

/-- VERIFY_TIMER: another verify mPacket, up to 3, or FAILED (R185). -/
def verifyTimer (n : Nat) (s : State) : State :=
  let p := getPort s n
  if p.verify != 1 || !p.link then s
  else if p.verifyN < 3 then setPort n (fun p => { p with verifyN := p.verifyN + 1 }) s
  else raise0 0x0283 n (toLe 1 1) (setPort n (fun p => { p with verify := 3 }) s)

def execWireRxFrame (n : Nat) (rx : RxFrame) (s : State) : Out := .next (wireRx n rx s)
def execPauseExpire (n tc : Nat) (s : State) : Out := .next (pauseExpire n tc s)
def execPauseRefresh (n tc : Nat) (s : State) : Out := .next (pauseRefresh n tc s)
def execTxSelect (n : Nat) (s : State) : Out := .next (txSelect n s)
def execTxFrameDone (n : Nat) (s : State) : Out := .next (clocked s (txFrameDone n s))
def execLinkUp (n : Nat) (s : State) : Out := .next (linkUp n s)
def execLinkDownHoldExpire (n : Nat) (s : State) : Out := .next (linkHoldExpire n s)
def execHiBer (n : Nat) (on : Bool) (s : State) : Out := .next (hiBer n on s)
def execFecLockChange (n : Nat) (on : Bool) (s : State) : Out := .next (fecLock n on s)
def execRxFaultSignal (n : Nat) (l r : Bool) (s : State) : Out := .next (rxFault n l r s)
def execAnComplete (n outcome : Nat) (a : AnPartner) (s : State) : Out := .next (anComplete n outcome a s)
def execAnRestartTimer (n : Nat) (s : State) : Out := .next (anRestartTimer n s)
def execAnLinkFail (n : Nat) (s : State) : Out := .next (anLinkFail n s)
def execEeeIdleExpire (n : Nat) (s : State) : Out := .next (eeeIdle n s)
def execGclStart (n : Nat) (s : State) : Out := .next (clocked s (gclStart n s))
def execGateEntryChange (n : Nat) (s : State) : Out := .next (clocked s (gateChange n s))
def execGateOversize (n tc : Nat) (s : State) : Out := .next (clocked s (gateOversize n tc s))
def execVerifyTimer (n : Nat) (s : State) : Out := .next (clocked s (verifyTimer n s))

end Sys2Proof.Machine
end

