-- ==== Sys2Proof/Machine/PortCmd.lean ====
section
/-! DEFINITION. The commands of the lanes and of the wire ports (R159, R192). -/

namespace Sys2Proof.Machine

open Sys2Proof

/-! ## The words that registers and responses show (R542, R543) -/

def txeqStatus (l : Lane) : Nat := l.pre + 2 ^ 8 * l.main + 2 ^ 16 * l.post + 2 ^ 24 * l.swing

def dfeByte (l : Lane) (k : Nat) : Nat := unsx 8 (l.dfe.getD (k - 1) 0)

def rxeqStatus0 (l : Lane) : Nat := l.ctle % 16 + 2 ^ 8 * dfeByte l 1 + 2 ^ 16 * dfeByte l 2 + 2 ^ 24 * dfeByte l 3
def rxeqStatus1 (l : Lane) : Nat := dfeByte l 4 + 2 ^ 8 * dfeByte l 5

/-- The counter word at offset 0x40 + 4k of a lane, live. -/
def laneWord (l : Lane) (k : Nat) : Nat :=
  if k = 12 then l.prbsErr % 2 ^ 32 else if k = 13 then l.prbsErr / 2 ^ 32 else l.counts.getD k 0

/-- PT_STATUS. -/
def ptStatus (p : Port) : Nat :=
  b2n p.link + 2 * p.resFec + 2 ^ 4 * p.anOutcome + 2 ^ 8 * b2n p.hiBer + 2 ^ 9 * b2n p.localF + 2 ^ 10 * b2n p.remoteF +
    2 ^ 12 * p.verify + 2 ^ 14 * b2n p.gcl.isSome + 2 ^ 15 * b2n p.gclNext.isSome + 2 ^ 16 * p.paused

/-! ## LN_STAGE and PORT_STAGE -/

def lnStageArgs (s : State) (p : Bytes) : Option Reply :=
  firstErr [(u8 p 0 ≥ nPorts s, inv 0), (u16 p 2 ≥ 64, inv 2)]

/-- Write the fields that VALID names to staging (R159). -/
def lnStageApply (p : Bytes) (s : State) : State :=
  let v := u16 p 2
  let pick (i : Nat) (new old : Nat) : Nat := if v.testBit i then new else old
  let s1 := setLane (u8 p 0) (fun l =>
    let c := l.staged
    { l with staged := { mode := pick 0 (u32 p 4) c.mode, txeq := pick 1 (u32 p 8) c.txeq, rxeq := pick 2 (u32 p 12) c.rxeq
                         lpi0 := pick 3 (u32 p 16) c.lpi0, lpi1 := pick 3 (u32 p 20) c.lpi1, prbs := pick 4 (u32 p 24) c.prbs } }) s
  if v.testBit 5 then s1.updLanes fun q => { q with quadStaged := u32 p 28 } else s1

def portStageArgs (s : State) (p : Bytes) : Option Reply :=
  firstErr [(u8 p 0 ≥ nPorts s, inv 0), (u8 p 1 ≥ 8, inv 1)]

def portStageApply (p : Bytes) (s : State) : State :=
  let v := u8 p 1
  setPort (u8 p 0) (fun x =>
    let c := x.staged
    { x with staged := { mode := if v.testBit 0 then u32 p 4 else c.mode, flow := if v.testBit 1 then u32 p 8 else c.flow
                         preempt := if v.testBit 2 then u32 p 12 else c.preempt } }) s

/-! ## PORT_CONFIG -/

def portConfigArgs (s : State) (p : Bytes) : Option Reply :=
  firstErr
    [ (u8 p 0 ≥ nPorts s, inv 0), (u8 p 1 > 7, inv 1), ((u8 p 8).testBit 0, inv 8), (u8 p 14 > 7, inv 14),
      (u32 p 16 != 0 && u32 p 20 ≥ u32 p 16, inv 20), (u16 p 24 = 0, inv 24), (u16 p 26 ≥ u16 p 24, inv 26),
      (u32 p 36 > 1000000, inv 36), (u16 p 40 = 0, inv 40) ]

def portConfigApply (p : Bytes) (s : State) : State :=
  checkOcc (u8 p 0) (setPort (u8 p 0) (fun x => { x with
    defaultTc := u8 p 1, pcpMap := le p 4 3, mac := slice p 8 6, tsBase := u8 p 14, xoff := u32 p 16, xon := u32 p 20
    quanta := u16 p 24, refresh := u16 p 26, rxCorr := sext 32 (u32 p 28), txCorr := sext 32 (u32 p 32)
    hold := u32 p 36, eeeIdle := u16 p 40 }) s)

/-! ## PORT_GCL_SET -/

/-- The first interval of an entry that is 0 (R192). -/
def gclEntryBad (p : Bytes) (n : Nat) : Option Nat :=
  (List.range n).findSome? fun i => if u32 p (36 + 8 * i) = 0 then some (36 + 8 * i) else none

def portGclArgs (s : State) (p : Bytes) : Option Reply :=
  let n := u16 p 2
  let base : List (Bool × Reply) := [(u8 p 0 ≥ nPorts s, inv 0)]
  if n = 0 then
    firstErr (base ++ [(u8 p 1 != 0, inv 1), (u64 p 8 != 0, inv 8), (u32 p 16 != 0, inv 16), (u32 p 20 != 0, inv 20),
      (u32 p 24 != 0, inv 24)])
  else
    match firstErr (base ++ [(u8 p 1 > 3 && u8 p 1 != 7, inv 1), (n > 256, inv 2), (u32 p 16 ≥ 1000000000, inv 16),
        (u32 p 20 < 1000 || u32 p 20 > 1000000000, inv 20), (u32 p 24 ≥ u32 p 20, inv 24)]) with
    | some r => some r
    | none => (gclEntryBad p n).map inv

/-- Removal is valid only while QBV_EN is clear at the commit point. -/
def portGclCheck (s : State) (p : Bytes) : Option Nat :=
  if u16 p 2 = 0 && ptQbv (getPort s (u8 p 0)).applied then some stInvalid else none

def portGclApply (p : Bytes) (s : State) : State :=
  let n := u8 p 0
  if u16 p 2 = 0 then
    let x := getPort s n
    let s0 := if (getTrg s (28 + n)).mode = .owned then setTrg (28 + n) (fun t => { t with mode := .idle }) s else s
    let s1 := setPort n (fun x => { x with gcl := none, gclNext := none, gates := 0xFF }) s0
    if x.gcl.isSome || x.gclNext.isSome then raise0 0x0285 n (toLe 1 0) s1 else s1
  else
    let g : Gcl := { tb := u8 p 1, base := le p 8 6 * 1000000000 + u32 p 16, cycle := u32 p 20, ext := u32 p 24
                     entries := (List.range (u16 p 2)).map fun i => (u8 p (32 + 8 * i), u32 p (36 + 8 * i)) }
    let g1 := { g with start := g.firstStart (getTb s g.tb).v }
    ownTrigger n g1 (setPort n (fun x => { x with gclNext := some g1 }) s)

/-! ## Immediate commands -/

/-- The response of LN_STATUS_GET. -/
def lnStatusBytes (l : Lane) : Bytes :=
  toLe 4 (laneStatus l) ++ toLe 4 l.applyStatus ++ toLe 4 (txeqStatus l) ++ toLe 4 (rxeqStatus0 l) ++ toLe 4 (rxeqStatus1 l) ++
    zeros 12 ++ (List.range 16).flatMap fun k => toLe 4 (laneWord l k)

def lnStatusCmd (q : Req) (s : State) : State × Reply :=
  if u8 q.payload 0 ≥ nPorts s then (s, inv 0) else (s, okD (lnStatusBytes (getLane s (u8 q.payload 0))))

def lnRetireCmd (q : Req) (s : State) : State × Reply :=
  let n := u8 q.payload 0
  let a := u8 q.payload 1
  match firstErr [(n ≥ nPorts s, inv 0), (a > 1, inv 1), ((getLane s n).retired = (a = 0), errR stWrongState)] with
  | some r => (s, r)
  | none => (if a = 0 then retireLane n 1 s else returnLane n s, okR)

/-- The response of PORT_STATUS_GET. -/
def portStatusBytes (p : Port) : Bytes :=
  toLe 4 (ptStatus p) ++ toLe 4 p.check ++ toLe 8 p.page ++ toLe 8 ((p.gclNext.map (·.start)).getD 0) ++
    toLe 4 p.ts.length ++ zeros 4

def portStatusCmd (q : Req) (s : State) : State × Reply :=
  if u8 q.payload 0 ≥ nPorts s then (s, inv 0) else (s, okD (portStatusBytes (getPort s (u8 q.payload 0))))

/-- A record of the transmit timestamp FIFO as PORT_TS_READ returns it. -/
def tsBytes (r : TsRec) : Bytes :=
  let ns := r.time / nsUnit
  toLe 4 r.seq ++ toLe 2 r.port ++ toLe 1 r.tb ++ zeros 1 ++ toLe 6 (ns / 1000000000) ++ toLe 2 (r.time % nsUnit / 2 ^ 24) ++
    toLe 4 (ns % 1000000000) ++ zeros 4

def portTsCmd (q : Req) (s : State) : State × Reply :=
  let n := u8 q.payload 0
  let m := u8 q.payload 1
  match firstErr [(n ≥ nPorts s, inv 0), (m = 0 || m > 8, inv 1)] with
  | some r => (s, r)
  | none =>
    let l := (getPort s n).ts.take m
    (setPort n (fun p => { p with ts := p.ts.drop m }) s, okD (toLe 1 l.length ++ zeros 7 ++ l.flatMap tsBytes))

def execLnStatusGet (s : State) : Out := .next (immediate 0x0302 lnStatusCmd s)
def execLnRetire (s : State) : Out := .next (immediate 0x0303 lnRetireCmd s)
def execPortStatusGet (s : State) : Out := .next (immediate 0x0204 portStatusCmd s)
def execPortTsRead (s : State) : Out := .next (immediate 0x0205 portTsCmd s)

end Sys2Proof.Machine
end

