-- ==== Sys2Proof/Machine/SchCmd.lean ====
section
/-! DEFINITION. The commands of the scheduler unit (R403, R404). -/

namespace Sys2Proof.Machine

open Sys2Proof

/-- A quantum is in its range. -/
def quantumBad (v : Nat) : Bool := v < 64 || v > 1048576

/-- The first field of a list of them, `w` bytes each from `off`, that a test finds wrong. -/
def fieldBad (p : Bytes) (off w n : Nat) (bad : Nat → Bool) : Option Reply :=
  ((List.range n).find? fun i => bad (le p (off + w * i) w)).map fun i => inv (off + w * i)

def schPortArgs (s : State) (p : Bytes) : Option Reply :=
  if u8 p 0 ≥ nPorts s then some (inv 0) else (fieldBad p 4 4 7 quantumBad).or (fieldBad p 32 2 8 (· == 0))

def schPortApply (p : Bytes) (s : State) : State :=
  setWire (u8 p 0) (fun w => { w with
    quantum := (List.range 7).map fun i => u32 p (4 + 4 * i)
    qlimit := (List.range 8).map fun i => u16 p (32 + 2 * i) }) s

def schShaperArgs (s : State) (p : Bytes) : Option Reply :=
  firstErr
    [ (u8 p 0 > 1, inv 0), (u8 p 1 ≥ nPorts s, inv 1), (u8 p 2 > 7 || (u8 p 0 = 0 && u8 p 2 != 0), inv 2),
      (u32 p 4 > 100000000, inv 4), (if u32 p 4 = 0 then u32 p 8 != 0 else u32 p 8 < 64 || u32 p 8 > 16777216, inv 8) ]

def schShaperApply (p : Bytes) (s : State) : State :=
  let f := Shaper.setRate (u32 p 4) (u32 p 8)
  setWire (u8 p 1) (fun w => if u8 p 0 = 0 then { w with port := f w.port } else { w with shaper := w.shaper.upd (u8 p 2) {} f }) s

def schChannelArgs (s : State) (agent : Nat) (p : Bytes) : Option Reply :=
  if u16 p 0 ≥ nChannels s then some (inv 0)
  else if (getCh s (u16 p 0)).agent != agent then some (errR stNotOwner)
  else
    match fieldBad p 4 4 1 quantumBad with
    | some r => some r
    | none => fieldBad p 8 4 8 quantumBad

def schChannelApply (p : Bytes) (s : State) : State :=
  setChSch (u16 p 0) (fun c => { c with quantum := u32 p 4, ringQ := (List.range 8).map fun i => u32 p (8 + 4 * i) }) s

/-- A nominated head is held by the guard band (R182). -/
def heldByGate (s : State) (n tc : Nat) : Bool :=
  match (getWire s n).nom.get? tc with
  | some x => !gateAdmits s n (getPort s n) tc (wireLen s x.qe) 0
  | none => false

def maskOf8 (f : Nat → Bool) : Nat := ((List.range 8).map fun k => b2n (f k) * 2 ^ k).sum

def credit32 (x : Shaper) : Bytes := toLe 4 (unsx 32 x.bytes)

def schWireBytes (s : State) (n : Nat) : Bytes :=
  let w := getWire s n
  credit32 w.port ++ toLe 1 (maskOf8 fun k => w.nom.has k) ++ toLe 1 (maskOf8 (heldByGate s n)) ++ zeros 10 ++
    (List.range 8).flatMap fun k =>
      toLe 2 (classDepth s n k) ++ toLe 1 (((w.nom.get? k).map (·.sq)).getD 0xFF) ++ zeros 1 ++ credit32 (w.shaper.getD k {})

def schChannelBytes (s : State) (c : Nat) : Bytes :=
  let x := getChSch s c
  credit32 x.rxShaper ++ credit32 x.txShaper ++ toLe 4 (s.sch.upper.def c) ++ toLe 1 (inDelivery (getCh s c)) ++ zeros 3 ++
    (List.range 8).flatMap fun r => toLe 4 (x.round.def r)

def schStatusCmd (q : Req) (s : State) : State × Reply :=
  let p := q.payload
  let id := u16 p 2
  match u8 p 0 with
  | 0 =>
    if id ≥ nPorts s then (s, inv 2)
    else if agentOf q s != 0 then (s, errR stNotOwner) else (s, okD (schWireBytes s id))
  | 1 =>
    if id ≥ nChannels s then (s, inv 2)
    else if (getCh s id).agent != agentOf q s then (s, errR stNotOwner) else (s, okD (schChannelBytes s id))
  | _ => (s, inv 0)

def schCountersCmd (q : Req) (s : State) : State × Reply :=
  let p := q.payload
  let id := u16 p 2
  match firstErr
    [ (u8 p 0 > 1, inv 0), (u8 p 1 > 1, inv 1),
      (if u8 p 0 = 0 then id ≥ nPorts s else !portCodeOk s id, inv 2), (u8 p 0 = 0 && agentOf q s != 0, errR stNotOwner) ] with
  | some r => (s, r)
  | none =>
    let r := if u8 p 0 = 0 then readCounters 0xA0 id 25 (u8 p 1 = 1) s else readCounters 0xA1 id 1 (u8 p 1 = 1) s
    (r.2, okD r.1)

def execSchStatusGet (s : State) : Out := .next (immediate 0x0A04 schStatusCmd s)
def execSchCountersGet (s : State) : Out := .next (immediate 0x0A05 schCountersCmd s)

end Sys2Proof.Machine
end

