-- ==== Sys2Proof/Machine/StoreMove.lean ====
section
/-! DEFINITION. The spill mover, the free queues, and the retirement of banks (R208, R216-R225). -/

namespace Sys2Proof.Machine

open Sys2Proof

/-! ## The queues that the mover searches (R218-R220) -/

/-- The egress queues whose frames may spill, as OWNER_ID and entries from the head.  Each sub-queue of a wire port's class
is a queue (R391), and a nominated head is the head of its own. -/
def spillQueues (s : State) : List (Nat × List QE) :=
  let own (q : QKey × List QE) : Option (Nat × List QE) :=
    match q.1 with
    | .ring _ _ => some (q.1.owner, q.2)
    | .sta _ _ => some (q.1.owner, q.2)
    | _ => none
  let wires := (List.range (nPorts s)).flatMap fun n => (List.range 8).flatMap fun tc => (List.range 7).filterMap fun q =>
    let head := match (getWire s n).nom.get? tc with
      | some x => if x.sq = q then [x.qe] else []
      | none => []
    let l := head ++ getQ s (.wire n tc q)
    if l.isEmpty then none else some (n * 65536 + tc, l)
  wires ++ s.sch.queues.filterMap own

/-- The larger queue by queued bytes goes first, ties to the lower OWNER_ID. -/
def spillOrder (s : State) (p : Nat) : List (Nat × List QE) :=
  sortBy (fun a b =>
    let x := queuedBytes s a.2
    let y := queuedBytes s b.2
    x > y || (x = y && a.1 ≤ b.1)) ((spillQueues s).filter fun q => q.2.length ≥ (getPool s p).depth)

/-- The buffer waits in an engine's or Onyx's input queue. -/
def inInputQ (s : State) (h : Nat) : Bool :=
  s.sch.queues.any fun q => (match q.1 with | .eng _ => true | .onyx => true | _ => false) && q.2.any (·.h = h)

/-- A buffer of the pool that may be spilled (R218). -/
def mayMove (s : State) (p h : Nat) : Bool :=
  match getBuf s h with
  | some b => !inInputQ s h && hPool h = p && !hDram h && b.pins = 0 && !b.bad && (match b.loc with | .sram _ _ => true | _ => false)
  | none => false

/-- The walk of R219 over one queue. -/
def spillFrom (s : State) (p : Nat) (l : List QE) : Option QE :=
  let look := (getPool s p).look
  ((List.range (min 16 l.length)).filterMap fun k =>
    let pos := l.length - 1 - k
    if pos < look then none else (l[pos]?).bind fun e => if mayMove s p e.h then some e else none).head?

def selectSpill (s : State) (p : Nat) : Option QE := (spillOrder s p).findSome? fun q => spillFrom s p q.2

def isOut : Loc → Bool
  | .movingOut _ _ _ => true
  | _ => false

def isIn : Loc → Bool
  | .movingIn _ _ _ => true
  | _ => false

def movesOut (s : State) : Nat := (s.store.bufs.vals.filter fun b => isOut b.loc).length
def movesIn (s : State) : Nat := (s.store.bufs.vals.filter fun b => isIn b.loc).length

/-- The mover starts moves: the core runs, and neither an entry nor a quiesce has stopped it. -/
def moverOpen (s : State) : Bool := !coreOff s && !egressStops s

/-! ## Spills (R221) -/

def markBad (h oseq kind : Nat) (s : State) : State :=
  checkEvent h oseq kind 0xFFF (updBuf h (fun b => { b with bad := true }) s)

/-- Start the spill of a resident buffer, verified against an owner sequence. -/
def spillBuf (h oseq : Nat) (s : State) : State :=
  let p := hPool h
  match getBuf s h, (getPool s p).queue with
  | some b, i :: q =>
    match b.loc with
    | .sram k j =>
      if !verifies s h oseq then markBad h oseq 2 s
      else
        let a := dramAddr s p i
        let s1 := setPool p (fun c => { c with queue := q }) s
        if regionOk s1 a (bufSize p) then
          startMove (.spill h) true h b.data.length a (bufImage h b)
            (setBuf h { b with loc := .movingOut k j i, mv := some (nextXfer s1) } s1)
        else violation s
    | _ => s
  | some _, [] => poolBump p 9 s
  | none, _ => badHandle h s

/-- SPILL_START: the next buffer of a SPILLING pool. -/
def spillStart (p : Nat) (s : State) : State :=
  if p ≥ 4 || (getPool s p).state != .spilling || movesOut s ≥ 32 || !moverOpen s then s
  else
    match selectSpill s p with
    | some e => spillBuf e.h e.oseq s
    | none => s

/-! ## Returns (R220, R222) -/

/-- The lodged entries of a pool, with their positions and the OWNER_ID of their queue. -/
def lodgedEntries (s : State) (p : Nat) : List (Nat × Nat × QE) :=
  (spillQueues s).flatMap fun q =>
    (q.2.zipIdx.filter fun e =>
      hPool e.1.h = p && (match getBuf s e.1.h with | some b => b.loc.isLodged && !b.bad && b.pins = 0 | none => false)).map
      fun e => (e.2, q.1, e.1)

/-- The entry to return: the nearest to its queue's head, ties to the lower OWNER_ID; outside RETURNING, only within
LOOKAHEAD. -/
def selectReturn (s : State) (p : Nat) : Option QE :=
  let c := getPool s p
  let l := if c.state = .returning then lodgedEntries s p else (lodgedEntries s p).filter fun x => x.1 < c.look
  ((sortBy (fun a b => a.1 < b.1 || (a.1 = b.1 && a.2.1 ≤ b.2.1)) l).head?).map (·.2.2)

/-- RETURN_START. -/
def returnStart (p : Nat) (s : State) : State :=
  if p ≥ 4 || (getPool s p).state = .spilling || (getPool s p).high = 0 || movesIn s ≥ 32 || !moverOpen s then s
  else
    match selectReturn s p, freeSram s p with
    | some e, some (k, j) =>
      match getBuf s e.h with
      | some b =>
        match b.loc with
        | .lodged i =>
          if regionOk s (dramAddr s p i) (bufSize p) then
            evalPool p (startMove (.ret e.h) false e.h b.data.length (dramAddr s p i) []
              (setBuf e.h { b with loc := .movingIn k j i, mv := some (nextXfer s) } s))
          else violation s
        | _ => s
      | none => s
    | _, _ => s

/-! ## Retirement (R224, R225) -/

def unretired (s : State) : Nat := ((List.range (nBanks s)).filter fun b => s.store.banks.getD b 4 != 4).length

/-- Pool `p`'s target of R225 with `r` unretired banks. -/
def bankTarget (s : State) (p r : Nat) : Nat := s.store.split.getD p 0 * r / s.store.split.sum

/-- The donor of a bank for a pool that has lost one, with `r` banks left and `n p` of them in each pool. -/
def donorOf (s : State) (p r : Nat) (n : Nat → Nat) : Option Nat :=
  if n p ≥ bankTarget s p r then none
  else
    [0, 1, 2, 3].foldl (fun best q =>
      let extra := n q - bankTarget s q r
      if extra = 0 then best
      else
        match best with
        | none => some q
        | some b => if extra ≥ n b - bankTarget s b r then some q else best) none

/-- The retirement is done: step 5 of R224. -/
def retireDone (bank cause recipient donor : Nat) (s : State) : State :=
  let p : Place := { sub := 0, tile := bank / 8, unit := bank }
  let s1 := setService 2 true (appendRecord (recordEntry 3 { p with mac := 0 } 0 0) (logFault fkBank p 0 s))
  let s2 := raise0 0x0483 bank (toLe 1 cause ++ toLe 1 recipient ++ toLe 1 donor) s1
  match s2.gv.running.find? fun q => rqCode q.hdr = 0x0405 && u8 q.payload 0 = bank with
  | some q => finishRunning q okR s2
  | none => s2

/-- The banks that a pool has now. -/
def poolBanks (s : State) (p : Nat) : Nat := (banksOf s p).length

def setBank (b v : Nat) (s : State) : State := s.updStore fun t => { t with banks := t.banks.set b v }

/-- Rebalancing for bank `first`, which pool `p` has lost: a bank of the donor, none that is being emptied, moves to the pool (R225). -/
def rebalance (first cause p : Nat) (s : State) : State :=
  match (donorOf s p (unretired s) (poolBanks s)).bind fun d => ((banksOf s d).filter fun b => !emptying s b).getLast? with
  | none => retireDone first cause 0xFF 0xFF s
  | some m => s.updStore fun t => { t with retire := t.retire ++ [{ bank := m, cause := cause, dest := some p, first := first }] }

/-- A bank being emptied holds no buffer: it is retired, or joins its new pool. -/
def retireEmpty (x : Retire) (s : State) : State :=
  let p := s.store.banks.getD x.bank 4
  let s1 := s.updStore fun t => { t with retire := t.retire.filter (·.bank != x.bank) }
  match x.dest with
  | some q => retireDone x.first x.cause q x.bank (evalPool p (evalPool q (setBank x.bank q s1)))
  | none => rebalance x.bank x.cause p (driveReqs (evalPool p (setBank x.bank 4 s1)))

/-- Finish the banks that have come empty. -/
def settleRetire : Nat → State → State
  | 0, s => s
  | f + 1, s =>
    match s.store.retire.find? fun x => (slotsIn s x.bank).isEmpty with
    | none => s
    | some x => settleRetire f (retireEmpty x s)

/-- Start to retire a bank: `cause` 0 failure, 1 command.  A bank that was moving to another pool moves no more, and the retirement
that it was moving for looks for another donor. -/
def startRetire (bank cause : Nat) (s : State) : State :=
  if s.store.banks.getD bank 4 = 4 || s.store.retire.any (fun x => x.bank = bank && x.dest.isNone) then s
  else
    let s1 := s.updStore fun t => { t with
      retire := t.retire.filter (·.bank != bank) ++ [{ bank := bank, cause := cause }] }
    settleRetire 4 (match s.store.retire.find? (·.bank = bank) with
      | some x =>
        match x.dest with
        | some p => rebalance x.first x.cause p s1
        | none => s1
      | none => s1)

/-- RELOCATION_DONE: a resident, unpinned buffer of a bank that is being emptied moves to another bank of its pool, or
is spilled: also one of a frame that is not released yet, or in an input queue, which R218 keeps from the spills of a full pool (DESIGN
CHOICE, log 88). -/
def relocate (h : Nat) (s0 : State) : State :=
  match getBuf s0 h with
  | none => s0
  | some b =>
    match b.loc with
    | .sram k _ =>
      if !emptying s0 k || b.pins != 0 || coreOff s0 then s0
      else
        let s := touchBuf h s0
        let s1 := if b.bad || verifies s h b.oseq then s else markBad h b.oseq 4 s
        match freeSram s1 (hPool h) (some k) with
        | some (k2, j2) =>
          settleRetire 4 (poolBump (hPool h) 14 (updBuf h (fun b => { b with loc := .sram k2 j2 }) s1))
        | none =>
          if b.bad || movesOut s1 ≥ 32 then s1
          else updBuf h (fun b => { b with reloc := isOut b.loc }) (spillBuf h b.oseq s1)
    | _ => s0

/-! ## The ends of moves -/

def takeDone (s : State) (p : Purp → Bool) : Option (Xfer × State) :=
  (doneXfer s p).map fun x => (x, dropXfer x.id s)

/-- SPILL_COMPLETE: every write response of a spill is in. -/
def spillComplete (h : Nat) (s : State) : State := settleRetire 4 (landSpill h s)

/-- A spill that a pin or a release has cancelled: its DRAM buffer is freed at the last write response (R215, R229). -/
def orphanDone (x : Xfer) (s : State) : State :=
  match s.store.orphans.find? (·.1 = x.id) with
  | some o => freeDram o.2.1 o.2.2 (s.updStore fun t => { t with orphans := t.orphans.filter (·.1 != x.id) })
  | none => s

/-- RETURN_COMPLETE: the beats of a return have been read. -/
def returnComplete (h : Nat) (s : State) : State :=
  match getBuf s h with
  | none => s
  | some b =>
    match b.loc, (b.mv.bind (getXfer s)) with
    | .movingIn k j i, some x =>
      if !x.finished then s
      else
        let p := hPool h
        let z := bufSize p
        let s1 := dropXfer x.id s
        let rec_ := slice x.data 0 64
        let data := slice x.data 64 b.data.length
        let good := imageGood h b.oseq b.data.length x.data
        if x.err || !good then
          evalPool p (markBad h b.oseq (if x.err then 5 else 3) (poolBump p 11 (setBuf h { b with loc := .lodged i, mv := none } s1)))
        else
          settleRetire 4 (evalPool p (poolBump p 6 (freeDram p i (setBuf h { b with
            loc := .sram k j, mv := none, record := rec_, data := data, check := u32 x.data (z - 8) } s1))))
    | _, _ => s

/-! ## Free queues (R208, R229) -/

def refillWanted (s : State) (p : Nat) : Bool :=
  let c := getPool s p
  c.queue.length < 256 && (c.given != 0 || c.fresh < nDram s p)

/-- The index at the head of a pool's list. -/
def listHead (c : Pool) : Nat := if c.given = 0 then c.fresh else c.head

/-- Read the link word at the head of a pool's list. -/
def startRefill (p : Nat) (s : State) : State :=
  let i := listHead (getPool s p)
  if refillWanted s p && regionOk s (dramAddr s p i) 8 && !s.sys.quiesced then
    startXfer (.freeRead p) false 0x200 (dramAddr s p i) 8 [] (setPool p (fun c => { c with refill := true }) s)
  else setPool p (fun c => { c with refill := false }) s

/-- The index at the head of the list joins the queue, and the link word read there names the next.  The buffers that were
never given back follow in order of index (DESIGN CHOICE, log 5).  A head that was put before the one read is read in its turn. -/
def refillTake (p : Nat) (x : Xfer) (s : State) : State :=
  if x.addr != dramAddr s p (listHead (getPool s p)) then s
  else
    setPool p (fun c =>
      if c.given = 0 then { c with queue := c.queue ++ [c.fresh], fresh := c.fresh + 1 }
      else { c with queue := c.queue ++ [c.head], given := c.given - 1, head := u32 x.data 0 }) s

/-- FREE_QUEUE_REFILL: the read of the list ends, or starts. -/
def queueRefill (p : Nat) (s : State) : State :=
  if p ≥ 4 then s
  else
    match takeDone s (· = .freeRead p) with
    | some (x, s1) => if x.err then raiseErr 7 s1 else startRefill p (if refillWanted s1 p then refillTake p x s1 else s1)
    | none => if (getPool s p).refill || coreOff s then s else startRefill p s

/-- REFILL_RETRY: 1 µs after an errored read. -/
def refillRetry (p : Nat) (s : State) : State :=
  if p < 4 && (getPool s p).refill && !s.host.xfers.any (·.purp = .freeRead p) then startRefill p s else s

/-- A pool's DRAM buffers are all free: the first fill of its free queue. -/
def resetDram (p : Nat) (s : State) : State :=
  let n := min 512 (nDram s p)
  setPool p (fun c => { c with queue := List.range n, head := 0, given := 0, fresh := n, refill := false, withdrawn := [] }) s

def resetDrams (s : State) : State := [0, 1, 2, 3].foldl (fun s p => resetDram p s) s

/-- The default DRAM division of a region (R197). -/
def defaultUnits (size : Nat) : List Nat :=
  let u := size / 4 / 2097152
  [u, u, u, size / 2097152 - 3 * u]

def execSpillStart (p : Nat) (s : State) : Out := .next (spillStart p s)
def execSpillComplete (h : Nat) (s : State) : Out := .next (clocked s (spillComplete h s))
def execReturnStart (p : Nat) (s : State) : Out := .next (returnStart p s)
def execReturnComplete (h : Nat) (s : State) : Out := .next (clocked s (returnComplete h s))
def execFreeQueueRefill (p : Nat) (s : State) : Out := .next (clocked s (queueRefill p s))
def execRefillRetry (p : Nat) (s : State) : Out := .next (refillRetry p s)
def execRelocationDone (h : Nat) (s : State) : Out := .next (relocate h s)

end Sys2Proof.Machine
end

