-- ==== Sys2Proof/Machine/StoreCmd.lean ====
section
/-! DEFINITION. The commands of the store (R226, R227). -/

namespace Sys2Proof.Machine

open Sys2Proof

/-- The unretired banks, dealt to the pools in order by the given counts; 4 for the retired (R196). -/
def dealBanks (s : State) (counts : List Nat) : List Nat :=
  let live := (List.range (nBanks s)).filter fun b => s.store.banks.getD b 4 != 4
  let owners := (List.range 4).flatMap fun p => List.replicate (counts.getD p 0) p
  s.store.banks.zipIdx.map fun x =>
    match idxOf? live (· = x.2) with
    | some i => owners.getD i 4
    | none => 4

/-- STORE_POOL_SPLIT. -/
def poolSplitCmd (q : Req) (s : State) : State × Reply :=
  let p := q.payload
  let banks := (List.range 4).map fun i => u8 p i
  let units := (List.range 4).map fun i => u16 p (4 + 2 * i)
  let empty := (List.range 4).find? fun i => banks.getD i 0 = 0 && units.getD i 0 * 2097152 / bufSize i = 0
  match firstErr
    [ (banks.any (· > 32) || banks.sum != unretired s, inv 0), (units.sum * 2097152 > s.host.dram.size, inv 4),
      (empty.isSome, inv (empty.getD 0)), (s.sys.phase != 1, errR stWrongState) ] with
  | some r => (s, r)
  | none => (resetDrams (s.updStore fun t => { t with banks := dealBanks s banks, split := banks, units := units }), okR)

def spillSetArgs (p : Bytes) : Option Reply :=
  firstErr
    [ (u8 p 0 > 3, inv 0), (u8 p 2 > 254 || (u8 p 1 != 0 && u8 p 2 ≥ u8 p 1), inv 2), (u16 p 4 > 256, inv 4), (u16 p 6 = 0, inv 6) ]

/-- At the commit point the pool's state is evaluated afresh. -/
def spillSetApply (p : Bytes) (s : State) : State :=
  evalPool (u8 p 0) (setPool (u8 p 0) (fun c => { c with
    high := u8 p 1, low := u8 p 2, look := u16 p 4, depth := u16 p 6, state := .normal }) s)

def spillNum : Spill → Nat
  | .normal => 0
  | .spilling => 1
  | .returning => 2

def poolStatus (s : State) (p : Nat) : Bytes :=
  let c := getPool s p
  let names := (s.store.bufs.keys.filter fun h => hPool h = p && !hDram h).length
  toLe 4 (slotsTotal s p) ++ toLe 4 (slotsTotal s p - slotsUsed s p) ++ toLe 4 (nNames s p) ++ toLe 4 (nNames s p - names) ++
    toLe 4 (nDram s p - c.withdrawn.length) ++ toLe 4 (c.queue.length + c.given + (nDram s p - c.fresh)) ++
    toLe 4 (lodgedOf s p).length ++ toLe 1 (spillNum c.state) ++ toLe 1 (poolBanks s p) ++ zeros 2

def storeStatusBytes (s : State) : Bytes :=
  let mask := ((List.range (nBanks s)).map fun b => if s.store.banks.getD b 4 = 4 then 2 ^ b else 0).sum
  toLe 4 mask ++ toLe 4 s.store.table.length ++ toLe 2 (movesOut s) ++ toLe 2 (movesIn s) ++ toLe 4 s.store.alloc ++ zeros 16 ++
    (List.range 4).flatMap (poolStatus s)

def storeCountersCmd (q : Req) (s : State) : State × Reply :=
  let p := q.payload
  let code := u16 p 2 % 4096
  match firstErr
    [ (u8 p 0 > 1, inv 0), (u8 p 0 = 0 && u8 p 1 > 3, inv 1), (u8 p 0 = 1 && !portCodeOk s code, inv 2), (u8 p 4 > 1, inv 4) ] with
  | some r => (s, r)
  | none =>
    let r := if u8 p 0 = 0 then readCounters cPool (u8 p 1) 19 (u8 p 4 = 1) s else readCounters cPoolPort code 2 (u8 p 4 = 1) s
    (r.2, okD r.1)

/-- The retirement of a bank, and the move of another that rebalancing then makes, would leave a pool with neither SRAM slots
nor DRAM buffers. -/
def retireStarves (s : State) (b : Nat) : Bool :=
  let p := s.store.banks.getD b 4
  let n (q : Nat) : Nat := poolBanks s q - b2n (q = p)
  let d := donorOf s p (unretired s - 1) n
  (List.range 4).any fun q =>
    nDram s q = 0 && n q - b2n (d = some q) + b2n (q = p && d.isSome) = 0 && (q = p || d = some q)

/-- STORE_BANK_RETIRE. -/
def bankRetireCmd (q : Req) (s : State) : State × Option Reply :=
  let b := u8 q.payload 0
  match firstErr
    [ (b ≥ nBanks s, inv 0),
      (s.store.banks.getD b 4 = 4 || s.store.retire.any (fun x => x.bank = b && x.dest.isNone), errR stWrongState),
      (retireStarves s b, errR stNoResource) ] with
  | some r => (s, some r)
  | none => (s, none)

/-- Start the retirement once the command runs beside the queue. -/
def bankRetireRun (s : State) : State :=
  let s1 := longRunning 0x0405 bankRetireCmd s
  match takenFor 0x0405 s with
  | some q => if s1.gv.running.any (· = q) then startRetire (u8 q.payload 0) 1 s1 else s1
  | none => s1

def execStorePoolSplit (s : State) : Out := .next (immediate 0x0401 poolSplitCmd s)
def execStoreStatusGet (s : State) : Out := .next (immediate 0x0403 (fun _ s => (s, okD (storeStatusBytes s))) s)
def execStoreCountersGet (s : State) : Out := .next (immediate 0x0404 storeCountersCmd s)
def execStoreBankRetire (s : State) : Out := .next (bankRetireRun s)

end Sys2Proof.Machine
end

