-- ==== Sys2Proof/Machine/Commit.lean ====
section
/-! DEFINITION. Staging and committing groups of commands (R108-R116, R248, R252, R279). -/

namespace Sys2Proof.Machine

open Sys2Proof

/-! ## Staging (R108) -/

/-- The arguments of a staged command, judged at staging.  In BM-128 the entries of CLS_PARSE_START_SET at the places of the absent
WP2 and WP3 are taken and kept as any other: a fixed place names no port (R6; DESIGN CHOICE, log 89). -/
def stageArgs (s : State) (agent code : Nat) (p : Bytes) : Option Reply :=
  match code with
  | 0x0201 => portStageArgs s p
  | 0x0202 => portConfigArgs s p
  | 0x0203 => portGclArgs s p
  | 0x0301 => lnStageArgs s p
  | 0x0402 => spillSetArgs p
  | 0x0501 => nodeArgs p
  | 0x0503 => exceptionArgs s agent p
  | 0x0504 => ruleAddArgs s agent p
  | 0x0505 => ruleDeleteArgs p
  | 0x0506 => mcastArgs s agent p
  | 0x0507 => defaultArgs s agent p
  | 0x0508 => tableArgs p
  | 0x0601 => profileArgs p
  | 0x0602 => actionArgs s agent p
  | 0x0603 => rewriteArgs p
  | 0x0701 => hookBindArgs p
  | 0x0A01 => schPortArgs s p
  | 0x0A02 => schShaperArgs s p
  | 0x0A03 => schChannelArgs s agent p
  | _ => none

/-- Reserved bytes and bits, then the arguments (R108, R546). -/
def stageJudge (s : State) (agent code : Nat) (p : Bytes) : Option Reply :=
  match specOf code with
  | none => none
  | some c =>
    match reservedBad c p with
    | some i => some (inv i)
    | none => stageArgs s agent code p

/-! ## What a command touches -/

/-- The versioned object that a generation command creates, changes or deletes. -/
def touches (c : Cmd) : Option (VKind × Nat) :=
  let p := c.payload
  match c.code with
  | 0x0501 => some (.node, u8 p 0)
  | 0x0502 => some (.start, 0)
  | 0x0503 => some (.exception, 0)
  | 0x0504 => some (.rule, u8 p 0 * 2 ^ 32 + u32 p 4)
  | 0x0505 => some (.rule, u8 p 0 * 2 ^ 32 + u32 p 4)
  | 0x0506 => some (.mcast, u16 p 0)
  | 0x0507 => some (.default, u8 p 0)
  | 0x0508 => some (.table, u8 p 0)
  | 0x0601 => some (.profile, u8 p 0)
  | 0x0602 => some (.action, u16 p 0)
  | 0x0603 => some (.rewrite, u16 p 0)
  | _ => none

/-- The command deletes its object. -/
def deletes (c : Cmd) : Bool :=
  let p := c.payload
  match c.code with
  | 0x0501 => !(u8 p 1).testBit 0
  | 0x0505 => true
  | 0x0506 => u16 p 2 = 0
  | 0x0601 => !(u8 p 1).testBit 0
  | 0x0602 => !(u8 p 2).testBit 0
  | 0x0603 => u8 p 2 = 0
  | _ => false

/-- The lane that a command applies (R112). -/
def appliesLane (c : Cmd) : Option Nat := if c.code = 0x0201 || c.code = 0x0301 then some (u8 c.payload 0) else none

/-! ## The first pass (R111, R252) -/

/-- The check that a command meets with the earlier commands of its group applied; `g` is the new generation. -/
def passOne (g : Nat) (c : Cmd) (w : State) : Option Nat :=
  match c.code with
  | 0x0203 => portGclCheck w c.payload
  | 0x0701 => hookBindCheck c.payload w
  | _ =>
    match touches c with
    | none => none
    | some (k, key) =>
      let there := (findVer w k key g).isSome
      if c.code = 0x0504 then (if there then some stExists else none)
      else if (c.code = 0x0505 || (c.code = 0x0506 && deletes c)) && !there then some stNotFound
      else none

/-- Apply a command; lanes and ports take their fields to staging. -/
def applyCmd (g : Nat) (c : Cmd) (w : State) : State :=
  let p := c.payload
  match c.code with
  | 0x0201 => portStageApply p w
  | 0x0202 => portConfigApply p w
  | 0x0203 => portGclApply p w
  | 0x0301 => lnStageApply p w
  | 0x0402 => spillSetApply p w
  | 0x0701 => hookBindApply p w
  | 0x0A01 => schPortApply p w
  | 0x0A02 => schShaperApply p w
  | 0x0A03 => schChannelApply p w
  | _ =>
    match touches c with
    | none => w
    | some (k, key) => if deletes c then killVer k key g w else putVer k key p g w

/-! ## Capacity (R248, R279) -/

/-- The versions of a kind that resident generations hold. -/
def kindCount (w : State) (k : VKind) : Nat := (w.cls.vers.filter (·.kind = k)).length

/-- A table holds more valid rules than its LIMIT. -/
def tableOver (w : State) (g t : Nat) : Bool :=
  match verVal w .table t g with
  | none => false
  | some v => u32 v 4 != 0 && ((versOf w .rule g).filter fun r => ruleTable r = t).length > u32 v 4

/-- Each capacity limit: exceeded or not. -/
def limits (w : State) (g : Nat) : List Bool :=
  let shared : List Bool :=
    [ kindCount w .rule > nRules w, memberCount w.cls.vers > 16384, kindCount w .profile > 1024,
      kindCount w .action > 16384, kindCount w .rewrite > 8192 ]
  shared ++ (List.range 8).map (tableOver w g)

/-- Since which command each limit has been exceeded without a break. -/
def overSince (i : Nat) (was : List (Option Nat)) (now : List Bool) : List (Option Nat) :=
  now.zipIdx.map fun x => if x.1 then ((was.getD x.2 none).or (some i)) else none

/-- The working state of a commit: the configuration so far, the first-pass failures as index, class and status, and
since when each limit is exceeded. -/
structure Pass where
  w     : State
  index : Nat := 0
  fails : List (Nat × Nat × Nat) := []
  overs : List (Option Nat) := []

/-- One command of the first pass. -/
def passStep (g : Nat) (p : Pass) (c : Cmd) : Pass :=
  match passOne g c p.w with
  | some st => { p with index := p.index + 1, fails := p.fails ++ [(p.index, 0, st)] }
  | none =>
    let w := applyCmd g c p.w
    { p with w := w, index := p.index + 1
             overs := if (touches c).isSome then overSince p.index p.overs (limits w g) else p.overs }

/-! ## The second pass: references -/

/-- A broken reference: the referring object, the object referred to, and the status by the last command that touches
either. -/
structure Broken where
  src : VKind × Nat
  dst : VKind × Nat
  st  : Nat → Nat

/-- A reference to a rewrite entry that is not present. -/
def badRewrite (w : State) (g : Nat) (src : VKind × Nat) (ref : Nat) : List Broken :=
  if ref != 0xFFFFFFFF && (verVal w .rewrite ref g).isNone then [⟨src, (.rewrite, ref), fun _ => stInvalid⟩] else []

/-- The references of a classifier action at an offset (R240). -/
def badAction (w : State) (g : Nat) (src : VKind × Nat) (p : Bytes) (b : Nat) : List Broken :=
  let prof := u32 p (b + 20)
  badRewrite w g src (u32 p (b + 12)) ++
    (if (u8 p (b + 1)).testBit 2 && (verVal w .profile prof g).isNone then [⟨src, (.profile, prof), fun _ => stInvalid⟩] else [])

/-- The nodes that a node names. -/
def nodeNames (p : Bytes) : List Nat :=
  ((u8 p 16 :: (List.range (u8 p 17)).map fun i => u8 p (24 + 6 * i)).filter (· < 64))

/-- The references of a flow action (R279). -/
def badFlowAction (w : State) (g : Nat) (src : VKind × Nat) (p : Bytes) : List Broken :=
  let rw := u32 p 16
  let rep := u16 p 32
  badRewrite w g src rw ++
    (if rep = 0xFFFF then (if u8 p 3 = 0 then [] else [⟨src, (.action, rep), fun _ => stInvalid⟩])
     else
       match verVal w .action rep g with
       | none => [⟨src, (.action, rep), fun _ => stInvalid⟩]
       | some a =>
         if (u8 p 3 = 1 && u8 a 3 != 2) || (u8 p 3 = 2 && u8 a 3 != 1) then [⟨src, (.action, rep), fun _ => stInvalid⟩] else [])

/-- The broken references of one version; `gone` are the nodes that the group deletes. -/
def brokenOf (w : State) (g : Nat) (gone : List Nat) (v : Ver) : List Broken :=
  let src := (v.kind, v.key)
  let p := v.val
  let absent (n : Nat) : Bool := (verVal w .node n g).isNone
  match v.kind with
  | .rule =>
    let m := u32 p 152
    (if u8 p 144 = 1 && u8 p 148 = 2 && (verVal w .mcast m g).isNone then
       [⟨src, (.mcast, m), fun c => if c = 0x0504 then stNotFound else stWrongState⟩]
     else []) ++ badAction w g src p 144
  | .default => badAction w g src p 4
  | .mcast => (List.range ((p.length - 8) / 8)).flatMap fun i => badRewrite w g src (u32 p (12 + 8 * i))
  | .start =>
    (((List.range 9).map fun i => u8 p i).filter fun e => e.testBit 7 && absent (e % 64)).map fun e =>
      ⟨src, (.node, e % 64), fun c => if c = 0x0501 then stWrongState else stNotFound⟩
  | .node =>
    ((nodeNames p).filter fun n => absent n && gone.contains n).map fun n => ⟨src, (.node, n), fun _ => stWrongState⟩
  | .profile =>
    if (u8 p 3 = 1 || u8 p 3 = 3) && (verVal w .action (u16 p 8) g).isNone then
      [⟨src, (.action, u16 p 8), fun _ => stInvalid⟩]
    else []
  | .action => badFlowAction w g src p
  | .exception => []
  | .table => []
  | .rewrite => []

/-- The failing command of a broken reference: the last that touches either object (R116). -/
def blame (cmds : List Cmd) (b : Broken) : Option (Nat × Nat × Nat) :=
  ((cmds.zipIdx.filter fun x => touches x.1 = some b.src || touches x.1 = some b.dst).getLast?).map fun x =>
    (x.2, 1, b.st x.1.code)

/-- All failures of a group: index, class, status. -/
def groupFails (g : Nat) (cmds : List Cmd) (p : Pass) : List (Nat × Nat × Nat) :=
  let gone := cmds.filterMap fun c => if c.code = 0x0501 && deletes c then (touches c).map (·.2) else none
  let refs := (p.w.cls.vers.filter (·.validIn g)).flatMap (brokenOf p.w g gone)
  p.fails ++ refs.filterMap (blame cmds) ++ p.overs.filterMap fun o => o.map fun i => (i, 2, stNoResource)

/-- The failure reported: the lowest index, then the lowest class (R116). -/
def firstFail (l : List (Nat × Nat × Nat)) : Option (Nat × Nat × Nat) :=
  l.foldl (fun b x =>
    match b with
    | none => some x
    | some y => if x.1 < y.1 || (x.1 = y.1 && x.2.1 < y.2.1) then some x else some y) none

/-! ## The commit (R109-R112) -/

/-- The group forms a generation. -/
def hasGen (cmds : List Cmd) : Bool := cmds.any fun c => (touches c).isSome

/-- A commit point that falls during a sweep waits for its end (R247). -/
def commitWaits (s : State) : Bool := sweepRuns s

/-- What an APPLY is judged by is taken from another state: the staged sets of the lanes, the ports and the quad, and the ports'
gate control lists. -/
def judgedBy (w s : State) : State :=
  (List.range (nPorts s)).foldl (fun t n =>
    setPort n (fun x => { x with staged := (getPort w n).staged, gcl := (getPort w n).gcl, gclNext := (getPort w n).gclNext })
      (setLane n (fun x => { x with staged := (getLane w n).staged }) t))
    (s.updLanes fun q => { q with quadStaged := w.lanes.quadStaged })

/-- A failed APPLY: it is judged with the group's fields written, its records and events stay, and the rest is as before the commit
(R111, R154). -/
def failedApply (mask : Nat) (w s : State) : State := judgedBy s (applyLanes mask (judgedBy w s))

/-- Commit a list of commands: all of them take effect, or none.  `apply` is the mask that LN_APPLY is written with in the cycle of
the commit point: one APPLY covers both (R161). -/
def commitCmds (apply : Nat) (cmds : List Cmd) (s : State) : State × Reply :=
  let g := (s.cls.current + 1) % 65536
  if hasGen cmds && s.cls.resident.length ≥ 4 then (s, errR stGenLimit)
  else
    let p := cmds.foldl (passStep g) { w := s }
    match firstFail (groupFails g cmds p) with
    | some f => (s, errAt stInconsistent (f.2.2 * 2 ^ 24 + f.1))
    | none =>
      let mask := (((List.range (nPorts s)).filter fun n =>
        apply.testBit n || cmds.any fun c => appliesLane c = some n).map (2 ^ ·)).sum
      if applyFails p.w mask then (failedApply mask p.w s, errR stStaging)
      else
        let s1 := if mask = 0 then p.w else applyLanes mask p.w
        let s2 := if hasGen cmds then newGeneration s1 else s1
        (s2, okD (toLe 2 s2.cls.current ++ zeros 2 ++ toLe 4 cmds.length ++ toLe 8 (nowNs s2)))

/-- SYS_COMMIT.  `apply` is the mask of a write of LN_APPLY in the same cycle, 0 for none; without a commit point, or where the
group's validation fails before it, the write performs its own APPLY. -/
def sysCommit (apply : Nat) (s : State) : State :=
  let own (s : State) : State := if apply = 0 then s else lnApply apply s
  match takenFor 0x0103 s with
  | none => own s
  | some q =>
    match preJudge q s with
    | some r => own (finishTaken q r s)
    | none =>
      match findGroup (u32 q.payload 0) q.mb s with
      | none => own (finishTaken q (errR stGroupUnknown) s)
      | some g =>
        if commitWaits s then own s
        else
          let p := commitCmds apply g.cmds s
          let t := finishTaken q p.2 (if p.2.st = stOk then dropGroup g.id p.1 else p.1)
          if p.2.st = stOk || p.2.st = stStaging then t else own t

/-- A staged command: into its group, or committed at once with GROUP 0 (R108, R109).  `apply` is the mask of a write of LN_APPLY in
the same cycle, 0 for none: as with SYS_COMMIT, it is one APPLY with the command's where that reaches its commit point (R161). -/
def stageRunWith (apply code : Nat) (s : State) : State :=
  let own (s : State) : State := if apply = 0 then s else lnApply apply s
  match takenFor code s with
  | none => own s
  | some q =>
    let c : Cmd := ⟨code, q.payload, q.mb⟩
    let id := rqGroup q.hdr
    if turnedAway q s then own (finishTaken q (errR stWrongState) s)
    else if id = 0 then
      match stageJudge s (agentOf q s) code q.payload with
      | some r => own (finishTaken q r s)
      | none =>
        if commitWaits s then own s
        else
          let p := commitCmds apply [c] s
          let t := finishTaken q { p.2 with data := [] } p.1
          if p.2.st = stOk || p.2.st = stStaging then t else own t
    else
      match findGroup id q.mb s with
      | none => own (finishTaken q (errR stGroupUnknown) s)
      | some g =>
        match stageJudge s (agentOf q s) code q.payload with
        | some r => own (finishTaken q r s)
        | none => let p := addStaged g c s; own (finishTaken q p.2 p.1)

/-- A staged command with no write of LN_APPLY beside it. -/
def stageRun (code : Nat) (s : State) : State := stageRunWith 0 code s

def execSysCommit (apply : Nat) (s : State) : Out := .next (sysCommit apply s)
def execPortStage (apply : Nat) (s : State) : Out := .next (stageRunWith apply 0x0201 s)
def execPortConfig (s : State) : Out := .next (stageRun 0x0202 s)
def execPortGclSet (s : State) : Out := .next (stageRun 0x0203 s)
def execLnStage (apply : Nat) (s : State) : Out := .next (stageRunWith apply 0x0301 s)
def execStoreSpillSet (s : State) : Out := .next (stageRun 0x0402 s)
def execClsParseNodeSet (s : State) : Out := .next (stageRun 0x0501 s)
def execClsParseStartSet (s : State) : Out := .next (stageRun 0x0502 s)
def execClsExceptionSet (s : State) : Out := .next (stageRun 0x0503 s)
def execClsRuleAdd (s : State) : Out := .next (stageRun 0x0504 s)
def execClsRuleDelete (s : State) : Out := .next (stageRun 0x0505 s)
def execClsMcastSet (s : State) : Out := .next (stageRun 0x0506 s)
def execClsDefaultSet (s : State) : Out := .next (stageRun 0x0507 s)
def execClsTableSet (s : State) : Out := .next (stageRun 0x0508 s)
def execFlowProfileSet (s : State) : Out := .next (stageRun 0x0601 s)
def execFlowActionSet (s : State) : Out := .next (stageRun 0x0602 s)
def execFlowRewriteSet (s : State) : Out := .next (stageRun 0x0603 s)
def execEngHookBind (s : State) : Out := .next (stageRun 0x0701 s)
def execSchPortSet (s : State) : Out := .next (stageRun 0x0A01 s)
def execSchShaperSet (s : State) : Out := .next (stageRun 0x0A02 s)
def execSchChannelSet (s : State) : Out := .next (stageRun 0x0A03 s)

end Sys2Proof.Machine
end

