-- ==== Sys2Proof/Machine/CrcUnit.lean ====
section
/-! DEFINITION. The CRC job unit (R439-R446). -/

namespace Sys2Proof.Machine

open Sys2Proof

def getJob (s : State) (j : Nat) : CrcSlot := s.crc.slots.getD j {}
def setJob (j : Nat) (f : CrcSlot → CrcSlot) (s : State) : State := s.updCrc fun c => { c with slots := c.slots.upd j {} f }

def jobLegacy (x : CrcSlot) : Bool := x.cfg.testBit 2

/-- The parameters of a job (R437, R439). -/
def jobParams (x : CrcSlot) : CrcP :=
  if jobLegacy x then ⟨bits x.cfg 14 8, x.poly, x.init, x.cfg.testBit 3, x.cfg.testBit 4, x.xor⟩ else crcSel (x.cfg % 4)

def jobBusy (x : CrcSlot) : Bool := x.state = .running || x.state = .waitRing

/-- The registers of a legacy job are not in order (R441, order 2). -/
def legacyBad (x : CrcSlot) : Bool :=
  let w := bits x.cfg 14 8
  jobLegacy x && (w = 0 || w > 64 || x.poly % 2 ^ w = 0 || x.poly ≥ 2 ^ w || x.init ≥ 2 ^ w || x.xor ≥ 2 ^ w)

/-- Set a cause bit of CRC_INT_STATUS, and issue the message if it rises unmasked (R445).  No command configures CRC_MSG_ADDR,
so none can refuse it: a message to an address that breaks R64 is not issued (log 41). -/
def crcCause (b : Nat) (s : State) : State :=
  let was := s.crc.int.testBit b
  let s1 := s.updCrc fun c => { c with int := withBit c.int b true }
  if was || s.crc.mask.testBit b || s.crc.msgAddr = 0 || !msgAddrOk s.crc.msgAddr then s1 else lines (sendMsg .crc 0x211 s.crc.msgAddr s.crc.msgData s1).1

/-- The slot is DONE with the status of its job (R442). -/
def jobDone (j : Nat) (s : State) : State :=
  let x := getJob s j
  let s1 := setJob j (fun x => { x with state := .done, status := x.code, wr := none, rd := none }) s
  let s2 := s1.updCrc fun c => { c with
    jobs := sat32 c.jobs
    mismatch := if x.code = 1 then sat32 c.mismatch else c.mismatch
    errors := if x.code ≥ 2 then sat32 c.errors else c.errors }
  if x.code = 0 then s2 else crcCause j s2

/-- The 32 bytes of a ring entry (R444). -/
def ringEntry (s : State) (j : Nat) : Bytes :=
  let x := getJob s j
  let phase := b2n (s.crc.prod / s.crc.entries % 2 = 0)
  toLe 1 j ++ toLe 1 x.code ++ toLe 1 (phase + 2 * b2n x.final) ++ zeros 1 ++ toLe 4 x.tag ++ toLe 4 x.fed ++ zeros 4 ++
    toLe 8 x.result ++ toLe 8 x.val

def ringFull (s : State) : Bool := (s.crc.prod + 2 ^ 32 - s.crc.cons) % 2 ^ 32 = s.crc.entries

/-- Write a waiting slot's entry, one at a time, unless the ring is full; an address in no region is not issued, and the write is
retried like an errored one (R40, R444). -/
def tryRing (j : Nat) (s : State) : State :=
  let x := getJob s j
  let a := s.crc.base + 32 * (s.crc.prod % s.crc.entries)
  if x.state != .waitRing || x.hold || ringFull s || s.sys.quiesced || s.crc.slots.vals.any (·.wr.isSome) then s
  else if regionOk s a 32 then
    startXfer (.crcRing j) true 0x212 a 32 (ringEntry s j) (setJob j (fun x => { x with wr := some (nextXfer s) }) s)
  else lines (errBit 8 (violation (setJob j (fun x => { x with hold := true }) s)))

def tryRings (s : State) : State := (List.range 4).foldl (fun s j => tryRing j s) s

/-- A job ends with its code: CRC_VAL, CRC_RESULT, the comparison, and the report (R441, R442, R444). -/
def crcEndJob (j : Nat) (s : State) : State :=
  let x := getJob s j
  let p := jobParams x
  let ran := x.code != 3 && x.code != 4
  let fin := x.final && x.code = 0
  let v := crcFinal p x.r
  let bad := fin && !resultRing s && v != x.exp % 2 ^ p.width
  let s1 := setJob j (fun x => { x with
    val := if ran then x.r else x.val
    result := if fin then v else 0
    code := if bad then 1 else x.code }) s
  if resultRing s && s.crc.entries != 0 then tryRing j (setJob j (fun x => { x with state := .waitRing }) s1) else jobDone j s1

/-- Read the next bytes of a job: up to the next 4 KiB boundary. -/
def jobRead (j : Nat) (s : State) : State :=
  let x := getJob s j
  let a := x.addr + x.fed
  let n := min (x.len - x.fed) (4096 - a % 4096)
  if n = 0 then setJob j (fun x => { x with rd := none }) s
  else startXfer (.crcRead j) false 0x212 a n [] (setJob j (fun x => { x with rd := some (nextXfer s) }) s)

/-- START (R441). -/
def crcStart (j value : Nat) (s : State) : State :=
  let x := getJob s j
  let final := value.testBit 2
  let p := jobParams x
  let s1 := setJob j (fun x => { x with
    state := .running, final := final, fed := 0, code := 0, rd := none
    r := (if value.testBit 1 then x.val else p.ini) % 2 ^ p.width }) s
  let ends (c : Nat) (s : State) : State := crcEndJob j (setJob j (fun x => { x with code := c }) s)
  if jobBusy x then s
  else if legacyBad x || (x.len = 0 && !final) then ends 3 s1
  else if x.len != 0 && !inWindow s x.addr x.len then lines (ends 4 (violation s1))
  else jobRead j s1

/-- ABORT of a RUNNING job. -/
def crcAbort (j : Nat) (s : State) : State :=
  let x := getJob s j
  if x.state = .running then
    crcEndJob j (setJob j (fun x => { x with code := 5, rd := none }) (dropXfers (fun y => some y.id = x.rd) s))
  else s

/-- A write of CRC_CTRL. -/
def crcCtrl (j value : Nat) (s : State) : State :=
  regWrite (j < 4) (0x04003C + 0x80 * j) (fun s =>
    if j ≥ 4 then s
    else if value.testBit 0 then crcStart j value s
    else if value.testBit 3 then crcAbort j s
    else s) s

/-- The bytes of a read are fed: those before the first errored beat, `good` beats of it being right; an errored one is a cause of
INT_ERR (R442, R534). -/
def crcReadDone (j good : Nat) (x : Xfer) (s : State) : State :=
  let y := getJob s j
  if y.rd != some x.id then s
  else
    let lead := x.addr % 64
    let n := if x.err then min x.len (64 * good - lead) else x.len
    let s1 := setJob j (fun y => { y with r := crcFeed (jobParams y) y.r (x.data.take n), fed := y.fed + n }) s
    if x.err then raiseErr 8 (setJob j (fun y => { y with code := 2, rd := none }) s1) else jobRead j s1

/-- CRC_JOB_END: every byte is fed, or a read has failed. -/
def crcJobEnd (j : Nat) (s : State) : State :=
  let x := getJob s j
  if j < 4 && x.state = .running && x.rd.isNone && !coreOff s then crcEndJob j s else s

/-- The write response of a ring entry. -/
def crcRingDone (j : Nat) (x : Xfer) (s : State) : State :=
  let y := getJob s j
  if y.wr != some x.id then s
  else
    let s1 := setJob j (fun y => { y with wr := none, hold := x.err }) s
    if x.err then tryRings (raiseErr 8 s1)
    else tryRings (jobDone j (crcCause 4 (s1.updCrc fun c => { c with prod := (c.prod + 1) % 2 ^ 32 })))

/-- CRC_RING_RETRY: 1 µs after an errored ring write. -/
def crcRingRetry (s : State) : State :=
  if coreOff s then s
  else tryRings (s.updCrc fun c => { c with slots := c.slots.map fun x => (x.1, { x.2 with hold := false }) })

/-- A write of CRC_RING_CONS. -/
def crcRingCons (value : Nat) (s : State) : State :=
  regWrite (resultRing s) 0x040410 (fun s =>
    if resultRing s then tryRings (s.updCrc fun c => { c with cons := value % 2 ^ 32 }) else s) s

def execCrcStart (j v : Nat) (s : State) : Out := .next (crcCtrl j v s)
def execCrcAbort (j v : Nat) (s : State) : Out := .next (crcCtrl j v s)
def execCrcJobEnd (j : Nat) (s : State) : Out := .next (crcJobEnd j s)
def execCrcRingRetry (s : State) : Out := .next (crcRingRetry s)
def execCrcRingConsWrite (v : Nat) (s : State) : Out := .next (crcRingCons v s)

end Sys2Proof.Machine
end

