-- ==== Sys2Proof/Machine/Mgmt.lean ====
section
/-! DEFINITION. The Onyx pair, Jasper's takeover and cold restart (R482-R486, R503). -/

namespace Sys2Proof.Machine

open Sys2Proof

/-- How often a core failed in the last 24 h of TB7 (R484). -/
def failedLately (s : State) (core : Nat) : Nat :=
  (s.res.fails.filter fun x => x.1 = core && nowNs s < x.2 + 86400 * 1000000000).length

/-- MGMT in SERVICE_STATUS clears when both cores run firmware and the standby is READY (R498). -/
def judgeMgmt (s : State) : State := if s.sys.fw && s.res.standby = .ready then setService 6 false s else s

/-- The epoch of the core that was active is revoked.  Each configuration write that it still issues is rejected and counted: the
manual does not say how many those are, which is a free value (R482, log 50). -/
def revokeEpoch (s : State) : State :=
  let r := draw s
  bumpN 0xE0 0 8 r.1 (r.2.updRes fun x => { x with coreEpoch := (x.coreEpoch + 1) % 65536 })

/-- The standby becomes active; the old core is left to synchronise, or is FAILED (R484 steps 2 and 4). -/
def swapCores (old : Standby) (s : State) : State :=
  let n := 1 - s.res.active
  let s1 := (revokeEpoch s).updRes fun r => { r with active := n, standby := old, jasper := .takeover }
  let s2 := bump 0xE0 0 6 (logFault fkTakeover { sub := 4, unit := n } 0 s1)
  if old = .failed then setService 6 true s2 else s2

/-- Step 3 of a takeover: MGMT_TAKEOVER is raised, and requests are taken again. -/
def finishTakeover (s : State) : State :=
  if s.res.jasper = .takeover && onyxUp s then
    raiseAll 0x0181 (toLe 1 s.res.active) (s.updRes fun r => { r with jasper := .idle })
  else s

/-! ## The end of a load -/

/-- The response data of RES_IMAGE_LOAD, once its prefix was accepted. -/
def loadBytes (l : LoadSt) : Bytes :=
  if l.ctLen = 0 then []
  else toLe 4 l.version ++ toLe 4 l.build ++ toLe 4 l.result ++ toLe 2 l.epoch ++ toLe 1 l.restarts ++ zeros 1

/-- IMAGE_DONE (R502). -/
def imageDone (kind st build : Nat) (s : State) : State :=
  raise0 0x0E83 noSubj (toLe 1 kind ++ toLe 1 st ++ zeros 2 ++ toLe 4 build) s

/-- The load ends with a status. -/
def endLoad (st detail : Nat) (s : State) : State :=
  match s.res.load with
  | none => s
  | some l =>
    let s1 := if st = stOk then bump 0xE0 0 10 s else if st = stImgAuth then bump 0xE0 0 11 s else s
    let s2 := imageDone l.kind st (if st = stOk then l.build else 0) (s1.updRes fun r => { r with load := none })
    match runningFor 0x0E01 s2 with
    | some q => finishRunning q ⟨st, detail, loadBytes l⟩ s2
    | none => s2

/-! ## The cold restart (R485, R486) -/

/-- A transfer that a command of Onyx waits for. -/
def onyxXfer (x : Xfer) : Bool :=
  match x.purp with
  | .payload => true
  | .image => true
  | .stage => true
  | .scrub => true
  | .stageRead => true
  | _ => false

/-- A long-running command that runs on Onyx itself, and is executed again from its start (R103, R503). -/
def onOnyx (q : Req) : Bool := rqCode q.hdr = 0x0E01 || rqCode q.hdr = 0x0E02

/-- An image load that SYS_ABORT has ended, of which only the scrub is left, ends with its core (R124).  The abort was answered,
so its outcome stands (DESIGN CHOICE, log 51). -/
def endAborted (s : State) : State :=
  if s.res.load.bind (·.fail) = some stAborted then endLoad stAborted 0xFFFFFFFF s else s

/-- The requests in execution on the failed core wait again, before those not yet taken: their effects had not become durable
(R103). -/
def requeue (s0 : State) : State :=
  let s := endAborted s0
  let again := (s.gv.running.filter onOnyx).map (·.mb) ++ (s.gv.taken.map (·.mb)).toList
  ((dropXfers onyxXfer s).updRes fun r => { r with
    load := none, act := none, scrubs := [], ciphAbandoned := r.ciphAbandoned || r.ciphOut, ciphOut := false }).updGv fun g => { g with
      taken := none, running := g.running.filter (fun q => !onOnyx q), queue := again ++ g.queue }

/-- Neither core runs from here on: events are held, and responses wait (R92, R122). -/
def stopCores (s : State) : State := s.updSys fun y => { y with boot := false, fw := false }

/-- Step 1 of a cold restart, with the steps 2 and 3 that follow at once.  Before the control region is configured it loses MB0's
token records, and those of the other mailboxes are kept (DESIGN CHOICE, log 77). -/
def coldRestart (cause : Nat) (s : State) : State :=
  let s1 := requeue (stopCores s)
  let s2 := revokeEpoch (bump 0xE0 0 7 (logFault fkCold { sub := 4 } cause s1))
  let s3 := s2.updRes fun r => { r with
    jasper := .cold, standby := .failed, colds := min 255 (r.colds + 1), coldTimes := r.coldTimes ++ [nowNs s] }
  dropInq .onyx .onyx (if s.host.control.size = 0 then setMb 0 (fun b => { b with tokens := [] }) s3 else s3)

/-- A cold restart, unless three within 1 s have not reached step 6: then Jasper gives up. -/
def tryCold (cause : Nat) (s : State) : State :=
  let n := (s.res.coldTimes.filter fun t => nowNs s < t + 1000000000).length
  if n ≥ 3 then setService 6 true (s.updRes fun r => { r with jasper := .gaveUp }) else coldRestart cause s

/-- The other core has failed in this very cycle (R485). -/
def bothFailed (core : Nat) (s : State) : Bool := s.res.fails.any fun x => x.1 != core && x.2 = nowNs s

/-- The active core fails: a takeover, or a cold restart (R484, R485, R503). -/
def onyxFail (cause : Nat) (s : State) : State :=
  let c := s.res.active
  if s.sys.held || coreOff s then s
  else if s.res.jasper = .gaveUp then s
  else if s.res.jasper = .cold then tryCold 4 s
  else if !s.sys.boot && !s.sys.fw then s
  else
    let f (s : State) : State :=
      logFault fkOnyx { sub := 4, unit := c } cause (s.updRes fun r => { r with fails := r.fails ++ [(c, nowNs s)] })
    if s.res.standby = .ready then
      let s1 := f s
      swapCores (if failedLately s1 c ≥ 3 || s.res.noResync.contains c then .failed else .sync) (requeue s1)
    else tryCold (if bothFailed c s then 3 else 1) (f (stopCores s))

/-- COLD_RESTART_DONE: the firmware runs again when its digest matches, and otherwise boot code does (steps 4 to 6). -/
def coldDone (s : State) : State :=
  if s.res.jasper != .cold then s
  else
    let s1 := s.updRes fun r => { r with jasper := .idle }
    if s.res.fwHeld && !s.res.fwBad then
      let s2 := (s1.updSys fun y => { y with fw := true, onyxVer := s.res.keptVer }).updRes fun r => { r with
        coldTimes := [], fwBuild := r.keptBuild, fwNext := none
        standby := if r.noResync.contains (1 - r.active) then .failed else .sync }
      onyxRuns (raiseAll 0x0182 (toLe 1 1 ++ zeros 3 ++ toLe 4 s.gv.queue.length) s2)
    else onyxRuns (setService 6 true (s1.updSys fun y => { y with boot := true }))

/-- The standby core fails: during a takeover both cores have (R503). -/
def standbyFails (f : Nat → State → State) (s : State) : State :=
  let n := 1 - s.res.active
  if s.sys.held || coreOff s || !s.sys.fw then s
  else if s.res.jasper = .takeover then coldRestart (if bothFailed n s then 3 else 2) s
  else if s.res.standby = .failed then s
  else f n (s.updRes fun x => { x with fails := x.fails ++ [(n, nowNs s)] })

/-- The standby is FAILED, which sets MGMT (R484). -/
def standbyDown (s : State) : State := setService 6 true (s.updRes fun x => { x with standby := .failed })

/-- STANDBY_CORE_FAIL: it fails for a cause that the block is not told, which is a free value, and is FAILED (R503). -/
def standbyFail : State → State :=
  standbyFails fun n s => let r := draw s; standbyDown (logFault fkOnyx { sub := 4, unit := n } r.1 r.2)

/-- A memory of the standby is lost to it: it is treated as crashed, and runs step 4 of R484 (R474). -/
def standbyCrash : State → State :=
  standbyFails fun n s =>
    let s1 := logFault fkOnyx { sub := 4, unit := n } 3 s
    if failedLately s1 n ≥ 3 || s.res.noResync.contains n then standbyDown s1 else s1.updRes fun x => { x with standby := .sync }

/-! ## RES_MGMT_SWITCH -/

/-- A planned takeover, without a reset of the old core. -/
def mgmtSwitch (_q : Req) (s : State) : State × Reply :=
  if s.res.standby != .ready then (s, errR stWrongState)
  else (finishTakeover (swapCores .sync (logFault fkOnyx { sub := 4, unit := s.res.active } 4 s)), okR)

/-- REQUEST_TAKE: a takeover in progress ends first, then Onyx takes the next accepted request (R90, R484). -/
def requestTake (s : State) : State := takeNext (finishTakeover s)

def execOnyxTrap (s : State) : Out := .next (onyxFail 1 s)
def execOnyxHang (s : State) : Out := .next (onyxFail 2 s)
def execColdRestartDone (s : State) : Out := .next (coldDone s)
def execStandbyCoreFail (s : State) : Out := .next (standbyFail s)
def execResMgmtSwitch (s : State) : Out := .next (immediate 0x0E05 mgmtSwitch s)
def execRequestTake (s : State) : Out := .next (requestTake s)

end Sys2Proof.Machine
end

