-- ==== Sys2Proof/Machine/Repair.lean ====
section
/-! DEFINITION. Memory protection, the scrubber and the repair of rows and columns (R472-R480). -/

namespace Sys2Proof.Machine

open Sys2Proof

/-- The classes of memories (R474). -/
inductive MemClass where
  | store | dup | imem | dmem | onyx | watch
  deriving DecidableEq, Repr

/-- The class of the memory at a place: of an engine's macros, the first two hold IMEM (log 14). -/
def memClass (p : Place) : MemClass :=
  if p.sub = 0 && p.unit < 32 then .store
  else if p.sub = 3 && p.unit < 8 then (if p.mac < 2 then .imem else .dmem)
  else if p.sub = 4 then .onyx
  else if p.sub = 11 then .watch
  else .dup

/-- The macro that holds a place. -/
def macOf (p : Place) : Place := { p with row := 0xFFFF, col := 0xFFFF }
/-- The row, and the column, of a macro that a place lies in. -/
def rowOf (p : Place) : Place := { p with col := 0xFFFF }
def colOf (p : Place) : Place := { p with row := 0xFFFF }

/-- The macro with the other copy of a duplicated memory (log 14). -/
def otherCopy (p : Place) : Place := { p with mac := p.mac ^^^ 1 }

def getMacro (s : State) (p : Place) : Macro := (s.res.macros.find? (·.place = macOf p)).getD { place := macOf p }

def setMacro (p : Place) (f : Macro → Macro) (s : State) : State :=
  s.updRes fun r => { r with macros := r.macros.filter (·.place != macOf p) ++ [f (getMacro s p)] }

/-- A bank is retired now, or after the retirement that runs (R503). -/
def failBank (b : Nat) (s : State) : State :=
  if s.store.retire.any fun x => x.bank != b then
    s.updRes fun r => { r with retireNext := r.retireNext ++ (if r.retireNext.contains b then [] else [b]) }
  else startRetire b 0 s

/-- The next bank that awaits the end of another's retirement. -/
def nextRetire (s : State) : State :=
  match s.res.retireNext with
  | [] => s
  | b :: t => if s.store.retire.isEmpty then startRetire b 0 (s.updRes fun r => { r with retireNext := t }) else s

/-- An Onyx core's memory is lost to it. -/
def onyxMemory (core : Nat) (s : State) : State := if core = s.res.active then onyxFail 3 s else standbyCrash s

/-- A fault condemns an engine; one found while its condemnation runs waits for the end of that (R471). -/
def condemnIf (e cause : Nat) (s : State) : State :=
  let m := (getEng s e).mode
  if m = .active || m = .draining || m = .spare then condemn e cause s
  else if m = .condemned then setEng e (fun g => { g with again := some (g.again.getD cause) }) s
  else s

/-- No spare of the kind is left (R478). -/
def exhausted (p : Place) (s : State) : State :=
  let s1 := logFault fkExhausted p 0 (setService 1 true s)
  match memClass p with
  | .store => failBank p.unit s1
  | .dup => logFault fkCopy p 0 (setMacro p (fun m => { m with down := true }) s1)
  | .imem => condemnIf p.unit 4 (setEng p.unit (fun g => { g with noReturn := true }) s1)
  | .dmem => condemnIf p.unit 4 (setEng p.unit (fun g => { g with noReturn := true }) s1)
  | .onyx => onyxMemory p.unit (s1.updRes fun r => { r with noResync := r.noResync ++ [p.unit] })
  | .watch => setMacro p (fun m => { m with down := true }) (s1.updRes fun r => { r with watchKib := r.watchKib - 32 })

/-- The row or column of a repair. -/
def repairAt (column : Bool) (p : Place) : Place := if column then colOf p else rowOf p

/-- Begin a repair, with the next spare of the macro (R477, R478). -/
def beginRepair (column : Bool) (p : Place) (s : State) : State :=
  let m := getMacro s p
  let used := if column then m.cols else m.rows
  if m.down then s
  else if used ≥ (if column then 2 else 4) then exhausted (repairAt column p) s
  else
    setMacro p (fun m => if column then { m with cols := m.cols + 1 } else { m with rows := m.rows + 1 })
      (s.updRes fun r => { r with repairs := r.repairs ++ [{ place := repairAt column p, column := column, spare := some used }] })

/-- A repair of the same unit. -/
def Repair.sameUnit (p : Place) (r : Repair) : Bool := r.place.sub = p.sub && r.place.unit = p.unit

/-- A repair is needed: it begins, or follows the repairs of its unit (R471, R475). -/
def startRepair (column : Bool) (p : Place) (s : State) : State :=
  let at_ := repairAt column p
  if (getMacro s p).down || s.res.repairs.any (fun r => r.place = at_ && r.column = column) then s
  else if s.res.repairs.any (Repair.sameUnit p) then
    s.updRes fun r => { r with repairs := r.repairs ++ [{ place := at_, column := column, spare := none }] }
  else beginRepair column p s

/-- The next repairs of a unit in which none is in progress, up to the first that finds a spare (R471). -/
def nextRepair (p : Place) : Nat → State → State
  | 0, s => s
  | f + 1, s =>
    match s.res.repairs.find? (Repair.sameUnit p) with
    | none => s
    | some r =>
      if r.spare.isSome then s
      else nextRepair p f (beginRepair r.column r.place (s.updRes fun x => { x with repairs := x.repairs.filter (· != r) }))

/-! ## What a read finds (R474, R475) -/

/-- Corrected errors in one row in two scrub passes call for a repair of the row. -/
def judgeRow (p : Place) (s : State) : State :=
  let again := s.res.rowErr.any fun x => x.1 = rowOf p && x.2 != s.res.passes
  let s1 := s.updRes fun r => { r with rowErr := r.rowErr.filter (·.1 != rowOf p) ++ [(rowOf p, r.passes)] }
  if again then startRepair false p s1 else s1

/-- Errors in one bit column in three rows within one scrub pass call for a repair of the column. -/
def judgeColumn (p : Place) (s : State) : State :=
  if s.res.colErr.contains p then s
  else
    let s1 := s.updRes fun r => { r with colErr := r.colErr ++ [p] }
    if (s1.res.colErr.filter fun q => colOf q = colOf p).length = 3 then startRepair true p s1 else s1

/-- A single-bit error. -/
def corrected (p : Place) (s : State) : State :=
  judgeColumn p <| judgeRow p (logFault fkCorrected p 0 (bump 0xE0 0 0 (s.updRes fun r => { r with ce := sat32 r.ce })))

/-- A word of a buffer is uncorrectable: its next reader fails (R206). -/
def loseSlot (bank slot : Nat) (s : State) : State :=
  let here (b : Buf) : Bool :=
    match b.loc with
    | .sram k j => k = bank && j = slot
    | .movingOut k j _ => k = bank && j = slot
    | .movingIn k j _ => k = bank && j = slot
    | _ => false
  match s.store.bufs.find? fun x => here x.2 with
  | some x => updBuf x.1 (fun b => { b with lost := true }) s
  | none => s

/-- A frame in the watch buffer is discarded. -/
def loseWatch (i : Nat) (s : State) : State :=
  match s.pwr.buf[i]? with
  | some f => bump 0xD1 f.port 2 (s.updPwr fun p => { p with buf := p.buf.eraseIdx i })
  | none => s

/-- Change the entry of a list that a number picks. -/
def corruptAt {α : Type} (i : Nat) (f : α → α) (l : List α) : List α :=
  l.zipIdx.map fun x => if x.2 = i % l.length then f x.1 else x.1

/-- The entry of a word that is lost keeps the corrupt value (R479).  The manual says neither to which entry of the duplicated
memories of its subsystem a word belongs nor what it then holds: both are free values, in one field of one memory for each subsystem
(DESIGN CHOICE, log 95). -/
def corruptEntry (sub : Nat) (s0 : State) : State :=
  let r := draw s0
  let d := draw r.2
  let i := r.1
  let v := d.1
  let s := d.2
  match sub with
  | 0 => s.updStore fun t => { t with table := corruptAt i (fun x => (x.1, { x.2 with sig := v % 2 ^ 32 })) t.table }
  | 1 => s.updCls fun c => { c with vers := corruptAt i (fun x => { x with val := overlay x.val (v / 256 % x.val.length) (toLe 1 v) }) c.vers }
  | 2 => s.updFlow fun f => { f with
      cache := corruptAt i (fun x => (x.1, x.2.map fun w => { w with image := overlay w.image (v / 256 % 32) (toLe 1 v) })) f.cache }
  | 3 => s.updPipe fun p => { p with slots := corruptAt i (fun x => (x.1, { x.2 with order := v })) p.slots }
  | 5 => s.updCh fun t => corruptAt i (fun x => (x.1, { x.2 with events := v % 2 ^ 32 })) t
  | 6 => s.updSch fun t => { t with upper := { t.upper with deficit := corruptAt i (fun x => (x.1, v % 2 ^ 32)) t.upper.deficit } }
  | 7 => s.updSta fun t => corruptAt i (fun x => (x.1, { x.2 with parked := v % 16 })) t
  | 8 => s.updTime fun t => { t with tb := corruptAt i (fun x => (x.1, { x.2 with v := v * nsUnit % tbSpan })) t.tb }
  | _ => s

/-- What a double-bit error does in its memory. -/
def loseWord (h : ScrubHit) (s : State) : State :=
  let p := h.place
  match memClass p with
  | .store =>
    let s1 := match h.slot with
      | some j => loseSlot p.unit j s
      | none => s
    match h.link with
    | some q => s1.updRes fun r => { r with rebuild := if r.rebuild.contains q then r.rebuild else r.rebuild ++ [q] }
    | none => s1
  | .dup =>
    if (getMacro s p).down then s
    else if (getMacro s (otherCopy p)).down then setService 8 true (logFault fkUnrecovered p 0 (corruptEntry p.sub s))
    else startRepair false (otherCopy p) s
  | .imem => s
  | .dmem => condemnIf p.unit 3 s
  | .onyx => let r := draw s; onyxMemory p.unit (r.2.updRes fun x => { x with fwBad := x.fwBad || r.1 % 2 = 1 })
  | .watch =>
    match h.slot with
    | some i => if (getMacro s p).down then s else loseWatch i s
    | none => s

/-- A double-bit error. -/
def uncorrected (h : ScrubHit) (s : State) : State :=
  let p := h.place
  let s1 := raiseErr 5 (bump 0xE0 0 1 (s.updRes fun r => { r with ue := sat32 r.ue }))
  judgeColumn p (startRepair false p (loseWord h (logFault fkUncorrected p (p.row * 8 + p.col / 72) s1)))

/-- A scrub pass ends. -/
def endPass (s : State) : State :=
  bump 0xE0 0 4 (s.updRes fun r => { r with
    passes := r.passes + 1, passRun := false, passNs := nowNs s, colErr := [] })

/-- SCRUB_READ: the scrubber, or a unit's read, finds a word. -/
def scrubRead (h : ScrubHit) (s : State) : State :=
  if s.sys.held || (coreOff s && h.place.sub != 11) then s
  else
    let s0 := s.updRes fun r => { r with passRun := r.passRun || r.period != 0 }
    let s1 := if h.wrong = 0 then s0 else if h.wrong = 1 then corrected h.place s0 else uncorrected h s0
    nextRetire (if h.last && s0.res.passRun then endPass s1 else s1)

/-! ## The ends of repairs -/

/-- A repair ends: its counter, its fault record and its entry in the repair record (R477, R480). -/
def repairDone (column : Bool) (loc : Place) (s : State) : State :=
  let at_ := repairAt column loc
  match s.res.repairs.find? fun r => r.place = at_ && r.column = column && r.spare.isSome with
  | none => s
  | some r =>
    let s1 := s.updRes fun x => { x with
      repairs := x.repairs.filter (· != r)
      rowErr := if column then x.rowErr else x.rowErr.filter (·.1 != at_) }
    let s2 := logFault (if column then fkColumn else fkRow) at_ 0 (bump 0xE0 0 (if column then 3 else 2) s1)
    nextRepair at_ s.res.repairs.length
      (appendRecord (recordEntry (if column then 2 else 1) at_ (if column then at_.col else at_.row) (r.spare.getD 0)) s2)

/-! ## Memory BIST (R523) -/

/-- The distinct members of a list, in order. -/
def distinct (l : List Nat) : List Nat := l.foldl (fun a x => if a.contains x then a else a ++ [x]) []

/-- BIST allocates the repairs of one macro (R523), with spare rows and columns already in use: columns first, then rows with several
cells, then single cells; a failing spare is not used.  Its status, and the columns and the rows, each with its spare. -/
def bistAllocate (rowsUsed colsUsed : Nat) (cells : List Cell) : Nat × List (Nat × Nat) × List (Nat × Nat) :=
  let main := cells.filter fun c => c.1 < 512 && c.2 < 576
  let cols := (distinct (main.map (·.2))).filter fun c => (distinct ((main.filter fun x => x.2 = c).map (·.1))).length ≥ 3
  let rest := main.filter fun x => !cols.contains x.2
  let many := (distinct (rest.map (·.1))).filter fun r => (distinct ((rest.filter fun x => x.1 = r).map (·.2))).length ≥ 2
  let rows := many ++ distinct ((rest.filter fun x => !many.contains x.1).map (·.1))
  let spareRows := (upto rowsUsed (4 - rowsUsed)).filter fun r => !cells.any fun x => x.1 = 512 + r
  let spareCols := (upto colsUsed (2 - colsUsed)).filter fun c => !cells.any fun x => x.2 = 576 + c
  if main.isEmpty then (0, [], [])
  else if cols.length > spareCols.length || rows.length > spareRows.length then (2, [], [])
  else (1, cols.zip spareCols, rows.zip spareRows)

/-- A repair that BIST has made: its spare, its fault record, its counter and its entry in the repair record (R477, R480). -/
def bistRepair (column : Bool) (p : Place) (x : Nat × Nat) (s : State) : State :=
  let at_ := if column then { p with col := x.1 } else { p with row := x.1 }
  let s1 := setMacro p (fun m => if column then { m with cols := max m.cols (x.2 + 1) } else { m with rows := max m.rows (x.2 + 1) }) s
  appendRecord (recordEntry (if column then 2 else 1) at_ x.1 x.2)
    (logFault (if column then fkColumn else fkRow) at_ 0 (bump 0xE0 0 (if column then 3 else 2) s1))

/-- BIST tests and repairs the memories of an engine: whether they are good, with `fails` the failing cells of its macros
(R481, R523). -/
def engineTest (e : Nat) (fails : List (Nat × List Cell)) (s : State) : Bool × State :=
  fails.foldl (fun (acc : Bool × State) x =>
    let p : Place := { sub := 3, unit := e, mac := x.1 }
    let m := getMacro acc.2 p
    let r := bistAllocate m.rows m.cols x.2
    if r.1 = 2 then (false, logFault fkExhausted p 0 (setService 1 true acc.2))
    else (acc.1, r.2.2.foldl (fun s y => bistRepair false p y s) (r.2.1.foldl (fun s y => bistRepair true p y s) acc.2))) (true, s)

def freeListDone (p : Nat) (s : State) : State := s.updRes fun r => { r with rebuild := r.rebuild.filter (· != p) }

/-- IMEM_REFILL_DONE: the row holds again what the retained images give it. -/
def imemRefill (e : Nat) (s : State) : State :=
  if e < nEngines s && (getEng s e).base then setEng e (fun g => { g with imem := imemImage s }) s else s

/-! ## The immediate commands of resilience (R500) -/

def resCondemn (q : Req) (s : State) : State × Reply :=
  let e := u8 q.payload 0
  let m := (getEng s e).mode
  if e ≥ nEngines s then (s, inv 0)
  else if m = .active || m = .draining || m = .spare then (condemn e 5 s, okR)
  else (s, errR stWrongState)

def resConfig (q : Req) (s : State) : State × Reply :=
  let p := q.payload
  if u16 p 0 > 168 then (s, inv 0)
  else (s.updRes fun r => { r with period := u16 p 0, blockId := u8 p 2, packageId := u8 p 3 }, okR)

/-- RES_ENGINE_STATUS (R499). -/
def engineStatusWord (s : State) : Nat :=
  let mask (f : Engine → Bool) : Nat := ((List.range (nEngines s)).map fun e => b2n (f (getEng s e)) * 2 ^ e).sum
  mask (·.failed) + 2 ^ 8 * mask (fun g => g.mode = .condemned) + 2 ^ 16 * mask (fun g => g.mode = .spare)

def standbyNum : Standby → Nat
  | .ready => 0
  | .sync => 1
  | .failed => 2

/-- RES_MGMT_STATUS (R499). -/
def mgmtStatusWord (s : State) : Nat := s.res.active + 4 * standbyNum s.res.standby + 2 ^ 8 * s.res.colds

def resStatusBytes (s : State) : Bytes :=
  let held := (s.res.images.keys.map (2 ^ ·)).sum
  toLe 4 s.sys.svcStatus ++ toLe 4 (engineStatusWord s) ++ toLe 4 (mgmtStatusWord s) ++ toLe 2 s.res.record.length ++
    toLe 2 s.res.log.length ++ toLe 4 (s.res.seq + 2 ^ 32 - 1) ++ toLe 2 held ++ toLe 2 s.res.watchKib ++ toLe 8 s.res.passNs

def resFaultRead (q : Req) (s : State) : State × Reply :=
  let n := u8 q.payload 0
  if n = 0 || n > 7 then (s, inv 0)
  else
    let l := s.res.log.take n
    (s.updRes fun r => { r with log := r.log.drop n }, okD (toLe 1 l.length ++ zeros 7 ++ l.flatten))

def resCountersCmd (q : Req) (s : State) : State × Reply :=
  let p := q.payload
  let sel := u8 p 0
  let id := u16 p 2
  match firstErr [(sel > 1, inv 0), (u8 p 1 > 1, inv 1), (sel = 1 && !portCodeOk s id, inv 2)] with
  | some r => (s, r)
  | none =>
    let r := if sel = 0 then readCounters 0xE0 0 13 (u8 p 1 = 1) s else readCounters 0xE1 id 1 (u8 p 1 = 1) s
    (r.2, okD r.1)

def execScrubRead (h : ScrubHit) (s : State) : Out := .next (scrubRead h s)
/-- A repair ends; the macro of the watch buffer is always on. -/
def repairEvent (column : Bool) (loc : Place) (s : State) : State :=
  if loc.sub = 11 then repairDone column loc s else clocked s (repairDone column loc s)

def execRowRepairDone (loc : Place) (s : State) : Out := .next (repairEvent false loc s)
def execColumnRepairDone (loc : Place) (s : State) : Out := .next (repairEvent true loc s)
def execFreeListRebuildDone (p : Nat) (s : State) : Out := .next (clocked s (freeListDone p s))
def execImemRefillDone (e : Nat) (s : State) : Out := .next (clocked s (imemRefill e s))
def execResEngineCondemn (s : State) : Out := .next (immediate 0x0E03 resCondemn s)
def execResConfig (s : State) : Out := .next (immediate 0x0E06 resConfig s)
def execResStatusGet (s : State) : Out := .next (immediate 0x0E07 (fun _ s => (s, okD (resStatusBytes s))) s)
def execResFaultRead (s : State) : Out := .next (immediate 0x0E08 resFaultRead s)
def execResCountersGet (s : State) : Out := .next (immediate 0x0E09 resCountersCmd s)

end Sys2Proof.Machine
end

