-- ==== Sys2Proof/Machine/Images.lean ====
section
/-! DEFINITION. Image loads and activations, and the cipher request port (R58-R60, R487-R494, R506). -/

namespace Sys2Proof.Machine

open Sys2Proof

def updLoad (f : LoadSt → LoadSt) (s : State) : State := s.updRes fun r => { r with load := r.load.map f }

def updAct (f : ActSt → ActSt) (s : State) : State := s.updRes fun r => { r with act := r.act.map f }

/-- The length of what the cipher engine is sent: ciphertext and tag. -/
def LoadSt.total (l : LoadSt) : Nat := l.ctLen + 16

/-- How many bytes the cipher engine has been sent. -/
def LoadSt.fed (l : LoadSt) : Nat := l.sent.length

/-- The rest of the stream is sent as zeros. -/
def LoadSt.zeroRest (l : LoadSt) : LoadSt := { l with sent := l.sent ++ zeros (l.total - l.fed) }

/-- CIPH_REQ_SLOT, CIPH_REQ_EPOCH and CIPH_REQ_LEN of the request outstanding (R58). -/
def cipherRequest (s : State) : Option (Nat × Nat × Nat) :=
  if s.res.ciphOut then s.res.load.map fun l => (l.slot, l.epoch, l.ctLen) else none

/-! ## The cipher request (R489 step 3) -/

/-- The rest of the image is sent as zeros after an errored read (R490). -/
def feedZeros (l : LoadSt) (s : State) : State :=
  updLoad (fun x => { x.zeroRest with fail := some (l.fail.getD stHostRead) }) s

/-- Read the next bytes of the image, up to a 4 KiB boundary; outside every region the read is errored (R40). -/
def readCipher (l : LoadSt) (s : State) : State :=
  let a := l.addr + 16 + l.fed
  let n := min (l.total - l.fed) (4096 - a % 4096)
  if regionOk s a n then startXfer .image false 0x210 a n [] s else feedZeros l (lines (violation s))

/-- Issue the cipher request, once no other is outstanding or abandoned (R60). -/
def startCipher (s : State) : State :=
  match s.res.load with
  | none => s
  | some l =>
    if s.res.ciphOut || s.res.ciphAbandoned then updLoad (fun l => { l with phase := .wait }) s
    else
      let n := { l with phase := .cipher, sent := [], got := [], written := 0 }
      readCipher n (s.updRes fun r => { r with ciphOut := true, load := some n })

/-! ## Scrubs (R491) -/

/-- Write zeros over a range of host memory; outside every region the write is errored, and awaits its retry (R40, R491). -/
def scrubAt (a n : Nat) (s : State) : State :=
  if regionOk s a n then startXfer .scrub true 0x210 a n (zeros n) s
  else (lines (violation s)).updRes fun r => { r with scrubs := r.scrubs ++ [(a, n)] }

/-- Write zeros over a range of staging. -/
def scrubRange (off n : Nat) (s : State) : State := scrubAt (s.host.staging.base + off) n s

/-- What follows the scrub of a load. -/
def afterScrub (l : LoadSt) (s : State) : State :=
  let again := l.phase = .scrubOld || l.phase = .scrub true
  match l.fail with
  | some st => endLoad st l.detail s
  | none => if again then startCipher s else s

/-- Scrub what the load has written. -/
def scrubLoad (restart : Bool) (s : State) : State :=
  match s.res.load with
  | none => s
  | some l =>
    let n := { l with phase := .scrub restart }
    let s1 := s.updRes fun r => { r with load := some n }
    if l.written = 0 then afterScrub n s1 else scrubRange l.off l.written s1

/-- The load fails with a status, after a scrub. -/
def failLoad (st detail : Nat) (s : State) : State :=
  scrubLoad false (updLoad (fun l => { l with fail := some (l.fail.getD st), detail := if l.fail.isSome then l.detail else detail }) s)

/-! ## The checks of the header, and the activation by the load (R488, R489, R492) -/

/-- The header of a plaintext is not well formed. -/
def headerBad (kind ctLen : Nat) (h : Bytes) : Bool :=
  let im := u8 h 17
  let dm := u8 h 18
  u8 h 0 != kind || !allZero (slice h 1 3) || !allZero (slice h 19 45) || u32 h 12 != ctLen - 64 ||
    (if kind = 2 then u8 h 16 = 0 || u8 h 16 > 15 || im = 0 || im > 8 || dm > 24 || u32 h 12 != 4096 * (im + dm)
     else !allZero (slice h 16 3))

/-- The BUILD running of a kind, if one runs; a rule image never runs. -/
def runningBuild (s : State) (kind : Nat) : Nat :=
  match kind with
  | 0 => if s.sys.fw then s.res.fwBuild else 0
  | 1 => s.eng.baseBuild
  | 2 => s.eng.extBuild
  | _ => 0

/-- The lowest run of `n` free pages among `pages`, given the runs in use. -/
def freeRun (pages n : Nat) (used : List (Nat × Nat)) : Option Nat :=
  (List.range (pages + 1 - n)).find? fun i => used.all fun u => u.2 = 0 || i + n ≤ u.1 || u.1 + u.2 ≤ i

/-- Load an extension program into every engine that holds programs (R309); the status if it does not fit. -/
def loadProgram (h body : Bytes) (s : State) : State ⊕ Nat :=
  let n := u8 h 16
  let im := u8 h 17
  let dm := u8 h 18
  if (s.eng.progs.get? n).isSome then .inr stExists
  else
    match freeRun 8 im (s.eng.progs.vals.map fun p => (p.ipage, p.ipages)),
        (if dm = 0 then some 0 else freeRun 24 dm (s.eng.progs.vals.map fun p => (p.dpage, p.dpages))) with
    | some i, some d =>
      let p : Prog := { ipage := i, ipages := im, dpage := d, dpages := dm, icode := body.take (4096 * im), ddata := body.drop (4096 * im) }
      let s1 := s.updEng fun g => { g with progs := g.progs.set n p, extBuild := u32 h 8 }
      .inl ((loadedEngines s).foldl (fun s e => setEng e (fun g => { g with
        imem := Mem.wrN g.imem (0x8000 + 4096 * i) p.icode, dmem := Mem.wrN g.dmem (0x8000 + 4096 * d) p.ddata }) s) s1)
    | _, _ => .inr stNoResource

/-- The checks of one request of a rule image; the status that it would return.  MB0 loads rule images though its own requests
name two units only (R93, R492); on another mailbox its CAPS bind (DEDUCED, log 75). -/
def ruleRequestBad (s : State) (q : Req) (h p : Bytes) (short : Bool) : Option Nat :=
  match specOf (rqCode h) with
  | none => some stUnknown
  | some c =>
    let b := getMb s q.mb
    let unit := rqCode h / 256
    if q.mb != 0 && (!b.caps.testBit unit || (c.place = .agent0 && b.agent != 0)) then some stNotOwner
    else if !c.staged then some stBadHeader
    else if !lenFits c.len (rqLen h) || short || !countFits c.len p then some stBadLength
    else (stageJudge s b.agent (rqCode h) p).map (·.st)

/-- Stage the requests of a rule image in body order; the failing index and its status if one fails. -/
def stageRules (q : Req) (id : Nat) : Nat → Bytes → State → State ⊕ (Nat × Nat)
  | 0, _, s => .inl s
  | f + 1, body, s =>
    if body.isEmpty then .inl s
    else
      match findGroup id q.mb s with
      | none => .inr (0, stGroupUnknown)
      | some g =>
        let h := slice body 0 64
        let p := slice body 64 (rqLen h)
        let next := 64 + roundUp (rqLen h) 8
        match ruleRequestBad s q h p (body.length < next) with
        | some st => .inr (g.cmds.length, st)
        | none =>
          let r := addStaged g ⟨rqCode h, p, q.mb⟩ s
          if r.2.st = stOk then stageRules q id f (body.drop next) r.1 else .inr (g.cmds.length, r.2.st)

/-- How many commands a group holds. -/
def groupSize (id m : Nat) (s : State) : Nat := ((findGroup id m s).map (·.cmds.length)).getD 0

/-- Step 5 of R489. -/
def useImage (l : LoadSt) (s : State) : State :=
  let body := l.got.drop 64
  match l.kind with
  | 2 =>
    match loadProgram l.got body s with
    | .inl s1 => endLoad stOk 0xFFFFFFFF (updLoad (fun l => { l with result := u8 l.got 16 }) s1)
    | .inr st => failLoad st 0xFFFFFFFF s
  | 3 =>
    match runningFor 0x0E01 s with
    | none => s
    | some q =>
      if (findGroup l.group l.mb s).isNone then failLoad stGroupUnknown 0xFFFFFFFF s
      else
        match stageRules q l.group (body.length / 64 + 1) body s with
        | .inl s1 =>
          let n := groupSize l.group l.mb s1 - groupSize l.group l.mb s
          endLoad stOk 0xFFFFFFFF (updLoad (fun l => { l with result := n }) s1)
        | .inr (i, st) => failLoad stImgFormat (st * 2 ^ 24 + i) s
  | k =>
    let im : Staged := { off := l.off, len := l.ctLen, digest := crc32c l.got, build := l.build, version := l.version }
    endLoad stOk 0xFFFFFFFF (s.updRes fun r => { r with images := r.images.set k im })

/-- Step 4 of R489: the plaintext is verified. -/
def verifyImage (s : State) : State :=
  match s.res.load with
  | none => s
  | some l =>
    let h := l.got.take 64
    if headerBad l.kind l.ctLen h then failLoad stImgFormat 0xFFFFFFFF s
    else if u32 h 4 != ipVersion || (!l.rollback && u32 h 8 < runningBuild s l.kind) then failLoad stImgVersion 0xFFFFFFFF s
    else
      let n := { l with version := u32 h 4, build := u32 h 8 }
      useImage n (s.updRes fun r => { r with load := some n })

/-- The cipher request has ended; once the accesses that it left are in, its outcome is judged (R490). -/
def settleLoad (s : State) : State :=
  match s.res.load with
  | none => s
  | some l =>
    match l.phase with
    | .drain st =>
      if s.host.xfers.any fun x => x.purp = .stage && !x.gone then s
      else if l.fail.isSome then scrubLoad false s
      else if st = 0 then verifyImage s
      else if st = 2 && l.restarts < 2 then
        scrubLoad true (bump 0xE0 0 12
          (updLoad (fun l => { l with restarts := l.restarts + 1, epoch := (l.epoch + 1) % 65536 }) s))
      else failLoad stImgAuth 0xFFFFFFFF s
    | _ => s

/-- The cipher port is free again: a load that waits for it goes on. -/
def freeCipher (s : State) : State :=
  match s.res.load with
  | some l =>
    if l.phase = .wait then
      (match l.fail with
       | some st => endLoad st l.detail s
       | none => startCipher s)
    else s
  | none => s

/-- CIPH_DONE. -/
def ciphDone (status : Nat) (s : State) : State :=
  if s.res.ciphAbandoned then freeCipher (s.updRes fun r => { r with ciphAbandoned := false })
  else
    match s.res.load with
    | none => s
    | some l =>
      if l.phase != .cipher || (status % 4 = 0 && (l.got.length != l.ctLen || l.fed != l.total)) then s
      else
        let s1 := dropXfers (fun x => x.purp = .image) (s.updRes fun r => { r with ciphOut := false })
        settleLoad (updLoad (fun l => { l with phase := .drain (status % 4) }) s1)

/-- CIPH_TIMEOUT: no CIPH_DONE 100 ms after the last tag byte (R60).  After an earlier errored access the load ends with that
error's status, which R60 does not weigh against IMAGE_AUTH_FAIL (DESIGN CHOICE, log 75). -/
def ciphTimeout (s : State) : State :=
  match s.res.load with
  | none => s
  | some l =>
    if l.phase != .cipher || l.fed != l.total then s
    else
      let s1 := s.updRes fun r => { r with ciphOut := false, ciphAbandoned := true }
      settleLoad (updLoad (fun l => { l with phase := .drain 1, fail := some (l.fail.getD stImgAuth) }) s1)

/-- A plaintext byte: each full 64 bytes, and the last ones, are written to staging; output of a request that fails is
discarded (R489, R490). -/
def plaintextByte (b : Byte) (s : State) : State :=
  match s.res.load with
  | none => s
  | some l =>
    if l.phase != .cipher || l.got.length ≥ l.ctLen then s
    else
      let got := l.got ++ [b]
      let n := got.length
      let s1 := updLoad (fun l => { l with got := got }) s
      if l.fail.isSome || (n % 64 != 0 && n != l.ctLen) then s1
      else
        let lo := (n - 1) / 64 * 64
        startXfer .stage true 0x210 (s.host.staging.base + l.off + lo) (n - lo) (got.drop lo) (updLoad (fun l => { l with written := n }) s1)

/-! ## The returns of a load's accesses -/

/-- Where in staging an image of a kind goes: the lowest place that fits, at the start or behind another verified image,
and overlaps no verified image of another kind. -/
def stagingOff (s : State) (kind ct : Nat) : Option Nat :=
  let held := (s.res.images.erase kind).vals
  (0 :: held.map fun h => roundUp (h.off + h.len) 64).find? fun o =>
    o + ct + 64 ≤ s.host.staging.size && held.all fun h => o + ct ≤ h.off || h.off + h.len ≤ o

/-- The prefix is read (step 1). -/
def prefixDone (x : Xfer) (l : LoadSt) (s : State) : State :=
  let ct := u32 x.data 4
  let bad := slice x.data 0 4 != [0x48#8, 0x51#8, 0x49#8, 0x4D#8] || ct < 64 || ct > 16777199
  if l.fail.isSome then endLoad (l.fail.getD 0) l.detail s
  else if x.err then endLoad stHostRead 0xFFFFFFFF s
  else if bad then endLoad stImgFormat 0xFFFFFFFF s
  else
    match rangeBad s (getMb s l.mb).agent l.addr (ct + 32) 8, stagingOff s l.kind ct with
    | some r, _ => endLoad r.st r.detail s
    | none, none => endLoad stImgFormat 0xFFFFFFFF s
    | none, some off =>
      let n := { l with ctLen := ct, off := off }
      match s.res.images.get? l.kind with
      | some im =>
        scrubRange im.off im.len
          (s.updRes fun r => { r with load := some { n with phase := .scrubOld }, images := r.images.erase l.kind })
      | none => startCipher (s.updRes fun r => { r with load := some n })

/-- Bytes of the image have been read, and go to the cipher engine; an errored read sends zeros for the rest. -/
def cipherReadDone (x : Xfer) (l : LoadSt) (s : State) : State :=
  if x.err then feedZeros l s
  else if l.fail.isSome then updLoad (·.zeroRest) s
  else
    let n := { l with sent := l.sent ++ x.data.take x.len }
    let s1 := s.updRes fun r => { r with load := some n }
    if n.fed < n.total then readCipher n s1 else s1

/-- A read of the image ends. -/
def imageReadDone (x : Xfer) (s : State) : State :=
  match s.res.load with
  | none => s
  | some l =>
    match l.phase with
    | .readPrefix => prefixDone x l s
    | .cipher => cipherReadDone x l s
    | _ => settleLoad s

/-- A write of plaintext ends. -/
def stageWriteDone (x : Xfer) (s : State) : State :=
  settleLoad (if x.err then updLoad (fun l => { l with fail := some (l.fail.getD stImgAuth) }) s else s)

/-! ## Activation (R493, R494, R506) -/

/-- The activation ends with a status. -/
def endAct (st : Nat) (s : State) : State :=
  match s.res.act with
  | none => s
  | some a =>
    let b := if st = stOk then ((s.res.images.get? a.kind).map (·.build)).getD 0 else 0
    let s1 := imageDone a.kind st b (s.updRes fun r => { r with act := none })
    match runningFor 0x0E02 s1 with
    | some q => finishRunning q (errR st) s1
    | none => s1

/-- The firmware of a verified image runs. -/
def takeFirmware (s : State) : State :=
  match s.res.images.get? 0 with
  | none => s
  | some im => (s.updRes fun r => { r with fwBuild := im.build, fwNext := some im }).updSys fun y => { y with onyxVer := im.version }

/-- The firmware that runs is retained, and its digest is Jasper's (step 4 of R493). -/
def retainFirmware (s : State) : State :=
  match s.res.fwNext with
  | none => s
  | some im => s.updRes fun r => { r with
      digest := im.digest, keptBuild := im.build, keptVer := im.version, fwNext := none, fwHeld := true, fwBad := false }

/-- Step 3 of R493, at a request boundary: the planned takeover. -/
def tryImageSwitch (s : State) : State :=
  match s.res.act with
  | some a =>
    if a.phase = .switch && s.gv.taken.isNone && s.sys.fw && s.res.standby = .ready then
      endAct stOk (finishTakeover (swapCores .sync (takeFirmware s)))
    else s
  | none => s

/-- The engine at the front of the reload holds nothing: it is loaded, and returns to the state it was in. -/
def reloadSteps : Nat → State → State
  | 0, s => s
  | f + 1, s =>
    match s.res.act with
    | none => s
    | some a =>
      if a.phase != .reload then s
      else
        match a.todo with
        | [] => endAct stOk s
        | e :: rest =>
          let g := getEng s e
          let next := updAct (fun a => { a with todo := rest })
          if g.reload then
            if g.mode = .draining && engEmpty s e then
              reloadSteps f (next (setMode e g.drainTo (setEng e (fun g => { g with reload := false }) (reloadBase e s))))
            else if g.mode = .draining then s
            else reloadSteps f (next s)
          else if g.mode = .active || g.mode = .draining || g.mode = .spare then
            let dest := if g.mode = .draining then g.drainTo else g.mode
            reloadSteps f (setMode e .draining (setEng e (fun g => { g with reload := true, drainTo := dest }) s))
          else reloadSteps f (next s)

/-- Every engine of a first activation is tested: the states of the policy are set (step 4 of R494). -/
def firstStates (s : State) : State :=
  match s.res.act with
  | some a =>
    if a.phase = .test && a.todo.isEmpty then
      let ok := (List.range (nEngines s)).filter fun e => (getEng s e).testing
      let s1 := (s.updEng fun g => { g with baseImg := some (a.got.drop 64), baseBuild := u32 a.got 8, spareUsed := false }).updSys
        fun y => { y with garnetVer := u32 a.got 4 }
      let s2 := ok.foldl (fun s e => loadImages e (freshEpochs e <| setEng e (fun g => { g with testing := false, inReset := false, failed := false }) s)) s1
      let s3 := ok.foldl (fun s e => setMode e (if s.eng.policy = 0 && ok.getLast? = some e then .spare else .active) s) s2
      endAct stOk (judgeFailed s3)
    else s
  | none => s

/-- The digest of an image read back is right: the activation goes on. -/
def activate (a : ActSt) (data : Bytes) (s : State) : State :=
  if a.kind = 0 then
    let ph := if s.sys.boot then ActPhase.start else ActPhase.sync
    updAct (fun a => { a with phase := ph }) (s.updRes fun r => { r with
      standby := if r.noResync.contains (1 - r.active) then .failed else .sync })
  else if (List.range (nEngines s)).any fun e => (getEng s e).base && (getEng s e).mode != .off then
    let l := (enginesIn s .spare) ++ ((List.range (nEngines s)).filter fun e => (getEng s e).mode != .spare).reverse
    let s1 := (s.updEng fun g => { g with baseImg := some (data.drop 64), baseBuild := u32 data 8 }).updSys fun y =>
      { y with garnetVer := u32 data 4 }
    reloadSteps 32 (updAct (fun a => { a with phase := .reload, todo := l }) s1)
  else
    let l := List.range (nEngines s)
    let s1 := l.foldl (fun s e => setEng e (fun g => { g with testing := true }) s) s
    driveReqs (updAct (fun a => { a with phase := .test, todo := l, got := data }) s1)

/-- Staging has been read back (step 1 of R493). -/
def readBackDone (x : Xfer) (s : State) : State :=
  match s.res.act with
  | none => s
  | some a =>
    match s.res.images.get? a.kind with
    | none => s
    | some im =>
      if x.err then endAct stHostRead s
      else if crc32c x.data = im.digest then activate a x.data s
      else
        scrubRange im.off im.len (updAct (fun a => { a with phase := .scrub }) (s.updRes fun r => { r with images := r.images.erase a.kind }))

/-- A scrub write ends; an errored one awaits its retry (R491). -/
def scrubDone (x : Xfer) (s : State) : State :=
  if x.err then s.updRes fun r => { r with scrubs := r.scrubs ++ [(x.addr, x.len)] }
  else
    match s.res.load, s.res.act with
    | some l, _ => afterScrub l s
    | none, some a => if a.phase = .scrub then endAct stImgAuth s else s
    | none, none => s

/-- SCRUB_WRITE_RETRY: 1 µs after an errored scrub write. -/
def scrubRetry (s : State) : State :=
  s.res.scrubs.foldl (fun s x => scrubAt x.1 x.2 s) (s.updRes fun r => { r with scrubs := [] })

/-- STANDBY_READY: the standby core has synchronised. -/
def standbyReady (s : State) : State :=
  if s.res.standby != .sync || s.sys.held || coreOff s then s
  else
    let s1 := finishTakeover (retainFirmware (s.updRes fun r => { r with standby := .ready }))
    match s1.res.act with
    | some a =>
      match a.phase with
      | .start =>
        let s2 := (retainFirmware (takeFirmware s1)).updSys fun y => { y with boot := false, fw := true, phase := if y.phase = 0 then 1 else y.phase }
        endAct stOk (judgeMgmt (onyxRuns s2))
      | .sync => tryImageSwitch (updAct (fun a => { a with phase := .switch }) (judgeMgmt s1))
      | _ => judgeMgmt s1
    | none => judgeMgmt s1

/-- STANDBY_SYNC_TIMEOUT: the standby is not READY 1 s after it loaded new firmware; it reloads the running one.  The manual names no
such limit for the start under boot code: there the activation of a standby that is not resynchronised ends so too (DEDUCED, log 51). -/
def standbyLate (s : State) : State :=
  match s.res.act with
  | some a =>
    if a.phase = .sync || ((a.phase = .switch || a.phase = .start) && s.res.standby != .ready) then endAct stImgFormat s else s
  | none => s

/-! ## The tests of engines (R481, R494) -/

/-- The condemnation of an engine ends: it returns, and a fault found meanwhile is acted on (R471), or it fails. -/
def endCondemned (e : Nat) (pass : Bool) (s : State) : State :=
  let g := getEng s e
  if pass && !g.noReturn && condemnedLately s e < 3 then
    let s1 := engReturn e s
    match g.again with
    | some cause => condemn e cause s1
    | none => s1
  else engFail e s

/-- ENGINE_BIST_DONE: `fails` holds the failing cells of the engine's macros. -/
def engineBistDone (e : Nat) (fails : List (Nat × List Cell)) (s : State) : State :=
  let g := getEng s e
  if e ≥ nEngines s || !(g.mode = .condemned || g.testing) then s
  else
    let r := engineTest e fails s
    if g.mode = .condemned then settlePolicy 16 (endCondemned e r.1 r.2)
    else if s.res.act.any fun a => a.phase = .test && a.todo.contains e then
      firstStates (updAct (fun a => { a with todo := a.todo.filter (· != e) }) (if r.1 then r.2 else engFail e r.2))
    else
      match s.gv.running.find? fun q => rqCode q.hdr = 0x0E04 && u8 q.payload 0 = e with
      | none => s
      | some q =>
        if r.1 then
          settlePolicy 16 (finishRunning q okR (engReturn e (setEng e (fun g => { g with noReturn := false }) r.2)))
        else finishRunning q (errR stNoResource) (driveReqs (setEng e (fun g => { g with testing := false }) r.2))

/-! ## The commands -/

def busyImages (s : State) : Bool := s.res.load.isSome || s.res.act.isSome

def imageLoadCmd (q : Req) (s : State) : State × Option Reply :=
  let p := q.payload
  let kind := u8 p 0
  match (firstErr
    [ (kind > 3, inv 0), (kind != 3 && u32 p 4 != 0, inv 4), (u64 p 8 % 64 != 0, inv 8),
      (kind = 3 && (findGroup (u32 p 4) q.mb s).isNone, errR stGroupUnknown), (busyImages s, errR stWrongState),
      (s.host.staging.size = 0, errR stNotConfigured) ]).or (rangeBad s (agentOf q s) (u64 p 8) 16 8) with
  | some r => (s, some r)
  | none =>
    let l : LoadSt := { mb := q.mb, kind := kind, slot := u8 p 1, epoch := u16 p 2, group := u32 p 4, addr := u64 p 8
                        rollback := (u8 p 16).testBit 0 }
    (startXfer .image false 0x210 l.addr 16 [] (s.updRes fun r => { r with load := some l }), none)

def imageActivateCmd (q : Req) (s : State) : State × Option Reply :=
  let kind := u8 q.payload 0
  if kind > 1 then (s, some (inv 0))
  else if busyImages s then (s, some (errR stWrongState))
  else
    match s.res.images.get? kind with
    | none => (s, some (errR stNotFound))
    | some im =>
      if s.host.staging.size = 0 then (s, some (errR stNotFound))
      else if kind = 0 && s.sys.fw && s.res.standby != .ready then (s, some (errR stWrongState))
      else
        (startXfer .stageRead false 0x210 (s.host.staging.base + im.off) im.len []
          (s.updRes fun r => { r with act := some { mb := q.mb, kind := kind } }), none)

def engineReturnCmd (q : Req) (s : State) : State × Option Reply :=
  let e := u8 q.payload 0
  if e ≥ nEngines s then (s, some (inv 0))
  else if !(getEng s e).failed || (getEng s e).testing then (s, some (errR stWrongState))
  else (driveReqs (setEng e (fun g => { g with testing := true }) s), none)

/-- SYS_ABORT of an image load (R84, R490). -/
def abortLoad (s : State) : State :=
  match s.res.load with
  | none => s
  | some l =>
    let s1 := updLoad (fun l => { l with fail := some stAborted, detail := 0xFFFFFFFF }) s
    match l.phase with
    | .wait => endLoad stAborted 0xFFFFFFFF s1
    | .cipher => dropXfers (fun x => x.purp = .image) (updLoad (·.zeroRest) s1)
    | _ => s1

def execCiphDone (st : Nat) (s : State) : Out := .next (clocked s (ciphDone st s))
def execCiphTimeout (s : State) : Out := .next (clocked s (ciphTimeout s))
def execCiphPlaintextByte (b : Byte) (s : State) : Out := .next (clocked s (plaintextByte b s))
def execScrubWriteRetry (s : State) : Out := .next (clocked s (scrubRetry s))
def execStandbyReady (s : State) : Out := .next (standbyReady s)
def execStandbySyncTimeout (s : State) : Out := .next (standbyLate s)
def execEngineBistDone (e : Nat) (fails : List (Nat × List Cell)) (s : State) : Out := .next (clocked s (engineBistDone e fails s))
def execResImageLoad (s : State) : Out := .next (longRunning 0x0E01 imageLoadCmd s)
def execResImageActivate (s : State) : Out := .next (longRunning 0x0E02 imageActivateCmd s)
def execResEngineReturn (s : State) : Out := .next (longRunning 0x0E04 engineReturnCmd s)

end Sys2Proof.Machine
end

