-- ==== Sys2Proof/Machine/TimeUnit.lean ====
section
/-! DEFINITION. Captures, strobe records, triggers, steps and tracking of the time bases (R406-R435). -/

namespace Sys2Proof.Machine

open Sys2Proof

/-- TIME_BASE_STATE with its cause, and the interrupt cause of the base (R431, R434). -/
def baseEvent (k cause : Nat) (s : State) : State :=
  raise0 0x0B82 k (toLe 1 (b2n (getTb s k).locked) ++ toLe 1 cause) (raiseTime1 (16 + k) s)

/-! ## The fields of a time value (R406) -/

def secOf (v : Nat) : Nat := v / nsUnit / 1000000000
def nsOf (v : Nat) : Nat := v / nsUnit % 1000000000
def subOf (v : Nat) : Nat := v % nsUnit / 2 ^ 24
def linOf (v : Nat) : Nat := v / nsUnit % 2 ^ 40

/-! ## Captures (R417-R419) -/

/-- CAP_EDGE: a rising edge of a pin. -/
def capEdge (c : Nat) (s : State) : State :=
  if c < 16 && (getCap s c).enable && (getCap s c).source = 0 && !coreOff s && !s.sys.held then capAccept c 0 s else s

def captureStuck (c : Nat) (s : State) : State :=
  let x := getCap s c
  if c < 16 && x.enable && x.expect != 0 && !x.stuck && !coreOff s then
    raise0 0x0B83 c (toLe 1 1) (raiseTime1 27 (bump cCap c 3 (setCap c (fun x => { x with stuck := true }) s)))
  else s

/-- A write of CAP_POP (R418, R538). -/
def capPop (c : Nat) (s : State) : State :=
  regWrite (c < 16) (0x030404 + 0x20 * c)
    (setCap c fun x => { x with fifo := x.fifo.drop 1, overflow := x.overflow && x.fifo.length > 1 }) s

/-! ## Triggers (R424-R430) -/

/-- The target of a firing acts (R428); an edge of TRIG_OUT appears 2 core cycles later (R62). -/
def trgTarget (t : Nat) (x : TrgSet) (s : State) : State :=
  match x.target with
  | 1 => s.updTime fun y => { y with edges := y.edges ++ [(y.cycle + 2, t, !x.toggle)] }
  | 2 =>
    let y := getSta s x.station
    if x.station < nStations s && x.link < 3 && (getRl s x.link).enabled && y.state = .active && y.links.testBit x.link then
      psEffect x.station x.link 2 x.acMask x.spFrames s
    else bump cTrg t 4 s
  | _ => s

def trgEvent (t result missed : Nat) (x : TrgSet) (s : State) : State :=
  raise0 0x0B81 t (toLe 1 result ++ zeros 3 ++ toLe 4 missed ++ toLe 4 (x.time / nsUnit % 1000000000)) s

/-- The trigger goes on to its next scheduled time, after `n` of them have come, or becomes IDLE. -/
def trgAdvance (t n : Nat) (s : State) : State :=
  setTrg t (fun y =>
    let x := y.set
    if x.period = 0 || (x.count != 0 && x.count ≤ n) then { y with mode := .idle }
    else { y with set := { x with time := (x.time + n * x.period * nsUnit) % tbSpan, count := x.count - n } }) s

/-- One firing for the scheduled time of `x`, `missed` having been skipped before it. -/
def trgFire (t missed : Nat) (late : Bool) (x : TrgSet) (s : State) : State :=
  let s1 := setTrg t (fun y => { y with late := late, fired := some s.time.cycle }) (bump cTrg t 0 s)
  let s2 := trgCaptures t (trgTarget t x (raiseTime0 t (if late then bump cTrg t 1 s1 else s1)))
  if x.event then trgEvent t (b2n late) missed x s2 else s2

/-- Scheduled times that have passed (R427): those passed by more than one period are skipped; the next fires LATE, or is skipped
too. -/
def trgCatchUp (t : Nat) (s : State) : State :=
  let x := (getTrg s t).set
  let now := (getTb s x.base).v
  let k := if x.period = 0 then 0 else (now - x.time - 1) / (x.period * nsUnit)
  let n := if x.count = 0 then k + 1 else min (k + 1) x.count
  let y := { x with time := x.time + (n - 1) * x.period * nsUnit }
  let s1 := bumpN cTrg t 3 (n - 1) s
  let s2 :=
    if x.noLate then
      let s3 := bump cTrg t 2 s1
      if x.event then trgEvent t 2 (n - 1) y s3 else s3
    else trgFire t (n - 1) true y s1
  trgAdvance t n s2

/-- The signed 40-bit difference T40 - now40 is at most 0; a trigger with TARGET 1 compares against T - 2 ns (R426). -/
def trgDue (s : State) (x : TrgSet) : Bool :=
  let d := (linOf x.time + 2 ^ 41 - (if x.target = 1 then 2 else 0) - linOf (getTb s x.base).v) % 2 ^ 40
  d = 0 || d ≥ 2 ^ 39

/-- TRIGGER_FIRE: the scheduled time of an ARMED trigger falls due; one that has passed by more than a period is
caught up.  For an OWNED trigger it starts a cycle of the port's list (R429). -/
def triggerFire (t : Nat) (s : State) : State :=
  let y := getTrg s t
  if t ≥ 32 || !s.pwr.clkAck || s.sys.held then s
  else
    match y.mode with
    | .idle => s
    | .armed =>
      let x := y.set
      if !trgDue s x then s
      else if x.period != 0 && x.time + x.period * nsUnit < (getTb s x.base).v then trgCatchUp t s
      else trgAdvance t 1 (trgFire t 0 false x s)
    | .owned =>
      let n := t - 28
      if !trgDue s y.set then s else if (getPort s n).gcl.isNone then gclStart n s else gateCycle n s

/-- TRIG_PULSE_END: WIDTH after the rise of a pulse. -/
def trigPulseEnd (t : Nat) (s : State) : State :=
  if t < 16 && (getTrg s t).pulse then setTrg t (fun y => { y with out := false, pulse := false }) s else s

/-- A trigger is IDLE by a cancel: its output is left at 0 (R428). -/
def trgIdle (t : Nat) (s : State) : State :=
  (setTrg t (fun y => { y with mode := .idle, out := false, pulse := false }) s).updTime fun y => { y with
    edges := y.edges.filter (·.2.1 != t) }

/-- Judge the ARMED triggers of a base anew (R430). -/
def trgJudge (t : Nat) (s : State) : State :=
  let y := getTrg s t
  let x := y.set
  let now := (getTb s x.base).v
  if y.mode != .armed then s
  else if x.time ≤ now then trgCatchUp t s
  else if x.time - now ≥ 2 ^ 39 * nsUnit then trgEvent t 3 0 x (trgIdle t s)
  else s

def trgJudgeBase (k : Nat) (s : State) : State :=
  (List.range 32).foldl (fun s t => if (getTrg s t).set.base = k then trgJudge t s else s) s

/-- The settings keep R424. -/
def trgSetOk (t : Nat) (x : TrgSet) : Bool :=
  let pulse := x.target = 1 && !x.toggle
  (x.period = 0 || x.period ≥ 100) && (x.period != 0 || x.count = 0) &&
    !(x.event && x.period ≥ 1 && x.period ≤ 999999) && (x.target != 1 || t < 16) && x.target ≤ 2 &&
    (if pulse then x.width ≥ 1 && x.width < 2 ^ 24 && (x.period = 0 || x.width < x.period) else x.width = 0)

/-- The outcome of an arm by checks 2 to 6 of R425: the result code of R431, and the state after it. -/
def trgArm (t : Nat) (x : TrgSet) (s : State) : Nat × State :=
  let now := (getTb s x.base).v
  if (getTrg s t).mode = .owned then (4, s)
  else if x.time ≥ now + 2 ^ 39 * nsUnit then (3, s)
  else if x.time < now && x.noLate then (2, bump cTrg t 2 s)
  else
    let s1 := setTrg t (fun y => { y with mode := .armed, set := x }) s
    if x.time < now then (5, trgCatchUp t s1)
    else if x.time = now then (0, trgAdvance t 1 (trgFire t 0 false x s1))
    else (0, s1)

/-- Cancel an ARMED trigger, or one that became IDLE by firing in this cycle; its output is left at 0 (R428, R435). -/
def trgCancel (t : Nat) (s : State) : State :=
  let y := getTrg s t
  if y.mode = .armed || (y.mode = .idle && y.fired = some s.time.cycle) then trgIdle t s else s

/-- The settings in a trigger's registers (R537). -/
def trgRegs (y : Trg) : TrgSet :=
  let c := y.rCfg
  { base := bits c 2 0, noLate := c.testBit 3, event := c.testBit 4, target := bits c 6 5, toggle := c.testBit 7, width := bits c 31 8
    period := y.rPeriod, count := y.rCount, time := ((y.rSecLo + 2 ^ 32 * y.rSecHi) * 1000000000 + y.rNs) * nsUnit }

/-- A write of TRG_CTRL: bit 0 ARM, bit 1 CANCEL (R425, R431). -/
def trgCtrl (t value : Nat) (s : State) : State :=
  let y := getTrg s t
  let x := trgRegs y
  let res (r : Nat) (s : State) : State := setTrg t (fun y => { y with result := r }) s
  if value.testBit 0 && value.testBit 1 then res 1 s
  else if value.testBit 0 then
    if y.rNs ≥ 1000000000 || x.target ≥ 2 || !trgSetOk t x then res 1 s
    else
      let r := trgArm t x s
      res r.1 r.2
  else if value.testBit 1 then trgCancel t s
  else s

def trgWrite (t value : Nat) (s : State) : State :=
  regWrite (t < 32) (0x030818 + 0x20 * t) (fun s => if t < 32 then trgCtrl t value s else s) s

/-! ## Steps and rates (R408, R411, R412) -/

/-- Set a base to a value, by a step that leaves it in a state, with the event's cause. -/
def stepBase (k v : Nat) (locked : Bool) (cause : Nat) (s : State) : State :=
  let s1 := setTb k (fun b => { b with
    v := v / 2 ^ 24 * 2 ^ 24, steps := (b.steps + 1) % 65536, resumed := false, locked := locked
    stepAt := some s.time.cycle }) (bump cBase k 0 s)
  gclStep k (trgJudgeBase k (baseEvent k cause (markStep k s1)))

def rateOk (r : Int) : Bool := -549755813 ≤ r && r ≤ 549755813

def setRateAdj (k : Nat) (r : Int) (s : State) : State := setTb k (fun b => { b with rate := r, resumed := false }) s

/-- A write of TB_RATE (R411, R538). -/
def tbRateWrite (k value : Nat) (s : State) : State :=
  regWrite (k < 8) (0x030018 + 0x40 * k) (fun s =>
    if k = 7 || k ≥ 8 then s
    else if (getTb s k).track || !(getTb s k).locked || !rateOk (sext 32 value) then bump cBase k 1 s
    else setRateAdj k (sext 32 value) s) s

/-! ## Reading (R413) -/

/-- A read of TB_NS latches the base's other fields. -/
def tbNsRead (k : Nat) (s : State) : State :=
  let v := (getTb s k).v
  regWrite (k < 8) (0x030000 + 0x40 * k) (fun s => if k < 8 then setTb k (fun b => { b with hold := ⟨subOf v, secOf v, linOf v⟩ }) s else s) s
  |> fun t => if t.reg.resp = 0 && k < 8 && !s.sys.held then t.updReg fun r => { r with rdata := nsOf v } else t

/-- A write of TIME_SNAP. -/
def timeSnap (value : Nat) (s : State) : State :=
  regWrite true 0x030200 (fun s =>
    if value.testBit 0 then
      (List.range 8).foldl (fun s k => setTb k (fun b => { b with snap := ⟨nsOf b.v, subOf b.v, secOf b.v⟩ }) s) s
    else s) s

/-! ## Radio TSF tracking (R415, R416) -/

/-- Round a fraction to the nearest integer, halves away from zero. -/
def roundDiv (a : Int) (b : Nat) : Int := if a ≥ 0 then (2 * a + b) / (2 * b) else -((2 * (-a) + b) / (2 * b))

def clampRate (r : Int) : Int := max (-549755813) (min 549755813 r)

/-- One sample of a tracked base: the message's TSF in µs. -/
def tsfSample (k tsf : Nat) (s : State) : State :=
  let b := getTb s k
  let bi : Int := tbNs s k
  let e : Int := 1000 * (tsf : Int) - bi
  let s0 := bump cLink (k - 4) 4 s
  let s1 := if b.stale then baseEvent k 4 (setTb k (fun b => { b with stale := false }) s0) else s0
  if !b.locked || e.natAbs > 1000 * b.jump then
    let s2 := if b.locked then bump cLink (k - 4) 5 s1 else s1
    setTb k (fun b => { b with prev := some (1000 * tsf) }) (stepBase k (1000 * tsf * nsUnit) true (if b.locked then 2 else 0) s2)
  else
    let s2 :=
      match b.prev with
      | some p =>
        if bi - p ≥ 1000000 then
          let d := (bi - p).toNat
          let fr := clampRate (b.freq + roundDiv (2 ^ 40 * e) (8 * d))
          setTb k (fun b => { b with freq := fr, rate := clampRate (fr + roundDiv (2 ^ 40 * e) (2 * d)), resumed := false }) s1
        else s1
      | none => s1
    setTb k (fun b => { b with prev := some bi.toNat }) s2

/-- FB_TSF. -/
def fbTsfMsg (m : Bytes) (s : State) : State :=
  if fbHead s 5 true m && fbSta m = 0xFFF && allZero (slice m 4 4) then
    let s1 := fbAccept s
    if (getTb s1 (4 + fbLink m)).track then tsfSample (4 + fbLink m) (u64 m 8) s1 else s1
  else fbError m s

/-- TSF_STALE: no sample for TSF_TIMEOUT. -/
def tsfStale (k : Nat) (s : State) : State :=
  let b := getTb s k
  if 4 ≤ k && k < 7 && b.track && b.tsfTimeout != 0 && !b.stale && !coreOff s then
    baseEvent k 3 (setTb k (fun b => { b with stale := true }) s)
  else s

/-! ## Strobe records (R420-R423) -/

def getRing (s : State) (l : Nat) : StrobeRing := s.time.strobe.getD l {}
def setRingS (l : Nat) (f : StrobeRing → StrobeRing) (s : State) : State := s.updTime fun x => { x with strobe := x.strobe.upd l {} f }

def hasOpen (s : State) (l : Nat) : Bool := (getRing s l).recs.any (·.state = 0)

/-- The OPEN record of a link, if there is one, becomes final. -/
def closeRec (l state : Nat) (s : State) : State :=
  if hasOpen s l then
    raiseTime1 (24 + l) (setRingS l (fun r => { r with
      recs := mapIf r.recs (·.state = 0) fun x => { x with state := state, stop := (getTb s (4 + l)).v } }) s)
  else s

/-- A new record opens, or is lost. -/
def openRec (l kind : Nat) (orphan : Bool) (s : State) : State :=
  let r := getRing s l
  if r.recs.length ≥ 32 then
    bump cLink l 1 (setRingS l (fun r => { r with lost := true, seq := (r.seq + 1) % 65536 }) s)
  else
    setRingS l (fun r => { r with
      recs := r.recs ++ [{ kind := kind, orphan := orphan, lostB := r.lost, seq := r.seq, start := (getTb s (4 + l)).v }]
      seq := (r.seq + 1) % 65536, lost := false }) s

/-- A strobe of a link: 0 PD, 1 RESTART, 2 ABORT. -/
def strobe (l kind : Nat) (s : State) : State :=
  if l ≥ 3 || coreOff s || s.sys.held then s
  else
    let op := hasOpen s l
    let s1 := bump cLink l 0 s
    match kind with
    | 0 => openRec l 1 false (closeRec l 1 s1)
    | 1 => openRec l 3 (!op) (if op then closeRec l 2 s1 else bump cLink l 2 s1)
    | _ => if op then closeRec l 3 s1 else bump cLink l 2 s1

/-- Change the oldest record that a test picks. -/
def mapFirst {α : Type} (p : α → Bool) (f : α → α) : List α → List α
  | [] => []
  | x :: t => if p x then f x :: t else x :: mapFirst p f t

/-- An RX_EVENT message pairs with a record. -/
def pairRec (l kind id tsf : Nat) (s : State) : State :=
  let fits (x : StrobeRec) : Bool := if kind = 2 then x.state = 3 && !x.endP else x.kind = kind && !x.startP
  if (getRing s l).recs.any fits then
    setRingS l (fun r => { r with recs := mapFirst fits (fun x =>
                            if kind = 2 then { x with endP := true }
                            else { x with startP := true, eventId := id, tsf := tsf }) r.recs }) s
  else bump cLink l 3 s

/-- FB_RX_EVENT. -/
def fbRxEventMsg (m : Bytes) (s : State) : State :=
  if fbHead s 4 true m && 1 ≤ u8 m 4 && u8 m 4 ≤ 3 && u8 m 5 = 0 then
    pairRec (fbLink m) (u8 m 4) (u16 m 6) (u64 m 8) (fbAccept s)
  else fbError m s

def execFbRxEvent (m : Bytes) (s : State) : Out := .next (fbRxEventMsg m s)
def execFbTsf (m : Bytes) (s : State) : Out := .next (fbTsfMsg m s)
def execStbPd (l : Nat) (s : State) : Out := .next (strobe l 0 s)
def execStbRestart (l : Nat) (s : State) : Out := .next (strobe l 1 s)
def execStbAbort (l : Nat) (s : State) : Out := .next (strobe l 2 s)
def execCapEdge (c : Nat) (s : State) : Out := .next (capEdge c s)
def execCaptureStuck (c : Nat) (s : State) : Out := .next (captureStuck c s)
def execTriggerFire (t : Nat) (s : State) : Out := .next (triggerFire t s)
def execTrigPulseEnd (t : Nat) (s : State) : Out := .next (clocked s (trigPulseEnd t s))
def execTsfStale (k : Nat) (s : State) : Out := .next (tsfStale k s)
def execTbNsRead (k : Nat) (s : State) : Out := .next (tbNsRead k s)
def execTimeSnap (v : Nat) (s : State) : Out := .next (timeSnap v s)
def execTbRateWrite (k v : Nat) (s : State) : Out := .next (tbRateWrite k v s)
def execCapPop (c : Nat) (s : State) : Out := .next (capPop c s)
def execTrgArm (t v : Nat) (s : State) : Out := .next (trgWrite t v s)
def execTrgCancel (t v : Nat) (s : State) : Out := .next (trgWrite t v s)

end Sys2Proof.Machine
end

