-- ==== Sys2Proof/Machine/Power.lean ====
section
/-! DEFINITION. The power unit: the in-flight count, the handshakes, the way into a low-power state and out of it
(R71-R76, R409, R410, R447-R464, R469). -/

namespace Sys2Proof.Machine

open Sys2Proof

/-! ## The in-flight count (R453) -/

def dirtyWays (s : State) : Nat := ((s.flow.cache.vals.flatMap id).filter (·.dirty)).length

def busyThreads (s : State) : Nat :=
  ((List.range (nEngines s)).map fun e => ((List.range 4).filter fun t => (getThr s e t).busy).length).sum

/-- Frames that have entered and are neither released nor dropped. -/
def enteredFrames (s : State) : Nat :=
  s.pipe.parseQ.length + s.pipe.flowQ.length + s.flow.looks.length + s.flow.followers.length + s.pipe.out.length +
    s.pipe.slots.length

/-- Wire frames in transmission; a preempted frame stays in transmission. -/
def wireSending (s : State) : Nat :=
  ((List.range (nPorts s)).map fun n => b2n (sending (getPort s n)) + b2n (getPort s n).rem.isSome).sum

/-- The in-flight count.  A retired tag stays in it until its late response, since the interconnect still owes that
(R39, R453, R455). -/
def inflight (s : State) : Nat :=
  s.host.reads.length + s.host.writes.length + s.host.retiredR.length + s.host.retiredW.length + enteredFrames s +
    wireSending s + (s.ch.vals.map inDelivery).sum +
    (s.rl.vals.map fun r => r.launch.length + r.unfin.length).sum + movesOut s + movesIn s + dirtyWays s + busyThreads s

/-! ## Admission resumes -/

/-- Every ring fetches on, withheld upstream credit is granted, and the table service goes on. -/
def resumeUnits (s : State) : State :=
  let s1 := s.ch.keys.foldl (fun s c =>
    (List.range 8).foldl (fun s r => fetchPump c false r (fetchPump c true r s)) s) s
  svcPump ([0x100, 0x101, 0x102].foldl (fun s p => giveCredit p s) s1)

/-- The watch buffer drains to the entry arbiter, in arrival order (R454, R464); the first frame is the wake frame when the
block wakes for a frame. -/
def drainWatch (wake : Bool) (s : State) : State :=
  let f (s : State) (x : WatchFrame × Nat) : State :=
    if s.sys.phase != 2 then bump cWire x.1.port 10 s
    else rxOffer x.1.port x.1.data { rxSetNow s x.1.port with tb := 7, time := x.1.time } 0 (wake && x.2 = 0) s
  s.pwr.buf.zipIdx.foldl f (s.updPwr fun p => { p with buf := [] })

/-- What a refused or aborted entry does: the block is ACTIVE again, and nothing is lost (R454). -/
def pwrResume (s : State) : State :=
  resumeUnits (drainWatch false (s.updPwr fun p => { p with
    mode := .active, force := false, forced := false, committed := false, isolated := false, heldCause := none }))

/-! ## ACTIVE after a wake (R448, R463 event 5, R464) -/

/-- What the power-down of a lane loses: its PLL and its receive path. -/
def laneOff (n : Nat) (s : State) : State :=
  setPort n (fun p => { p with
    anDone := false, anWait := false, resFec := if ptAn p.applied = 0 then p.resFec else 0, fecLock := false, hiBer := false
    localF := false, remoteF := false })
    (setLane n (fun l => { rxRestart l with
      pll := false, los := false, losCounted := false, starting := false, retryWait := false, training := false
      txLpi := .active }) s)

/-- A lane that keeps its supply through the state entered. -/
def laneKept (s : State) (n : Nat) : Bool := watching s && watched s n && laneOn s n

/-- The lanes without supply restart from their applied sets. -/
def restartLanes (kept : Nat → Bool) (s : State) : State :=
  (List.range (nPorts s)).foldl (fun s n =>
    if kept n || !laneOn s n then s else setLane n (fun l => { l with starting := true, scrambler := 2 ^ 58 - 1 }) s) s

/-- The links that the entry took down start their LINK_DOWN_HOLD, and LPI ends where frames wait. -/
def resumePort (n : Nat) (s : State) : State :=
  let p := getPort s n
  let s1 := if !p.link && !p.holdOver && p.hold = 0 then
      dropWireQueues n (setPort n (fun p => { p with holdOver := true }) s)
    else s
  if (wireOwners s1 n).isEmpty then s1 else endLpi n s1

/-- The rate words and the credit windows are lost with the supply (R448). -/
def loseRates (s : State) : State :=
  (s.updSta fun t => t.map fun x =>
    (x.1, { x.2 with per := x.2.per.map fun y => (y.1, { y.2 with rate := none, stale := false, win := {} }) })).updRl
      fun t => t.map fun x => (x.1, { x.2 with win := {} })

/-- The pattern or the port of the last wake. -/
def wakeWhat (s : State) : Nat := if s.pwr.cause = 1 then s.pwr.causePat else s.pwr.causePort

/-- The block is ACTIVE. -/
def goActive (s : State) : State :=
  let kept (n : Nat) : Bool := s.pwr.target = 1 && watched s n && laneOn s n
  let frames := s.pwr.buf.length
  let wake := s.pwr.cause = 1 || s.pwr.cause = 2
  let s1 := s.updPwr fun p => { p with
    mode := .active, force := false, forced := false, drained := frames, activeNs := nowNs s }
  let s2 := restartLanes kept (loseRates (s1.updFlow fun f => { f with cache := [] }))
  let s3 := drainWatch wake (onyxRuns s2)
  let s4 := [0, 1, 2].foldl (fun s l => if (getRl s l).enabled then rlEnable l s else s) s3
  let s5 := (List.range (nPorts s4)).foldl (fun s n => resumePort n s) s4
  let s6 := raise0 0x0D81 noSubj
    (toLe 1 0 ++ toLe 1 s.pwr.cause ++ toLe 1 (wakeWhat s) ++ zeros 1 ++ toLe 4 frames) s5
  resumeUnits (lines (s6.updIntr fun i => { i with wake := true }))

/-! ## The commit point and the low-power state (R452, R457, R469) -/

/-- Nothing is owed at the host port, and nothing waits there. -/
def hostQuiet (s : State) : Bool :=
  s.host.reads.isEmpty && s.host.writes.isEmpty && s.host.retiredR.isEmpty && s.host.retiredW.isEmpty &&
    s.host.xfers.all (·.todo.isEmpty)

/-- Every ACK of step 4 has changed, or has timed out. -/
def entryDone (s : State) : Bool :=
  (!s.pwr.clkReq && (!s.pwr.clkAck || timedOut s 2 0)) &&
  ((List.range 18).all fun k => s.pwr.req.testBit k = wanted s k &&
    (s.pwr.ack.testBit k = s.pwr.req.testBit k || timedOut s 0 k)) &&
  ((List.range 4).all fun t => s.pwr.retReq.testBit t = wantedRet s t &&
    (s.pwr.retAck.testBit t = s.pwr.retReq.testBit t || timedOut s 1 t))

/-- Every ACK of a wake is in; only a domain other than domain 0 and the tiles may have timed out, on its way up or down (R463). -/
def wakeDone (s : State) : Bool :=
  s.pwr.clkReq && s.pwr.clkAck && s.pwr.retReq % 16 = 0 && s.pwr.retAck % 16 = 0 &&
  (List.range 18).all fun k =>
    (s.pwr.req.testBit k = wanted s k && s.pwr.ack.testBit k = s.pwr.req.testBit k) || (timedOut s 0 k && 5 ≤ k)

/-- The block is in WATCH or DORMANT.  A watched port with EEE_EN asks for LPI; a cause that was held wakes at once. -/
def enterLow (s : State) : State :=
  let s1 := s.updPwr fun p => { p with mode := if p.target = 1 then .watch else .dormant }
  let s2 := (List.range (nPorts s1)).foldl (fun s n =>
    let p := getPort s n
    if laneKept s n && ptEee p.applied && !ptQbv p.applied && !p.lpiReq then
      txLpiEnter n (setPort n (fun p => { p with lpiReq := true }) s)
    else s) s1
  match s2.pwr.heldCause with
  | some (c, a, b) => beginWake c a b s2
  | none => s2

/-- The steps that wait for responses and handshakes go on as far as they can. -/
def settlePower (s : State) : State :=
  match s.pwr.mode with
  | .entering =>
    let s1 := if s.pwr.committed && !s.pwr.isolated && hostQuiet s then
        driveReqs (s.updPwr fun p => { p with isolated := true })
      else driveReqs s
    if s1.pwr.committed && s1.pwr.isolated && entryDone s1 then enterLow s1 else s1
  | .waking => let s1 := driveReqs s; if wakeDone s1 then goActive s1 else s1
  | _ => driveReqs s

/-- The lanes that lose their supply at a commit point. -/
def lanesGiven (s : State) : List Nat :=
  (List.range (nPorts s)).filter fun n => laneOn s n && !(s.pwr.target = 1 && watched s n)

/-- The commit point: the PWR_STATE event, the PORT_LINK events of the links that fall with their lanes' supply, and the response,
which waits for them (R121). -/
def commitPoint (q : Req) (s : State) : State :=
  let t := s.pwr.target
  let gone := lanesGiven s
  let s1 := raise0 0x0D81 noSubj (toLe 1 t ++ zeros 7) s
  let s2 := gone.foldl (fun s n =>
    let a := abandonTraining n s
    if (getPort a n).link then linkEvent n 0 1 a else a) s1
  let s3 := finishRunning q (okD (zeros 4 ++ toLe 4 s.pwr.dropped)) s2
  let s4 := bump 0xD0 0 (if t = 1 then 0 else 1) (s3.updPwr fun p => { p with committed := true, commitNs := nowNs s })
  settlePower (lines (gone.foldl (fun s n => laneOff n (linkFall n s)) s4))

/-- POWER_COMMIT_POINT. -/
def powerCommit (s : State) : State :=
  match runningFor 0x0D01 s with
  | some q => if s.pwr.mode = .entering && !s.pwr.committed && inflight s = 0 then commitPoint q s else s
  | none => s

/-! ## Handshakes (R72-R76) -/

def hsError (s : State) : State := s.updPwr fun p => { p with hsErrors := sat32 p.hsErrors }

/-- An ACK has followed its REQ; when it is that of the Onyx domain, the cores run. -/
def ackIn (kind i : Nat) (s : State) : State :=
  onyxRuns (settlePower (judgeHs (s.updPwr fun p => { p with hsTimeout := p.hsTimeout.filter (· != (kind, i)) })))

/-- PWR_ACK_CHANGE. -/
def pwrAck (k : Nat) (level : Bool) (s : State) : State :=
  if 24 ≤ k || s.pwr.ack.testBit k = level then s
  else if s.pwr.req.testBit k = level then
    ackIn 0 k (s.updPwr fun p => { p with
      ack := withBit p.ack k level, absent := if level then p.absent.filter (· != k) else p.absent })
  else hsError s

/-- RET_ACK_CHANGE. -/
def retAck (t : Nat) (level : Bool) (s : State) : State :=
  if 4 ≤ t || s.pwr.retAck.testBit t = level then s
  else if s.pwr.retReq.testBit t = level then ackIn 1 t (s.updPwr fun p => { p with retAck := withBit p.retAck t level })
  else hsError s

/-- What TB0-TB6 do when CLK_CORE runs again (R410). -/
def resumeBase (d k : Nat) (s : State) : State :=
  setTb k (fun b => { b with
    v := (((b.v : Int) + d + d * b.rate / (2 ^ 40 : Int)) % (tbSpan : Int)).toNat, resumed := true }) s

/-- CLK_ACK_RISE: the bases resume from the stop that was kept, if there is one; every trigger is judged anew, and gate lists follow
their bases (R409, R410, R430). -/
def clkRise (s : State) : State :=
  if s.pwr.clkAck then s
  else if !s.pwr.clkReq then hsError s
  else
    let s0 := (s.updPwr fun p => { p with clkAck := true }).updTime fun t => { t with kept := none }
    let s1 := match s.time.kept with
      | some v => (List.range 7).foldl (fun s k => resumeBase ((getTb s 7).v - v) k s) s0
      | none => s0
    let s2 := (List.range 8).foldl (fun s k => gclStep k (trgJudgeBase k s)) s1
    ackIn 2 0 (lines s2)

/-- CLK_ACK_FALL: TB7 is kept for the resumption, and every trigger output is 0 (R62, R410, R430). -/
def clkFall (s : State) : State :=
  if !s.pwr.clkAck then s
  else if s.pwr.clkReq then hsError s
  else
    let s1 := s.updTime fun t => { t with
      kept := some (getTb s 7).v, edges := [], trg := t.trg.map fun x => (x.1, { x.2 with out := false, pulse := false }) }
    ackIn 2 0 (s1.updPwr fun p => { p with clkAck := false })

/-- The levels of a REQ and of its ACK. -/
def hsLevels (s : State) (kind i : Nat) : Bool × Bool :=
  match kind with
  | 0 => (s.pwr.req.testBit i, s.pwr.ack.testBit i)
  | 1 => (s.pwr.retReq.testBit i, s.pwr.retAck.testBit i)
  | _ => (s.pwr.clkReq, s.pwr.clkAck)

/-- HANDSHAKE_TIMEOUT: an ACK has not followed its REQ for 200 µs. -/
def hsTimeout (kind i : Nat) (s : State) : State :=
  let l := hsLevels s kind i
  let ok := (kind = 0 && i < 18) || (kind = 1 && i < 4) || (kind = 2 && i = 0)
  if !ok || l.1 = l.2 || timedOut s kind i then s
  else
    let s1 := judgeHs (s.updPwr fun p => { p with
      hsTimeout := p.hsTimeout ++ [(kind, i)], absent := if kind = 0 && l.1 then p.absent ++ [i] else p.absent })
    settlePower (raise0 0x0D83 noSubj (toLe 1 kind ++ toLe 1 i ++ toLe 1 (b2n l.1)) s1)

/-! ## Wake requests (R462) -/

/-- PWR_WAKE: ignored in ACTIVE and ENTERING. -/
def hostWake (s : State) : State :=
  if s.sys.held then s
  else if s.pwr.mode = .entering then answer 0 s
  else answer 0 (wakeCause 4 0 0 s)

/-- WAKE_TIMER: TB7 has reached PWR_WAKE_TIME; 0 disables it. -/
def wakeTimer (s : State) : State := if s.pwr.wakeTime = 0 || nowNs s < s.pwr.wakeTime || s.sys.held then s else wakeCause 5 0 0 s

def execPowerCommitPoint (s : State) : Out := .next (powerCommit s)
def execPwrAckChange (k : Nat) (level : Bool) (s : State) : Out := .next (pwrAck k level s)
def execRetAckChange (t : Nat) (level : Bool) (s : State) : Out := .next (retAck t level s)
def execClkAckRise (s : State) : Out := .next (clkRise s)
def execClkAckFall (s : State) : Out := .next (clkFall s)
def execHandshakeTimeout (kind i : Nat) (s : State) : Out := .next (hsTimeout kind i s)
def execPwrWake (s : State) : Out := .next (hostWake s)
def execWakeTimer (s : State) : Out := .next (wakeTimer s)

/-- LIGHT_SLEEP: a bank that no access has reached for 256 cycles (R451). -/
def lightSleep (bank : Nat) (s : State) : State :=
  if bank < nBanks s && s.store.banks.getD bank 4 != 4 && !coreOff s && !s.sys.held then
    s.updStore fun t => { t with asleep := withBit t.asleep bank true }
  else s

def execLightSleep (bank : Nat) (s : State) : Out := .next (lightSleep bank s)

end Sys2Proof.Machine
end

