-- ==== Sys2Proof/Machine/HostDispatch.lean ====
section
/-! DEFINITION. What each unit does when its transfers at the host port end (R45-R47, R119, R510). -/

namespace Sys2Proof.Machine

open Sys2Proof

/-! ## The quiesce (R510) -/

/-- The pipeline is empty, and no frame or send is on its way into it (step 2 of R452). -/
def pipeDrained (s : State) : Bool :=
  enteredFrames s = 0 && busyThreads s = 0 && s.pipe.wait.isEmpty && s.pipe.granted.isEmpty && s.ch.vals.all (·.sends.isEmpty)

/-- SYS_QUIESCE goes on as far as it can: step 2 once the pipeline is drained, and its end once nothing is outstanding and no other
long-running command runs (R511). -/
def settleQuiesce (s : State) : State :=
  let s1 := if s.sys.quiescing && pipeDrained s then
      s.updSys fun y => { y with quiescing := false, quiesced := true }
    else s
  if s1.sys.quiesced && s1.host.reads.isEmpty && s1.host.writes.isEmpty && !jobRuns s1 then
    match runningFor 0x0109 s1 with
    | some q => finishRunning q (okD (toLe 4 s1.sys.qDropped ++ toLe 4 s1.sys.qTimed)) s1
    | none => s1
  else s1

/-! ## Event rings (R119, R120) -/

/-- The write of a record has ended: MB_EVT_PROD advances and the message is issued, or the event is lost (R45). -/
def eventDone (m : Nat) (err : Bool) (s : State) : State :=
  let s1 := setMb m (fun b => { b with writing := false }) s
  let s2 :=
    if err then setMb m (fun b => { b with evtLost := sat32 b.evtLost, lostBefore := true }) s1
    else
      let s3 := setMb m (fun b => { b with evtProd := (b.evtProd + 1) % 2 ^ 32 }) s1
      let s4 := lines (s3.updIntr fun i => { i with mbEvent := i.mbEvent ||| 2 ^ m })
      let g := (getMb s4 m).ring
      if g.flags.testBit 0 && g.msgAddr != 0 && !stopped s4 then lines (sendMsg (.mailbox m) 0x211 g.msgAddr g.msgData s4).1
      else s4
  evPump ((getMb s2 m).evtQ.length) m (evPassed m s2)

/-- The write of a record to a ring since left has ended (R45). -/
def oldEventDone (m : Nat) (err : Bool) (s : State) : State :=
  evPassed m (if err then setMb m (fun b => { b with evtLost := sat32 b.evtLost, lostBefore := true }) s else s)

/-- The write of an interrupt message has ended (R345, R536). -/
def msgDone (src : MsgSrc) (err : Bool) (s : State) : State :=
  match src with
  | .vector c v => vecMsgDone c v err s
  | .line _ => if err then raiseErr 6 (s.updIntr fun i => { i with msgErrors := sat32 i.msgErrors }) else s
  | .mailbox _ => if err then raiseErr 6 s else s
  | .crc => if err then raiseErr 6 s else s

/-! ## The end of a transfer -/

/-- The unit that asked for a transfer takes it: `good` counts the good beats of a read before its first errored one. -/
def xferDone (x : Xfer) (good : Nat) (s : State) : State :=
  let d := dropXfer x.id s
  match x.purp with
  | .payload => payloadDone x d
  | .event m => eventDone m x.err d
  | .oldEvent m => oldEventDone m x.err d
  | .msg src => msgDone src x.err d
  | .image => imageReadDone x d
  | .desc c tx r => descDone c tx r x d
  | .txData c r id => txDataDone c r id x d
  | .rxData c r id => rxDataDone c r id x d
  | .writeBack c tx r id => writeBackDone c tx r id x d
  | .lookup => lookDone x d
  | .flopRead => flopDone x d
  | .flowWrite => s
  | .overflow _ => tableWriteDone x d
  | .svcRead mb => if mb ≥ 16 then s else flowReadDone x mb d
  | .stage => stageWriteDone x d
  | .scrub => scrubDone x d
  | .stageRead => readBackDone x d
  | .hitWrite _ => tableWriteDone x (if s.flow.flops.any (·.xfer = some x.id) then flopDone x d else d)
  | .thread _ _ => s
  | .spill _ => if s.store.orphans.any (·.1 = x.id) then orphanDone x d else s
  | .ret _ => s
  | .direct h (.wire n) => wireRead n h x d
  | .direct h (.ring c r) => rxReadDone c r h x d
  | .direct _ (.thread e t) => baseStart e t (doneRead e t s)
  | .direct _ _ => s
  | .dramWrite h => dramWritten h x d
  | .freeRead _ => s
  | .freeWrite _ => d
  | .crcRead j => crcReadDone j good x d
  | .crcRing j => crcRingDone j x d

/-- What follows every response at the host port. -/
def afterHost (s : State) : State := hostPerf (settleQuiesce (settlePower (svcPump (settleResets (releaseAwaited (pump s))))))

/-- The good beats of a read, counted to its first errored one. -/
def goodBeats (tag : Nat) (beats : List Beat) (s : State) : Nat :=
  let got := ((findTxn false tag s).map (·.got)).getD []
  ((got ++ beats).takeWhile fun b => !b.poison && b.resp = 0).length

def endWith (good : Nat) (r : State × Option Xfer) : State :=
  afterHost (match r.2 with
    | some x => xferDone x good r.1
    | none => r.1)

/-- HOST_READ_RETURN. -/
def hostRead (tag : Nat) (beats : List Beat) (s : State) : State := endWith (goodBeats tag beats s) (readReturn tag beats s)

/-- HOST_WRITE_RESPONSE. -/
def hostWrite (tag resp : Nat) (s : State) : State := endWith 0 (writeReturn tag resp s)

/-- HOST_TIMEOUT. -/
def hostTimeout (write : Bool) (tag : Nat) (s : State) : State :=
  let due := (s.sys.quiescing || s.sys.quiesced) && (findTxn write tag s).isSome
  endWith (goodBeats tag [] s)
    (timeoutTxn write tag (if due then s.updSys fun y => { y with qTimed := y.qTimed + 1 } else s))

/-- A transaction is given up (R455). -/
def hostGiveUp (write : Bool) (tag : Nat) (s : State) : State := endWith (goodBeats tag [] s) (giveUpTxn write tag s)

/-- EVENT_WRITE_RESPONSE: the response of the write of an event record. -/
def eventWrite (tag resp : Nat) (s : State) : State :=
  match (findTxn true tag s).bind fun t => getXfer s t.xfer with
  | some x =>
    match x.purp with
    | .event _ => hostWrite tag resp s
    | .oldEvent _ => hostWrite tag resp s
    | _ => s
  | none => s

def execHostReadReturn (tag : Nat) (beats : List Beat) (s : State) : Out := .next (hostRead tag beats s)
def execHostWriteResponse (tag resp : Nat) (s : State) : Out := .next (hostWrite tag resp s)
def execHostTimeout (write : Bool) (tag : Nat) (s : State) : Out := .next (hostTimeout write tag s)
def execEventWriteResponse (tag resp : Nat) (s : State) : Out := .next (eventWrite tag resp s)

end Sys2Proof.Machine
end

