-- ==== Sys2Proof/Machine/PowerCmd.lean ====
section
/-! DEFINITION. The commands of the power unit, the refusal and the force of an entry (R454, R455, R466), and what a quiesce
drops (R510). -/

namespace Sys2Proof.Machine

open Sys2Proof

/-! ## Frames that are dropped (R455) -/

def forcedDrops (port : Nat) (s : State) : State := bump 0xD1 port 0 s

/-- A frame of the pipeline is dropped. -/
def forceFrame (f : PFrame) (s : State) : State :=
  releaseOwner f.h ownPipeline (abandonAll (.frame f.h f.oseq) (forcedDrops f.port s))

/-- A thread is stopped; a frame of an input queue that it held is dropped. -/
def forceThread (e t : Nat) (s : State) : State :=
  match (getThr s e t).hold with
  | .inq f => releaseOwner f.h (engOwner e) (abandonAll (.frame f.h f.oseq) (forcedDrops f.port (unpinBuf f.h s)))
  | _ => s

/-- Frames of input queues that busy threads hold. -/
def heldInq (s : State) : Nat :=
  ((List.range (nEngines s)).map fun e =>
    ((List.range 4).filter fun t => match (getThr s e t).hold with | .inq _ => true | _ => false).length).sum

/-- The frames that have entered and are neither released nor dropped. -/
def entered (s : State) : List PFrame :=
  s.pipe.parseQ ++ s.pipe.flowQ ++ s.flow.looks.map (·.frame) ++ s.flow.followers.map (·.1) ++ s.pipe.out ++
    s.pipe.slots.vals.map (·.frame)

/-- The reads of buffers out of host memory by the pipeline and by engine threads are given up. -/
def dropReads (s : State) : State :=
  (s.host.xfers.map (·.purp)).foldl (fun s p =>
    match p with
    | .direct h .parser => forgetRead .parser h s
    | .direct h .commit => forgetRead .commit h s
    | .direct h (.thread e t) => dropDirect (.thread e t) h s
    | _ => s) s

/-- Every engine thread stops, and every frame that has entered and is not released is dropped; each port code's next
release is that of its next arrival. -/
def dropEntered (s : State) : State :=
  let fs := entered s
  let s0 := dropReads s
  let s1 := (List.range (nEngines s)).foldl (fun s e => (List.range 4).foldl (fun s t => forceThread e t s) s) s0
  let s2 := s1.pipe.slots.keys.foldl (fun s i => freeStaged i s) s1
  let s3 := (List.range (nEngines s)).foldl (fun s e => idleThreads e s) s2
  let s4 := (s3.updPipe fun p => { p with
    parseQ := [], flowQ := [], out := [], slots := [], disp := [], skips := [], next := p.seqs }).updFlow fun f => { f with
      looks := [], followers := [] }
  dropXfers (fun x => x.purp = .lookup) (fs.foldl (fun s f => forceFrame f s) s4)

/-! ## The refusal and the force (R454, R455) -/

/-- The entry is refused: byte 4 of the event says why, and the response holds the count of that moment. -/
def refuse (q : Req) (why : Nat) (s : State) : State :=
  let n := inflight s
  let s1 := bump 0xD0 0 3 (raise0 0x0D82 noSubj (toLe 4 n ++ toLe 1 why) s)
  finishRunning q ⟨stDeferred, 0xFFFFFFFF, toLe 4 n ++ toLe 4 s.pwr.dropped⟩ (pwrResume s1)

/-- Radio frames in launch queues, or not finished, are released: a station-link that is no longer a link's, and a station being
removed, end with them (R357, R383). -/
def forceRadio (l : Nat) (s : State) : State :=
  let r := getRl s l
  let s1 := r.launch.foldl
    (fun s x => rlDrop l x.sta x.ac x.h (leaveLaunch l x s)) s
  let s2 := setRl l (fun r => { r with launch := [], unfin := [] }) (r.unfin.foldl (fun s u => rlDrop l u.sta u.ac u.h s) s1)
  let s3 := r.launch.foldl (fun s x => forgetLink x.sta l s) s2
  s3.sta.keys.foldl (fun s st => settleSta st s) s3

/-- The work that remains ends. -/
def force (s : State) : State :=
  let n := enteredFrames s + heldInq s + (s.rl.vals.map fun r => r.launch.length + r.unfin.length).sum +
    (s.ch.vals.map inDelivery).sum
  let s1 := dropEntered s
  let s2 := [0, 1, 2].foldl (fun s l => forceRadio l s) s1
  let s3 := s2.ch.keys.foldl (fun s c => chEndDeliv c s) s2
  let s4 := bump 0xD0 0 4 (s3.updPwr fun p => { p with forced := true, dropped := n })
  let s5 := (s4.host.reads.map (·.tag)).foldl (fun s t => hostGiveUp false t s) s4
  settlePower ((s5.host.writes.map (·.tag)).foldl (fun s t => hostGiveUp true t s) s5)

/-- POWER_DEFER_TIMEOUT: 100 µs after step 1. -/
def deferTimeout (s : State) : State :=
  match runningFor 0x0D01 s with
  | none => s
  | some q =>
    if s.pwr.mode != .entering || s.pwr.committed || s.pwr.forced || inflight s = 0 then s
    else if s.pwr.force then force s
    else refuse q 0 s

/-- FORCE_LATE_TIMEOUT: 1 ms after the force. -/
def forceLate (s : State) : State :=
  match runningFor 0x0D01 s with
  | none => s
  | some q =>
    if s.pwr.mode = .entering && !s.pwr.committed && s.pwr.forced && inflight s != 0 then refuse q 1 s else s

/-- SYS_ABORT of an entry before its commit point. -/
def abortEntry (q : Req) (s : State) : State :=
  finishRunning q ⟨stAborted, 0xFFFFFFFF, zeros 4 ++ toLe 4 s.pwr.dropped⟩ (pwrResume s)

/-! ## The commands -/

/-- A watched port has an enabled lane that is not retired. -/
def canWatch (s : State) : Bool := (List.range (nPorts s)).any fun n => watched s n && laneOn s n

/-- PWR_STATE_SET: admission stops, the pipeline drains and egress stops; dirty ways are written back (R452). -/
def pwrStateCmd (q : Req) (s : State) : State × Option Reply :=
  let t := u8 q.payload 0
  match firstErr [(t = 0 || t > 2, inv 0),
      ((t = 1 && !canWatch s) || !s.gv.running.isEmpty || s.pwr.mode != .active, errR stWrongState)] with
  | some r => (s, some r)
  | none =>
    let s1 := s.updPwr fun p => { p with
      mode := .entering, target := t, force := (u8 q.payload 1).testBit 0, forced := false, committed := false
      isolated := false, dropped := 0, heldCause := none }
    let dirty := (s1.flow.cache.vals.flatMap id).filter (·.dirty)
    (dirty.foldl (fun s w => entryWash w.index s) s1, none)

/-- A mask of ports that names one the build does not have (R6). -/
def namesAbsentPort (s : State) (mask : Nat) : Bool := mask ≥ 2 ^ nPorts s

/-- PWR_WATCH_SET.  In BM-128 the addresses at the places of the absent WP2 and WP3 are taken and kept: a fixed place names no port
(R6; DESIGN CHOICE, log 89). -/
def pwrWatchCmd (q : Req) (s : State) : State × Reply :=
  let p := q.payload
  let absent := (List.range 3).filter fun i => namesAbsentPort s (u8 p i)
  let group := ((List.range 4).filter fun n => (u8 p (4 + 6 * n)).testBit 0).map (4 + 6 * ·)
  match (absent ++ group).head? with
  | some i => (s, inv i)
  | none =>
    (s.updPwr fun w => { w with
      watchPorts := u8 p 0, linkWake := u8 p 1, addrWake := u8 p 2
      wakeAddr := (List.range 4).foldl (fun t n => t.set n (le p (4 + 6 * n) 6)) w.wakeAddr }, okR)

def pwrPatternCmd (q : Req) (s : State) : State × Reply :=
  let p := q.payload
  if u8 p 0 > 15 then (s, inv 0)
  else if namesAbsentPort s (u8 p 1) then (s, inv 1)
  else
    match (List.range 64).find? fun i => andNot (u8 p (8 + i)) (u8 p (72 + i)) != 0 with
    | some i => (s, inv (8 + i))
    | none =>
      (s.updPwr fun w => { w with pats := w.pats.set (u8 p 0) { ports := u8 p 1, value := slice p 8 64, mask := slice p 72 64 } }, okR)

/-- PWR_STATE (R450): the number of each state. -/
def modeNum : PwrMode → Nat
  | .active => 0
  | .watch => 1
  | .dormant => 2
  | .entering => 3
  | .waking => 4

def pwrStatusBytes (s : State) : Bytes :=
  toLe 1 (modeNum s.pwr.mode) ++ toLe 1 s.pwr.cause ++ toLe 1 (wakeWhat s) ++ zeros 1 ++ toLe 4 s.pwr.drained ++
    toLe 8 s.pwr.commitNs ++ toLe 8 s.pwr.activeNs ++ zeros 8

def pwrCountersCmd (q : Req) (s : State) : State × Reply :=
  let p := q.payload
  let sel := u8 p 0
  let id := u16 p 2
  match firstErr [(sel > 1, inv 0), (u8 p 1 > 1, inv 1), (sel = 1 && !portCodeOk s id, inv 2)] with
  | some r => (s, r)
  | none =>
    let r := if sel = 0 then readCounters 0xD0 0 5 (u8 p 1 = 1) s else readCounters 0xD1 id 4 (u8 p 1 = 1) s
    (r.2, okD r.1)

/-! ## What a quiesce drops (R510) -/

/-- QUIESCE_DRAIN_TIMEOUT: 100 µs after step 1, frames that have entered and are not released are dropped as under R455. -/
def quiesceTimeout (s : State) : State :=
  if !s.sys.quiescing then s
  else
    let n := enteredFrames s + heldInq s
    settleQuiesce ((dropEntered s).updSys fun y => { y with
      qDropped := y.qDropped + n, quiescing := false, quiesced := true })

def execPwrStateSet (s : State) : Out := .next (longRunning 0x0D01 pwrStateCmd s)
def execPowerDeferTimeout (s : State) : Out := .next (deferTimeout s)
def execForceLateTimeout (s : State) : Out := .next (forceLate s)
def execPwrWatchSet (s : State) : Out := .next (immediate 0x0D02 pwrWatchCmd s)
def execPwrPatternSet (s : State) : Out := .next (immediate 0x0D03 pwrPatternCmd s)
def execPwrStatusGet (s : State) : Out := .next (immediate 0x0D04 (fun _ s => (s, okD (pwrStatusBytes s))) s)
def execPwrCountersGet (s : State) : Out := .next (immediate 0x0D05 pwrCountersCmd s)
def execQuiesceDrainTimeout (s : State) : Out := .next (quiesceTimeout s)

end Sys2Proof.Machine
end

