-- ==== Sys2Proof/Machine/Sys.lean ====
section
/-! DEFINITION. The commands of the system unit (R104, R107, R113, R117, R508-R510). -/

namespace Sys2Proof.Machine

open Sys2Proof

/-! ## SYS_IDENTIFY -/

def identifyBytes (m : Nat) (s : State) : Bytes :=
  let b := getMb s m
  let gens := s.cls.resident.flatMap fun g => toLe 2 g.gen
  toLe 4 ipVersion ++ toLe 4 (ipConfig s) ++ toLe 4 (if s.sys.fw then s.sys.onyxVer else 0) ++ toLe 4 s.sys.garnetVer ++
    toLe 1 s.res.active ++ toLe 1 (if s.sys.boot then 2 else standbyNum s.res.standby) ++ toLe 2 s.cls.current ++ slice gens 0 8 ++
    toLe 1 s.cls.resident.length ++ toLe 1 (if s.sys.boot && s.sys.phase = 1 then 0 else s.sys.phase) ++ zeros 2 ++ toLe 1 b.agent ++ toLe 1 s.gv.groups.length ++
    toLe 2 b.caps ++ zeros 4

/-! ## Windows in use -/

/-- A range that a holder holds, and the agent that it needs a window of; none takes a window of any agent. -/
structure Held where
  addr  : Nat
  len   : Nat
  agent : Option Nat

/-- What a channel's ring holds. -/
def ringHeld (s : State) (c : Nat) (tx : Bool) (r : Nat) : List Held :=
  let g := ringOf s c tx r
  let a := some (getCh s c).agent
  if g.mode = 1 then [⟨g.base, 32 * g.entries, a⟩, ⟨g.cqBase, 32 * g.entries, a⟩]
  else if g.mode = 2 then [⟨g.cur, 32, a⟩, ⟨g.cqBase, 32 * g.entries, a⟩]
  else []

/-- What a channel holds: its rings, and its vectors' message addresses. -/
def chHeld (s : State) (c : Nat) : List Held :=
  (List.range 8).flatMap (fun r => ringHeld s c true r ++ ringHeld s c false r) ++
    (((getCh s c).vecs.vals.filter (·.addr != 0)).map fun v => ⟨v.addr, 4, some (getCh s c).agent⟩)

/-- What a mailbox's event ring holds. -/
def mbHeld (s : State) (m : Nat) : List Held :=
  let b := getMb s m
  if b.ring.entries = 0 then []
  else ⟨b.ring.base, 32 * b.ring.entries, some b.agent⟩ ::
    (if b.ring.msgAddr = 0 then [] else [⟨b.ring.msgAddr, 4, some b.agent⟩])

/-- Every range that is held. -/
def holders (s : State) : List Held :=
  s.ch.keys.flatMap (chHeld s) ++ (List.range 16).flatMap (mbHeld s) ++
    ((s.crc.slots.vals.filter fun j => jobBusy j && j.len != 0).map fun j => ⟨j.addr, j.len, none⟩)

/-- A held range has a window that its holder may use. -/
def Held.covered (h : Held) (s : State) : Bool :=
  match h.agent with
  | some a => windowOk s a h.addr h.len
  | none => inWindow s h.addr h.len

/-- An address of a window is in use; a disabled window has none. -/
def windowInUse (s : State) (i : Nat) : Bool :=
  let w := s.host.windows.getD i {}
  w.size != 0 && (holders s).any fun h => h.addr < w.base + w.size && w.base < h.addr + h.len

/-! ## SYS_REGION_SET -/

/-- The sizes and alignments of each kind of region. -/
def regionBad (kind base size : Nat) : Option Reply :=
  let mib2 := 2097152
  match kind with
  | 0 => firstErr [(base % mib2 != 0, inv 8), (size != 4 * mib2, inv 16)]
  | 1 => firstErr [(base % mib2 != 0, inv 8), (size != 128 * mib2 && size != 256 * mib2 && size != 512 * mib2 && size != 1024 * mib2, inv 16)]
  | 2 => firstErr [(base % mib2 != 0, inv 8), (size % mib2 != 0 || size > 256 * mib2, inv 16)]
  | 3 => firstErr [(base % mib2 != 0, inv 8), (size != 0 && (size % mib2 != 0 || size < 16 * mib2 || size > 32 * mib2), inv 16)]
  | _ => firstErr [(base % 4096 != 0, inv 8), (size % 4096 != 0, inv 16)]

def overlaps (a b : Region) : Bool := a.size != 0 && b.size != 0 && a.base < b.base + b.size && b.base < a.base + a.size

/-- The region that a command names, as it stands. -/
def regionOf (s : State) (kind index : Nat) : Region :=
  match kind with
  | 0 => s.host.control
  | 1 => s.host.flow
  | 2 => s.host.dram
  | 3 => s.host.staging
  | _ => s.host.windows.getD index {}

/-- The regions that a new one must not overlap. -/
def othersOf (s : State) (kind : Nat) : List Region :=
  let fixed := [(0, s.host.control), (1, s.host.flow), (2, s.host.dram), (3, s.host.staging)]
  ((fixed.filter fun x => x.1 != kind).map (·.2)) ++ (if kind = 4 then [] else s.host.windows.vals)

/-- The region in force; a new DRAM tier takes its default division (R197). -/
def putRegion (kind index : Nat) (r : Region) (s : State) : State :=
  match kind with
  | 0 => s.updHost fun h => { h with control := r }
  | 1 => s.updHost fun h => { h with flow := r }
  | 2 => resetDrams ((s.updHost fun h => { h with dram := r }).updStore fun t => { t with units := defaultUnits r.size })
  | 3 => s.updHost fun h => { h with staging := r }
  | _ => s.updHost fun h => { h with windows := h.windows.set index r }

/-- The state in which each kind is accepted. -/
def regionState (s : State) (kind : Nat) (after : State) : Bool :=
  if kind < 3 then s.sys.phase = 1 && !s.sys.boot
  else if kind = 3 then s.res.load.isNone
  else (holders s).all fun h => !h.covered s || h.covered after

/-- SYS_REGION_SET.  A WINDOW of another agent is NOT_OWNER even where the values are those in force (R104, R107; DESIGN CHOICE,
log 91). -/
def regionSetCmd (q : Req) (s : State) : State × Reply :=
  let p := q.payload
  let kind := u8 p 0
  let i := u8 p 1
  let base := u64 p 8
  let size := u64 p 16
  let new : Region := { base := base, size := size, agent := u8 p 2, set := true }
  let old := regionOf s kind i
  let bad := firstErr
    [ (kind > 4, inv 0), (if kind = 4 then i > 15 else i != 0, inv 1), (kind != 4 && u8 p 2 != 0xFF, inv 2) ]
  match bad.or (regionBad kind base size) with
  | some r => (s, r)
  | none =>
    if base + size > 2 ^ 48 then (s, inv 16)
    else if (if kind = 4 then othersOf s 4 else othersOf s kind).any (overlaps new) then (s, inv 8)
    else if kind = 4 && old.agent != 0xFF && old.agent != agentOf q s then (s, errR stNotOwner)
    else if old.base = base && old.size = size && old.agent = new.agent then (s, okR)
    else
      let t := putRegion kind i new s
      if regionState s kind t then (t, okR) else (s, errR stWrongState)

/-! ## Groups -/

def groupOpenCmd (q : Req) (s : State) : State × Reply :=
  if s.gv.groups.length ≥ 8 then (s, errR stNoResource)
  else
    let id := s.gv.nextGroup
    (s.updGv fun g => { g with groups := g.groups ++ [{ id := id, mb := q.mb, agent := agentOf q s }], nextGroup := id + 1 },
      okD (toLe 4 id))

/-- A group is discarded with GROUP_DISCARDED: 0 by grant, 1 by SYS_ABORT from MB0 (R121, R123). -/
def discardGroup (g : Group) (why : Nat) (s : State) : State :=
  raiseTo (.agents [0, g.agent]) 0x0183 g.id (toLe 1 why) (dropGroup g.id s)

def abortCmd (q : Req) (s : State) : State × Reply :=
  let p := q.payload
  let m := u8 p 1
  if u8 p 0 > 1 then (s, inv 0)
  else if u8 p 0 = 0 then
    match s.gv.groups.find? fun g => g.id = u32 p 4 && (g.mb = q.mb || q.mb = 0) with
    | none => (s, errR stGroupUnknown)
    | some g => (if q.mb = 0 then discardGroup g 1 s else dropGroup g.id s, okR)
  else if m > 15 then (s, inv 1)
  else if m != q.mb && q.mb != 0 then (s, errR stNotOwner)
  else
    match s.gv.running.find? (·.mb = m) with
    | none => (s, errR stWrongState)
    | some r =>
      if rqCode r.hdr = 0x0E01 then (abortLoad s, okR)
      else if rqCode r.hdr = 0x0D01 && s.pwr.mode = .entering && !s.pwr.committed then (abortEntry r s, okR)
      else (s, errR stWrongState)

/-! ## Event rings, masks, grants and bindings -/

def eventRingArgs (s : State) (agent : Nat) (p : Bytes) : Option Reply :=
  let base := u64 p 0
  let n := u32 p 8
  let msg := u64 p 16
  match firstErr
    [ (base % 64 != 0, inv 0), (n != 0 && !(powerOf2 n && 16 ≤ n && n ≤ 65536), inv 8),
      (msg = 0 && u32 p 12 % 4 != 0, inv 12), (msg % 4 != 0 || msg ≥ 2 ^ 48, inv 16) ] with
  | some r => some r
  | none =>
    (if n = 0 then none else rangeBad s agent base (32 * n) 0).or (if msg = 0 then none else rangeBad s agent msg 4 16)

/-- The events that wait for a mailbox's ring are lost with it (R120, R121). -/
def loseQueued (m : Nat) (s : State) : State :=
  (getMb s m).evtQ.foldl (fun s _ => evPassed m (evLose m s)) (setMb m (fun b => { b with evtQ := [] }) s)

/-- The record that a mailbox's ring is getting has not been issued: it waits for a tag. -/
def recordUnissued (m : Nat) (s : State) : Bool := s.host.xfers.any fun x => x.purp = .event m && x.out = 0

/-- A mailbox's ring is left: an issued write of a record completes there, and a record not issued is lost (R117, R120). -/
def leaveRing (m : Nat) (s : State) : State :=
  let s1 := setMb m (fun b => { b with writing := false }) s
  if recordUnissued m s then
    dropXfers (fun x => x.purp = .event m)
      (evPassed m (setMb m (fun b => { b with evtLost := sat32 b.evtLost, lostBefore := true }) s1))
  else s1.updHost fun h => { h with xfers := mapIf h.xfers (·.purp = .event m) fun x => { x with purp := .oldEvent m } }

def eventRingCmd (q : Req) (s : State) : State × Reply :=
  let p := q.payload
  match eventRingArgs s (agentOf q s) p with
  | some r => (s, r)
  | none =>
    let g : Ring := { base := u64 p 0, entries := u32 p 8, flags := u32 p 12, msgAddr := u64 p 16, msgData := u32 p 24 }
    (setMb q.mb (fun b => { b with ring := g, evtProd := 0, evtCons := 0, seq := 0, lostBefore := false }) (leaveRing q.mb s), okR)

/-- SYS_EVENT_RING_SET takes effect once the records of earlier events have been issued to the ring before. -/
def eventRingSet (s : State) : State :=
  match takenFor 0x0105 s with
  | some q => if (getMb s q.mb).evtQ.isEmpty && !recordUnissued q.mb s then immediate 0x0105 eventRingCmd s else s
  | none => s

def eventMaskCmd (q : Req) (s : State) : State × Reply :=
  (setMb q.mb (fun b => { b with evtMask := u16 q.payload 0 &&& b.caps }) s, okR)

def grantCmd (q : Req) (s : State) : State × Reply :=
  let p := q.payload
  let m := u8 p 0
  match firstErr [(m = 0 || m > 15, inv 0), (u8 p 1 = 255, inv 1), ((getMb s m).busy, errR stWrongState)] with
  | some r => (s, r)
  | none =>
    let s1 := (s.gv.groups.filter (·.mb = m)).foldl (fun s g => discardGroup g 0 s) s
    (setMb m (fun b => { b with
      tokens := [], ring := {}, evtMask := 0, agent := u8 p 1, caps := u16 p 2 }) (loseQueued m (leaveRing m s1)), okR)

/-- A station has a queued frame. -/
def staQueued (s : State) (n : Nat) : Bool := (List.range 4).any fun a => !(getQ s (.sta n a)).isEmpty

/-- Something in a range cannot be bound now. -/
def bindBusy (s : State) (kind i : Nat) : Bool :=
  match kind with
  | 0 => (getCh s i).state != .disabled
  | 1 => staQueued s i
  | _ => windowInUse s i

def bindOne (kind agent i : Nat) (s : State) : State :=
  match kind with
  | 0 => setCh i (fun c => { c with agent := agent }) s
  | 1 => setSta i (fun c => { c with agent := agent }) s
  | _ => s.updHost fun h => { h with windows := h.windows.upd i {} fun w => { w with agent := agent } }

/-- SYS_RESOURCE_BIND.  MB0 may also bind what is bound to another agent (R107, R117; DESIGN CHOICE, log 90). -/
def bindCmd (q : Req) (s : State) : State × Reply :=
  let p := q.payload
  let k := u8 p 0
  let first := u32 p 4
  let n := u32 p 8
  let lim := if k = 0 then nChannels s else if k = 1 then nStations s else 16
  match firstErr [(k > 2, inv 0), (u8 p 1 = 255, inv 1), (first ≥ lim, inv 4), (n = 0 || first + n > lim, inv 8)] with
  | some r => (s, r)
  | none =>
    let l := upto first n
    if l.any (bindBusy s k) then (s, errR stWrongState)
    else (l.foldl (fun s i => bindOne k (u8 p 1) i s) s, okR)

def puntCmd (q : Req) (s : State) : State × Reply :=
  let t := u32 q.payload 0
  let bad := if t = 0xFFFFFFFF then none else if t = 0x00F00000 then some stInvalid else destStatus s (agentOf q s) t
  match bad with
  | some st => (s, errAt st 0)
  | none => (s.updGv fun g => { g with puntTarget := t }, okR)

/-! ## SYS_QUIESCE and SYS_START -/

def quiesceCmd (_q : Req) (s : State) : State × Option Reply :=
  if s.pwr.mode = .entering then (s, some (errR stWrongState))
  else if s.sys.quiesced then (s, some (okD (toLe 4 s.sys.qDropped ++ toLe 4 s.sys.qTimed)))
  else (s.updSys fun y => { y with quiescing := true, qDropped := 0, qTimed := 0 }, none)

/-- GARNET_BASE has been activated (R509). -/
def baseRuns (s : State) : Bool := s.eng.baseImg.isSome

def startCmd (_q : Req) (s : State) : State × Reply :=
  match firstErr
    [ (s.sys.phase != 1, errR stWrongState), (s.host.control.size = 0, errR stNotConfigured), (!baseRuns s, errR stWrongState) ] with
  | some r => (s, r)
  | none => (resumeSends (resumeUnits (s.updSys fun y => { y with phase := 2 })), okD (toLe 8 (nowNs s)))

def execSysIdentify (s : State) : Out := .next (immediate 0x0100 (fun q s => (s, okD (identifyBytes q.mb s))) s)
def execSysRegionSet (s : State) : Out := .next (immediate 0x0101 regionSetCmd s)
def execSysGroupOpen (s : State) : Out := .next (immediate 0x0102 groupOpenCmd s)
def execSysAbort (s : State) : Out := .next (immediate 0x0104 abortCmd s)
def execSysEventRingSet (s : State) : Out := .next (eventRingSet s)
def execSysEventMask (s : State) : Out := .next (immediate 0x0106 eventMaskCmd s)
def execSysMailboxGrant (s : State) : Out := .next (immediate 0x0107 grantCmd s)
def execSysResourceBind (s : State) : Out := .next (immediate 0x0108 bindCmd s)
def execSysQuiesce (s : State) : Out := .next (settleQuiesce (longRunning 0x0109 quiesceCmd s))
def execSysStart (s : State) : Out := .next (immediate 0x010A startCmd s)
def execSysPuntSet (s : State) : Out := .next (immediate 0x010B puntCmd s)

end Sys2Proof.Machine
end

