-- ==== Sys2Proof/Machine/Reset.lean ====
section
/-! DEFINITION. Cold and warm reset, the repair record's application, and the way to boot code (R480, R504, R505, R511). -/

namespace Sys2Proof.Machine

open Sys2Proof

/-! ## The repair record (R480, R524) -/

def recKind (e : Nat) : Nat := e / 2 ^ 62 % 4

/-- The place that an entry names. -/
def recPlace (e : Nat) : Place :=
  let u := bits e 57 52
  { sub := bits e 61 58, unit := if u = 0x3F then 0xFF else u, mac := bits e 51 40 }

/-- Apply one entry: a bank is retired, or a spare is in use. -/
def applyEntry (s : State) (e : Nat) : State :=
  if e % 65536 != recordCheck e then s.updRes fun r => { r with recordBad := sat32 r.recordBad }
  else if recKind e = 3 then s.updStore fun t => { t with banks := t.banks.set (bits e 57 52) 4 }
  else
    let p := recPlace e
    let q : Place := if p.sub = 0 && p.unit < 32 then { p with tile := p.unit / 8 } else p
    let n := bits e 29 28 + 1
    setMacro q (fun m => if recKind e = 1 then { m with rows := max m.rows n } else { m with cols := max m.cols n }) s

/-- Set a reason of SERVICE_STATUS while no unit runs that could raise its event. -/
def putReason (b : Nat) (on : Bool) (s : State) : State :=
  s.updSys fun y => { y with
    svcStatus := withBit y.svcStatus b on
    svcEvents := if on && !y.svcStatus.testBit b then y.svcEvents ||| 2 ^ b else y.svcEvents }

/-- Jasper applies every entry; BANK and RECORD follow (R504). -/
def applyRecord (s : State) : State :=
  let s1 := (s.res.record.takeWhile fun e => recKind e != 0).foldl applyEntry s
  let s2 := putReason 2 ((List.range (nBanks s1)).any fun b => s1.store.banks.getD b 4 = 4) s1
  lines (putReason 7 (s.res.record.length ≥ 256) s2)

/-! ## The resets (R504) -/

/-- The levels at the handshake pins while the block is in reset: no supply is asked for. -/
def pinsInReset (p : PwrSt) (clk : Bool) : PwrSt :=
  { req := 0, ack := p.ack, retReq := 0, retAck := p.retAck, clkReq := clk, clkAck := p.clkAck }

/-- RST_AO_N asserts: a cold reset.  The repair record, the pins and the wrapper stay. -/
def coldReset (s : State) : State :=
  { State.reset with
    build := s.build, free := s.free, pending := s.pending
    pwr := pinsInReset s.pwr false
    sys := { held := true, rstN := false, rstAoN := false, lastReset := 0 }
    res := { record := s.res.record }
    mt := { test := { mode := s.mt.test.mode, wir := s.mt.test.wir } } }

/-- The condemnation times of an engine outlast a warm reset: they are counted over 24 h of TB7 (R481). -/
def engAfter (g : Engine) : Engine := { condemned := g.condemned }

/-- What a warm reset keeps of the resilience unit. -/
def resAfter (r : ResSt) : ResSt :=
  { record := r.record, log := r.log, seq := r.seq, ce := r.ce, ue := r.ue, passes := r.passes, passNs := r.passNs
    colds := r.colds, fails := r.fails }

/-- What a warm reset keeps of the power unit. -/
def pwrAfter (p : PwrSt) : PwrSt :=
  { pinsInReset p p.clkReq with
    cause := p.cause, causePat := p.causePat, causePort := p.causePort, wakeTime := p.wakeTime, aoHold := p.aoHold
    hsErrors := p.hsErrors, drained := p.drained, commitNs := p.commitNs, activeNs := p.activeNs }

/-- The counters kept in the always-on domain (R467, R501). -/
def aoCounter (k : Nat × Nat × Nat) : Bool := k.1 = 0xD0 || k.1 = 0xD1 || k.1 = 0xE0 || k.1 = 0xE1

/-- RST_N asserts while RST_AO_N is high: a warm reset; the repair record is applied again. -/
def warmReset (s : State) : State :=
  if !s.sys.rstN then s
  else
    applyRecord
      { State.reset with
        build := s.build, free := s.free, pending := s.pending
        time := { tb := [(7, { v := (getTb s 7).v })] }
        eng := { engines := s.eng.engines.map fun x => (x.1, engAfter x.2) }
        pwr := pwrAfter s.pwr
        sys := { held := true, rstN := false, rstAoN := s.sys.rstAoN, warmCount := s.sys.warmCount, lastReset := s.sys.lastReset
                 svcStatus := s.sys.svcStatus &&& 0x86, svcEvents := s.sys.svcEvents, svcMask := s.sys.svcMask }
        res := resAfter s.res
        cnt := s.cnt.filter fun x => aoCounter x.1
        mt := { test := { s.mt.test with refused := 0 } } }

/-- RST_AO_N deasserts. -/
def aoRelease (s : State) : State :=
  if s.sys.rstAoN then s else applyRecord (s.updSys fun y => { y with rstAoN := true })

/-! ## From the release of the core reset to boot code (R505) -/

/-- The default split deals the unretired banks (R480). -/
def dealDefault (s : State) : State :=
  let n := ((List.range (nBanks s)).filter fun b => s.store.banks.getD b 4 != 4).length
  let split := [n / 4, n / 4, n / 4, n - 3 * (n / 4)]
  s.updStore fun t => { t with banks := dealBanks s split, split := split }

/-- The end of a test session (R523, R525).  The manual states what a release does with TEST_MODE low, and not with it high:
the block starts all the same (log 76). -/
def endSession (s : State) : State := s.updMt fun m => { m with test := { m.test with
  atReset := m.test.mode, session := false, bistRun := false, fixes := [] } }

/-- CORE_RESET_RELEASE: CLK_REQ and the PWR_REQ of domain 0, of the tiles and of domain 17 rise.  An entry that a test session has
programmed is applied before (R504, R525). -/
def coreRelease (s : State) : State :=
  if !s.sys.held || !s.sys.rstAoN then s
  else
    let cold := s.sys.lastReset = 0
    let s1 := s.updSys fun y => { y with
      held := false, rstN := true, lastReset := if cold then 1 else 2
      warmCount := if cold then 0 else min 255 (y.warmCount + 1) }
    let s2 := if s.mt.test.session then applyRecord s1 else s1
    driveReqs (dealDefault (endSession s2))

/-- BOOT_READY: boot code runs on OX0 and serves MB0. -/
def bootReady (s : State) : State :=
  if s.sys.held || s.sys.boot || s.sys.fw || s.sys.phase != 0 || s.res.jasper != .idle then s
  else s.updSys fun y => { y with boot := true }

/-- TEST_MODE_CHANGE: the level of the pin, which counts while RST_N is low; once it is low there, a BIST that runs has no
effect any more (R79, R80). -/
def testMode (level : Bool) (s : State) : State := s.updMt fun m => { m with test := { m.test with
  mode := level
  bistRun := m.test.bistRun && (level || s.sys.rstN) } }

def execRstNAssert (s : State) : Out := .next (warmReset s)
def execRstAoNAssert (s : State) : Out := .next (coldReset s)
def execRstAoNDeassert (s : State) : Out := .next (aoRelease s)
def execCoreResetRelease (s : State) : Out := .next (coreRelease s)
def execBootReady (s : State) : Out := .next (bootReady s)
def execTestModeChange (level : Bool) (s : State) : Out := .next (testMode level s)

end Sys2Proof.Machine
end

