-- ==== Sys2Proof/Machine/Measure.lean ====
section
/-! DEFINITION. The measurement unit's register writes and commands, and the test access (R78, R79, R513-R529). -/

namespace Sys2Proof.Machine

open Sys2Proof

/-! ## The levels of events (R516) -/

/-- A frame finds no free reorder entry (R294). -/
def windowFull (s : State) : Bool := !s.pipe.out.isEmpty && s.pipe.slots.length ≥ 256

def banksAsleep (s : State) : Nat := ((bitList 32 s.store.asleep).filter fun b => s.store.banks.getD b 4 != 4).length

def launchFill (s : State) : Nat := (s.rl.vals.map fun r => r.launch.length).sum

def parkedQueues (s : State) : Nat := (s.sta.vals.map fun x => (bitList 4 x.parked).length).sum

/-- The pairs of a wire port and a class with a nominated head that a test picks. -/
def classesHeld (p : Nat → Nat → Bool) (s : State) : Nat :=
  (s.sch.wire.map fun x => (x.2.nom.keys.filter (p x.1)).length).sum

def isParked (code : Nat) (x : Thread) : Bool :=
  match x.park with
  | .window _ _ _ => code = 3
  | .host _ => code = 4
  | .flop => code = 5
  | .send => code = 6
  | .stalled _ _ _ => code = 6
  | .tail _ _ _ _ => code = 6
  | _ => false

/-- The threads of an engine parked for the cause of an event, among those that a mask selects. -/
def parkedThreads (s : State) (e code mask : Nat) : Nat :=
  ((List.range 4).filter fun t => (mask = 0 || mask.testBit t) && isParked code (getThr s e t)).length

/-- The arrival points at which a frame waits for the arbiter (R26): a wire port, a radio link and an engine by its port code, and the
host channels' transmit DMA as one (DEDUCED, log 6). -/
def pointsHeld (s : State) : Nat := (distinct (s.pipe.wait.map fun a => min a.port 0x200)).length

/-- What an event of a unit presents in a cycle in which no command acts; none for the events that only a command's
effect presents. -/
def levelOf (s : State) (u code mask : Nat) : Option Nat :=
  if u ≥ 8 then
    if code = 2 then some (b2n ((getEng s (u - 8)).mode != .off))
    else if 3 ≤ code && code ≤ 6 then some (parkedThreads s (u - 8) code mask)
    else none
  else
    match u, code with
    | 0, 2 => some (pointsHeld s)
    | 0, 6 => some ((s.cls.resident.filter fun g => g.gen != s.cls.current).length)
    | 1, 3 => some (s.host.xfers.filter fun x => x.purp = .lookup).length
    | 1, 4 => some s.flow.followers.length
    | 1, 5 => some s.flow.claims.length
    | 2, 2 => some s.pipe.slots.length
    | 2, 3 => some s.pipe.disp.length
    | 2, 4 => some (b2n (windowFull s))
    | 3, 5 => some (movesOut s + movesIn s)
    | 3, 7 => some (banksAsleep s)
    | 4, 5 => some s.host.reads.length
    | 4, 6 => some s.host.writes.length
    | 5, 4 => some (s.ch.vals.map inDelivery).sum
    | 5, 6 => some (s.ch.vals.filter fun x => x.sends.any (·.waiting > 0)).length
    | 6, 4 => some (launchFill s)
    | 6, 6 => some (parkedQueues s)
    | 7, 2 => some (classesHeld (heldByGate s) s)
    | 7, 3 => some (classesHeld (fun n k => !shapersOpen s n k) s)
    | 7, 4 => some (s.ports.vals.map fun p => (bitList 8 p.paused).length).sum
    | _, _ => none

/-! ## The monitored units (R513, R514, R527) -/

def pmuPage (u : Nat) : Nat := 0x050000 + 0x200 * u

/-- LOAD: each counter takes its RELOAD and the cycle counter 0. -/
def pmuLoadUnit (u : Nat) (s : State) : State := setPmu u (fun p => { p with cnt := p.reload, cycle := 0 }) s

/-- A write of PMU_CTRL: RUN, FREEZE_ON_OVF and LOAD. -/
def pmuCtrlWrite (u value : Nat) (s : State) : State :=
  let s1 := setPmu u (fun p => { p with run := value.testBit 0, freeze := value.testBit 1 }) (hostPerf s)
  if value.testBit 2 then pmuLoadUnit u s1 else s1

/-- PMU_LOAD: a write of PMU_CTRL that sets LOAD and leaves RUN and FREEZE_ON_OVF as they are. -/
def pmuLoad (u : Nat) (s : State) : State :=
  regWrite (pmuPresent s u) (pmuPage u) (fun s => pmuLoadUnit u (hostPerf s)) s

def pmuRunWrite (u value : Nat) (s : State) : State :=
  regWrite (pmuPresent s u) (pmuPage u) (pmuCtrlWrite u value) s

def pmuControlCmd (q : Req) (s : State) : State × Reply :=
  let units := u32 q.payload 0
  let a := u8 q.payload 4
  match firstErr [(units = 0, inv 0), (a > 3, inv 4)] with
  | some r => (s, r)
  | none =>
    (((bitList 16 units).filter (pmuPresent s)).foldl (fun s u =>
      let s1 := if a ≥ 2 then pmuLoadUnit u s else s
      if a = 2 then s1 else setPmu u (fun p => { p with run := a != 0 }) s1) (hostPerf s), okR)

/-! ## Bandwidth windows (R517, R518) -/

def bwPage (p : Nat) : Nat := 0x054000 + 0x40 * p

def getBw (s : State) (n : Nat) : Bw := s.mt.bw.getD n {}
def setBw (n : Nat) (f : Bw → Bw) (s : State) : State := s.updMt fun m => { m with bw := m.bw.upd n {} f }

/-- A write of BW_CFG; one that sets RUN starts the windows, and restarts BW_SEQ when they ran already. -/
def bwCfg (n value : Nat) (s : State) : State :=
  let k := value % 32
  let run := value.testBit 8
  let good := 10 ≤ k && k ≤ 30
  setBw n (fun b =>
    let c := { b with k := k, cfgErr := run && !good, run := run && good, seq := if b.run then 0 else b.seq }
    if run then { c with rxO := 0, rxF := 0, txO := 0, txF := 0 } else c) s

def bwCfgWrite (n value : Nat) (s : State) : State := regWrite (n < nPorts s) (bwPage n) (bwCfg n value) s

/-- A window of WPn ends: its values latch, and the next begins. -/
def bwWindowEnd (n : Nat) (s : State) : State :=
  if n < nPorts s && (getBw s n).run then
    setBw n (fun b => { b with
      lrxO := b.rxO, lrxF := b.rxF, ltxO := b.txO, ltxF := b.txF, seq := (b.seq + 1) % 2 ^ 32
      rxPeak := max b.rxPeak b.rxO, txPeak := max b.txPeak b.txO
      rxO := 0, rxF := 0, txO := 0, txF := 0 }) s
  else s

/-! ## The frame generator and checker (R519-R521, R527) -/

/-- A generated frame is in transmission on a port. -/
def genSends (s : State) (n : Nat) : Bool := (getPort s n).tx.any (·.gen)

/-- MT_GEN_SET: a stop takes effect after the frame in transmission; a start replaces any run, and ends a request for LPI (R520). -/
def genSetCmd (q : Req) (s : State) : State × Reply :=
  let p := q.payload
  let n := u8 p 0
  let most := ptMax (getPort s n).applied
  let checks : List (Bool × Reply) := [(n ≥ nPorts s, inv 0), (u8 p 1 > 1, inv 1)]
  let more : List (Bool × Reply) :=
    if u8 p 1 = 1 then
      [ (u8 p 2 > 1, inv 2), (u8 p 4 < 14 || u8 p 4 > 64, inv 4),
        (u16 p 8 < 64 || u16 p 8 > most || u16 p 8 < u8 p 4 + 20, inv 8),
        (u16 p 10 < u16 p 8 || u16 p 10 > most, inv 10) ]
    else []
  match firstErr (checks ++ more) with
  | some r => (s, r)
  | none =>
    if u8 p 1 = 1 then
      (endLpi n (setGc n (fun g => { g with gen := true, set := p, i := 0, stop := false, old := genSends s n }) s), okR)
    else if genSends s n then (setGc n (fun g => { g with stop := true }) s, okR)
    else (setGc n (fun g => { g with gen := false }) s, okR)

/-- The results of a port without those of its checker and generator; the expected sequence stays. -/
def clearResults (g : GenChk) : GenChk :=
  { g with sent := 0, frames := 0, lost := 0, ooo := 0, bad := 0, latMin := 0xFFFFFFFF, latMax := 0, latSum := 0 }

def chkSetCmd (q : Req) (s : State) : State × Reply :=
  let p := q.payload
  let n := u8 p 0
  let checks : List (Bool × Reply) := [(n ≥ nPorts s, inv 0), (u8 p 1 > 1, inv 1)]
  let more : List (Bool × Reply) :=
    if u8 p 1 = 1 then [(u8 p 2 > 1, inv 2), (u8 p 4 < 14 || u8 p 4 > 64, inv 4)] else []
  match firstErr (checks ++ more) with
  | some r => (s, r)
  | none =>
    (setGc n (fun g =>
      if u8 p 1 = 1 then
        { clearResults g with sent := g.sent, chk := true, pattern := u8 p 2, fill := u8 p 3, off := u8 p 4, expect := none }
      else { g with chk := false }) s, okR)

/-- GEN_STATE: the generator pauses while the link is down or the lane sends PRBS (R520). -/
def genState (s : State) (n : Nat) : Nat :=
  if !(getGc s n).gen then 0
  else if !(getPort s n).link || (getLane s n).applied.prbs.testBit 0 then 2 else 1

def mtResult (s : State) (n : Nat) : Bytes :=
  let g := getGc s n
  toLe 1 (genState s n) ++ toLe 1 (b2n g.chk) ++ zeros 6 ++ toLe 8 g.sent ++ toLe 8 g.frames ++ toLe 8 g.lost ++
    toLe 4 g.ooo ++ toLe 4 g.bad ++ toLe 4 g.latMin ++ toLe 4 g.latMax ++ toLe 8 g.latSum ++ toLe 4 (g.expect.getD 0) ++ zeros 4

def resultCmd (q : Req) (s : State) : State × Reply :=
  let n := u8 q.payload 0
  match firstErr [(n ≥ nPorts s, inv 0), (u8 q.payload 1 > 1, inv 1)] with
  | some r => (s, r)
  | none => (if u8 q.payload 1 = 1 then setGc n clearResults s else s, okD (mtResult s n))

/-! ## The test access (R78, R79, R522-R525) -/

def updTest (f : TestSt → TestSt) (s : State) : State := s.updMt fun m => { m with test := f m.test }

/-- The codes of R78. -/
def wirCodes : List Nat := [0x00, 0x01, 0x02, 0x03, 0x10, 0x20, 0x21, 0x22, 0x23]

/-- The instruction that the wrapper's register makes it act on: an undefined code acts as WS_BYPASS (R79). -/
def wirActs (t : TestSt) : Nat := if wirCodes.contains t.wir then t.wir else 0x00

/-- A wrapper instruction is loaded. -/
def loadWir (code : Nat) (s : State) : State := updTest (fun t => { t with wir := code }) s

/-- An intrusive instruction takes effect only while TEST_MODE is high and RST_N low; else it acts as WS_BYPASS
and is counted (R79). -/
def intrusive (code : Nat) (f : State → State) (s : State) : State :=
  if s.mt.test.mode && !s.sys.rstN then f (updTest (fun t => { t with wir := code, session := true }) s)
  else updTest (fun t => { t with wir := 0, refused := sat32 t.refused }) s

/-- BIST_DONE: `fails` holds the failing cells of each macro in the order of R473, none for one that was not tested. -/
def bistDone (fails : List (Option (List Cell))) (s : State) : State :=
  if !s.mt.test.bistRun then s
  else
    let r := fails.map fun m => match m with
      | some cells => bistAllocate 0 0 cells
      | none => (3, [], [])
    updTest (fun t => { t with
      bistRun := false
      results := r.map (·.1)
      outcome := if r.any (·.1 = 2) then 3 else if r.any (·.1 = 1) then 2 else 1
      fixes := (r.zipIdx.filter fun x => x.1.1 = 1).map fun x => { mac := x.2, cols := x.1.2.1.map (·.1), rows := x.1.2.2.map (·.1) } }) s

/-- The low `n` bits of a number, most significant first. -/
def bitsMsb (n v : Nat) : List Bool := (List.range n).reverse.map v.testBit

/-- The bits that the status read shifts out. -/
def statusBits (t : TestSt) : List Bool := bitsMsb 16 t.results.length ++ t.results.flatMap (bitsMsb 2)

/-- The 256 entries of the repair record; an unused place reads 0. -/
def recordBits (l : List Nat) : List Bool := (List.range 256).flatMap fun i => bitsMsb 64 (l.getD i 0)

/-- One entry is programmed at the first unused place; a full record, and an entry of KIND 0, stay without effect. -/
def programRecord (entry : Nat) (s : State) : State :=
  if s.res.record.length ≥ 256 || recKind entry = 0 then s
  else s.updRes fun r => { r with record := r.record ++ [entry % 2 ^ 64] }

def execPmuLoad (u : Nat) (s : State) : Out := .next (pmuLoad u s)
def execPmuRunWrite (u value : Nat) (s : State) : Out := .next (pmuRunWrite u value s)
def execBwCfgWrite (p value : Nat) (s : State) : Out := .next (bwCfgWrite p value s)
def execBwWindowEnd (p : Nat) (s : State) : Out := .next (clocked s (bwWindowEnd p s))
def execMtGenSet (s : State) : Out := .next (immediate 0x0F01 genSetCmd s)
def execMtChkSet (s : State) : Out := .next (immediate 0x0F02 chkSetCmd s)
def execMtResultGet (s : State) : Out := .next (immediate 0x0F03 resultCmd s)
def execMtPmuControl (s : State) : Out := .next (immediate 0x0F04 pmuControlCmd s)
/-- WS_BYPASS: its own code, or an undefined one, which acts as it (R79); the code of another instruction is that row's. -/
def execWsBypass (code : Nat) (s : State) : Out :=
  .next (if code % 256 != 0 && wirCodes.contains (code % 256) then s else loadWir (code % 256) s)

/-- What the tester shifts into the boundary cells through WSI. -/
def shiftCells (cells : List Bool) (s : State) : State := updTest (fun t => { t with boundary := cells }) s

def execWsExtest (cells : List Bool) (s : State) : Out := .next (intrusive 0x01 (shiftCells cells) s)
def execWsIntest (cells : List Bool) (s : State) : Out := .next (intrusive 0x02 (shiftCells cells) s)
def execWsPreload (cells : List Bool) (s : State) : Out := .next (shiftCells cells (loadWir 0x03 s))
def execInternalScan (chains : List (List Bool)) (s : State) : Out :=
  .next (intrusive 0x10 (updTest fun t => { t with scan := chains.take 32 }) s)
def execMemoryBistRun (s : State) : Out := .next (intrusive 0x20 (updTest fun t => { t with bistRun := true }) s)
def execBistDone (fails : List (Option (List Cell))) (s : State) : Out := .next (bistDone fails s)
def execMemoryBistStatusRead (s : State) : Out :=
  .next (updTest (fun t => { t with shiftOut := statusBits t }) (loadWir 0x21 s))
def execRepairRecordRead (s : State) : Out :=
  .next (updTest (fun t => { t with shiftOut := recordBits s.res.record }) (loadWir 0x22 s))
def execRepairRecordProgram (entry : Nat) (s : State) : Out := .next (intrusive 0x23 (programRecord entry) s)

end Sys2Proof.Machine
end

