-- ==== Sys2Proof/Machine/TimeCmd.lean ====
section
/-! DEFINITION. The commands of the time unit (R432, R433). -/

namespace Sys2Proof.Machine

open Sys2Proof

/-- The value that a TIME_STEP gives a base, as an integer. -/
def stepValue (s : State) (p : Bytes) : Int :=
  if u8 p 1 = 0 then (timeAt p 8 : Nat)
  else ((getTb s (u8 p 0)).v : Int) + sext 64 (u64 p 8) * nsUnit + (u16 p 16 : Nat) * 2 ^ 24

def timeStepCmd (q : Req) (s : State) : State × Reply :=
  let p := q.payload
  let k := u8 p 0
  let abs := u8 p 1 = 0
  let v := stepValue s p
  match firstErr
    [ (k > 6, inv 0), (u8 p 1 > 1, inv 1), (abs && u32 p 16 ≥ 1000000000, inv 16),
      (v < 0 || v ≥ tbSpan, inv 8), ((getTb s k).track, errR stWrongState), ((getTb s k).locked, errR stStepUsed) ] with
  | some r => (s, r)
  | none =>
    let s1 := stepBase k v.toNat true 0 s
    (s1, okD (timeBytes (getTb s1 k).v))

def timeRateCmd (q : Req) (s : State) : State × Reply :=
  let p := q.payload
  let k := u8 p 0
  let r := sext 32 (u32 p 4)
  match firstErr [(k > 6, inv 0), (!rateOk r, inv 4), ((getTb s k).track || !(getTb s k).locked, errR stWrongState)] with
  | some r => (s, r)
  | none => (setRateAdj k r s, okR)

def timeUnlockCmd (q : Req) (s : State) : State × Reply :=
  let k := u8 q.payload 0
  match firstErr [(k > 6, inv 0), ((getTb s k).track || !(getTb s k).locked, errR stWrongState)] with
  | some r => (s, r)
  | none => (baseEvent k 1 (setTb k (fun b => { b with locked := false }) s), okR)

def timeTrackCmd (q : Req) (s : State) : State × Reply :=
  let p := q.payload
  let k := u8 p 0
  match firstErr [(k < 4 || k > 6, inv 0), (u8 p 1 > 1, inv 1), (u16 p 2 = 0, inv 2)] with
  | some r => (s, r)
  | none =>
    if u8 p 1 = 1 then
      (baseEvent k 5 (setTb k (fun b => { b with
        track := true, locked := false, freq := 0, prev := none, jump := u16 p 2, tsfTimeout := u16 p 4 }) s), okR)
    else (setTb k (fun b => { b with track := false, stale := false, jump := u16 p 2, tsfTimeout := u16 p 4 }) s, okR)

def timeCaptureCmd (q : Req) (s : State) : State × Reply :=
  let p := q.payload
  let c := u8 p 0
  match firstErr
    [ (c > 15, inv 0), (u8 p 1 > 1, inv 1), (u8 p 2 > 1, inv 2), (u8 p 3 > 31 || (u8 p 2 = 0 && u8 p 3 != 0), inv 3),
      (u8 p 4 > 7, inv 4), (u32 p 12 > 1000000000, inv 12) ] with
  | some r => (s, r)
  | none =>
    let s1 := if (getCap s c).stuck && u8 p 1 = 1 then raiseTime1 27 s else s
    (setCap c (fun x => { x with
      enable := u8 p 1 = 1, source := u8 p 2, srcTrg := u8 p 3, base := u8 p 4, expect := u16 p 8, minInt := u32 p 12
      stuck := x.stuck && u8 p 1 = 0 }) s1, okR)

/-- The settings of TIME_TRIGGER_ARM. -/
def armSet (p : Bytes) : TrgSet :=
  { base := u8 p 1, noLate := (u8 p 2).testBit 0, event := (u8 p 2).testBit 1, toggle := (u8 p 2).testBit 2, target := u8 p 3
    period := u32 p 4, count := u32 p 8, width := u32 p 12, time := timeAt p 16, station := u16 p 32, link := u8 p 34
    acMask := u8 p 35, spFrames := u16 p 36 }

/-- The field of TIME_TRIGGER_ARM that breaks R424, if one does. -/
def armBad (s : State) (t : Nat) (x : TrgSet) (p : Bytes) : Option Nat :=
  let pulse := x.target = 1 && !x.toggle
  if t > 31 then some 0
  else if x.base > 7 then some 1
  else if x.event && x.period ≥ 1 && x.period ≤ 999999 then some 2
  else if x.target > 2 || (x.target = 1 && t ≥ 16) then some 3
  else if x.period != 0 && x.period < 100 then some 4
  else if x.period = 0 && x.count != 0 then some 8
  else if (if pulse then x.width = 0 || x.width ≥ 2 ^ 24 || (x.period != 0 && x.width ≥ x.period) else x.width != 0) then some 12
  else if u32 p 24 % 2 ^ 30 ≥ 1000000000 then some 24
  else if (if x.target = 2 then x.station ≥ nStations s else x.station != 0) then some 32
  else if x.target = 2 && x.link > 2 then some 34
  else if x.target = 2 && (x.acMask = 0 || x.acMask > 15) then some 35
  else none

def timeArmCmd (q : Req) (s : State) : State × Reply :=
  let p := q.payload
  let t := u8 p 0
  let x := armSet p
  match armBad s t x p with
  | some off => (s, inv off)
  | none =>
    if x.target = 2 && (getSta s x.station).agent != agentOf q s then (s, errR stNotOwner)
    else
      let r := trgArm t x s
      match r.1 with
      | 4 => (r.2, errR stWrongState)
      | 3 => (r.2, errR stTrgHorizon)
      | 2 => (r.2, errR stTrgExpired)
      | 5 => (r.2, okD (toLe 4 1))
      | _ => (r.2, okD (toLe 4 0))

def timeCancelCmd (q : Req) (s : State) : State × Reply :=
  let t := u8 q.payload 0
  match firstErr [(t > 31, inv 0), ((getTrg s t).mode = .owned, errR stWrongState)] with
  | some r => (s, r)
  | none => (trgCancel t s, okR)

/-- The 48 bytes of a strobe record (R420). -/
def strobeBytes (x : StrobeRec) : Bytes :=
  toLe 1 x.kind ++ toLe 1 x.state ++ toLe 1 (b2n x.orphan + 2 * b2n x.lostB + 4 * b2n x.startP + 8 * b2n x.endP) ++ zeros 1 ++
    toLe 2 x.eventId ++ toLe 2 x.seq ++ timeBytes x.start ++ (if x.state = 0 then zeros 16 else timeBytes x.stop) ++ toLe 8 x.tsf

def timeStrobeCmd (q : Req) (s : State) : State × Reply :=
  let l := u8 q.payload 0
  let m := u8 q.payload 1
  match firstErr [(l > 2, inv 0), (m = 0 || m > 5, inv 1)] with
  | some r => (s, r)
  | none =>
    let out := ((getRing s l).recs.filter (·.state != 0)).take m
    (setRingS l (fun r => { r with recs := r.recs.filter fun x => x.state = 0 || !out.contains x }) s,
      okD (toLe 1 out.length ++ zeros 7 ++ out.flatMap strobeBytes))

def trgModeNum : TrgMode → Nat
  | .idle => 0
  | .armed => 1
  | .owned => 2

def timeStatusBytes (s : State) : Bytes :=
  ((List.range 8).flatMap fun k =>
    let b := getTb s k
    toLe 1 (b2n (b.locked || k = 7)) ++ toLe 1 (b2n b.track + 2 * b2n b.stale + 4 * b2n b.resumed) ++ toLe 2 b.steps ++
      toLe 4 (unsx 32 b.rate)) ++
  (List.range 32).flatMap fun t =>
    let y := getTrg s t
    toLe 1 (trgModeNum y.mode) ++ toLe 1 (b2n y.late + 2 * b2n y.set.noLate + 4 * y.set.target)

def timeCountersCmd (q : Req) (s : State) : State × Reply :=
  let p := q.payload
  let id := u16 p 2
  let sel := u8 p 0
  match firstErr
    [ (sel > 3, inv 0), (u8 p 1 > 1, inv 1), (id ≥ [8, 16, 32, 3].getD sel 0, inv 2) ] with
  | some r => (s, r)
  | none =>
    let r := readCounters (cBase + sel) id ([2, 4, 5, 6].getD sel 0) (u8 p 1 = 1) s
    (r.2, okD r.1)

def execTimeStep (s : State) : Out := .next (immediate 0x0B01 timeStepCmd s)
def execTimeRate (s : State) : Out := .next (immediate 0x0B02 timeRateCmd s)
def execTimeUnlock (s : State) : Out := .next (immediate 0x0B03 timeUnlockCmd s)
def execTimeTrackSet (s : State) : Out := .next (immediate 0x0B04 timeTrackCmd s)
def execTimeCaptureSet (s : State) : Out := .next (immediate 0x0B05 timeCaptureCmd s)
def execTimeTriggerArm (s : State) : Out := .next (immediate 0x0B06 timeArmCmd s)
def execTimeTriggerCancel (s : State) : Out := .next (immediate 0x0B07 timeCancelCmd s)
def execTimeStrobeRead (s : State) : Out := .next (immediate 0x0B08 timeStrobeCmd s)
def execTimeStatusGet (s : State) : Out := .next (immediate 0x0B09 (fun _ s => (s, okD (timeStatusBytes s))) s)
def execTimeCountersGet (s : State) : Out := .next (immediate 0x0B0A timeCountersCmd s)

end Sys2Proof.Machine
end

