-- ==== Sys2Proof/Machine/Registers.lean ====
section
/-! DEFINITION. The register map (R13-R15, R48-R51, R85, R157, R190, R191, R323, R431, R440, R465, R499, R513, R517, R526,
R530-R544): a read of any offset, and a write of any offset. -/

namespace Sys2Proof.Machine

open Sys2Proof

/-! ## Halves of 64-bit values -/

def low32 (v : Nat) : Nat := v % 2 ^ 32
def high32 (v : Nat) : Nat := v / 2 ^ 32 % 2 ^ 32
def putLow (v w : Nat) : Nat := v / 2 ^ 32 * 2 ^ 32 + w % 2 ^ 32
/-- Replace the high word, of which the low `n` bits exist. -/
def putHigh (n v w : Nat) : Nat := v % 2 ^ 32 + 2 ^ 32 * (w % 2 ^ n)

/-- What a read of an area answers: the value, and the state after it. -/
abbrev Rd := Nat × State

/-! ## Mailbox pages (R85, R532) -/

/-- MGMT_DOWN: set while nothing serves the mailbox; boot code serves MB0 only (R92, R505). -/
def mgmtDown (s : State) (m : Nat) : Bool := !(s.sys.fw || (s.sys.boot && m = 0)) || domainAbsent s 17

def mbStatus (s : State) (m : Nat) : Nat :=
  let b := getMb s m
  b2n b.busy + 2 * b2n b.done + 4 * b2n (mgmtDown s m) + 8 * b2n b.dbIgnored

def rdMailbox (m o : Nat) (s : State) : Rd :=
  let b := getMb s m
  if o < 0x40 then (u32 b.reqHdr o, s)
  else if o < 0x140 then (u32 b.reqData (o - 0x40), s)
  else if 0x200 ≤ o && o < 0x240 then (u32 b.rspHdr (o - 0x200), s)
  else if 0x240 ≤ o && o < 0x340 then (u32 b.rspData (o - 0x240), s)
  else if o = 0x804 then (mbStatus s m, s)
  else if o = 0x808 then (b.agent, s)
  else if o = 0x80C then (b.caps, s)
  else if o = 0x810 then (b.evtProd, s)
  else if o = 0x814 then (b.evtCons, s)
  else if o = 0x818 then (b.evtLost, setMb m (fun b => { b with evtLost := 0 }) s)
  else if o = 0x81C then (b.intCtrl, s)
  else (0, s)

/-- MB_STATUS: a 1 in DONE or DB_IGNORED clears it (R86, R532). -/
def mbStatusWrite (m v : Nat) (s : State) : State :=
  lines (setMb m (fun b => { b with done := b.done && !v.testBit 1, dbIgnored := b.dbIgnored && !v.testBit 3 }) s)

def wrMailbox (m o v : Nat) (s : State) : Option State :=
  if o < 0x40 then some (setMb m (fun b => { b with reqHdr := overlay b.reqHdr o (toLe 4 v) }) s)
  else if o < 0x140 then some (setMb m (fun b => { b with reqData := overlay b.reqData (o - 0x40) (toLe 4 v) }) s)
  else if 0x200 ≤ o && o < 0x340 then some s
  else if o = 0x800 then some (ringDoorbell m v s)
  else if o = 0x804 then some (mbStatusWrite m v s)
  else if o = 0x808 || o = 0x80C || o = 0x810 || o = 0x818 then some s
  else if o = 0x814 then some (setMb m (fun b => { b with evtCons := v }) s)
  else if o = 0x81C then some (lines (setMb m (fun b => { b with intCtrl := v % 4 }) s))
  else none

/-! ## Interrupt aggregation (R533-R536) -/

/-- The levels of the four lines, bit L for line L (R535). -/
def lineBits (s : State) : Nat := ((List.range 4).map fun l => b2n (lineLevel s l) * 2 ^ l).sum

def rdIntr (o : Nat) (s : State) : Rd :=
  let i := s.intr
  if o = 0x00 then (lineBits s, s)
  else if o = 0x04 then (mbDoneBits s, s)
  else if o = 0x08 then (i.mbEvent, s)
  else if o = 0x0C then (b2n i.wake, s)
  else if o = 0x10 then (i.wakeMask, s)
  else if o = 0x20 then (i.err, s)
  else if o = 0x24 then (i.errMask, s)
  else if 0x40 ≤ o && o < 0x80 then
    let x := getMsg s ((o - 0x40) / 16)
    (match o % 16 with
     | 0 => low32 x.addr
     | 4 => high32 x.addr
     | 8 => x.data
     | _ => b2n x.enable + 2 ^ 8 * b2n x.addrErr, s)
  else if o = 0x80 then (i.msgErrors, s.updIntr fun i => { i with msgErrors := 0 })
  else (0, s)

/-- An address that breaks R64: not aligned to 4 bytes, or above bit 47. -/
def msgAddrBad (a : Nat) : Bool := a % 4 != 0 || a ≥ 2 ^ 48

/-- A write of INT_MSG_CTRL (R536). -/
def intMsgCtrl (l v : Nat) (s : State) : State :=
  setMsg l (fun x =>
    let bad := v.testBit 0 && msgAddrBad x.addr
    { x with enable := v.testBit 0 && !bad, addrErr := bad, owed := x.owed && v.testBit 0 && !bad }) s

def wrIntr (o v : Nat) (s : State) : Option State :=
  if o = 0x00 || o = 0x04 || o = 0x80 then some s
  else if o = 0x08 then some (lines (s.updIntr fun i => { i with mbEvent := andNot i.mbEvent v }))
  else if o = 0x0C then some (lines (s.updIntr fun i => { i with wake := i.wake && !v.testBit 0 }))
  else if o = 0x10 then some (lines (s.updIntr fun i => { i with wakeMask := v % 2 }))
  else if o = 0x20 then some (lines (s.updIntr fun i => { i with err := andNot i.err v }))
  else if o = 0x24 then some (lines (s.updIntr fun i => { i with errMask := v % 512 }))
  else if 0x40 ≤ o && o < 0x80 then
    let l := (o - 0x40) / 16
    some (match o % 16 with
      | 0 => setMsg l (fun x => { x with addr := putLow x.addr v }) s
      | 4 => setMsg l (fun x => { x with addr := putHigh 32 x.addr v }) s
      | 8 => setMsg l (fun x => { x with data := v }) s
      | _ => intMsgCtrl l v s)
  else none

/-! ## Time (R431, R537, R538) -/

def tbStatus (s : State) (k : Nat) : Nat :=
  let b := getTb s k
  b2n (b.locked || k = 7) + 2 * b2n b.track + 4 * b2n b.stale + 8 * b2n b.resumed + (if k = 7 then 0 else 2 ^ 16 * b.steps)

def rdBase (k o : Nat) (s : State) : Rd :=
  let b := getTb s k
  match o with
  | 0x00 => (nsOf b.v, tbNsRead k s)
  | 0x04 => (b.hold.subns, s)
  | 0x08 => (low32 b.hold.sec, s)
  | 0x0C => (b.hold.sec / 2 ^ 32 % 65536, s)
  | 0x10 => (low32 b.hold.lin, s)
  | 0x14 => (b.hold.lin / 2 ^ 32 % 256, s)
  | 0x18 => (unsx 32 b.rate, s)
  | 0x1C => (tbStatus s k, s)
  | _ => (0, s)

def rdSnap (k o : Nat) (s : State) : Rd :=
  let x := (getTb s k).snap
  (match o with
   | 0x0 => x.ns
   | 0x4 => x.subns
   | 0x8 => low32 x.sec
   | _ => x.sec / 2 ^ 32 % 65536, s)

def rdCap (c o : Nat) (s : State) : Rd :=
  let x := getCap s c
  (match o, x.fifo with
   | 0x00, l => l.length + 2 ^ 8 * b2n x.overflow + 2 ^ 9 * b2n x.stuck + 2 ^ 16 * b2n x.enable
   | 0x08, r :: _ => nsOf r.time
   | 0x0C, r :: _ => subOf r.time
   | 0x10, r :: _ => low32 (secOf r.time)
   | 0x14, r :: _ => secOf r.time / 2 ^ 32 % 65536 + 2 ^ 16 * r.base + 2 ^ 19 * b2n r.stepped
   | _, _ => 0, s)

def rdTrg (t o : Nat) (s : State) : Rd :=
  let y := getTrg s t
  (match o with
   | 0x00 => y.rSecLo
   | 0x04 => y.rSecHi
   | 0x08 => y.rNs
   | 0x0C => y.rPeriod
   | 0x10 => y.rCount
   | 0x14 => y.rCfg
   | 0x1C => trgModeNum y.mode + 4 * b2n y.late + 2 ^ 8 * y.result
   | _ => 0, s)

def rdTime (o : Nat) (s : State) : Rd :=
  if o < 0x200 then rdBase (o / 0x40) (o % 0x40) s
  else if 0x210 ≤ o && o < 0x290 then rdSnap ((o - 0x210) / 16) (o % 16) s
  else if 0x400 ≤ o && o < 0x600 then rdCap ((o - 0x400) / 0x20) (o % 0x20) s
  else if 0x800 ≤ o && o < 0xC00 then rdTrg ((o - 0x800) / 0x20) (o % 0x20) s
  else if o = 0xF00 then (s.time.int0, s)
  else if o = 0xF04 then (s.time.int1, s)
  else if o = 0xF08 then (s.time.mask0, s)
  else if o = 0xF0C then (s.time.mask1, s)
  else (0, s)

def wrTrg (t o v : Nat) (s : State) : Option State :=
  match o with
  | 0x00 => some (setTrg t (fun y => { y with rSecLo := v }) s)
  | 0x04 => some (setTrg t (fun y => { y with rSecHi := v % 65536 }) s)
  | 0x08 => some (setTrg t (fun y => { y with rNs := v % 2 ^ 30 }) s)
  | 0x0C => some (setTrg t (fun y => { y with rPeriod := v }) s)
  | 0x10 => some (setTrg t (fun y => { y with rCount := v }) s)
  | 0x14 => some (setTrg t (fun y => { y with rCfg := v }) s)
  | 0x18 => some (trgWrite t v s)
  | 0x1C => some s
  | _ => none

def wrTime (o v : Nat) (s : State) : Option State :=
  if o < 0x200 then
    if o % 0x40 = 0x18 then some (tbRateWrite (o / 0x40) v s) else if o % 0x40 < 0x20 then some s else none
  else if o = 0x200 then some (timeSnap v s)
  else if 0x210 ≤ o && o < 0x290 then some s
  else if 0x400 ≤ o && o < 0x600 then
    if o % 0x20 = 4 then some (capPop ((o - 0x400) / 0x20) s) else if o % 0x20 < 0x18 then some s else none
  else if 0x800 ≤ o && o < 0xC00 then wrTrg ((o - 0x800) / 0x20) (o % 0x20) v s
  else if o = 0xF00 then some (lines (s.updTime fun t => { t with int0 := andNot t.int0 v }))
  else if o = 0xF04 then some (lines (s.updTime fun t => { t with int1 := andNot t.int1 v }))
  else if o = 0xF08 then some (lines (s.updTime fun t => { t with mask0 := v }))
  else if o = 0xF0C then some (lines (s.updTime fun t => { t with mask1 := v }))
  else none

/-! ## CRC job unit (R440, R539) -/

def jobStateNum : JobState → Nat
  | .idle => 0
  | .running => 1
  | .waitRing => 2
  | .done => 3

/-- CRC_VAL without the bits above WIDTH. -/
def jobVal (x : CrcSlot) (v : Nat) : Nat := v % 2 ^ (jobParams x).width

def rdSlot (j o : Nat) (s : State) : Rd :=
  let x := getJob s j
  let e := if resultRing s then 0 else x.exp
  (match o with
   | 0x00 => x.cfg
   | 0x04 => low32 x.poly
   | 0x08 => high32 x.poly
   | 0x0C => low32 x.init
   | 0x10 => high32 x.init
   | 0x14 => low32 x.xor
   | 0x18 => high32 x.xor
   | 0x1C => low32 x.addr
   | 0x20 => high32 x.addr
   | 0x24 => x.len
   | 0x28 => low32 (jobVal x x.val)
   | 0x2C => high32 (jobVal x x.val)
   | 0x30 => low32 e
   | 0x34 => high32 e
   | 0x38 => x.tag
   | 0x40 => jobStateNum x.state + 2 ^ 8 * x.status
   | 0x44 => low32 x.result
   | 0x48 => high32 x.result
   | _ => 0, s)

def rdCrc (o : Nat) (s : State) : Rd :=
  let c := s.crc
  let ring (v : Nat) : Nat := if resultRing s then v else 0
  if o < 0x200 then rdSlot (o / 0x80) (o % 0x80) s
  else match o with
    | 0x400 => (ring (low32 c.base), s)
    | 0x404 => (ring (high32 c.base), s)
    | 0x408 => (ring c.entries, s)
    | 0x40C => (ring c.prod, s)
    | 0x410 => (ring c.cons, s)
    | 0x414 => (low32 c.msgAddr, s)
    | 0x418 => (high32 c.msgAddr, s)
    | 0x41C => (c.msgData, s)
    | 0x420 => (c.int, s)
    | 0x424 => (c.mask, s)
    | 0x440 => (c.jobs, s.updCrc fun c => { c with jobs := 0 })
    | 0x444 => (c.mismatch, s.updCrc fun c => { c with mismatch := 0 })
    | 0x448 => (c.errors, s.updCrc fun c => { c with errors := 0 })
    | _ => (0, s)

/-- What a write of a slot's register leaves in the slot. -/
def slotWrite (o v : Nat) (x : CrcSlot) : CrcSlot :=
  match o with
  | 0x00 => { x with cfg := v &&& 0x7F1F }
  | 0x04 => { x with poly := putLow x.poly v }
  | 0x08 => { x with poly := putHigh 32 x.poly v }
  | 0x0C => { x with init := putLow x.init v }
  | 0x10 => { x with init := putHigh 32 x.init v }
  | 0x14 => { x with xor := putLow x.xor v }
  | 0x18 => { x with xor := putHigh 32 x.xor v }
  | 0x1C => { x with addr := putLow x.addr v }
  | 0x20 => { x with addr := putHigh 16 x.addr v }
  | 0x24 => { x with len := v }
  | 0x28 => { x with val := jobVal x (putLow x.val v) }
  | 0x2C => { x with val := jobVal x (putHigh 32 x.val v) }
  | 0x30 => { x with exp := putLow x.exp v }
  | 0x34 => { x with exp := putHigh 32 x.exp v }
  | 0x38 => { x with tag := v }
  | _ => x

def wrSlot (j o v : Nat) (s : State) : Option State :=
  if o = 0x3C then some (crcCtrl j v s)
  else if o > 0x48 || (resultRing s && (o = 0x30 || o = 0x34)) then none
  else some (if jobBusy (getJob s j) then s else setJob j (slotWrite o v) s)

/-- A slot runs or waits for the ring: the ring's place and size stay (R539). -/
def ringLocked (s : State) : Bool := s.crc.slots.vals.any jobBusy

def ringEntriesOk (v : Nat) : Bool := v = 0 || (upto 4 9).any fun k => v = 2 ^ k

def wrCrc (o v : Nat) (s : State) : Option State :=
  if o < 0x200 then wrSlot (o / 0x80) (o % 0x80) v s
  else if 0x400 ≤ o && o < 0x414 && !resultRing s then none
  else match o with
    | 0x400 => some (if ringLocked s then s else s.updCrc fun c => { c with base := putLow c.base (v / 64 * 64) })
    | 0x404 => some (if ringLocked s then s else s.updCrc fun c => { c with base := putHigh 16 c.base v })
    | 0x408 => some (if ringLocked s || !ringEntriesOk v then s else s.updCrc fun c => { c with entries := v })
    | 0x40C => some s
    | 0x410 => some (crcRingCons v s)
    | 0x414 => some (s.updCrc fun c => { c with msgAddr := putLow c.msgAddr v })
    | 0x418 => some (s.updCrc fun c => { c with msgAddr := putHigh 32 c.msgAddr v })
    | 0x41C => some (s.updCrc fun c => { c with msgData := v })
    | 0x420 => some (s.updCrc fun c => { c with int := andNot c.int v })
    | 0x424 => some (s.updCrc fun c => { c with mask := v % 32 })
    | 0x440 => some s
    | 0x444 => some s
    | 0x448 => some s
    | _ => none

/-! ## Monitored units, bandwidth windows and port statistics (R190, R191, R513-R518) -/

/-- A low-word read: the value's low word; the rest goes to the unit's holding register. -/
def pmuRead (u o : Nat) (s0 : State) : Rd :=
  let s := hostPerf s0
  let p := getPmu s u
  if o = 0x00 then (b2n p.run + 2 * b2n p.freeze, s)
  else if o = 0x04 then (p.ovf, s)
  else if o = 0x08 then (low32 p.cycle, setPmu u (fun p => { p with holding := high32 p.cycle, cycle := 0 }) s)
  else if o = 0x0C then (p.holding, s)
  else if 0x40 ≤ o && o < 0x140 then
    let k := (o - 0x40) / 0x20
    match o % 0x20 with
    | 0x00 => (p.evsel.getD k 0, s)
    | 0x04 => (low32 (p.cnt.getD k 0),
        setPmu u (fun p => { p with holding := high32 (p.cnt.getD k 0), cnt := p.cnt.set k 0 }) s)
    | 0x08 => (p.holding % 65536, s)
    | 0x0C => (low32 (p.reload.getD k 0), s)
    | 0x10 => (high32 (p.reload.getD k 0), s)
    | _ => (0, s)
  else (0, s)

/-- PMU_EVSEL as it is stored: an EVENT that the unit does not define becomes 0 (R513). -/
def evselOf (u v : Nat) : Nat :=
  let w := v &&& (if u ≥ 8 then 0xF7FF else 0x03FF)
  if evCode w > lastEvent u then w / 256 * 256 else w

def pmuWrite (u o v : Nat) (s0 : State) : Option State :=
  let s := hostPerf s0
  if o = 0x00 then some (pmuCtrlWrite u v s)
  else if o = 0x04 then some (setPmu u (fun p => { p with ovf := andNot p.ovf v }) s)
  else if o = 0x08 || o = 0x0C then some s
  else if 0x40 ≤ o && o < 0x140 then
    let k := (o - 0x40) / 0x20
    match o % 0x20 with
    | 0x00 =>
      let w := evselOf u v
      some (setPmu u (fun p => { p with
        evsel := p.evsel.set k w, level := p.level.set k ((levelOf s u (evCode w) (bits w 15 12)).getD 0) }) s)
    | 0x04 => some s
    | 0x08 => some s
    | 0x0C => some (setPmu u (fun p => { p with reload := p.reload.set k (putLow (p.reload.getD k 0) v) }) s)
    | 0x10 => some (setPmu u (fun p => { p with reload := p.reload.set k (putHigh 16 (p.reload.getD k 0) v) }) s)
    | _ => none
  else none

def rdBw (n o : Nat) (s : State) : Rd :=
  let b := getBw s n
  match o with
  | 0x00 => (b.k + 2 ^ 8 * b2n b.run + 2 ^ 16 * b2n b.cfgErr, s)
  | 0x04 => (b.seq, s)
  | 0x08 => (low32 b.lrxO, s)
  | 0x0C => (low32 b.lrxF, s)
  | 0x10 => (low32 b.ltxO, s)
  | 0x14 => (low32 b.ltxF, s)
  | 0x18 => (low32 b.rxPeak, setBw n (fun b => { b with rxPeak := 0 }) s)
  | 0x1C => (low32 b.txPeak, setBw n (fun b => { b with txPeak := 0 }) s)
  | _ => (0, s)

/-- The counters that R190 lists. -/
def statListed (c : Nat) : Bool := c < 40 || (48 ≤ c && c < 72)

def rdStat (n o : Nat) (s : State) : Rd :=
  let c := o / 8
  if !statListed c then (0, s)
  else if o % 8 = 4 then ((getPort s n).holding, s)
  else
    let v := s.cnt.get (cWire, n, c)
    (low32 v, setPort n (fun p => { p with holding := high32 v }) (s.updCnt fun t => t.filter fun x => x.1 != (cWire, n, c)))

def rdPerf (o : Nat) (s : State) : Rd :=
  if o < 0x2000 then (if pmuPresent s (o / 0x200) then pmuRead (o / 0x200) (o % 0x200) s else (0, s))
  else if 0x4000 ≤ o && o < 0x4000 + 0x40 * nPorts s then rdBw ((o - 0x4000) / 0x40) (o % 0x40) s
  else if 0x8000 ≤ o && o < 0x8000 + 0x400 * nPorts s then rdStat ((o - 0x8000) / 0x400) (o % 0x400) s
  else (0, s)

def wrPerf (o v : Nat) (s : State) : Option State :=
  if o < 0x2000 then (if pmuPresent s (o / 0x200) then pmuWrite (o / 0x200) (o % 0x200) v s else none)
  else if 0x4000 ≤ o && o < 0x4000 + 0x40 * nPorts s then
    if o % 0x40 = 0 then some (bwCfg ((o - 0x4000) / 0x40) v s) else if o % 0x40 < 0x20 then some s else none
  else if 0x8000 ≤ o && o < 0x8000 + 0x400 * nPorts s then (if statListed (o % 0x400 / 8) then some s else none)
  else none

/-! ## Lanes, ports and the quad (R157, R158, R541-R543) -/

def rdLane (n o : Nat) (s : State) : Rd :=
  let l := getLane s n
  let p := getPort s n
  if 0x40 ≤ o && o < 0x80 then
    let k := (o - 0x40) / 4
    if k = 12 then
      (low32 l.prbsErr, setLane n (fun l => { l with prbsErr := 0 }) (s.updLanes fun q => { q with holding := high32 l.prbsErr }))
    else if k = 13 then (s.lanes.holding, s)
    else (laneWord l k, setLane n (fun l => { l with counts := l.counts.set k 0 }) s)
  else
    (match o with
     | 0x00 => l.staged.mode
     | 0x04 => l.staged.txeq
     | 0x08 => l.staged.rxeq
     | 0x0C => l.staged.lpi0
     | 0x10 => l.staged.lpi1
     | 0x14 => l.staged.prbs
     | 0x20 => laneStatus l
     | 0x24 => l.events
     | 0x28 => l.applyStatus
     | 0x2C => txeqStatus l
     | 0x30 => rxeqStatus0 l
     | 0x34 => rxeqStatus1 l
     | 0x80 => p.staged.mode
     | 0x84 => p.staged.flow
     | 0x88 => p.staged.preempt
     | 0x90 => ptStatus p
     | 0x94 => p.check
     | _ => 0, s)

def stageLane (n : Nat) (f : LaneCfg → LaneCfg) (s : State) : Option State :=
  some (setLane n (fun l => { l with staged := f l.staged }) s)

def stagePort (n : Nat) (f : PtCfg → PtCfg) (s : State) : Option State :=
  some (setPort n (fun p => { p with staged := f p.staged }) s)

/-- LN_EVENTS: the change bits are W1C, ERR_INJECT W1S (R151, R542). -/
def lnEventsWrite (n v : Nat) (s : State) : State :=
  let s1 := setLane n (fun l => { l with events := andNot l.events v }) s
  if v.testBit 31 then errInject n s1 else s1

def wrLane (n o v : Nat) (s : State) : Option State :=
  match o with
  | 0x00 => stageLane n (fun c => { c with mode := v &&& 0x0000077F }) s
  | 0x04 => stageLane n (fun c => { c with txeq := v &&& 0x1F1F3F0F }) s
  | 0x08 => stageLane n (fun c => { c with rxeq := v &&& 0x0000010F }) s
  | 0x0C => stageLane n (fun c => { c with lpi0 := v &&& 0x3FFF3F03 }) s
  | 0x10 => stageLane n (fun c => { c with lpi1 := v }) s
  | 0x14 => stageLane n (fun c => { c with prbs := v &&& 0xFFFF01FF }) s
  | 0x24 => some (lnEventsWrite n v s)
  | 0x80 => stagePort n (fun c => { c with mode := v &&& 0x3FFF003F }) s
  | 0x84 => stagePort n (fun c => { c with flow := v &&& 0x0000FF0F }) s
  | 0x88 => stagePort n (fun c => { c with preempt := v &&& 0x007FFF1F }) s
  | _ => if (0x20 ≤ o && o < 0x38) || (0x40 ≤ o && o < 0x80) || o = 0x90 || o = 0x94 then some s else none

def rdQuad (o : Nat) (s : State) : Rd :=
  (match o with
   | 0x800 => s.lanes.quadStaged
   | 0x808 => s.lanes.applyMask + 2 ^ 8 * b2n s.lanes.applyErr
   | _ => 0, s)

def wrQuad (o v : Nat) (s : State) : Option State :=
  match o with
  | 0x800 => some (s.updLanes fun q => { q with quadStaged := v % 4 })
  | 0x804 => some (lnApply (v % 16) s)
  | 0x808 => some s
  | _ => none

/-! ## Power, resilience and test (R465, R499, R526) -/

/-- RES_SCRUB_STATUS (R499). -/
def scrubStatus (s : State) : Nat := s.res.passes % 65536 + 2 ^ 31 * b2n s.res.passRun

def rdPower (o : Nat) (s : State) : Rd :=
  let p := s.pwr
  match o with
  | 0x00 => (p.req % 2 ^ 18 + 2 ^ 31 * b2n p.clkReq, s)
  | 0x04 => (p.ack % 2 ^ 18 + 2 ^ 31 * b2n p.clkAck, s)
  | 0x08 => (p.retReq % 16 + 2 ^ 16 * (p.retAck % 16), s)
  | 0x0C => (min (inflight s) 0xFFFFFFFF, s)
  | 0x10 => (p.hsErrors, s.updPwr fun p => { p with hsErrors := 0 })
  | _ => (0, s)

def rdRes (o : Nat) (s : State) : Rd :=
  match o with
  | 0x00 => (s.sys.svcStatus, s)
  | 0x04 => (engineStatusWord s, s)
  | 0x08 => (mgmtStatusWord s, s)
  | 0x0C => (scrubStatus s, s)
  | 0x10 => (s.res.ce, s.updRes fun r => { r with ce := 0 })
  | 0x14 => (s.res.ue, s.updRes fun r => { r with ue := 0 })
  | _ => (0, s)

/-- TEST_STATUS (R526). -/
def testStatus (s : State) : Nat :=
  b2n s.mt.test.atReset + 2 ^ 8 * s.mt.test.outcome + 2 ^ 16 * b2n (s.res.record.length ≥ 256)

def rdTest (o : Nat) (s : State) : Rd :=
  match o with
  | 0x00 => (testStatus s, s)
  | 0x04 => (s.sys.decodeErr, s.updSys fun y => { y with decodeErr := 0 })
  | 0x08 => (s.sys.decodeAddr, s)
  | 0x0C => (s.mt.test.refused, updTest (fun t => { t with refused := 0 }) s)
  | 0x10 => (s.res.recordBad, s.updRes fun r => { r with recordBad := 0 })
  | _ => (0, s)

/-- A read-only area: a write to one of its offsets is ignored. -/
def wrNone (l : List Nat) (o : Nat) (s : State) : Option State := if l.contains o then some s else none

/-! ## The always-on area (R465, R499, R544) -/

/-- PWR_WAKE_CAUSE: the cause, the pattern and the port of the last wake. -/
def wakeCauseWord (p : PwrSt) : Nat := p.cause + 2 ^ 8 * p.causePat + 2 ^ 16 * p.causePort

def jasperNum : Jasper → Nat
  | .idle => 0
  | .takeover => 1
  | .cold => 2
  | .gaveUp => 3

def jasperStatus (s : State) : Nat := jasperNum s.res.jasper + 2 ^ 16 * min s.res.record.length 255

def resetInfo (s : State) : Nat := s.sys.lastReset + 2 ^ 8 * s.sys.warmCount

/-- A read of AO_TB7_LO latches AO_TB7_HI. -/
def aoTb7 (s : State) : Rd := (low32 (nowNs s), s.updPwr fun p => { p with aoHold := high32 (nowNs s) })

def rdAlways (o : Nat) (s : State) : Rd :=
  match o with
  | 0x00 => (modeNum s.pwr.mode, s)
  | 0x08 => (wakeCauseWord s.pwr, s)
  | 0x0C => (low32 s.pwr.wakeTime, s)
  | 0x10 => (high32 s.pwr.wakeTime, s)
  | 0x14 => aoTb7 s
  | 0x18 => (s.pwr.aoHold, s)
  | 0x20 => (s.sys.svcStatus, s)
  | 0x24 => (s.sys.svcEvents, s)
  | 0x28 => (s.sys.svcMask, s)
  | 0x2C => (jasperStatus s, s)
  | 0x30 => (resetInfo s, s)
  | _ => (0, s)

def wrAlways (o v : Nat) (s : State) : Option State :=
  match o with
  | 0x04 => some (if v.testBit 0 then hostWake s else s)
  | 0x0C => some (s.updPwr fun p => { p with wakeTime := putLow p.wakeTime v })
  | 0x10 => some (s.updPwr fun p => { p with wakeTime := putHigh 32 p.wakeTime v })
  | 0x24 => some (lines (s.updSys fun y => { y with svcEvents := andNot y.svcEvents v }))
  | 0x28 => some (lines (s.updSys fun y => { y with svcMask := v % 512 }))
  | _ => wrNone [0x00, 0x08, 0x14, 0x18, 0x20, 0x2C, 0x30] o s

/-! ## Channel pages (R323) -/

def chStateWord (x : Ch) : Nat := chModeNum x.state + 2 ^ 8 * x.cause + 2 ^ 16 * b2n x.wake

/-- INT_PENDING: the vectors with unannounced completions. -/
def pendingBits (s : State) (c : Nat) : Nat := ((List.range 8).map fun v => b2n ((vecOf s c v).u > 0) * 2 ^ v).sum

def rdChannel (c o : Nat) (s : State) : Rd :=
  let x := getCh s c
  let r := o / 4 % 8
  (if o < 0x40 then 0
   else if o < 0x60 then (ringOf s c true r).cqCons
   else if o < 0x80 then (ringOf s c false r).cqCons
   else if o < 0xA0 then (ringOf s c true r).cons
   else if o < 0xC0 then (ringOf s c false r).cons
   else match o with
     | 0xC4 => x.mask
     | 0xC8 => pendingBits s c
     | 0xCC => chStateWord x
     | 0xD0 => x.events
     | _ => 0, s)

def wrChannel (c o v : Nat) (s : State) : Option State :=
  let r := o / 4 % 8
  if o < 0x40 then some (doorbellWrite c (o < 0x20) r v s)
  else if o < 0x80 then some (cqConsWrite c (o < 0x60) r v s)
  else if o < 0xC0 then some s
  else match o with
    | 0xC0 => some (intRearm c v s)
    | 0xC4 => some (intMaskWrite c v s)
    | 0xC8 => some s
    | 0xCC => some s
    | 0xD0 => some (chEventsClear c v s)
    | _ => none

/-! ## The window (R48-R51, R530) -/

/-- A read of an aligned offset outside the always-on area; one that no register occupies, or of an absent resource,
reads 0 (R6, R51). -/
def rdCore (a : Nat) (s : State) : Rd :=
  let o := a % 0x10000
  if a ≥ 0x200000 then
    (if (a - 0x200000) / 0x1000 < nChannels s then rdChannel ((a - 0x200000) / 0x1000) (a % 0x1000) s else (0, s))
  else match a / 0x10000 with
    | 0x00 => (if o = 0 then ipVersion else if o = 4 then ipConfig s else 0, s)
    | 0x01 => rdMailbox (o / 0x1000) (o % 0x1000) s
    | 0x02 => rdIntr o s
    | 0x03 => rdTime o s
    | 0x04 => rdCrc o s
    | 0x05 => rdPerf o s
    | 0x06 => if o < 0x100 * nPorts s then rdLane (o / 0x100) (o % 0x100) s else rdQuad o s
    | 0x07 => rdPower o s
    | 0x08 => rdRes o s
    | 0x09 => rdTest o s
    | _ => (0, s)

/-- A write of an aligned offset outside the always-on area: none where no present register is there. -/
def wrCore (a v : Nat) (s : State) : Option State :=
  let o := a % 0x10000
  if a ≥ 0x200000 then
    (if (a - 0x200000) / 0x1000 < nChannels s then wrChannel ((a - 0x200000) / 0x1000) (a % 0x1000) v s else none)
  else match a / 0x10000 with
    | 0x00 => wrNone [0, 4] o s
    | 0x01 => wrMailbox (o / 0x1000) (o % 0x1000) v s
    | 0x02 => wrIntr o v s
    | 0x03 => wrTime o v s
    | 0x04 => wrCrc o v s
    | 0x05 => wrPerf o v s
    | 0x06 => if o < 0x100 * nPorts s then wrLane (o / 0x100) (o % 0x100) v s else wrQuad o v s
    | 0x07 => wrNone [0x00, 0x04, 0x08, 0x0C, 0x10] o s
    | 0x08 => wrNone [0x00, 0x04, 0x08, 0x0C, 0x10, 0x14] o s
    | 0x09 => wrNone [0x00, 0x04, 0x08, 0x0C, 0x10] o s
    | _ => none

/-- An offset of the always-on area. -/
def alwaysOn (a : Nat) : Bool := a / 0x10000 = 0x0F

/-- Count an access that the port refuses; nothing is counted while only the always-on area is served (R530). -/
def countDecode (a : Nat) (s : State) : State := if coreOff s then s else decodeError a s

/-- A read through the register port: the read data and the response are in `reg`. -/
def readReg (addr : Nat) (s : State) : State :=
  let a := addr % 2 ^ 22
  if s.sys.held then s
  else if coreOff s && !alwaysOn a then targetErr s
  else if a % 4 != 0 then answer 0 (countDecode a s)
  else
    let r := if alwaysOn a then rdAlways (a % 0x10000) s else rdCore a s
    answer (r.1 % 2 ^ 32) r.2

/-- A write through the register port with its byte strobe. -/
def writeReg (addr value strobe : Nat) (s : State) : State :=
  let a := addr % 2 ^ 22
  let v := value % 2 ^ 32
  if s.sys.held then s
  else if coreOff s && !alwaysOn a then targetErr s
  else
    let r := if strobe != 0xF || a % 4 != 0 then none
             else if alwaysOn a then wrAlways (a % 0x10000) v s else wrCore a v s
    answer 0 (match r with
      | some t => t
      | none => countDecode (2 ^ 31 + a) s)

def mbPage (m : Nat) : Nat := 0x010000 + 0x1000 * m

def execRegisterWrite (addr value strobe : Nat) (s : State) : Out := .next (writeReg addr value strobe s)
def execRcRead (addr : Nat) (s : State) : Out := .next (readReg addr s)
def execCounterLowRead (addr : Nat) (s : State) : Out := .next (readReg addr s)
def execIntMsgCtrlWrite (l v : Nat) (s : State) : Out :=
  .next (regWrite (l < 4) (0x02004C + 0x10 * l) (fun s => if l < 4 then intMsgCtrl l v s else s) s)
def execMbDoorbell (m v : Nat) (s : State) : Out :=
  .next (regWrite (m < 16) (mbPage m + 0x800) (fun s => if m < 16 then ringDoorbell m v s else s) s)
def execMbDoneClear (m : Nat) (s : State) : Out :=
  .next (regWrite (m < 16) (mbPage m + 0x804) (fun s => if m < 16 then mbStatusWrite m 2 s else s) s)
/-- AO_TB7_READ: a read of AO_TB7_LO, at 0x0F_0014. -/
def execAoTb7Read (s : State) : Out := .next (readReg 0x0F0014 s)

end Sys2Proof.Machine
end

