-- ==== Sys2Proof/Machine/Dispatch.lean ====
section
/-! DEFINITION. The dispatch of a command to its meaning: one arm per constructor of `Instr`. -/

namespace Sys2Proof.Machine

open Sys2Proof

def exec (i : Instr) (s : State) : Host.Outcome State Fault Refusal :=
  match i with
  | .frameEnters => Sys2Proof.Machine.execFrameEnters s
  | .pipelineEntry => Sys2Proof.Machine.execPipelineEntry s
  | .parse => Sys2Proof.Machine.execParse s
  | .flowLookup => Sys2Proof.Machine.execFlowLookup s
  | .flowReadReturn tag beats => Sys2Proof.Machine.execFlowReadReturn tag beats s
  | .engineDispatch => Sys2Proof.Machine.execEngineDispatch s
  | .release => Sys2Proof.Machine.execRelease s
  | .genSweepEnd => Sys2Proof.Machine.execGenSweepEnd s
  | .clsGenSlow g => Sys2Proof.Machine.execClsGenSlow g s
  | .hostReadReturn tag beats => Sys2Proof.Machine.execHostReadReturn tag beats s
  | .hostWriteResponse tag resp => Sys2Proof.Machine.execHostWriteResponse tag resp s
  | .hostTimeout write tag => Sys2Proof.Machine.execHostTimeout write tag s
  | .registerWrite addr value strobe => Sys2Proof.Machine.execRegisterWrite addr value strobe s
  | .rcRead addr => Sys2Proof.Machine.execRcRead addr s
  | .counterLowRead addr => Sys2Proof.Machine.execCounterLowRead addr s
  | .dnDone link tag status => Sys2Proof.Machine.execDnDone link tag status s
  | .dnDoneTimeout link tag => Sys2Proof.Machine.execDnDoneTimeout link tag s
  | .dnStageDone link => Sys2Proof.Machine.execDnStageDone link s
  | .dnFrameStart link => Sys2Proof.Machine.execDnFrameStart link s
  | .upFrame link md data framed => Sys2Proof.Machine.execUpFrame link md data framed s
  | .fbRate msg => Sys2Proof.Machine.execFbRate msg s
  | .fbCredit msg => Sys2Proof.Machine.execFbCredit msg s
  | .fbPs msg => Sys2Proof.Machine.execFbPs msg s
  | .fbRxEvent msg => Sys2Proof.Machine.execFbRxEvent msg s
  | .fbTsf msg => Sys2Proof.Machine.execFbTsf msg s
  | .stbPd link => Sys2Proof.Machine.execStbPd link s
  | .stbAbort link => Sys2Proof.Machine.execStbAbort link s
  | .stbRestart link => Sys2Proof.Machine.execStbRestart link s
  | .rateStale sta link => Sys2Proof.Machine.execRateStale sta link s
  | .stationDecision => Sys2Proof.Machine.execStationDecision s
  | .ciphDone status => Sys2Proof.Machine.execCiphDone status s
  | .ciphTimeout => Sys2Proof.Machine.execCiphTimeout s
  | .capEdge c => Sys2Proof.Machine.execCapEdge c s
  | .captureStuck c => Sys2Proof.Machine.execCaptureStuck c s
  | .triggerFire t => Sys2Proof.Machine.execTriggerFire t s
  | .trigPulseEnd t => Sys2Proof.Machine.execTrigPulseEnd t s
  | .tsfStale k => Sys2Proof.Machine.execTsfStale k s
  | .tbNsRead k => Sys2Proof.Machine.execTbNsRead k s
  | .timeSnap value => Sys2Proof.Machine.execTimeSnap value s
  | .tbRateWrite k value => Sys2Proof.Machine.execTbRateWrite k value s
  | .capPop c => Sys2Proof.Machine.execCapPop c s
  | .trgArm t value => Sys2Proof.Machine.execTrgArm t value s
  | .trgCancel t value => Sys2Proof.Machine.execTrgCancel t value s
  | .intRearm ch value => Sys2Proof.Machine.execIntRearm ch value s
  | .intMaskWrite ch value => Sys2Proof.Machine.execIntMaskWrite ch value s
  | .vectorDelay ch v => Sys2Proof.Machine.execVectorDelay ch v s
  | .intMsgCtrlWrite line value => Sys2Proof.Machine.execIntMsgCtrlWrite line value s
  | .mbDoorbell mb value => Sys2Proof.Machine.execMbDoorbell mb value s
  | .mbDoneClear mb => Sys2Proof.Machine.execMbDoneClear mb s
  | .requestTake => Sys2Proof.Machine.execRequestTake s
  | .eventWriteResponse tag resp => Sys2Proof.Machine.execEventWriteResponse tag resp s
  | .sysIdentify => Sys2Proof.Machine.execSysIdentify s
  | .sysRegionSet => Sys2Proof.Machine.execSysRegionSet s
  | .sysGroupOpen => Sys2Proof.Machine.execSysGroupOpen s
  | .sysCommit apply => Sys2Proof.Machine.execSysCommit apply s
  | .sysAbort => Sys2Proof.Machine.execSysAbort s
  | .sysEventRingSet => Sys2Proof.Machine.execSysEventRingSet s
  | .sysEventMask => Sys2Proof.Machine.execSysEventMask s
  | .sysMailboxGrant => Sys2Proof.Machine.execSysMailboxGrant s
  | .sysResourceBind => Sys2Proof.Machine.execSysResourceBind s
  | .sysPuntSet => Sys2Proof.Machine.execSysPuntSet s
  | .sysQuiesce => Sys2Proof.Machine.execSysQuiesce s
  | .sysStart => Sys2Proof.Machine.execSysStart s
  | .lnStage apply => Sys2Proof.Machine.execLnStage apply s
  | .lnStatusGet => Sys2Proof.Machine.execLnStatusGet s
  | .lnRetire => Sys2Proof.Machine.execLnRetire s
  | .lnApply mask => Sys2Proof.Machine.execLnApply mask s
  | .errInject n => Sys2Proof.Machine.execErrInject n s
  | .losAssert n => Sys2Proof.Machine.execLosAssert n s
  | .losDeassert n => Sys2Proof.Machine.execLosDeassert n s
  | .cdrLock n => Sys2Proof.Machine.execCdrLock n s
  | .cdrLockLoss n => Sys2Proof.Machine.execCdrLockLoss n s
  | .pllLock n => Sys2Proof.Machine.execPllLock n s
  | .pllStartFail n => Sys2Proof.Machine.execPllStartFail n s
  | .pllRetry n => Sys2Proof.Machine.execPllRetry n s
  | .pllLockLoss n => Sys2Proof.Machine.execPllLockLoss n s
  | .rxReady n ctle dfe => Sys2Proof.Machine.execRxReady n ctle dfe s
  | .blockLock n => Sys2Proof.Machine.execBlockLock n s
  | .blockSlip n => Sys2Proof.Machine.execBlockSlip n s
  | .ctcInsert n fill => Sys2Proof.Machine.execCtcInsert n fill s
  | .ctcDelete n fill => Sys2Proof.Machine.execCtcDelete n fill s
  | .ctcSlip n => Sys2Proof.Machine.execCtcSlip n s
  | .trainingRequest n req => Sys2Proof.Machine.execTrainingRequest n req s
  | .trained n => Sys2Proof.Machine.execTrained n s
  | .trainingTimeout n => Sys2Proof.Machine.execTrainingTimeout n s
  | .txLpiTimer n => Sys2Proof.Machine.execTxLpiTimer n s
  | .rxLpiBlocks n lpi => Sys2Proof.Machine.execRxLpiBlocks n lpi s
  | .rxLpiFault n cause => Sys2Proof.Machine.execRxLpiFault n cause s
  | .prbsLock n bs errs mbits => Sys2Proof.Machine.execPrbsLock n bs errs mbits s
  | .prbsLockLoss n errs mbits => Sys2Proof.Machine.execPrbsLockLoss n errs mbits s
  | .prbsDone n errs => Sys2Proof.Machine.execPrbsDone n errs s
  | .portStage apply => Sys2Proof.Machine.execPortStage apply s
  | .portConfig => Sys2Proof.Machine.execPortConfig s
  | .portGclSet => Sys2Proof.Machine.execPortGclSet s
  | .portStatusGet => Sys2Proof.Machine.execPortStatusGet s
  | .portTsRead => Sys2Proof.Machine.execPortTsRead s
  | .wireRxFrame port rx => Sys2Proof.Machine.execWireRxFrame port rx s
  | .pauseExpire port tc => Sys2Proof.Machine.execPauseExpire port tc s
  | .pauseRefresh port tc => Sys2Proof.Machine.execPauseRefresh port tc s
  | .txSelect port => Sys2Proof.Machine.execTxSelect port s
  | .txFrameDone port => Sys2Proof.Machine.execTxFrameDone port s
  | .linkUp port => Sys2Proof.Machine.execLinkUp port s
  | .linkDownHoldExpire port => Sys2Proof.Machine.execLinkDownHoldExpire port s
  | .hiBer port on => Sys2Proof.Machine.execHiBer port on s
  | .anComplete port outcome partner => Sys2Proof.Machine.execAnComplete port outcome partner s
  | .anRestartTimer port => Sys2Proof.Machine.execAnRestartTimer port s
  | .anLinkFail port => Sys2Proof.Machine.execAnLinkFail port s
  | .eeeIdleExpire port => Sys2Proof.Machine.execEeeIdleExpire port s
  | .gclStart port => Sys2Proof.Machine.execGclStart port s
  | .gateEntryChange port => Sys2Proof.Machine.execGateEntryChange port s
  | .gateOversize port tc => Sys2Proof.Machine.execGateOversize port tc s
  | .verifyTimer port => Sys2Proof.Machine.execVerifyTimer port s
  | .spillStart pool => Sys2Proof.Machine.execSpillStart pool s
  | .spillComplete handle => Sys2Proof.Machine.execSpillComplete handle s
  | .returnStart pool => Sys2Proof.Machine.execReturnStart pool s
  | .returnComplete handle => Sys2Proof.Machine.execReturnComplete handle s
  | .freeQueueRefill pool => Sys2Proof.Machine.execFreeQueueRefill pool s
  | .refillRetry pool => Sys2Proof.Machine.execRefillRetry pool s
  | .relocationDone handle => Sys2Proof.Machine.execRelocationDone handle s
  | .storePoolSplit => Sys2Proof.Machine.execStorePoolSplit s
  | .storeSpillSet => Sys2Proof.Machine.execStoreSpillSet s
  | .storeStatusGet => Sys2Proof.Machine.execStoreStatusGet s
  | .storeCountersGet => Sys2Proof.Machine.execStoreCountersGet s
  | .storeBankRetire => Sys2Proof.Machine.execStoreBankRetire s
  | .clsParseNodeSet => Sys2Proof.Machine.execClsParseNodeSet s
  | .clsParseStartSet => Sys2Proof.Machine.execClsParseStartSet s
  | .clsExceptionSet => Sys2Proof.Machine.execClsExceptionSet s
  | .clsRuleAdd => Sys2Proof.Machine.execClsRuleAdd s
  | .clsRuleDelete => Sys2Proof.Machine.execClsRuleDelete s
  | .clsMcastSet => Sys2Proof.Machine.execClsMcastSet s
  | .clsDefaultSet => Sys2Proof.Machine.execClsDefaultSet s
  | .clsTableSet => Sys2Proof.Machine.execClsTableSet s
  | .clsGenStatus => Sys2Proof.Machine.execClsGenStatus s
  | .clsGenRetire => Sys2Proof.Machine.execClsGenRetire s
  | .clsRuleRead => Sys2Proof.Machine.execClsRuleRead s
  | .clsCountersGet => Sys2Proof.Machine.execClsCountersGet s
  | .flowProfileSet => Sys2Proof.Machine.execFlowProfileSet s
  | .flowActionSet => Sys2Proof.Machine.execFlowActionSet s
  | .flowRewriteSet => Sys2Proof.Machine.execFlowRewriteSet s
  | .flowPolicerSet => Sys2Proof.Machine.execFlowPolicerSet s
  | .flowInstall => Sys2Proof.Machine.execFlowInstall s
  | .flowDelete => Sys2Proof.Machine.execFlowDelete s
  | .flowRead => Sys2Proof.Machine.execFlowRead s
  | .flowAgeSet => Sys2Proof.Machine.execFlowAgeSet s
  | .flowTableSet => Sys2Proof.Machine.execFlowTableSet s
  | .flowFlush => Sys2Proof.Machine.execFlowFlush s
  | .flowCountersGet => Sys2Proof.Machine.execFlowCountersGet s
  | .claimNew e t key => Sys2Proof.Machine.execClaimNew e t key s
  | .claimEntry e t index expected => Sys2Proof.Machine.execClaimEntry e t index expected s
  | .publish e t claim image => Sys2Proof.Machine.execPublish e t claim image s
  | .abandon e t claim => Sys2Proof.Machine.execAbandon e t claim s
  | .flopOutcome e t => Sys2Proof.Machine.execFlopOutcome e t s
  | .agingPair => Sys2Proof.Machine.execAgingPair s
  | .plus e t rd ra b => Sys2Proof.Machine.execPlus e t rd ra b s
  | .minus e t rd ra b => Sys2Proof.Machine.execMinus e t rd ra b s
  | .band e t rd ra b => Sys2Proof.Machine.execBand e t rd ra b s
  | .bor e t rd ra b => Sys2Proof.Machine.execBor e t rd ra b s
  | .bxor e t rd ra b => Sys2Proof.Machine.execBxor e t rd ra b s
  | .shl e t rd ra b => Sys2Proof.Machine.execShl e t rd ra b s
  | .shr e t rd ra b => Sys2Proof.Machine.execShr e t rd ra b s
  | .shra e t rd ra b => Sys2Proof.Machine.execShra e t rd ra b s
  | .cmplt e t rd ra b => Sys2Proof.Machine.execCmplt e t rd ra b s
  | .cmpltu e t rd ra b => Sys2Proof.Machine.execCmpltu e t rd ra b s
  | .immh e t rd imm => Sys2Proof.Machine.execImmh e t rd imm s
  | .imml e t rd imm => Sys2Proof.Machine.execImml e t rd imm s
  | .mpy e t rd ra rb => Sys2Proof.Machine.execMpy e t rd ra rb s
  | .mpyhs e t rd ra rb => Sys2Proof.Machine.execMpyhs e t rd ra rb s
  | .mpyhu e t rd ra rb => Sys2Proof.Machine.execMpyhu e t rd ra rb s
  | .ld8 e t rd ra off => Sys2Proof.Machine.execLd8 e t rd ra off s
  | .ld8s e t rd ra off => Sys2Proof.Machine.execLd8s e t rd ra off s
  | .ld16 e t rd ra off => Sys2Proof.Machine.execLd16 e t rd ra off s
  | .ld16s e t rd ra off => Sys2Proof.Machine.execLd16s e t rd ra off s
  | .ld32 e t rd ra off => Sys2Proof.Machine.execLd32 e t rd ra off s
  | .st8 e t rs ra off => Sys2Proof.Machine.execSt8 e t rs ra off s
  | .st16 e t rs ra off => Sys2Proof.Machine.execSt16 e t rs ra off s
  | .st32 e t rs ra off => Sys2Proof.Machine.execSt32 e t rs ra off s
  | .jeq e t ra rb off => Sys2Proof.Machine.execJeq e t ra rb off s
  | .jne e t ra rb off => Sys2Proof.Machine.execJne e t ra rb off s
  | .jlt e t ra rb off => Sys2Proof.Machine.execJlt e t ra rb off s
  | .jge e t ra rb off => Sys2Proof.Machine.execJge e t ra rb off s
  | .jltu e t ra rb off => Sys2Proof.Machine.execJltu e t ra rb off s
  | .jgeu e t ra rb off => Sys2Proof.Machine.execJgeu e t ra rb off s
  | .call e t off => Sys2Proof.Machine.execCall e t off s
  | .jumpr e t rs off => Sys2Proof.Machine.execJumpr e t rs off s
  | .crd e t r csr => Sys2Proof.Machine.execCrd e t r csr s
  | .cwr e t r csr => Sys2Proof.Machine.execCwr e t r csr s
  | .fld8 e t rd ra off => Sys2Proof.Machine.execFld8 e t rd ra off s
  | .fld16 e t rd ra off => Sys2Proof.Machine.execFld16 e t rd ra off s
  | .fld32 e t rd ra off => Sys2Proof.Machine.execFld32 e t rd ra off s
  | .windowLoadReturn e t bad => Sys2Proof.Machine.execWindowLoadReturn e t bad s
  | .bxt e t rd rs pos width => Sys2Proof.Machine.execBxt e t rd rs pos width s
  | .bins e t rd rs pos width => Sys2Proof.Machine.execBins e t rd rs pos width s
  | .brev8 e t rd rs => Sys2Proof.Machine.execBrev8 e t rd rs s
  | .ocadd e t rs => Sys2Proof.Machine.execOcadd e t rs s
  | .crc8 e t rs => Sys2Proof.Machine.execCrc8 e t rs s
  | .crc16 e t rs => Sys2Proof.Machine.execCrc16 e t rs s
  | .crc32 e t rs => Sys2Proof.Machine.execCrc32 e t rs s
  | .hrd e t haddr daddr len => Sys2Proof.Machine.execHrd e t haddr daddr len s
  | .hwr e t haddr daddr len => Sys2Proof.Machine.execHwr e t haddr daddr len s
  | .hostAccessDone e t => Sys2Proof.Machine.execHostAccessDone e t s
  | .done e t forward => Sys2Proof.Machine.execDone e t forward s
  | .send e t src len tail tag tc => Sys2Proof.Machine.execSend e t src len tail tag tc s
  | .wait e t untl => Sys2Proof.Machine.execWait e t untl s
  | .waitWake e t => Sys2Proof.Machine.execWaitWake e t s
  | .frameBudgetExpire e t => Sys2Proof.Machine.execFrameBudgetExpire e t s
  | .inqTake e => Sys2Proof.Machine.execInqTake e s
  | .onyxInqServe => Sys2Proof.Machine.execOnyxInqServe s
  | .engineWatchdog e cause => Sys2Proof.Machine.execEngineWatchdog e cause s
  | .redispatch e => Sys2Proof.Machine.execRedispatch e s
  | .engineBistDone e fails => Sys2Proof.Machine.execEngineBistDone e fails s
  | .engHookBind => Sys2Proof.Machine.execEngHookBind s
  | .engProgUnload => Sys2Proof.Machine.execEngProgUnload s
  | .engConfigSet => Sys2Proof.Machine.execEngConfigSet s
  | .engPolicySet => Sys2Proof.Machine.execEngPolicySet s
  | .engDataWrite => Sys2Proof.Machine.execEngDataWrite s
  | .engStatusGet => Sys2Proof.Machine.execEngStatusGet s
  | .engCountersGet => Sys2Proof.Machine.execEngCountersGet s
  | .engSampleRead => Sys2Proof.Machine.execEngSampleRead s
  | .engBaseSet => Sys2Proof.Machine.execEngBaseSet s
  | .txDb ch r value => Sys2Proof.Machine.execTxDb ch r value s
  | .rxDb ch r value => Sys2Proof.Machine.execRxDb ch r value s
  | .chEventsClear ch value => Sys2Proof.Machine.execChEventsClear ch value s
  | .hostRxDecision => Sys2Proof.Machine.execHostRxDecision s
  | .chConfig => Sys2Proof.Machine.execChConfig s
  | .chRingSet => Sys2Proof.Machine.execChRingSet s
  | .chVectorSet => Sys2Proof.Machine.execChVectorSet s
  | .chFilterSet => Sys2Proof.Machine.execChFilterSet s
  | .chHashSet => Sys2Proof.Machine.execChHashSet s
  | .chRateSet => Sys2Proof.Machine.execChRateSet s
  | .chEnable => Sys2Proof.Machine.execChEnable s
  | .chReset => Sys2Proof.Machine.execChReset s
  | .chStatusGet => Sys2Proof.Machine.execChStatusGet s
  | .chCountersGet => Sys2Proof.Machine.execChCountersGet s
  | .staSet => Sys2Proof.Machine.execStaSet s
  | .staRemove => Sys2Proof.Machine.execStaRemove s
  | .staFlush => Sys2Proof.Machine.execStaFlush s
  | .staStatusGet => Sys2Proof.Machine.execStaStatusGet s
  | .staCountersGet => Sys2Proof.Machine.execStaCountersGet s
  | .rlConfig => Sys2Proof.Machine.execRlConfig s
  | .rlStatusGet => Sys2Proof.Machine.execRlStatusGet s
  | .schPortSet => Sys2Proof.Machine.execSchPortSet s
  | .schShaperSet => Sys2Proof.Machine.execSchShaperSet s
  | .schChannelSet => Sys2Proof.Machine.execSchChannelSet s
  | .schStatusGet => Sys2Proof.Machine.execSchStatusGet s
  | .schCountersGet => Sys2Proof.Machine.execSchCountersGet s
  | .timeStep => Sys2Proof.Machine.execTimeStep s
  | .timeRate => Sys2Proof.Machine.execTimeRate s
  | .timeUnlock => Sys2Proof.Machine.execTimeUnlock s
  | .timeTrackSet => Sys2Proof.Machine.execTimeTrackSet s
  | .timeCaptureSet => Sys2Proof.Machine.execTimeCaptureSet s
  | .timeTriggerArm => Sys2Proof.Machine.execTimeTriggerArm s
  | .timeTriggerCancel => Sys2Proof.Machine.execTimeTriggerCancel s
  | .timeStrobeRead => Sys2Proof.Machine.execTimeStrobeRead s
  | .timeStatusGet => Sys2Proof.Machine.execTimeStatusGet s
  | .timeCountersGet => Sys2Proof.Machine.execTimeCountersGet s
  | .crcStart j value => Sys2Proof.Machine.execCrcStart j value s
  | .crcAbort j value => Sys2Proof.Machine.execCrcAbort j value s
  | .crcJobEnd j => Sys2Proof.Machine.execCrcJobEnd j s
  | .crcRingRetry => Sys2Proof.Machine.execCrcRingRetry s
  | .pwrStateSet => Sys2Proof.Machine.execPwrStateSet s
  | .powerCommitPoint => Sys2Proof.Machine.execPowerCommitPoint s
  | .powerDeferTimeout => Sys2Proof.Machine.execPowerDeferTimeout s
  | .forceLateTimeout => Sys2Proof.Machine.execForceLateTimeout s
  | .pwrWatchSet => Sys2Proof.Machine.execPwrWatchSet s
  | .pwrPatternSet => Sys2Proof.Machine.execPwrPatternSet s
  | .pwrStatusGet => Sys2Proof.Machine.execPwrStatusGet s
  | .pwrCountersGet => Sys2Proof.Machine.execPwrCountersGet s
  | .pwrAckChange k level => Sys2Proof.Machine.execPwrAckChange k level s
  | .retAckChange t level => Sys2Proof.Machine.execRetAckChange t level s
  | .clkAckRise => Sys2Proof.Machine.execClkAckRise s
  | .clkAckFall => Sys2Proof.Machine.execClkAckFall s
  | .handshakeTimeout kind idx => Sys2Proof.Machine.execHandshakeTimeout kind idx s
  | .watchRxFrame port rx => Sys2Proof.Machine.execWatchRxFrame port rx s
  | .pwrWake => Sys2Proof.Machine.execPwrWake s
  | .wakeTimer => Sys2Proof.Machine.execWakeTimer s
  | .lightSleep bank => Sys2Proof.Machine.execLightSleep bank s
  | .rstNAssert => Sys2Proof.Machine.execRstNAssert s
  | .rstAoNAssert => Sys2Proof.Machine.execRstAoNAssert s
  | .coreResetRelease => Sys2Proof.Machine.execCoreResetRelease s
  | .bootReady => Sys2Proof.Machine.execBootReady s
  | .testModeChange level => Sys2Proof.Machine.execTestModeChange level s
  | .scrubRead hit => Sys2Proof.Machine.execScrubRead hit s
  | .rowRepairDone loc => Sys2Proof.Machine.execRowRepairDone loc s
  | .columnRepairDone loc => Sys2Proof.Machine.execColumnRepairDone loc s
  | .freeListRebuildDone pool => Sys2Proof.Machine.execFreeListRebuildDone pool s
  | .imemRefillDone e => Sys2Proof.Machine.execImemRefillDone e s
  | .onyxTrap => Sys2Proof.Machine.execOnyxTrap s
  | .onyxHang => Sys2Proof.Machine.execOnyxHang s
  | .standbyReady => Sys2Proof.Machine.execStandbyReady s
  | .coldRestartDone => Sys2Proof.Machine.execColdRestartDone s
  | .scrubWriteRetry => Sys2Proof.Machine.execScrubWriteRetry s
  | .resImageLoad => Sys2Proof.Machine.execResImageLoad s
  | .resImageActivate => Sys2Proof.Machine.execResImageActivate s
  | .resEngineCondemn => Sys2Proof.Machine.execResEngineCondemn s
  | .resEngineReturn => Sys2Proof.Machine.execResEngineReturn s
  | .resMgmtSwitch => Sys2Proof.Machine.execResMgmtSwitch s
  | .resConfig => Sys2Proof.Machine.execResConfig s
  | .resStatusGet => Sys2Proof.Machine.execResStatusGet s
  | .resFaultRead => Sys2Proof.Machine.execResFaultRead s
  | .resCountersGet => Sys2Proof.Machine.execResCountersGet s
  | .wsBypass code => Sys2Proof.Machine.execWsBypass code s
  | .wsExtest cells => Sys2Proof.Machine.execWsExtest cells s
  | .wsIntest cells => Sys2Proof.Machine.execWsIntest cells s
  | .wsPreload cells => Sys2Proof.Machine.execWsPreload cells s
  | .internalScan chains => Sys2Proof.Machine.execInternalScan chains s
  | .memoryBistRun => Sys2Proof.Machine.execMemoryBistRun s
  | .bistDone fails => Sys2Proof.Machine.execBistDone fails s
  | .memoryBistStatusRead => Sys2Proof.Machine.execMemoryBistStatusRead s
  | .repairRecordRead => Sys2Proof.Machine.execRepairRecordRead s
  | .repairRecordProgram entry => Sys2Proof.Machine.execRepairRecordProgram entry s
  | .pmuLoad u => Sys2Proof.Machine.execPmuLoad u s
  | .pmuRunWrite u value => Sys2Proof.Machine.execPmuRunWrite u value s
  | .bwCfgWrite p value => Sys2Proof.Machine.execBwCfgWrite p value s
  | .bwWindowEnd p => Sys2Proof.Machine.execBwWindowEnd p s
  | .mtGenSet => Sys2Proof.Machine.execMtGenSet s
  | .mtChkSet => Sys2Proof.Machine.execMtChkSet s
  | .mtResultGet => Sys2Proof.Machine.execMtResultGet s
  | .mtPmuControl => Sys2Proof.Machine.execMtPmuControl s
  | .codeGroupSync n gained => Sys2Proof.Machine.execCodeGroupSync n gained s
  | .fecLockChange port locked => Sys2Proof.Machine.execFecLockChange port locked s
  | .rxFaultSignal port localF remoteF => Sys2Proof.Machine.execRxFaultSignal port localF remoteF s
  | .cqConsWrite ch tx r value => Sys2Proof.Machine.execCqConsWrite ch tx r value s
  | .crcRingConsWrite value => Sys2Proof.Machine.execCrcRingConsWrite value s
  | .aoTb7Read => Sys2Proof.Machine.execAoTb7Read s
  | .standbyCoreFail => Sys2Proof.Machine.execStandbyCoreFail s
  | .standbySyncTimeout => Sys2Proof.Machine.execStandbySyncTimeout s
  | .quiesceDrainTimeout => Sys2Proof.Machine.execQuiesceDrainTimeout s
  | .rstAoNDeassert => Sys2Proof.Machine.execRstAoNDeassert s
  | .ciphPlaintextByte b => Sys2Proof.Machine.execCiphPlaintextByte b s

end Sys2Proof.Machine
end

