-- ==== Sys2Proof/Machine/Tick.lean ====
section
/-! DEFINITION. The passage of time (log 2): one cycle of the block's clock, which a step takes when no command
waits. -/

namespace Sys2Proof.Machine

open Sys2Proof

/-! ## The time bases (R408-R410) -/

/-- One core cycle of base `k`: 1 ns times 1 + RATE_ADJ, exactly. -/
def baseCycle (k : Nat) (s : State) : State :=
  setTb k (fun b => { b with v := wrapTime ((b.v : Int) + nsUnit + (if k = 7 then 0 else b.rate)) }) s

def basesCycle (s : State) : State :=
  ((List.range 8).foldl (fun s k => baseCycle k s) s).updTime fun t => { t with cycle := t.cycle + 1 }

/-- An edge appears at TRIG_OUT: a pulse rises, or the output inverts (R62, R428). -/
def trigEdge (t : Nat) (pulse : Bool) (s : State) : State := setTrg t (fun y => { y with out := pulse || !y.out, pulse := pulse }) s

/-- The edges that are due appear. -/
def edgesCycle (s : State) : State :=
  (s.time.edges.filter (·.1 ≤ s.time.cycle)).foldl (fun s x => trigEdge x.2.1 x.2.2 s)
    (s.updTime fun t => { t with edges := t.edges.filter (s.time.cycle < ·.1) })

/-! ## Shapers and the times that counters measure (R177, R399, R404, R158) -/

/-- A class with a nominated head waits for its shaper, or for the port's. -/
def heldNs (n : Nat) (w : WireSch) (s : State) : State :=
  let s1 := w.nom.keys.foldl (fun s k => if (w.shaper.getD k {}).open then s else bump 0xA0 n (3 * k + 2) s) s
  if w.nom.isEmpty || w.port.open then s1 else bump 0xA0 n 24 s1

def wireCycle (s : State) : State :=
  let s1 := s.sch.wire.foldl (fun s x => heldNs x.1 x.2 s) s
  s1.updSch fun t => { t with
    wire := t.wire.map fun x => (x.1, { x.2 with port := x.2.port.tick, shaper := x.2.shaper.map fun y => (y.1, y.2.tick) })
    ch := t.ch.map fun x => (x.1, { x.2 with txShaper := x.2.txShaper.tick, rxShaper := x.2.rxShaper.tick }) }

def pausedCycle (s : State) : State :=
  s.ports.foldl (fun s x => (bitList 8 x.2.paused).foldl (fun s k => bump cWire x.1 (64 + k) s) s) s

/-- The time outside ACTIVE after `d` more of it, in 1/64 ns, and the microseconds that are complete. -/
def lpiTime (out : Bool) (d ns : Nat) : Nat × Nat := if out then ((ns + d) % 64000, (ns + d) / 64000) else (ns, 0)

/-- The LPI times of a lane after `d` (R158). -/
def lpiCycle (d n : Nat) (s : State) : State :=
  let l := getLane s n
  let t := lpiTime (l.txLpi != .active) d l.txLpiNs
  let r := lpiTime (l.rxLpi != .active) d l.rxLpiNs
  laneCount n 9 r.2 (laneCount n 8 t.2 (setLane n (fun l => { l with txLpiNs := t.1, rxLpiNs := r.1 }) s))

/-- The LPI times of a lane, and the word that it sends in the cycle. -/
def laneCycle (n : Nat) (s : State) : State := sendWord n (lpiCycle 64 n s)

/-- The end of a cycle: lines that are low have fallen (R545), and tags that a late response has freed may be used (R84). -/
def endCycle (s : State) : State := (dropLines s).updHost fun h => { h with coolR := [], coolW := [] }

/-- One CLK_AO cycle, of 30,517.578125 ns: TB7, and the LPI times of the watched lanes that run (R158, R409). -/
def aoCycle (s : State) : State :=
  let s1 := setTb 7 (fun b => { b with v := (b.v + 1953125 * 2 ^ 34) % tbSpan }) s
  endCycle (s1.lanes.lanes.keys.foldl (fun s n => if laneRuns s n then lpiCycle 1953125 n s else s) s1)

/-! ## The monitored units (R514, R516) -/

/-- The thread whose instruction a sample of a level names: the first one parked for the event's cause, or the first busy one for
a cycle that issues none (R315). -/
def levelThread (s : State) (u code mask : Nat) : Nat :=
  if u < 8 then 0
  else
    ((List.range 4).find? fun t =>
      if code = 2 then (getThr s (u - 8) t).busy else (mask = 0 || mask.testBit t) && isParked code (getThr s (u - 8) t)).getD 0

/-- One cycle of counter `k` of a unit: LEVEL adds the value, edge mode 1 where it has left 0.  The value is followed while RUN is
clear too, so that an edge is one of the event. -/
def pmuLevel (u k : Nat) (s : State) : State :=
  let p := getPmu s u
  let v := p.evsel.getD k 0
  if evCode v = 0 || (k != 0 && evChain v) then s
  else
    match levelOf s u (evCode v) (bits v 15 12) with
    | none => s
    | some n =>
      let add := if !p.run then 0 else if evLevel v then n else b2n (n > 0 && p.level.getD k 0 = 0)
      let s1 := setPmu u (fun p => { p with level := p.level.set k n }) s
      if add = 0 then s1 else pmuAdd 8 u k add (levelThread s u (evCode v) (bits v 15 12)) s1

/-- One cycle of a unit: the cycle counter, then the levels. -/
def pmuCycle (u : Nat) (s : State) : State :=
  let s1 := if (getPmu s u).run then
      setPmu u (fun p => { p with
        cycle := (p.cycle + 1) % 2 ^ 64
        ovf := if p.cycle + 1 = 2 ^ 64 then p.ovf ||| 256 else p.ovf }) s
    else s
  (List.range 8).foldl (fun s k => pmuLevel u k s) s1

def pmuCycles (s : State) : State := s.mt.pmu.keys.foldl (fun s u => if pmuPresent s u then pmuCycle u s else s) (hostPerf s)

/-- The resets of condemned engines, and the cycles in which a frame waits for the reorder window (R317). -/
def engineCycle (s : State) : State :=
  let s1 := holdReset s
  if windowFull s1 then bump cEngBlock 0 1 s1 else s1

/-! ## Work that goes on by itself -/

/-- The spill states are judged every cycle (R217). -/
def evalPools (s : State) : State := [0, 1, 2, 3].foldl (fun s p => evalPool p s) s

/-- What each unit does once nothing keeps it: what waits for a tag, resets, retirements, a takeover, a switch of images,
reloads, the handshakes and the quiesce. -/
def settleAll (s : State) : State :=
  settleQuiesce <| settlePower <| reloadSteps 32 <| tryImageSwitch <| finishTakeover <| nextRetire <| settleRetire 4 <|
    evalPools <| settleResets <| releaseAwaited <| pump s

/-- One cycle of CLK_CORE. -/
def coreCycle (s : State) : State :=
  let s1 := wireCycle (pausedCycle (engineCycle (pmuCycles (edgesCycle (basesCycle s)))))
  settleAll (svcPump (endCycle (s1.lanes.lanes.keys.foldl (fun s n => laneCycle n s) s1)))

/-- One cycle: of CLK_CORE while CLK_ACK is high, else of CLK_AO; while RST_AO_N is asserted, none. -/
def tick (s : State) : State :=
  if !s.sys.rstAoN then s
  else if s.sys.held || !s.pwr.clkAck then aoCycle s
  else coreCycle s

end Sys2Proof.Machine
end

