-- ==== Sys2Proof/Safety.lean ====
section
/-! DEFINITION. What counts as a safe run: the invariant that every step keeps; and the words that the statements share. -/

namespace Sys2Proof.Machine

open Sys2Proof

/-- A piece of an access as the host port carries it: aligned to 64 bytes, of at least one beat, and within one 4 KiB
page (R37, R38). -/
def pieceOk (p : Nat × Nat) : Prop := p.1 % 64 = 0 ∧ 1 ≤ p.2 ∧ p.1 % 4096 + 64 * p.2 ≤ 4096

/-- The transactions outstanding in one direction beside its retired tags: every tag of 8 bits, none named twice (R37, R39,
R46), and every transaction one lawful piece (R38). -/
def tagsOk (l : List Txn) (retired : List Nat) : Prop :=
  (l.map (·.tag) ++ retired).Nodup ∧ (∀ t ∈ l.map (·.tag) ++ retired, t < 256) ∧ ∀ t ∈ l, pieceOk (t.addr, t.beats)

/-- The host port keeps its rules, for what is issued and for what still waits (R38, R39, R46). -/
def hostOk (h : HostSt) : Prop :=
  tagsOk h.reads h.retiredR ∧ tagsOk h.writes h.retiredW ∧ ∀ x ∈ h.xfers, ∀ p ∈ x.todo, pieceOk p

/-- Both memories of an engine are in canonical form. -/
def memsOk (g : Engine) : Prop := Memory.wf g.imem = true ∧ Memory.wf g.dmem = true

/-- The memories of every engine are in canonical form. -/
def engOk (e : EngSt) : Prop := ∀ p ∈ e.engines, memsOk p.2

/-- The repair record holds at most 256 entries (R480). -/
def recordOk (r : ResSt) : Prop := r.record.length ≤ 256

/-- What every step keeps. -/
def Inv (s : State) : Prop := hostOk s.host ∧ engOk s.eng ∧ recordOk s.res

/-- Two states agree on everything but the host port, the interrupt aggregation, Gelvor, the engines, the measurement unit
and the counters. -/
def SameUnits (r s : State) : Prop :=
  s.build = r.build ∧ s.reg = r.reg ∧ s.time = r.time ∧ s.lanes = r.lanes ∧ s.ports = r.ports ∧ s.store = r.store ∧
  s.sch = r.sch ∧ s.sta = r.sta ∧ s.ch = r.ch ∧ s.rl = r.rl ∧ s.crc = r.crc ∧ s.pwr = r.pwr ∧ s.sys = r.sys ∧
  s.cls = r.cls ∧ s.res = r.res ∧ s.pipe = r.pipe ∧ s.flow = r.flow ∧ s.free = r.free ∧ s.pending = r.pending

/-- Two states agree on those units, on the engines and on the measurement unit: what differs is the host port, the interrupt
aggregation, Gelvor and the counters. -/
def Quiet (r s : State) : Prop := SameUnits r s ∧ s.eng = r.eng ∧ s.mt = r.mt

/-- Two states agree on those units, on the engines but for their samples, and on the measurement unit but for its event counters:
what an event of a monitored unit may change beside the host port, the interrupt aggregation, Gelvor and the counters (R514, R315). -/
def Counted (r s : State) : Prop :=
  SameUnits r s ∧ s.mt = { r.mt with pmu := s.mt.pmu } ∧ s.eng = { r.eng with engines := s.eng.engines } ∧
  ∀ e, getEng s e = { getEng r e with samples := (getEng s e).samples }

/-- The bytes that a load sees in an area of a thread's address map, the frame window apart (R287, R291, R292). -/
def areaBytes (s : State) (e t : Nat) (k : Area) (o n : Nat) : Bytes :=
  match k with
  | .imem => Mem.rdN (getEng s e).imem o n
  | .dmem => Mem.rdN (getEng s e).dmem o n
  | .desc => slice (getThr s e t).desc o n
  | _ => slice (getThr s e t).shadow o n

/-- What a load of `n` bytes does in every form of its address (R199, R287-R290, R298, R299, R311). -/
def LoadRule (frame sign : Bool) (n : Nat) (row : Nat → Nat → Reg → Reg → Int → Instr) : Prop :=
  ∀ (s : State) (e t : Nat) (rd ra : Reg) (off : Int), canRun s e t = true →
    let a := memAddr s e t ra off
    (a % n ≠ 0 → exec (row e t rd ra off) s = .next (threadFault e t 2 s)) ∧
    (a % n = 0 → areaOf a = none → exec (row e t rd ra off) s = .next (threadFault e t 3 s)) ∧
    (∀ o, a % n = 0 → areaOf a = some (.window, o) → (o < 256 ∨ windowLen s e t ≤ o) →
      exec (row e t rd ra off) s = .next (retireW e t rd (extWord sign n (be (windowBytes s e t o n) 0 n)) s)) ∧
    (∀ o, a % n = 0 → areaOf a = some (.window, o) → 256 ≤ o → o < windowLen s e t →
      (fenced s e t = true → exec (row e t rd ra off) s = .next (fence e t s)) ∧
      (fenced s e t = false →
        let h := ((heldFrame s e t).map (·.h)).getD 0
        let p := hPool h
        (64 + (o + n) ≤ bufSize p - 8 → exec (row e t rd ra off) s =
          .next (startWindow e t h o
            (setThr e t (fun x => { x with park := .window rd.val (if sign then n + 8 else n) o }) (retire e t (touchBuf h s))))) ∧
        (bufSize p - 8 < 64 + (o + n) → exec (row e t rd ra off) s = .next (threadFault e t 5 (poolBump p 18 s))))) ∧
    (∀ k o, a % n = 0 → areaOf a = some (k, o) → k ≠ .window →
      exec (row e t rd ra off) s =
        .next (if frame then threadFault e t 3 s
          else retireW e t rd (extWord sign n (le (areaBytes s e t k o n) 0 n)) s))

/-- What a store of `n` bytes does in every form of its address (R287, R290, R298). -/
def StoreRule (n : Nat) (row : Nat → Nat → Reg → Reg → Int → Instr) : Prop :=
  ∀ (s : State) (e t : Nat) (rs ra : Reg) (off : Int), canRun s e t = true →
    let a := memAddr s e t ra off
    let v := toLe n (wreg s e t rs).toNat
    (a % n ≠ 0 → exec (row e t rs ra off) s = .next (threadFault e t 2 s)) ∧
    (a % n = 0 → areaOf a = none → exec (row e t rs ra off) s = .next (threadFault e t 3 s)) ∧
    (∀ o, a % n = 0 → areaOf a = some (.dmem, o) →
      exec (row e t rs ra off) s = .next (retire e t (setEng e (fun g => { g with dmem := Mem.wrN g.dmem o v }) s))) ∧
    (∀ o, a % n = 0 → areaOf a = some (.shadow, o) →
      exec (row e t rs ra off) s = .next (retire e t (setThr e t (fun x => { x with shadow := overlay x.shadow o v }) s))) ∧
    (∀ o, a % n = 0 → areaOf a = some (.desc, o) → 192 ≤ o → o < 224 →
      exec (row e t rs ra off) s = .next (retire e t (setThr e t (fun x => { x with desc := overlay x.desc o v }) s))) ∧
    (∀ o, a % n = 0 → (areaOf a = some (.imem, o) ∨ areaOf a = some (.window, o) ∨
        (areaOf a = some (.desc, o) ∧ (o < 192 ∨ 224 ≤ o))) →
      exec (row e t rs ra off) s = .next (threadFault e t 4 s))

/-- Onyx has taken the request `q` of a command, complete, and no class that is turned away before execution and no reserved
field that is not 0 stops it (R90, R94, R97, R510, R546). -/
abbrev InHand (code : Nat) (q : Req) (s : State) : Prop := takenFor code s = some q ∧ preJudge q s = none

/-- What a staged command does, in a group and with GROUP 0 (R108-R110). -/
def StagedRule (code : Nat) (row : Instr) : Prop :=
  ∀ (s : State) (q : Req), takenFor code s = some q → turnedAway q s = false →
    let c : Cmd := ⟨code, q.payload, q.mb⟩
    (∀ r, rqGroup q.hdr = 0 → stageJudge s (agentOf q s) code q.payload = some r → exec row s = .next (finishTaken q r s)) ∧
    (rqGroup q.hdr = 0 → stageJudge s (agentOf q s) code q.payload = none → commitWaits s = false →
      exec row s = .next (finishTaken q { (commitCmds 0 [c] s).2 with data := [] } (commitCmds 0 [c] s).1)) ∧
    (rqGroup q.hdr ≠ 0 → findGroup (rqGroup q.hdr) q.mb s = none → exec row s = .next (finishTaken q (errR stGroupUnknown) s)) ∧
    (∀ g r, rqGroup q.hdr ≠ 0 → findGroup (rqGroup q.hdr) q.mb s = some g → stageJudge s (agentOf q s) code q.payload = some r →
      exec row s = .next (finishTaken q r s)) ∧
    (∀ g, rqGroup q.hdr ≠ 0 → findGroup (rqGroup q.hdr) q.mb s = some g → stageJudge s (agentOf q s) code q.payload = none →
      g.cmds.length < 4096 → (g.cmds.map (·.payload.length)).sum + q.payload.length ≤ 2 * 1024 * 1024 →
      exec row s = .next (finishTaken q okR (s.updGv fun v => { v with
        groups := mapIf v.groups (·.id = g.id) fun x => { x with cmds := x.cmds ++ [c] } }))) ∧
    (∀ g, rqGroup q.hdr ≠ 0 → findGroup (rqGroup q.hdr) q.mb s = some g → stageJudge s (agentOf q s) code q.payload = none →
      (4096 ≤ g.cmds.length ∨ 2 * 1024 * 1024 < (g.cmds.map (·.payload.length)).sum + q.payload.length) →
      exec row s = .next (finishTaken q (errR stGroupFull) s))

/-- The block is out of reset and its core clock runs: every register is served and the units act. -/
abbrev Serving (s : State) : Prop := s.sys.held = false ∧ coreOff s = false

/-- The staged commands: their codes and rows (R108). -/
def stagedRows : List (Nat × Instr) :=
  [(0x0201, .portStage 0), (0x0202, .portConfig), (0x0203, .portGclSet), (0x0301, .lnStage 0), (0x0402, .storeSpillSet),
   (0x0501, .clsParseNodeSet), (0x0502, .clsParseStartSet), (0x0503, .clsExceptionSet), (0x0504, .clsRuleAdd),
   (0x0505, .clsRuleDelete)] ++
  [(0x0506, .clsMcastSet), (0x0507, .clsDefaultSet), (0x0508, .clsTableSet), (0x0601, .flowProfileSet),
   (0x0602, .flowActionSet), (0x0603, .flowRewriteSet), (0x0701, .engHookBind), (0x0A01, .schPortSet),
   (0x0A02, .schShaperSet), (0x0A03, .schChannelSet)]

end Sys2Proof.Machine
end

