-- ==== Sys2Proof/Certificates/Slice0/Obligations.lean ====
section
/-! DEFINITION. The statements for the provers. -/

open Sys2Proof Sys2Proof.Machine

/-- A step runs the command at the front of the queue (R49). For every command and every state with that command at
the front of its queue, a step is the command's own effect on the state with the rest of the queue. With an empty
queue the step is one cycle of the block's clock: that a step without a command is a tick is the model's choice (log
2). -/
def Obligations.StepRunsTheFrontCommand : Prop :=
  (∀ (s : State) (c : Instr) (rest : List Instr),
    step { s with pending := c :: rest } = exec c { s with pending := rest }) ∧
  (∀ (s : State), s.pending = [] → step s = .next (tick s))

/-- Every step answers, keeps the build and takes exactly the front command (R4, R49). A step never stops: it answers
a next state. The build configuration does not change (R4), and the queue afterwards is the queue before without its
front command. -/
def Obligations.EveryStepTakesOneCommand : Prop :=
  ∀ (s : State), ∃ t, step s = .next t ∧ t.build = s.build ∧ t.pending = s.pending.tail

/-- Every step keeps the invariant of the block (R37, R38, R39, R46, R480). The invariant: in each direction of the
host port the tags of the outstanding transactions and the retired tags are distinct and below 256, every transaction
and every piece waiting to be issued is aligned to 64 bytes and lies in one 4 KiB page, the memories of every engine
are in canonical form, and the repair record holds at most 256 entries. Every step from every state that has it,
whatever the command or on a tick, gives a state that has it. -/
def Obligations.EveryStepKeepsTheInvariant : Prop :=
  ∀ (s t : State), Inv s → step s = .next t → Inv t

/-- The state after reset has the invariant (R38, R39, R504). The invariant that every step keeps holds of
State.reset. -/
def Obligations.ResetHasTheInvariant : Prop :=
  Inv State.reset

/-- No run from reset breaks the rules of host-port transactions (R38, R39, R46). After any number of steps from
reset, with any commands at all in the queue: at most 256 reads and at most 256 writes are outstanding; within a
direction no two carry one tag and none carries a retired tag; every transaction is of at least one beat, starts at a
multiple of 64 and does not cross a 4 KiB boundary. -/
def Obligations.OutstandingTransactions : Prop :=
  ∀ (l : List Instr) (k : Nat) (t : State), core.run k { State.reset with pending := l } = .next t →
    t.host.reads.length ≤ 256 ∧ t.host.writes.length ≤ 256 ∧
    (t.host.reads.map (·.tag)).Nodup ∧ (t.host.writes.map (·.tag)).Nodup ∧
    (∀ x ∈ t.host.reads, x.tag ∉ t.host.retiredR) ∧ (∀ x ∈ t.host.writes, x.tag ∉ t.host.retiredW) ∧
    (∀ x ∈ t.host.reads ++ t.host.writes,
      x.tag < 256 ∧ x.addr % 64 = 0 ∧ 1 ≤ x.beats ∧ x.addr / 4096 = (x.addr + 64 * x.beats - 1) / 4096)

/-- What reset leaves (R24, R86, R322, R504). In State.reset no command waits, no mailbox is BUSY or DONE, every
channel is disabled, every station free, every link disabled, every sequence counter 0, every thread idle, no group is
open, generation 0 is current, no frame waits, no claim is held, the allocation counter is 0, no error cause is set,
every trigger is idle, every capture FIFO is empty, every lane has the reset configuration, every counter is 0 and no
recovery runs. -/
def Obligations.ResetState : Prop :=
  let s := State.reset
  s.pending = [] ∧ (∀ m, (getMb s m).busy = false ∧ (getMb s m).done = false) ∧
  (∀ c, (getCh s c).state = .disabled) ∧ (∀ n, (getSta s n).state = .free) ∧ (∀ l, (getRl s l).enabled = false) ∧
  (∀ p, nextSeq s p = 0) ∧ (∀ e t, (getThr s e t).busy = false) ∧ s.gv.groups = [] ∧ s.cls.current = 0 ∧ s.pipe.wait = [] ∧
  s.flow.claims = [] ∧ s.store.alloc = 0 ∧ s.intr.err = 0 ∧ (∀ t, (getTrg s t).mode = .idle) ∧ (∀ c, (getCap s c).fifo = []) ∧
  (∀ n, (getLane s n).applied = {}) ∧ s.cnt = [] ∧ s.res.jasper = .idle

/-- IP_VERSION reads 0x0003_0200 and is read-only (R2). While the block is out of reset with its clock running, a read
of offset 0 answers 0x0003_0200 without an error, its fields are 0x0003, 0x02 and 0x00, and after a write of any value
with any strobe the register still reads 0x0003_0200. -/
def Obligations.VersionRegister : Prop :=
  ∀ (s : State), Serving s →
    (∃ u, exec (.rcRead 0) s = .next u ∧ u.reg.rdata = 0x00030200 ∧ u.reg.resp = 0 ∧
      u.reg.rdata / 2 ^ 16 = 0x0003 ∧ u.reg.rdata / 2 ^ 8 % 256 = 0x02 ∧ u.reg.rdata % 256 = 0x00) ∧
    (∀ v k, ∃ u, exec (.registerWrite 0 v k) s = .next u ∧
      ∃ w, exec (.rcRead 0) u = .next w ∧ w.reg.rdata = 0x00030200)

/-- IP_CONFIG reads the value of the build (R4, R531). While the block is served, a read of offset 4 answers
0xE85A_9C80 in BM-512, 0xD749_8461 in BM-256 and 0xC638_7242 in BM-128. -/
def Obligations.ConfigRegister : Prop :=
  ∀ (s : State), Serving s → ∃ u, exec (.rcRead 4) s = .next u ∧
    (s.build = .bm512 → u.reg.rdata = 0xE85A9C80) ∧ (s.build = .bm256 → u.reg.rdata = 0xD7498461) ∧
    (s.build = .bm128 → u.reg.rdata = 0xC6387242)

/-- Allocations are numbered in order, failed ones not at all (R204). An allocation that succeeds gives the buffer the
allocation counter's value as its owner sequence and advances the counter by 1, modulo 2^32. An allocation that fails
changes nothing in the store. -/
def Obligations.AllocationsAreNumbered : Prop :=
  (∀ (s t : State) (p h : Nat), allocBuf p s = (some h, t) →
    (getBuf t h).map (·.oseq) = some s.store.alloc ∧ t.store.alloc = (s.store.alloc + 1) % 2 ^ 32) ∧
  (∀ (s t : State) (p : Nat), allocBuf p s = (none, t) → t.store = s.store)

/-- A frame goes to the smallest pool that holds it (R22). The pool chosen for a stored length is the first of the
four whose buffer size is at least the length plus 72; it exists exactly up to 10,236 bytes; the buffer sizes are 256,
1,024, 2,048 and 10,368. -/
def Obligations.SmallestPool : Prop :=
  (∀ (n p : Nat), poolFor n = some p → p < 4 ∧ n + 72 ≤ bufSize p ∧ ∀ q, q < p → bufSize q < n + 72) ∧
  (∀ n, (∃ p, poolFor n = some p) ↔ n ≤ 10236) ∧
  bufSize 0 = 256 ∧ bufSize 1 = 1024 ∧ bufSize 2 = 2048 ∧ bufSize 3 = 10368 ∧
  poolFor 184 = some 0 ∧ poolFor 185 = some 1 ∧ poolFor 952 = some 1 ∧ poolFor 953 = some 2 ∧ poolFor 1976 = some 2 ∧
  poolFor 1977 = some 3 ∧ poolFor 10236 = some 3 ∧ poolFor 10237 = none

/-- A group is staged into and committed by its mailbox only (R110). Every staged command, SYS_COMMIT, SYS_ABORT from
a mailbox other than MB0 and a rule image load that name a group which the request's mailbox has not opened answer
GROUP_UNKNOWN and change nothing else; SYS_ABORT from MB0 discards any open group. -/
def Obligations.GroupsBelongToTheirMailbox : Prop :=
  ∀ (s : State) (q : Req),
    (∀ p ∈ stagedRows, takenFor p.1 s = some q → turnedAway q s = false → rqGroup q.hdr ≠ 0 →
      (∀ g ∈ s.gv.groups, g.id = rqGroup q.hdr → g.mb ≠ q.mb) →
      exec p.2 s = .next (finishTaken q (errR stGroupUnknown) s)) ∧
    (∀ a, ∀ p ∈ [(0x0201, Instr.portStage a), (0x0301, .lnStage a)], takenFor p.1 s = some q → turnedAway q s = false →
      rqGroup q.hdr ≠ 0 → (∀ g ∈ s.gv.groups, g.id = rqGroup q.hdr → g.mb ≠ q.mb) →
      exec p.2 s = .next (let t := finishTaken q (errR stGroupUnknown) s; if a = 0 then t else lnApply a t)) ∧
    (∀ a, InHand 0x0103 q s → (∀ g ∈ s.gv.groups, g.id = u32 q.payload 0 → g.mb ≠ q.mb) →
      exec (.sysCommit a) s = .next (let t := finishTaken q (errR stGroupUnknown) s; if a = 0 then t else lnApply a t)) ∧
    (InHand 0x0104 q s → u8 q.payload 0 = 0 → q.mb ≠ 0 →
      (∀ g ∈ s.gv.groups, g.id = u32 q.payload 4 → g.mb ≠ q.mb) →
      exec .sysAbort s = .next (finishTaken q (errR stGroupUnknown) s)) ∧
    (InHand 0x0104 q s → u8 q.payload 0 = 0 → q.mb = 0 →
      (∃ g ∈ s.gv.groups, g.id = u32 q.payload 4) →
      ∃ g ∈ s.gv.groups, g.id = u32 q.payload 4 ∧ exec .sysAbort s = .next (finishTaken q okR (discardGroup g 1 s))) ∧
    (InHand 0x0E01 q s → u8 q.payload 0 = 3 → u64 q.payload 8 % 64 = 0 →
      (∀ g ∈ s.gv.groups, g.id = u32 q.payload 4 → g.mb ≠ q.mb) →
      exec .resImageLoad s = .next (finishTaken q (errR stGroupUnknown) s))

/-- An ACK that changes without its REQ is ignored and counted (R76). PWR_ACK, RET_ACK and CLK_ACK: a change to a
level that the REQ does not have changes nothing but the handshake-error counter, which counts it and stops at its
largest value. -/
def Obligations.HandshakeErrors : Prop :=
  ∀ (s : State) (k : Nat) (b : Bool),
    let counted : State := { s with pwr := { s.pwr with hsErrors := min (s.pwr.hsErrors + 1) 0xFFFFFFFF } }
    (k < 24 → s.pwr.ack.testBit k ≠ b → s.pwr.req.testBit k ≠ b → exec (.pwrAckChange k b) s = .next counted) ∧
    (k < 4 → s.pwr.retAck.testBit k ≠ b → s.pwr.retReq.testBit k ≠ b → exec (.retAckChange k b) s = .next counted) ∧
    (s.pwr.clkAck = false → s.pwr.clkReq = false → exec .clkAckRise s = .next counted) ∧
    (s.pwr.clkAck = true → s.pwr.clkReq = true → exec .clkAckFall s = .next counted)

/-- When a frame matches a wake pattern (R459). The wake matcher answers pattern i exactly when i is below 16, the
pattern names the port in its mask and the 64 bytes under MASK equal VALUE, and no lower pattern matches; it answers
none exactly when none of the 16 matches; a pattern whose PORT_MASK is 0 never matches. That the lowest matching
pattern is reported is the model's choice. -/
def Obligations.WakePatterns : Prop :=
  ∀ (s : State) (n : Nat) (d : Bytes),
    let matching (i : Nat) : Prop := ∃ p, s.pwr.pats.get? i = some p ∧ p.ports.testBit n = true ∧
      ∀ k < 64, u8 d k &&& u8 p.mask k = u8 p.value k
    (∀ i, patHit s n d = some i ↔ i < 16 ∧ matching i ∧ ∀ j < i, ¬ matching j) ∧
    (patHit s n d = none ↔ ∀ i < 16, ¬ matching i) ∧
    (∀ i p, s.pwr.pats.get? i = some p → p.ports = 0 → ¬ matching i)

/-- A shaper accrues its rate exactly (R399). Over n cycles below its burst, a shaper's credit and remainder grow by
exactly n times its rate, with no loss to rounding. The unit of credit, 2^-16 byte with a remainder, is the model's
choice. -/
def Obligations.ShapersAccrueExactly : Prop :=
  ∀ (x : Shaper) (n : Nat), x.rate ≠ 0 → x.rest < 8000000 →
    8000000 * x.credit + x.rest + n * x.rate * 65536 < 8000000 * (x.burst * 65536) →
    let y := Nat.repeat Shaper.tick n x
    8000000 * y.credit + y.rest = 8000000 * x.credit + x.rest + n * x.rate * 65536 ∧ y.rest < 8000000 ∧
    y.credit = (8000000 * x.credit + x.rest + n * x.rate * 65536) / 8000000

/-- Answering a command touches no other unit (R90, R98). To answer a command in hand changes Gelvor, the host port
and the interrupt lines alone: every other unit, every counter, the whole of every engine and the measurement unit are
as before. -/
def Obligations.FinishingACommandIsQuiet : Prop :=
  ∀ (s : State) (q : Req) (r : Reply), Quiet s (finishTaken q r s) ∧ (finishTaken q r s).cnt = s.cnt

/-- The frame of the integer instructions (R283, R299). Each of the twelve integer instructions leaves every other
unit, every engine but for its threads and samples, every other thread, and its own thread but for the program counter
and the destination register as they were. Of the measurement unit it may change the event counters; and where no
counter of the engine's monitor overflows, or the monitor does not run, the host port, the interrupt aggregation,
Gelvor, every counter and every sample are as before too. -/
def Obligations.IntegerRowsLeaveTheRest : Prop :=
  ∀ (s u : State) (e t : Nat) (rd ra rb : Reg) (b : Src) (h l : BitVec 16), ∀ c ∈ [Instr.plus e t rd ra b, .minus e t rd ra b,
      .band e t rd ra b, .bor e t rd ra b, .bxor e t rd ra b, .cmplt e t rd ra b, .cmpltu e t rd ra b, .immh e t rd h,
      .imml e t rd l, .mpy e t rd ra rb, .mpyhs e t rd ra rb, .mpyhu e t rd ra rb],
    exec c s = .next u →
    SameUnits s u ∧ u.mt = { s.mt with pmu := u.mt.pmu } ∧ u.eng = { s.eng with engines := u.eng.engines } ∧
    (∀ k, getEng u k = { getEng s k with threads := (getEng u k).threads, samples := (getEng u k).samples }) ∧
    (∀ k j, (k, j) ≠ (e, t) → getThr u k j = getThr s k j) ∧
    getThr u e t = { getThr s e t with regs := (getThr u e t).regs, pc := (getThr u e t).pc } ∧
    (∀ r, r ≠ rd → wreg u e t r = wreg s e t r) ∧
    (((getPmu s (8 + e)).run = false ∨ ∀ k, k < 8 → (getPmu s (8 + e)).cnt.getD k 0 + 1 < 2 ^ 48) →
      u.host = s.host ∧ u.intr = s.intr ∧ u.gv = s.gv ∧ u.cnt = s.cnt ∧ ∀ k, (getEng u k).samples = (getEng s k).samples)

/-- Integer and shift instructions (R283, R299). Each of the 15 instructions of a running thread completes with its
result in the destination register (every register is writable, none holds a constant); a shift by 32 or more writes a
free value. -/
def Obligations.IntegerRows : Prop :=
  (∀ (s : State) (e t : Nat) (rd ra rb : Reg) (b : Src) (h l : BitVec 16), canRun s e t = true →
    let x := wreg s e t ra
    let y := srcVal s e t b
    let z := wreg s e t rb
    exec (.plus e t rd ra b) s = .next (retireW e t rd (x + y) s) ∧
    exec (.minus e t rd ra b) s = .next (retireW e t rd (x - y) s) ∧
    exec (.band e t rd ra b) s = .next (retireW e t rd (x &&& y) s) ∧
    exec (.bor e t rd ra b) s = .next (retireW e t rd (x ||| y) s) ∧
    exec (.bxor e t rd ra b) s = .next (retireW e t rd (x ^^^ y) s) ∧
    exec (.cmplt e t rd ra b) s = .next (retireW e t rd (if x.toInt < y.toInt then 1#32 else 0#32) s) ∧
    exec (.cmpltu e t rd ra b) s = .next (retireW e t rd (if x.toNat < y.toNat then 1#32 else 0#32) s) ∧
    exec (.immh e t rd h) s = .next (retireW e t rd (BitVec.ofNat 32 (h.toNat * 65536)) s) ∧
    exec (.imml e t rd l) s = .next (retireW e t rd (wreg s e t rd ||| BitVec.ofNat 32 l.toNat) s) ∧
    exec (.mpy e t rd ra rb) s = .next (retireW e t rd (BitVec.ofNat 32 (x.toNat * z.toNat)) s) ∧
    exec (.mpyhs e t rd ra rb) s = .next (retireW e t rd (BitVec.ofInt 32 (x.toInt * z.toInt / 4294967296)) s) ∧
    exec (.mpyhu e t rd ra rb) s = .next (retireW e t rd (BitVec.ofNat 32 (x.toNat * z.toNat / 4294967296)) s)) ∧
  (∀ (s : State) (e t : Nat) (rd ra : Reg) (b : Src), canRun s e t = true →
    let x := wreg s e t ra
    let n := (srcVal s e t b).toNat
    (n < 32 →
      exec (.shl e t rd ra b) s = .next (retireW e t rd (BitVec.ofNat 32 (x.toNat * 2 ^ n)) s) ∧
      exec (.shr e t rd ra b) s = .next (retireW e t rd (BitVec.ofNat 32 (x.toNat / 2 ^ n)) s) ∧
      exec (.shra e t rd ra b) s = .next (retireW e t rd (BitVec.ofInt 32 (x.toInt / 2 ^ n)) s)) ∧
    (32 ≤ n →
      exec (.shl e t rd ra b) s = .next (retireFree e t rd s) ∧
      exec (.shr e t rd ra b) s = .next (retireFree e t rd s) ∧
      exec (.shra e t rd ra b) s = .next (retireFree e t rd s)))

/-- Loads and stores (R199, R287, R288, R289, R290, R291, R292, R298, R299, R311). The eight loads and three stores,
for every address: a misaligned address is fault 2, one outside every area fault 3, a store to an area that may not be
written fault 4; a window load beyond the shadow record waits for its return, is fault 5 and counted in ACCESS_RANGE
where it would reach the trailer of the buffer, and is fenced on a condemned engine. -/
def Obligations.LoadAndStoreRows : Prop :=
  (LoadRule false false 1 .ld8 ∧ LoadRule false true 1 .ld8s ∧ LoadRule false false 2 .ld16 ∧
  LoadRule false true 2 .ld16s ∧ LoadRule false false 4 .ld32 ∧
  LoadRule true false 1 .fld8 ∧ LoadRule true false 2 .fld16 ∧ LoadRule true false 4 .fld32) ∧
  (StoreRule 1 .st8 ∧ StoreRule 2 .st16 ∧ StoreRule 4 .st32)

/-- Jumps and calls (R287, R299). The six conditional jumps go to the target exactly when their comparison holds; CALL
and the odd form of JUMPR save the address after themselves in r31. -/
def Obligations.JumpRows : Prop :=
  ∀ (s : State) (e t : Nat) (ra rb : Reg) (off : Int), canRun s e t = true →
    let x := wreg s e t ra
    let y := wreg s e t rb
    let pc := (getThr s e t).pc
    let go := retireTo e t (jumpAddr pc off) s
    exec (.jeq e t ra rb off) s = .next (if x = y then go else retire e t s) ∧
    exec (.jne e t ra rb off) s = .next (if x ≠ y then go else retire e t s) ∧
    exec (.jlt e t ra rb off) s = .next (if x.toInt < y.toInt then go else retire e t s) ∧
    exec (.jge e t ra rb off) s = .next (if y.toInt ≤ x.toInt then go else retire e t s) ∧
    exec (.jltu e t ra rb off) s = .next (if x.toNat < y.toNat then go else retire e t s) ∧
    exec (.jgeu e t ra rb off) s = .next (if y.toNat ≤ x.toNat then go else retire e t s) ∧
    exec (.call e t off) s = .next (retireTo e t (jumpAddr pc off) (setW e t 31 (BitVec.ofNat 32 (pc + 4)) s)) ∧
    exec (.jumpr e t ra off) s = .next (retireTo e t x.toNat
      (if off % 2 = 0 then s else setW e t 31 (BitVec.ofNat 32 (pc + 4)) s))

/-- Bit fields, byte reversal and sums (R299, R301). BXT and BINS for positions inside the word, with a free value
outside; BREV8, OCADD and the three CRC instructions. -/
def Obligations.FieldRows : Prop :=
  ∀ (s : State) (e t : Nat) (rd rs : Reg) (pos width : Nat), canRun s e t = true →
    let x := (wreg s e t rs).toNat
    (1 ≤ width → pos + width ≤ 32 →
      exec (.bxt e t rd rs pos width) s = .next (retireW e t rd (BitVec.ofNat 32 (x / 2 ^ pos % 2 ^ width)) s)) ∧
    (1 ≤ width → pos + width ≤ 32 →
      let m : Word := BitVec.ofNat 32 ((2 ^ width - 1) * 2 ^ pos)
      exec (.bins e t rd rs pos width) s =
        .next (retireW e t rd ((wreg s e t rd &&& ~~~m) ||| ((wreg s e t rs <<< pos) &&& m)) s)) ∧
    (width = 0 ∨ 32 < pos + width →
      exec (.bxt e t rd rs pos width) s = .next (retireFree e t rd s) ∧
      exec (.bins e t rd rs pos width) s = .next (retireFree e t rd s)) ∧
    exec (.brev8 e t rd rs) s = .next (retireW e t rd (BitVec.ofNat 32 (be (toLe 4 x) 0 4)) s) ∧
    exec (.ocadd e t rs) s = .next (retire e t (setThr e t (fun y => { y with csum := fold16 (y.csum + x / 65536 + x % 65536) }) s)) ∧
    exec (.crc8 e t rs) s =
      .next (retire e t (setThr e t (fun y => { y with crcVal := crcFeed (crcSel y.crcSel) y.crcVal (toBe 1 x) }) s)) ∧
    exec (.crc16 e t rs) s =
      .next (retire e t (setThr e t (fun y => { y with crcVal := crcFeed (crcSel y.crcSel) y.crcVal (toBe 2 x) }) s)) ∧
    exec (.crc32 e t rs) s =
      .next (retire e t (setThr e t (fun y => { y with crcVal := crcFeed (crcSel y.crcSel) y.crcVal (toBe 4 x) }) s))

/-- Control registers of a thread (R299, R300). CRD answers each control register, TIME_LO holding TIME_HI; CWR writes
the writable ones, and a write to another or of a value out of range is fault 7. -/
def Obligations.ControlRegisterRows : Prop :=
  ∀ (s : State) (e t : Nat) (r : Reg), canRun s e t = true →
    let x := getThr s e t
    let v := (wreg s e t r).toNat
    (∀ c, c ≠ .timeLo → exec (.crd e t r c) s = .next (retireW e t r (BitVec.ofNat 32 (csrVal s e t c)) s)) ∧
    exec (.crd e t r .timeLo) s = .next (retireW e t r (BitVec.ofNat 32 (nowNs s))
      (setThr e t (fun y => { y with timeHi := nowNs s / 2 ^ 32 % 2 ^ 32 }) s)) ∧
    (∀ c y, csrWrite x c v = some y → exec (.cwr e t r c) s = .next (retire e t (setThr e t (fun _ => y) s))) ∧
    (∀ c, csrWrite x c v = none → exec (.cwr e t r c) s = .next (threadFault e t 7 s)) ∧
    (∀ c, (csrWrite x c v).isSome = true ↔
      c = .csumAcc ∨ c = .crcValLo ∨ c = .crcValHi ∨ (c = .hdrNew ∧ v ≤ 256) ∨ (c = .crcSel ∧ v ≤ 3))

/-- Host accesses of a thread, and what ends a wait (R289, R299, R305, R306). HRD and HWR for every length, buffer and
window: the access is issued, or the fault is 3 or 6, an access outside the window being also a violation. Then the
end of an access, WAIT and its wake, and the return of a window load, lost or not. A thread that runs the base learn
program goes on at the end of its write; that it does so within that command is the model's choice (log 82). -/
def Obligations.HostAccessAndWaitRows : Prop :=
  (∀ (s : State) (e t a d n : Nat), canRun s e t = true → fenced s e t = false →
    let busy := fun (u : State) => setThr e t (fun x => { x with park := .host d }) (retire e t u)
    let b := Mem.rdN (getEng s e).dmem (d - 0x10000) n
    (1 ≤ n → n ≤ 4096 → inDmem d n = true → inWindow s a n = true → s.host.flow.covers a n = false →
      exec (.hrd e t a d n) s = .next (startXfer (.thread e t) false (0x208 + e) a n [] (busy s)) ∧
      exec (.hwr e t a d n) s = .next (startXfer (.thread e t) true (0x208 + e) a n b (busy (noteSlot a (u8 b 0) s)))) ∧
    (1 ≤ n → n ≤ 4096 → inDmem d n = true → s.host.flow.covers a n = true →
      exec (.hrd e t a d n) s = .next (startXfer (.thread e t) false (0x208 + e) a n [] (busy s)) ∧
      exec (.hwr e t a d n) s = .next (if claimedSlot s e t a n
        then startXfer (.thread e t) true (0x208 + e) a n b (busy (noteSlot a (u8 b 0) s))
        else threadFault e t 6 s)) ∧
    (n = 0 ∨ 4096 < n → exec (.hrd e t a d n) s = .next (threadFault e t 6 s) ∧
      exec (.hwr e t a d n) s = .next (threadFault e t 6 s)) ∧
    (1 ≤ n → n ≤ 4096 → inDmem d n = false → exec (.hrd e t a d n) s = .next (threadFault e t 3 s) ∧
      exec (.hwr e t a d n) s = .next (threadFault e t 3 s)) ∧
    (1 ≤ n → n ≤ 4096 → inDmem d n = true → inWindow s a n = false → s.host.flow.covers a n = false →
      exec (.hrd e t a d n) s = .next (threadFault e t 6 (lines (violation s))) ∧
      exec (.hwr e t a d n) s = .next (threadFault e t 6 (lines (violation s))))) ∧
  (∀ (s : State) (e t : Nat), coreOff s = false →
    (∀ x d, doneXfer s (· = .thread e t) = some x → (getThr s e t).park = .host d →
      let v := setThr e t (fun y => { y with park := .none })
        (setStatus e t (if x.err then cHostError else cHostOk) (dropXfer x.id s))
      let u := if x.write = true ∨ x.err = true then v
        else setEng e (fun g => { g with dmem := Mem.wrN g.dmem (d - 0x10000) x.data }) v
      exec (.hostAccessDone e t) s = .next (baseWrite e t (some x) u) ∧
      ((getThr s e t).base = .none → exec (.hostAccessDone e t) s = .next u)) ∧
    (∀ n, canRun s e t = true →
      exec (.wait e t n) s = .next (setThr e t (fun x => { x with park := .wait n }) (retire e t s))) ∧
    (∀ n, (getThr s e t).park = .wait n →
      exec (.waitWake e t) s = .next (setThr e t (fun x => { x with park := .none }) s)) ∧
    (∀ rd n off, (getThr s e t).park = .window rd n off →
      let h := ((heldFrame s e t).map (·.h)).getD 0
      let r := readOf s (.thread e t) h
      let b := match r with
        | some y => slice y.data (off % 64) (n % 8)
        | none => windowBytes s e t off (n % 8)
      (reading s (.thread e t) h = true → ∀ k, exec (.windowLoadReturn e t k) s = .next s) ∧
      (reading s (.thread e t) h = false →
        (windowLost s h r = false → exec (.windowLoadReturn e t false) s = .next (setThr e t (fun x => { x with
          regs := x.regs.set rd (extWord (n ≥ 8) (n % 8) (be b 0 (n % 8))), park := .none }) (dropDirect (.thread e t) h s))) ∧
        (∀ k, (k || windowLost s h r) = true → exec (.windowLoadReturn e t k) s = .next (setThr e t (fun x => { x with
          regs := x.regs.set rd 0#32, park := .none, bad := true }) (dropDirect (.thread e t) h s))))))

/-- SEND and DONE (R211, R296, R302, R401). SEND in the order of its checks, with a buffer or without; DONE with and
without EMIT, for frames of the reorder stage and of an input queue; the policers that a learn program's end asks. A
thread whose base program has ended ends as that program says, whatever the row carries (model's choice, log 82). -/
def Obligations.SendAndDoneRows : Prop :=
  (∀ (s : State) (e t src len tag tc : Nat) (tail : Option Nat), canRun s e t = true → fenced s e t = false →
    let go := exec (.send e t src len tail tag tc) s
    let m := Mem.rdN (getEng s e).dmem (src - 0x10000) len
    (badSend s e t len tail = true → go = .next (refuseEnd e t cBadSend s)) ∧
    (badSend s e t len tail = false → 4 ≤ stagedCount s e t → go = .next (refuseEnd e t cSendLimit s)) ∧
    (badSend s e t len tail = false → stagedCount s e t < 4 → inDmem src len = false → go = .next (threadFault e t 3 s)) ∧
    (badSend s e t len tail = false → stagedCount s e t < 4 → inDmem src len = true →
      (∀ o f u, tail = some o → heldFrame s e t = some f → fetchBuf (.thread e t) f.h s = (none, u) →
        go = .next (setThr e t (fun x => { x with park := .tail m o tag tc }) u)) ∧
      (∀ d v, (tail = none ∧ d = m ∧ v = s) ∨
          (∃ o f y u, tail = some o ∧ heldFrame s e t = some f ∧ fetchBuf (.thread e t) f.h s = (some y, u) ∧
            let b := (readData u f.h y).drop o
            (windowLost u f.h y = false ∧ d = m ++ b ∧ v = setThr e t (fun x => { x with park := .none }) u) ∨
            (windowLost u f.h y = true ∧ d = m ++ zeros b.length ∧
              v = setThr e t (fun x => { x with park := .none, bad := true }) u)) →
        (∀ p, poolFor d.length = some p → v.sys.phase ≠ 2 →
          go = .next (setThr e t (fun x => { x with park := .stalled d tag tc }) v)) ∧
        (∀ p, poolFor d.length = some p → v.sys.phase = 2 →
          (∀ h u, allocBuf p v = (some h, u) →
            go = .next (placeSend e t { port := engPort e, h := some h, data := d, tag := tag % 2 ^ 32, tc := tc % 8 }
              (setStatus e t cSendOk (bump cEng e 4 u)))) ∧
          (∀ u, allocBuf p v = (none, u) →
            go = .next (retire e t (setStatus e t cNoBuffer (countFailed v p (engPort e) (bump cEng e 5) u)))))))) ∧
  (∀ (s : State) (e t : Nat) (f : PFrame) (fw : Bool),
    canRun s e t = true → fenced s e t = false → heldFrame s e t = some f →
    let x := getThr s e t
    let end_ := fun (u : State) => settleDrain e (endThread e t (retire e t u))
    let judged := fun (v : State) => if f.policer = 0xFFFFFFFF then (true, v) else judgePolicer f.policer f.len v
    let j := judged s
    let done := fun (k c : Nat) (u : State) => pmuEvent (8 + e) k 1 t (bump cEng e c u)
    ((x.base = .none ∧ fw = true) ∨ x.base = .ended .forward →
      (∀ c, doneRefused s x f = some c → exec (.done e t fw) s = .next (refuseEnd e t c s)) ∧
      (∀ i, doneRefused s x f = none → x.hold = .slot i → j.1 = true →
        exec (.done e t fw) s = .next (end_ (setSlot i
          (fun y => { y with frame := { withShadow x f with staged := y.frame.staged }, state := .ready }) (done 9 2 j.2)))) ∧
      (∀ i, doneRefused s x f = none → x.hold = .slot i → j.1 = false →
        exec (.done e t fw) s = .next (end_ (slotDrop i cFlowPort 11 (done 9 2 j.2)))) ∧
      (∀ u, doneRefused s x f = none → x.hold = .inq f → fetchBuf (.thread e t) f.h s = (none, u) →
        exec (.done e t fw) s = .next (setThr e t (fun x => { x with park := .done }) u)) ∧
      (∀ y u, doneRefused s x f = none → x.hold = .inq f → fetchBuf (.thread e t) f.h s = (some y, u) →
        exec (.done e t fw) s = .next (forwardWith e t f y (setThr e t (fun x => { x with park := .none }) u)))) ∧
    (∀ v y, (getThr v e t).hold = .inq f →
      forwardWith e t f y v = end_ (commitInq e (withShadow (getThr v e t) f) y (done 9 2 (judged v).2))) ∧
    (∀ g k, (x.base = .none ∧ fw = false ∧ g = cEngPort ∧ k = 1) ∨ x.base = .ended (.drop g k) →
      ((f.bad || x.bad) = false →
        (∀ i, x.hold = .slot i → exec (.done e t fw) s = .next (end_ (slotDrop i g k (done 0xA 3 s)))) ∧
        (x.hold = .inq f → exec (.done e t fw) s = .next (end_ (releaseOwner f.h (engOwner e)
          (abandonAll (.frame f.h f.oseq) (bump g f.port k (unpinBuf f.h (done 0xA 3 s)))))))) ∧
      ((f.bad || x.bad) = true →
        (∀ i, x.hold = .slot i → exec (.done e t fw) s = .next (end_ (setSlot i (fun y => { y with
          frame := { y.frame with bad := true }, state := .ready }) (done 0xA 3 s)))) ∧
        (x.hold = .inq f → exec (.done e t fw) s = .next (end_ (releaseOwner f.h (engOwner e)
          (abandonAll (.frame f.h f.oseq) (checkFail f.h f.oseq 1 (engPort e) (unpinBuf f.h (done 0xA 3 s))))))))) ∧
    (∀ i r h, x.base = .ended (.again r h) → x.hold = .slot i →
      exec (.done e t fw) s = .next (end_ (
        let g := { withShadow x f with reason := r, hook := h }
        (setSlot i (fun y => { y with frame := { g with staged := y.frame.staged }, first := g, state := .queued })
          (unpinBuf f.h s)).updPipe fun p => { p with disp := p.disp ++ [i] }))))

/-- Flow operations and their outcomes (R271, R297, R311). The four flow operations start or take effect and park the
thread; the outcome wakes it with the code and index in r1 and r2, or ends it where its budget is spent; the base
learn program takes the outcome at once (model's choice, log 82). -/
def Obligations.FlowOperationRows : Prop :=
  (∀ (s : State) (e t : Nat) (o : Claimer), canRun s e t = true → fenced s e t = false → claimerOf s e t = some o →
    let u := parkFlop e t s
    (∀ key, exec (.claimNew e t key) s =
      .next (startClaimNew { by_ := .thread e t, owner := o, entry := false, key := slice key 0 40 } u)) ∧
    (∀ index seen, exec (.claimEntry e t index seen) s = .next (startClaimEntry
      { by_ := .thread e t, owner := o, entry := true, index := index, expect := if seen.isEmpty then none else some (u16 seen 0 % 4096) } u)) ∧
    (∀ c image, exec (.publish e t c image) s = .next ((publishClaim o c image u).2.updFlow fun x =>
      { x with flops := x.flops ++ [{ by_ := .thread e t, owner := o, entry := false, result := some (publishClaim o c image u).1 }] })) ∧
    (∀ c, exec (.abandon e t c) s = .next ((abandonClaim o c u).2.updFlow fun x =>
      { x with flops := x.flops ++ [{ by_ := .thread e t, owner := o, entry := false, result := some (abandonClaim o c u).1 }] }))) ∧
  (∀ (s : State) (e t i : Nat) (p : Flop) (r : FlopRes), coreOff s = false →
    flopOf s (.thread e t) = some p → p.result = some (r, i) → (getThr s e t).park = .flop →
    let u := setThr e t (fun x => { x with park := .none }) (setW e t 2 (BitVec.ofNat 32 i)
      (setW e t 1 (Config.code (flopCode r)) (s.updFlow fun x => { x with flops := x.flops.filter (·.by_ != .thread e t) })))
    exec (.flopOutcome e t) s = .next (baseFlop e t (some p) (if (getThr s e t).stop = true then overtime e t u else u)) ∧
    ((getThr s e t).stop = false → (getThr s e t).base = .none → exec (.flopOutcome e t) s = .next u))

/-- Budgets, dispatch, input queues and the base programs (R274, R293, R297, R303, R307, R308). A spent budget ends
the thread or waits for its flow operation; the dispatcher sends its head to the engine and thread chosen, or drops a
frame whose hook is unbound; an engine takes the head of its input queue. A base program begins at its dispatch
(model's choice, log 82): the learn program drops a frame of another REASON and claims the key of one of REASON 4;
TTL_EXPIRED sends its message, or none in the cases of R308, and its IPv6 packet holds at most 1,280 bytes. -/
def Obligations.EngineEventRows : Prop :=
  (∀ (s : State) (e t : Nat), coreOff s = false →
    (∀ i, (getThr s e t).hold = .slot i → (getThr s e t).busy = true → (getThr s e t).park ≠ .flop →
      exec (.frameBudgetExpire e t) s = .next (overtime e t s)) ∧
    (∀ i, (getThr s e t).hold = .slot i → (getThr s e t).busy = true → (getThr s e t).park = .flop →
      exec (.frameBudgetExpire e t) s = .next (setThr e t (fun y => { y with stop := true }) s)) ∧
    (∀ i rest x prog entry, s.pipe.disp = i :: rest → getSlot s i = some x → hookEntry s x.frame.hook = some (prog, entry) →
      (dispatchOrder s).findSome? (fun e => (freeThread s e).map fun t => (e, t)) = some (e, t) →
      exec .engineDispatch s = .next (
          let n := s.pipe.nextDisp
          let s1 := setSlot i (fun y => { y with state := .held e t, order := if x.frame.redisp = 0 then n else y.order })
            (pinBuf x.frame.h (s.updPipe fun p => { p with disp := rest }))
          let s2 := s1.updPipe fun p => { p with last := e, nextDisp := n + 1 }
          let s3 := bump cEng e 0 (if x.frame.redisp = 0 then s2 else bump cEng e 1 s2)
          let s4 := pmuEvent (8 + e) 7 1 t (startThread e t x.frame (.slot i) x.frame.reason i prog entry s3)
          baseStarts (pumpOut ((startThread e t x.frame (.slot i) x.frame.reason i prog entry s3).pipe.out.length + 1) s4))) ∧
    (∀ i rest x, s.pipe.disp = i :: rest → getSlot s i = some x → hookEntry s x.frame.hook = none →
      exec .engineDispatch s = .next (let s1 := s.updPipe fun p => { p with disp := rest }
        baseStarts (pumpOut (s1.pipe.out.length + 1) (slotDrop i cEngPort 0 s1)))) ∧
    (∀ q rest b prog entry, (getEng s e).mode = .active → s.pipe.disp = [] → freeThread s e = some t →
      getQ s (.eng e) = q :: rest → getBuf s q.h = some b → isRetiring s (recGen b.record) = false →
      hookEntry s (getEng s e).destHook = some (prog, entry) →
      (∀ u, fetchPinned (.inq e) q.h s = (none, u) → exec (.inqTake e) s = .next (baseStarts u)) ∧
      (∀ x v, fetchPinned (.inq e) q.h s = (some x, v) →
        let u := popInq (.eng e) v
        (readGood u q.h q.oseq x = true → exec (.inqTake e) s = .next (baseStarts (
          let f := inqFrame e q b (readRecord u q.h x) (readData u q.h x) u
          pmuEvent (8 + e) 8 1 t (startThread e t f (.inq f) 8 0xFFFF prog entry u)))) ∧
        (readGood u q.h q.oseq x = false → exec (.inqTake e) s = .next (baseStarts (settleDrain e (releaseOwner q.h (engOwner e)
          (checkFail q.h q.oseq (readKind 0 x) (engPort e) (unpinBuf q.h u))))))))) ∧
  (∀ (s : State) (e t : Nat) (f : PFrame) (d : Bytes),
    (heldFrame s e t = some f → (getThr s e t).base = .fresh →
      ((getThr s e t).hook = 1 → u8 (getThr s e t).desc 41 ≠ 3 → u8 (getThr s e t).desc 41 ≠ 4 →
        baseStart e t s = baseEnd e t (.drop 0x70 1) s) ∧
      ((getThr s e t).hook = 1 → u8 (getThr s e t).desc 41 = 4 → baseStart e t s = askClaim e t f (origKey s f) .orig s) ∧
      (∀ u, (getThr s e t).hook = 2 → fetchBuf (.thread e t) f.h s = (none, u) → baseStart e t s = u) ∧
      (∀ x u, (getThr s e t).hook = 2 → fetchBuf (.thread e t) f.h s = (some x, u) →
        (windowLost u f.h x = true → baseStart e t s = baseEnd e t .forward (setThr e t (fun y => { y with bad := true }) u)) ∧
        (windowLost u f.h x = false →
          (u.eng.icmp = false ∨ rateLeft u e = false ∨ exceededFrame u f (readData u f.h x) = none →
            baseStart e t s = baseEnd e t (.drop 0x60 10) u) ∧
          (∀ m p h v, u.eng.icmp = true → rateLeft u e = true → exceededFrame u f (readData u f.h x) = some m →
            poolFor m.length = some p → allocBuf p (noteIcmp e (baseEnd e t (.drop 0x60 10) u)) = (some h, v) →
            baseStart e t s = placeSend e t { port := engPort e, h := some h, data := m, tag := 2, tc := f.tc } (bump 0x71 e 4 v))))) ∧
    (let o := slotOf f.pres 0 2
     (l3Kind f.pres 0 = 0 → ((u8 d 6).testBit 0 = true ∨ (224 ≤ u8 d (o + 12) ∧ u8 d (o + 12) < 240) ∨ errorMessage d o false = true) →
        exceededFrame s f d = none) ∧
     (l3Kind f.pres 0 = 1 → ((u8 d 6).testBit 0 = true ∨ u8 d (o + 8) = 255 ∨ errorMessage d o true = true ∨ allZero s.eng.ipv6Src = true) →
        exceededFrame s f d = none)) ∧
    (∀ o, (ipv6Exceeded s d o).length ≤ 1280))

/-- Radio frames on their way down (R54, R360, R361, R371, R372, R373, R397). Staging, launch, DONE with each outcome,
the DONE timeout, and the station decision by access category. A frame that lies in host memory is read before it is
staged (model's choice, log 11). -/
def Obligations.RadioDownstreamRows : Prop :=
  (∀ (s : State) (l : Nat), coreOff s = false →
    let r := getRl s l
    (∀ x b, r.launch.find? (fun y => !y.staged) = some x → getBuf s x.h = some b → stagedBytes r + x.d ≤ 32768 →
      let good := fun (u : State) => unpinBuf x.h (setRl l (fun r => { r with launch := r.launch.map fun y =>
        if y = x then { y with staged := true, bytes := egressBytes u b x.rewrite } else y }) u)
      let bad := fun (k : Nat) (u : State) => forgetLink x.sta l (releaseSta x.h x.sta x.ac (unpinBuf x.h
        (checkFail x.h x.oseq k (0x100 + l) (unreserve l x (setRl l (fun r => { r with launch := r.launch.erase x }) u)))))
      (readsDram s x.h = false →
        (verifies s x.h x.oseq = true → exec (.dnStageDone l) s = .next (good s)) ∧
        (verifies s x.h x.oseq = false → exec (.dnStageDone l) s = .next (bad 0 s))) ∧
      (∀ y, readsDram s x.h = true → y.finished = true →
        s.host.xfers.find? (fun y => y.purp = .direct x.h (.stage l x.sta) && !y.gone) = some y →
        (directOk s x.h x.oseq y = true → exec (.dnStageDone l) s = .next (good (dropXfer y.id s))) ∧
        (directOk s x.h x.oseq y = false → y.err = true → exec (.dnStageDone l) s = .next (bad 5 (dropXfer y.id s))) ∧
        (directOk s x.h x.oseq y = false → y.err = false → exec (.dnStageDone l) s = .next (bad 0 (dropXfer y.id s))))) ∧
    (∀ x, r.launch.find? (fun y => !y.staged) = some x → 32768 < stagedBytes r + x.d →
      exec (.dnStageDone l) s = .next s) ∧
    (∀ x rest tag, r.launch = x :: rest → r.enabled = true → x.staged = true → r.unfin.length < 4096 →
      stillCredit (staLink (getSta s x.sta) l).win x.d = true → stillCredit r.win x.d = true →
      lowestFree 4096 (r.unfin.map (·.tag)) = some tag →
      let up := ((getBuf s x.h).map fun b => u8 b.record 41 % 8).getD 0
      let f := fun (w : Win) => { w with reserved := (w.reserved + 2 ^ 32 - x.d) % 2 ^ 32, sent := (w.sent + x.d) % 2 ^ 32 }
      exec (.dnFrameStart l) s = .next (forgetLink x.sta l (bumpN cRl l 1 x.d (bump cRl l 0 (bumpN cSta x.sta 1 x.d
        (bump cSta x.sta 0 (setStaLink x.sta l (fun y => { y with win := f y.win })
          (setRl l (fun r => { r with launch := rest, win := f r.win, unfin := r.unfin ++
            [{ tag := tag, h := x.h, oseq := x.oseq, sta := x.sta, ac := x.ac, md := dnMeta x tag up, bytes := x.bytes }] })
            s)))))))) ∧
    (∀ tag u, r.enabled = true → r.unfin.find? (·.tag = tag) = some u →
      exec (.dnDone l tag 0) s = .next (endFrame l u s) ∧
      exec (.dnDone l tag 1) s = .next (endFrame l u (bump cRl l 5 (countSta u.sta 7 0 u.h s))) ∧
      (∀ k, 2 ≤ k → exec (.dnDone l tag k) s =
        .next (endFrame l u (rlProtocol l 2 (bump cRl l 5 (countSta u.sta 7 0 u.h s)))))) ∧
    (∀ tag k, r.enabled = true → r.unfin.find? (·.tag = tag) = none → exec (.dnDone l tag k) s = .next (rlProtocol l 1 s)) ∧
    (∀ tag k, r.enabled = false → exec (.dnDone l tag k) s = .next s) ∧
    (∀ tag u, r.doneTo ≠ 0 → r.unfin.find? (·.tag = tag) = some u →
      exec (.dnDoneTimeout l tag) s = .next (endFrame l u (rlProtocol l 3 (bump cRl l 6 (countSta u.sta 8 1 u.h s)))))) ∧
  (∀ (s : State), (List.range 3).any (fun l => (getRl s l).enabled && decide ((getRl s l).launch.length < 8)) = true →
    s.pwr.mode = .active → s.sys.quiesced = false →
    let d3 := decideRound 3 s
    let d2 := decideRound 2 d3.2
    let d1 := decideRound 1 d2.2
    let d0 := decideRound 0 d1.2
    exec .stationDecision s = .next (if d3.1 then d3.2 else if d2.1 then d2.2 else if d1.1 then d1.2
      else if d0.1 then d0.2 else perf 6 3 d0.2))

/-- Rate, credit and power-save messages (R84, R359, R363, R364, R365, R366, R367, R368, R369). A well-formed message
of an enabled link takes its effect; one whose station is not ACTIVE, or with a field out of its range, is an error; a
disabled link's is ignored from the cycle after its disable; a rate grows stale. -/
def Obligations.RadioFeedbackRows : Prop :=
  (∀ (s : State) (m : Bytes) (l st : Nat), m.length = 16 → l < 3 → u8 m 1 = 0 → u16 m 2 = st → (getRl s l).enabled = true → coreOff s = false →
    let accepted := perf 6 5 (bump cRadio 0 0 s)
    let member := st < nStations s ∧ (getSta s st).state = .active ∧ (getSta s st).links.testBit l = true
    (u8 m 0 = 1 + 16 * l → member → le m 4 3 ≠ 0 → u8 m 7 ≠ 0 → allZero (slice m 10 6) = true →
      exec (.fbRate m) s = .next (setStaLink st l (fun y => { y with
        rate := some ⟨le m 4 3, u8 m 7, u16 m 8⟩, rateNs := nowNs s, stale := false }) accepted)) ∧
    (u8 m 0 = 2 + 16 * l → member → st ≠ 0xFFF → allZero (slice m 10 6) = true →
      exec (.fbCredit m) s = .next (setStaLink st l (fun y => { y with
        win := { y.win with limit := u32 m 4, avail := nowNs s + u16 m 8 * 1000 } }) accepted)) ∧
    (u8 m 0 = 2 + 16 * l → st = 0xFFF → allZero (slice m 10 6) = true →
      exec (.fbCredit m) s = .next (setRl l (fun r => { r with
        win := { r.win with limit := u32 m 4, avail := nowNs s + u16 m 8 * 1000 } }) accepted)) ∧
    (u8 m 0 = 3 + 16 * l → member → st ≠ 0xFFF → u8 m 4 < 2 → u8 m 5 = 0 → u16 m 6 = 0 → allZero (slice m 8 8) = true →
      exec (.fbPs m) s = .next (evalParks st (setStaLink st l (fun y => { y with
        ps := if u8 m 4 = 0 then .awake else .doze, spMask := 0, spLeft := 0 }) accepted))) ∧
    (u8 m 0 = 3 + 16 * l → member → st ≠ 0xFFF → u8 m 4 = 2 → u8 m 5 ≠ 0 → u8 m 5 < 16 → allZero (slice m 8 8) = true →
      let begun := setStaLink st l (fun y => { y with ps := .period, spMask := u8 m 5, spLeft := u16 m 6 }) accepted
      ((∃ a < 4, (u8 m 5).testBit a = true ∧ getQ accepted (.sta st a) ≠ []) →
        exec (.fbPs m) s = .next (evalParks st begun)) ∧
      ((∀ a < 4, (u8 m 5).testBit a = true → getQ accepted (.sta st a) = []) →
        exec (.fbPs m) s = .next (evalParks st (setStaLink st l (fun y => { y with
          ps := .doze, spMask := 0, spLeft := 0 }) begun)))) ∧
    (let wrong := raiseErr 4 (bump cRadio 0 1 s)
     (u8 m 0 = 1 + 16 * l → st = 0xFFF ∨ (getSta s st).state ≠ .active ∨ le m 4 3 = 0 ∨ u8 m 7 = 0 ∨ allZero (slice m 10 6) = false →
      exec (.fbRate m) s = .next wrong) ∧
     (u8 m 0 = 2 + 16 * l → (st ≠ 0xFFF ∧ (getSta s st).state ≠ .active) ∨ allZero (slice m 10 6) = false →
      exec (.fbCredit m) s = .next wrong) ∧
     (u8 m 0 = 3 + 16 * l → st = 0xFFF ∨ (getSta s st).state ≠ .active ∨ 2 < u8 m 4 ∨ (u8 m 4 < 2 ∧ (u8 m 5 ≠ 0 ∨ u16 m 6 ≠ 0)) ∨
        (u8 m 4 = 2 ∧ (u8 m 5 = 0 ∨ 15 < u8 m 5)) ∨ allZero (slice m 8 8) = false →
      exec (.fbPs m) s = .next wrong))) ∧
  (∀ (s : State) (m : Bytes), fbLink m < 3 → (getRl s (fbLink m)).enabled = false →
    (getRl s (fbLink m)).offAt ≠ some s.time.cycle →
      exec (.fbRate m) s = .next s ∧ exec (.fbCredit m) s = .next s ∧ exec (.fbPs m) s = .next s) ∧
  (∀ (s : State) (st l : Nat), coreOff s = false →
    let y := staLink (getSta s st) l
    (getSta s st).state = .active → y.rate.isSome = true → y.stale = false → (getRl s l).rateTo ≠ 0 →
      y.rateNs + (getRl s l).rateTo * 1000000 ≤ nowNs s →
      exec (.rateStale st l) s = .next (raiseTo (.agents [(getSta s st).agent]) 0x0982 st (toLe 1 l)
        (setStaLink st l (fun y => { y with stale := true }) s)))

/-- Frames that a radio link sends up (R55, R381, R382). A frame is accepted with a buffer, or dropped for its
metadata, its station or want of a buffer, and its credit is returned; a disabled link's is ignored. A feedback
message to a link in the cycle of its disable is an error: that two commands can be of one cycle is the model's choice
(log 65). -/
def Obligations.UpstreamFrameRow : Prop :=
  ∀ (s : State) (l : Nat) (md data : Bytes),
    let st := u16 md 0 % 4096
    let beats := max 1 ((data.length + 15) / 16)
    let s1 := setRl l (fun r => { r with upCredit := r.upCredit - beats }) s
    ((getRl s l).enabled = false → (getRl s l).offAt ≠ some s.time.cycle → ∀ f, exec (.upFrame l md data f) s = .next s) ∧
    ((getRl s l).enabled = false → (getRl s l).offAt = some s.time.cycle → Serving s → ∀ f,
      exec (.upFrame l md data f) s = .next (dropUp l 8 7 s)) ∧
    ((getRl s l).enabled = true → Serving s → upMetaBad md = true → beats ≤ (getRl s l).upCredit →
      exec (.upFrame l md data true) s = .next (grantBeats l beats (rlProtocol l 6 (dropUp l 8 7 s1)))) ∧
    ((getRl s l).enabled = true → Serving s → upMetaBad md = false → beats ≤ (getRl s l).upCredit → st ≠ 0xFFF →
      (getSta s st).state ≠ .active → data.length = u16 md 2 →
      exec (.upFrame l md data true) s = .next (grantBeats l beats (dropUp l 10 9 s1))) ∧
    ((getRl s l).enabled = true → Serving s → upMetaBad md = false → beats ≤ (getRl s l).upCredit →
      (st = 0xFFF ∨ (st < nStations s ∧ (getSta s st).state = .active)) → data.length = u16 md 2 → s.sys.phase = 2 →
      ∀ p h u, poolFor (u16 md 2) = some p → allocBuf p s1 = (some h, u) →
      let tb := (getRl s l).upTb.getD (4 + l)
      exec (.upFrame l md data true) s = .next (grantBeats l beats (u.updPipe fun q => { q with wait := q.wait ++
        [{ port := 0x100 + l, h := some h, data := data, tb := tb, time := (getTb s tb).v, chsta := st, tc := u8 md 4 % 8
           tag := u32 md 8, beats := beats }] }))) ∧
    ((getRl s l).enabled = true → Serving s → upMetaBad md = false → beats ≤ (getRl s l).upCredit →
      (st = 0xFFF ∨ (st < nStations s ∧ (getSta s st).state = .active)) → data.length = u16 md 2 → s.sys.phase = 2 →
      ∀ p u, poolFor (u16 md 2) = some p → allocBuf p s1 = (none, u) →
      exec (.upFrame l md data true) s = .next (grantBeats l beats (countFailed s1 p (0x100 + l) (dropUp l 9 8) u)))

/-- Returns and timeouts at the host port (R39, R45, R46, R47, R119, R534). Read data in part and in full, write
responses, timeouts, event-record responses, and responses to no outstanding transaction. -/
def Obligations.HostReturnRows : Prop :=
  (∀ (s : State) (tag : Nat),
    (∀ t beats, s.host.reads.find? (·.tag = tag) = some t → (t.got ++ beats).length < t.beats →
      exec (.hostReadReturn tag beats) s = .next (afterHost (s.updHost fun h => { h with
        pmu := addAt h.pmu 2 beats.length, reads := mapIf h.reads (·.tag = tag) fun x => { x with got := t.got ++ beats } }))) ∧
    (∀ beats u x, readReturn tag beats s = (u, some x) →
      exec (.hostReadReturn tag beats) s = .next (afterHost (xferDone x (goodBeats tag beats s) u))) ∧
    (∀ beats u, readReturn tag beats s = (u, none) → exec (.hostReadReturn tag beats) s = .next (afterHost u)) ∧
    (∀ beats, s.host.reads.find? (·.tag = tag) = none →
      exec (.hostReadReturn tag beats) s = .next (afterHost (lateOrStray false tag beats.length s))) ∧
    (∀ resp u x, writeReturn tag resp s = (u, some x) →
      exec (.hostWriteResponse tag resp) s = .next (afterHost (xferDone x 0 u))) ∧
    (∀ resp u, writeReturn tag resp s = (u, none) → exec (.hostWriteResponse tag resp) s = .next (afterHost u)) ∧
    (∀ resp, s.host.writes.find? (·.tag = tag) = none →
      exec (.hostWriteResponse tag resp) s = .next (afterHost (lateOrStray true tag 0 s))) ∧
    (∀ w t u x, findTxn w tag s = some t → s.sys.quiescing = false → s.sys.quiesced = false →
      endTxn t true (t.got.flatMap fun b => slice b.data 0 64) (judgeTags (lines (errBit 2 (countErrored ((retireTag w tag s).updHost fun h =>
        { h with timeouts := sat32 h.timeouts }))))) = (u, some x) →
      exec (.hostTimeout w tag) s = .next (afterHost (xferDone x (goodBeats tag [] s) u))) ∧
    (∀ resp t x m u y, findTxn true tag s = some t → getXfer s t.xfer = some x → x.purp = .event m →
      writeReturn tag resp s = (u, some y) → exec (.eventWriteResponse tag resp) s = .next (afterHost (xferDone y 0 u)))) ∧
  (∀ (s u : State) (tag resp m : Nat) (x : Xfer), writeReturn tag resp s = (u, some x) → x.purp = .event m →
    exec (.hostWriteResponse tag resp) s = .next (afterHost (eventDone m x.err (dropXfer x.id u))))

/-- The register port (R11, R13, R15, R48, R49, R50, R51, R191, R465). Reads and writes at every offset: an error
while the core is off outside the always-on area, the register's own read and write, and the decode errors. -/
def Obligations.RegisterPortRows : Prop :=
  ∀ (s : State) (a v k : Nat), s.sys.held = false → a < 2 ^ 22 → v < 2 ^ 32 → k < 16 →
    (coreOff s = true → alwaysOn a = false →
      exec (.rcRead a) s = .next (targetErr s) ∧ exec (.counterLowRead a) s = .next (targetErr s) ∧
      exec (.registerWrite a v k) s = .next (targetErr s)) ∧
    (coreOff s = false → a % 4 = 0 → alwaysOn a = false →
      exec (.rcRead a) s = .next (answer ((rdCore a s).1 % 2 ^ 32) (rdCore a s).2) ∧
      exec (.counterLowRead a) s = .next (answer ((rdCore a s).1 % 2 ^ 32) (rdCore a s).2) ∧
      (∀ t, wrCore a v s = some t → exec (.registerWrite a v 15) s = .next (answer 0 t)) ∧
      (wrCore a v s = none → exec (.registerWrite a v 15) s = .next (answer 0 (decodeError (2 ^ 31 + a) s)))) ∧
    (a % 4 = 0 → alwaysOn a = true →
      exec (.rcRead a) s = .next (answer ((rdAlways (a % 0x10000) s).1 % 2 ^ 32) (rdAlways (a % 0x10000) s).2) ∧
      (∀ t, wrAlways (a % 0x10000) v s = some t → exec (.registerWrite a v 15) s = .next (answer 0 t))) ∧
    (coreOff s = false → k ≠ 15 → exec (.registerWrite a v k) s = .next (answer 0 (decodeError (2 ^ 31 + a) s))) ∧
    (coreOff s = false → a % 4 ≠ 0 → exec (.rcRead a) s = .next (answer 0 (decodeError a s)) ∧
      exec (.registerWrite a v k) s = .next (answer 0 (decodeError (2 ^ 31 + a) s))) ∧
    exec .aoTb7Read s = .next (answer (nowNs s % 2 ^ 32) (s.updPwr fun p => { p with aoHold := nowNs s / 2 ^ 32 % 2 ^ 32 }))

/-- Doorbells and the taking of requests (R85, R86, R87, R90, R91, R92, R93, R97, R98). A doorbell of a free mailbox
copies and queues the request; one of a BUSY mailbox is counted; DONE is cleared; Onyx takes the oldest request,
refuses a bad header, answers a repeated token, or fetches its payload. -/
def Obligations.MailboxAndRequestRows : Prop :=
  (∀ (s : State) (m v : Nat), s.sys.held = false → coreOff s = false → m < 16 →
    ((getMb s m).busy = false → exec (.mbDoorbell m v) s = .next (answer 0 (lines
      ((setMb m (fun b => { b with busy := true, done := false, bell := v % 65536, hdr := b.reqHdr, body := b.reqData }) s).updGv
        fun g => { g with queue := g.queue ++ [m] })))) ∧
    ((getMb s m).busy = true → exec (.mbDoorbell m v) s =
      .next (answer 0 (setMb m (fun b => { b with dbIgnored := true, ignored := b.ignored + 1 }) s))) ∧
    exec (.mbDoneClear m) s = .next (answer 0 (lines (setMb m (fun b => { b with done := false }) s)))) ∧
  (∀ (s : State) (m : Nat), s.gv.taken = none → onyxUp s = true →
    s.gv.queue.find? (fun m => s.sys.fw || decide (m = 0)) = some m → s.res.jasper ≠ .takeover →
    s.gv.awaited = [] →
    let u := s.updGv fun g => { g with queue := g.queue.erase m }
    let b := getMb u m
    let q : Req := { mb := m, hdr := b.hdr, payload := [], ready := false }
    (∀ st, checkHeader u m = some st → exec .requestTake s = .next (respond q (errR st) false u)) ∧
    (checkHeader u m = none → rqPtr b.hdr = false →
      let p := b.body.take (rqLen b.hdr)
      let q' : Req := { mb := m, hdr := b.hdr, payload := p, ready := true, digest := digestOf b.hdr p }
      (b.tokens.find? (·.token = rqToken b.hdr) = none → exec .requestTake s = .next (u.updGv fun g => { g with taken := some q' })) ∧
      (∀ t, b.tokens.find? (·.token = rqToken b.hdr) = some t → t.code = rqCode b.hdr → t.digest = q'.digest →
        exec .requestTake s = .next (putResponse m (overlay (overlay t.hdr 3 [1#8]) 6 (slice b.hdr 6 2)) t.data
          (u.updGv fun g => { g with taken := none }))) ∧
      (∀ t, b.tokens.find? (·.token = rqToken b.hdr) = some t → (t.code ≠ rqCode b.hdr ∨ t.digest ≠ q'.digest) →
        exec .requestTake s = .next (respond q' (errR stConflict) false (u.updGv fun g => { g with taken := none })))) ∧
    (checkHeader u m = none → rqPtr b.hdr = true → u.sys.quiesced = false →
      exec .requestTake s = .next (startXfer .payload false 0x210 (rqAddr b.hdr) (rqLen b.hdr) []
        (u.updGv fun g => { g with taken := some q }))))

/-- System commands: identity, regions, groups and events (R98, R107, R110, R113, R114, R117, R119). SYS_IDENTIFY,
SYS_REGION_SET, SYS_GROUP_OPEN, SYS_ABORT, SYS_EVENT_RING_SET and SYS_EVENT_MASK. -/
def Obligations.SystemCommandRows : Prop :=
  ∀ (s : State) (q : Req),
    let p := q.payload
    (InHand 0x0100 q s → exec .sysIdentify s = .next (finishTaken q (okD (identifyBytes q.mb s)) s)) ∧
    (let kind := u8 p 0
     let i := u8 p 1
     let base := u64 p 8
     let size := u64 p 16
     let new : Region := { base := base, size := size, agent := u8 p 2, set := true }
     let old := regionOf s kind i
     let after := putRegion kind i new s
     InHand 0x0101 q s → kind ≤ 4 → (kind = 4 → i ≤ 15) → (kind ≠ 4 → i = 0 ∧ u8 p 2 = 0xFF) →
      regionBad kind base size = none → base + size ≤ 2 ^ 48 → (∀ r ∈ othersOf s kind, overlaps new r = false) →
      (kind = 4 → old.agent = 0xFF ∨ old.agent = agentOf q s) →
      (old.base = base → old.size = size → old.agent = u8 p 2 → exec .sysRegionSet s = .next (finishTaken q okR s)) ∧
      ((old.base ≠ base ∨ old.size ≠ size ∨ old.agent ≠ u8 p 2) →
        (regionState s kind after = true → exec .sysRegionSet s = .next (finishTaken q okR after)) ∧
        (regionState s kind after = false → exec .sysRegionSet s = .next (finishTaken q (errR stWrongState) s)))) ∧
    (InHand 0x0102 q s → s.gv.groups.length < 8 →
      exec .sysGroupOpen s = .next (finishTaken q (okD (toLe 4 s.gv.nextGroup)) (s.updGv fun g => { g with
        groups := g.groups ++ [{ id := s.gv.nextGroup, mb := q.mb, agent := agentOf q s }], nextGroup := s.gv.nextGroup + 1 }))) ∧
    (InHand 0x0102 q s → 8 ≤ s.gv.groups.length → exec .sysGroupOpen s = .next (finishTaken q (errR stNoResource) s)) ∧
    (∀ g, InHand 0x0104 q s → u8 p 0 = 0 → s.gv.groups.find? (fun g => g.id = u32 p 4 && (g.mb = q.mb || q.mb = 0)) = some g →
      exec .sysAbort s = .next (finishTaken q okR (if q.mb = 0 then discardGroup g 1 s else dropGroup g.id s))) ∧
    (∀ r, InHand 0x0104 q s → u8 p 0 = 1 → u8 p 1 ≤ 15 → (u8 p 1 = q.mb ∨ q.mb = 0) →
      s.gv.running.find? (·.mb = u8 p 1) = some r → rqCode r.hdr = 0x0E01 →
      exec .sysAbort s = .next (finishTaken q okR (abortLoad s))) ∧
    (InHand 0x0105 q s → (getMb s q.mb).evtQ = [] → (∀ x ∈ s.host.xfers, x.purp = .event q.mb → x.out ≠ 0) →
      eventRingArgs s (agentOf q s) p = none →
      exec .sysEventRingSet s = .next (finishTaken q okR (setMb q.mb (fun b => { b with
        ring := { base := u64 p 0, entries := u32 p 8, flags := u32 p 12, msgAddr := u64 p 16, msgData := u32 p 24 }
        evtProd := 0, evtCons := 0, seq := 0, lostBefore := false })
        ((setMb q.mb (fun b => { b with writing := false }) s).updHost fun h => { h with
          xfers := mapIf h.xfers (·.purp = .event q.mb) fun x => { x with purp := .oldEvent q.mb } })))) ∧
    (InHand 0x0106 q s → exec .sysEventMask s =
      .next (finishTaken q okR (setMb q.mb (fun b => { b with evtMask := u16 p 0 &&& b.caps }) s)))

/-- System commands: grants, bindings, quiesce and start (R107, R117, R509, R510). SYS_MAILBOX_GRANT,
SYS_RESOURCE_BIND, SYS_QUIESCE, SYS_START and SYS_PUNT_SET, each in its forms. -/
def Obligations.SystemControlRows : Prop :=
  ∀ (s : State) (q : Req),
    let p := q.payload
    (InHand 0x0107 q s → 1 ≤ u8 p 0 → u8 p 0 ≤ 15 → u8 p 1 ≠ 255 → (getMb s (u8 p 0)).busy = false →
      let m := u8 p 0
      exec .sysMailboxGrant s = .next (finishTaken q okR (setMb m (fun b => { b with
        tokens := [], ring := {}, evtMask := 0, agent := u8 p 1, caps := u16 p 2 })
        (loseQueued m (leaveRing m ((s.gv.groups.filter (·.mb = m)).foldl (fun s g => discardGroup g 0 s) s)))))) ∧
    (let k := u8 p 0
     let first := u32 p 4
     let n := u32 p 8
     let lim := if k = 0 then nChannels s else if k = 1 then nStations s else 16
     InHand 0x0108 q s → k ≤ 2 → u8 p 1 ≠ 255 → first < lim → n ≠ 0 → first + n ≤ lim →
      ((upto first n).any (bindBusy s k) = false →
        exec .sysResourceBind s = .next (finishTaken q okR ((upto first n).foldl (fun s i => bindOne k (u8 p 1) i s) s))) ∧
      ((upto first n).any (bindBusy s k) = true → exec .sysResourceBind s = .next (finishTaken q (errR stWrongState) s))) ∧
    (InHand 0x0109 q s → s.pwr.mode ≠ .entering → s.sys.quiesced = false →
      exec .sysQuiesce s = .next (settleQuiesce ((s.updSys fun y => { y with quiescing := true, qDropped := 0, qTimed := 0 }).updGv
        fun g => { g with taken := none, running := g.running ++ [q] }))) ∧
    (InHand 0x010A q s → s.sys.phase = 1 → s.host.control.size ≠ 0 → baseRuns s = true →
      exec .sysStart s = .next (let u := resumeSends (resumeUnits (s.updSys fun y => { y with phase := 2 }))
        finishTaken q (okD (toLe 8 (nowNs s))) u)) ∧
    (InHand 0x010B q s → u32 p 0 = 0xFFFFFFFF →
      exec .sysPuntSet s = .next (finishTaken q okR (s.updGv fun g => { g with puntTarget := 0xFFFFFFFF }))) ∧
    (InHand 0x010B q s → u32 p 0 ≠ 0xFFFFFFFF → u32 p 0 ≠ 0x00F00000 → destStatus s (agentOf q s) (u32 p 0) = none →
      exec .sysPuntSet s = .next (finishTaken q okR (s.updGv fun g => { g with puntTarget := u32 p 0 })))

/-- Staged commands and SYS_COMMIT (R108, R109, R110, R111, R112, R113, R115, R154, R161, R247). Each of the twenty
staged commands: judged at staging, refused for an unknown or full group, added to its group, or with GROUP 0
committed alone. SYS_COMMIT, alone or with a write of LN_APPLY in its cycle: it waits for a sweep, commits and closes
the group, ends in the failure of its APPLY, or fails before the commit point and changes nothing. Where it reaches no
commit point the write performs its own APPLY: that a write in the same cycle is an operand of the row, of SYS_COMMIT,
PORT_STAGE and LN_STAGE alike, is the model's choice (log 10). -/
def Obligations.StagedAndCommitRows : Prop :=
  (∀ p ∈ stagedRows, StagedRule p.1 p.2) ∧
  (∀ (s : State) (q : Req) (apply : Nat) (row : Nat × Instr), apply ≠ 0 → (row = (0x0201, .portStage apply) ∨ row = (0x0301, .lnStage apply)) →
    let c : Cmd := ⟨row.1, q.payload, q.mb⟩
    (takenFor row.1 s = none → exec row.2 s = .next (lnApply apply s)) ∧
    (takenFor row.1 s = some q → turnedAway q s = false → rqGroup q.hdr = 0 → stageJudge s (agentOf q s) row.1 q.payload = none →
      (commitWaits s = true → exec row.2 s = .next (lnApply apply s)) ∧
      (commitWaits s = false →
        let r := commitCmds apply [c] s
        let t := finishTaken q { r.2 with data := [] } r.1
        (r.2.st = stOk ∨ r.2.st = stStaging) → exec row.2 s = .next t))) ∧
  (∀ (s : State) (q : Req) (apply : Nat),
    let own := fun (t : State) => if apply = 0 then t else lnApply apply t
    (takenFor 0x0103 s = none → exec (.sysCommit apply) s = .next (own s)) ∧
    (InHand 0x0103 q s → findGroup (u32 q.payload 0) q.mb s = none →
      exec (.sysCommit apply) s = .next (own (finishTaken q (errR stGroupUnknown) s))) ∧
    (∀ g, InHand 0x0103 q s → findGroup (u32 q.payload 0) q.mb s = some g →
      (commitWaits s = true → exec (.sysCommit apply) s = .next (own s)) ∧
      (∀ t r, commitWaits s = false → commitCmds apply g.cmds s = (t, r) →
        (r.st = stOk → exec (.sysCommit apply) s = .next (finishTaken q r (dropGroup g.id t))) ∧
        (r.st = stStaging → exec (.sysCommit apply) s = .next (finishTaken q r t)) ∧
        (r.st ≠ stOk → r.st ≠ stStaging → t = s ∧ exec (.sysCommit apply) s = .next (own (finishTaken q r s))))))

/-- Commands of the time unit (R408, R411, R412, R415, R417, R422, R425, R427, R432, R433). The ten TIME commands with
the state each leaves and its response. The bit of TIME_STATUS that a stuck channel's enabling sets is read from the
spec by inference (log 83). -/
def Obligations.TimeCommandRows : Prop :=
  ∀ (s : State) (q : Req),
    let p := q.payload
    let k := u8 p 0
    (InHand 0x0B01 q s → k ≤ 6 → u8 p 1 = 0 → u32 p 20 = 0 → u32 p 16 < 1000000000 → timeAt p 8 < tbSpan →
      (getTb s k).track = false → (getTb s k).locked = false →
      exec .timeStep s = .next (let t := stepBase k (timeAt p 8) true 0 s
        finishTaken q (okD (timeBytes (getTb t k).v)) t)) ∧
    (InHand 0x0B02 q s → k ≤ 6 → rateOk (sext 32 (u32 p 4)) = true → (getTb s k).track = false → (getTb s k).locked = true →
      exec .timeRate s = .next (finishTaken q okR (setTb k (fun b => { b with rate := sext 32 (u32 p 4), resumed := false }) s))) ∧
    (InHand 0x0B02 q s → k ≤ 6 → rateOk (sext 32 (u32 p 4)) = true → ((getTb s k).track = true ∨ (getTb s k).locked = false) →
      exec .timeRate s = .next (finishTaken q (errR stWrongState) s)) ∧
    (InHand 0x0B03 q s → k ≤ 6 → (getTb s k).track = false → (getTb s k).locked = true →
      exec .timeUnlock s = .next (finishTaken q okR (baseEvent k 1 (setTb k (fun b => { b with locked := false }) s)))) ∧
    (InHand 0x0B04 q s → 4 ≤ k → k ≤ 6 → u8 p 1 = 1 → u16 p 2 ≠ 0 →
      exec .timeTrackSet s = .next (finishTaken q okR (baseEvent k 5 (setTb k (fun b => { b with
        track := true, locked := false, freq := 0, prev := none, jump := u16 p 2, tsfTimeout := u16 p 4 }) s)))) ∧
    (InHand 0x0B04 q s → 4 ≤ k → k ≤ 6 → u8 p 1 = 0 → u16 p 2 ≠ 0 →
      exec .timeTrackSet s = .next (finishTaken q okR (setTb k (fun b => { b with
        track := false, stale := false, jump := u16 p 2, tsfTimeout := u16 p 4 }) s))) ∧
    (InHand 0x0B05 q s → k ≤ 15 → u8 p 1 ≤ 1 → u8 p 2 ≤ 1 → u8 p 3 ≤ 31 → (u8 p 2 = 0 → u8 p 3 = 0) → u8 p 4 ≤ 7 →
      u32 p 12 ≤ 1000000000 →
      exec .timeCaptureSet s = .next (finishTaken q okR (setCap k (fun x => { x with
        enable := u8 p 1 = 1, source := u8 p 2, srcTrg := u8 p 3, base := u8 p 4, expect := u16 p 8, minInt := u32 p 12
        stuck := x.stuck && u8 p 1 = 0 })
        (if (getCap s k).stuck = true ∧ u8 p 1 = 1 then raiseTime1 27 s else s)))) ∧
    (InHand 0x0B06 q s → armBad s k (armSet p) p = none → (armSet p).target ≠ 2 → (getTrg s k).mode ≠ .owned →
      (getTb s (armSet p).base).v < (armSet p).time → (armSet p).time < (getTb s (armSet p).base).v + 2 ^ 39 * nsUnit →
      exec .timeTriggerArm s =
        .next (finishTaken q (okD (toLe 4 0)) (setTrg k (fun y => { y with mode := .armed, set := armSet p }) s))) ∧
    (InHand 0x0B07 q s → k ≤ 31 → (getTrg s k).mode = .armed →
      exec .timeTriggerCancel s = .next (finishTaken q okR ((setTrg k (fun y => { y with mode := .idle, out := false, pulse := false }) s).updTime
        fun y => { y with edges := y.edges.filter (·.2.1 != k) }))) ∧
    (InHand 0x0B07 q s → k ≤ 31 → (getTrg s k).mode = .owned →
      exec .timeTriggerCancel s = .next (finishTaken q (errR stWrongState) s)) ∧
    (InHand 0x0B08 q s → k ≤ 2 → 1 ≤ u8 p 1 → u8 p 1 ≤ 5 →
      let out := ((getRing s k).recs.filter (·.state != 0)).take (u8 p 1)
      exec .timeStrobeRead s = .next (finishTaken q (okD (toLe 1 out.length ++ zeros 7 ++ out.flatMap strobeBytes))
        (setRingS k (fun r => { r with recs := r.recs.filter fun x => x.state = 0 || !out.contains x }) s))) ∧
    (InHand 0x0B09 q s → exec .timeStatusGet s = .next (finishTaken q (okD (timeStatusBytes s)) s)) ∧
    (InHand 0x0B0A q s → k ≤ 3 → u8 p 1 ≤ 1 → u16 p 2 < [8, 16, 32, 3].getD k 0 →
      exec .timeCountersGet s = .next (let r := readCounters (0xB0 + k) (u16 p 2) ([2, 4, 5, 6].getD k 0) (decide (u8 p 1 = 1)) s
        finishTaken q (okD r.1) r.2))

/-- Registers of the time unit (R408, R411, R412, R413, R418, R425, R427, R538). TB_NS, TIME_SNAP, TB_RATE, CAP_POP
and the trigger control, for every base, channel and trigger. -/
def Obligations.TimeRegisterRows : Prop :=
  ∀ (s : State) (k v : Nat), Serving s →
    (k < 8 → exec (.tbNsRead k) s = .next (let x := (getTb s k).v
      answer (x / 2 ^ 40 % 1000000000) (setTb k (fun b => { b with
        hold := ⟨x % 2 ^ 40 / 2 ^ 24, x / 2 ^ 40 / 1000000000, x / 2 ^ 40 % 2 ^ 40⟩ }) s))) ∧
    (v % 2 = 1 → exec (.timeSnap v) s = .next (answer 0 ((List.range 8).foldl (fun s k => setTb k (fun b => { b with
      snap := ⟨b.v / 2 ^ 40 % 1000000000, b.v % 2 ^ 40 / 2 ^ 24, b.v / 2 ^ 40 / 1000000000⟩ }) s) s))) ∧
    (k < 7 → (getTb s k).track = false → (getTb s k).locked = true → rateOk (sext 32 v) = true →
      exec (.tbRateWrite k v) s = .next (answer 0 (setTb k (fun b => { b with rate := sext 32 v, resumed := false }) s))) ∧
    (k < 7 → ((getTb s k).track = true ∨ (getTb s k).locked = false ∨ rateOk (sext 32 v) = false) →
      exec (.tbRateWrite k v) s = .next (answer 0 (bump 0xB0 k 1 s))) ∧
    (exec (.tbRateWrite 7 v) s = .next (answer 0 s)) ∧
    (k < 16 → exec (.capPop k) s = .next (answer 0 (setCap k (fun x => { x with
      fifo := x.fifo.drop 1, overflow := x.overflow && decide (1 < x.fifo.length) }) s))) ∧
    (let x := trgRegs (getTrg s k)
     let arm (r : Nat) (t : State) : State := answer 0 (setTrg k (fun y => { y with result := r }) t)
     k < 32 → v % 2 = 1 → v / 2 % 2 = 0 →
      ((1000000000 ≤ (getTrg s k).rNs ∨ 2 ≤ x.target ∨ trgSetOk k x = false) → exec (.trgArm k v) s = .next (arm 1 s)) ∧
      ((getTrg s k).rNs < 1000000000 → x.target < 2 → trgSetOk k x = true →
        exec (.trgArm k v) s = .next (arm (trgArm k x s).1 (trgArm k x s).2))) ∧
    (k < 32 → v % 2 = 0 → v / 2 % 2 = 1 → exec (.trgCancel k v) s = .next (answer 0 (trgCancel k s))) ∧
    (k < 32 → v % 2 = 1 → v / 2 % 2 = 1 → exec (.trgCancel k v) s = .next (answer 0 (setTrg k (fun y => { y with result := 1 }) s)))

/-- Events of the time unit (R183, R415, R416, R417, R419, R420, R421, R423, R424, R426, R428). Capture edges, stuck
channels, trigger firings and pulse ends, stale timing, the strobes of the radio, and receive-event and timing
messages. -/
def Obligations.TimeEventRows : Prop :=
  ∀ (s : State) (c : Nat) (m : Bytes), Serving s →
    (c < 16 → (getCap s c).enable = true → (getCap s c).source = 0 → (getCap s c).stuck = false →
      (getCap s c).minInt = 0 → (getCap s c).fifo.length < 16 →
      let x := getCap s c
      let b := getTb s x.base
      let e (y : CapCh) : CapCh := { y with lastEdge := some (nowNs s), stuck := false }
      let r : CapRec := { time := wrapTime b.v, base := x.base
                          stepped := x.stepped.testBit x.base || b.stepAt = some s.time.cycle }
      exec (.capEdge c) s = .next (raiseTime1 c (bump 0xB1 c 0 (setCap c (fun y => { y with
        fifo := y.fifo ++ [r], had := true, stepped := 0 }) (setCap c e s))))) ∧
    (c < 16 → (getCap s c).enable = true → (getCap s c).source = 0 → (getCap s c).stuck = false →
      (getCap s c).minInt = 0 → 16 ≤ (getCap s c).fifo.length →
      exec (.capEdge c) s = .next (bump 0xB1 c 1 (setCap c (fun y => { y with overflow := true })
        (setCap c (fun y => { y with lastEdge := some (nowNs s), stuck := false }) s)))) ∧
    (∀ n, c < 16 → (getCap s c).enable = true → (getCap s c).source = 0 → (getCap s c).minInt ≠ 0 →
      (getCap s c).lastEdge = some n → nowNs s < n + (getCap s c).minInt → exec (.capEdge c) s = .next (bump 0xB1 c 2 s)) ∧
    (c < 16 → (getCap s c).enable = true → (getCap s c).expect ≠ 0 → (getCap s c).stuck = false →
      exec (.captureStuck c) s =
        .next (raise0 0x0B83 c (toLe 1 1) (raiseTime1 27 (bump 0xB1 c 3 (setCap c (fun x => { x with stuck := true }) s))))) ∧
    (c < 32 → (getTrg s c).mode = .idle → exec (.triggerFire c) s = .next s) ∧
    (let y := getTrg s c
     let d := (linOf y.set.time + 2 ^ 41 - (if y.set.target = 1 then 2 else 0) - linOf (getTb s y.set.base).v) % 2 ^ 40
     c < 32 → y.mode = .armed →
      (d ≠ 0 → d < 2 ^ 39 → exec (.triggerFire c) s = .next s) ∧
      ((d = 0 ∨ 2 ^ 39 ≤ d) → (y.set.period = 0 ∨ (getTb s y.set.base).v ≤ y.set.time + y.set.period * nsUnit) →
        exec (.triggerFire c) s =
          .next (setTrg c (fun y => if y.set.period = 0 || (y.set.count != 0 && decide (y.set.count ≤ 1)) then { y with mode := .idle }
            else { y with set := { y.set with time := (y.set.time + 1 * y.set.period * nsUnit) % tbSpan, count := y.set.count - 1 } })
            (trgFire c 0 false y.set s))) ∧
      ((d = 0 ∨ 2 ^ 39 ≤ d) → y.set.period ≠ 0 → y.set.time + y.set.period * nsUnit < (getTb s y.set.base).v →
        exec (.triggerFire c) s = .next (trgCatchUp c s))) ∧
    (c < 32 → (getTrg s c).mode = .owned → trgDue s (getTrg s c).set = true →
      exec (.triggerFire c) s = .next (if (getPort s (c - 28)).gcl.isNone then gclStart (c - 28) s else gateCycle (c - 28) s)) ∧
    (c < 16 → (getTrg s c).pulse = true →
      exec (.trigPulseEnd c) s = .next (setTrg c (fun y => { y with out := false, pulse := false }) s)) ∧
    (4 ≤ c → c < 7 → (getTb s c).track = true → (getTb s c).tsfTimeout ≠ 0 → (getTb s c).stale = false →
      exec (.tsfStale c) s = .next (baseEvent c 3 (setTb c (fun b => { b with stale := true }) s))) ∧
    (c < 3 → exec (.stbPd c) s = .next (openRec c 1 false (closeRec c 1 (bump 0xB3 c 0 s)))) ∧
    (c < 3 → hasOpen s c = true →
      exec (.stbRestart c) s = .next (openRec c 3 false (closeRec c 2 (bump 0xB3 c 0 s))) ∧
      exec (.stbAbort c) s = .next (closeRec c 3 (bump 0xB3 c 0 s))) ∧
    (c < 3 → hasOpen s c = false →
      exec (.stbRestart c) s = .next (openRec c 3 true (bump 0xB3 c 2 (bump 0xB3 c 0 s))) ∧
      exec (.stbAbort c) s = .next (bump 0xB3 c 2 (bump 0xB3 c 0 s))) ∧
    (fbHead s 4 true m = true → 1 ≤ u8 m 4 → u8 m 4 ≤ 3 → u8 m 5 = 0 →
      exec (.fbRxEvent m) s = .next (pairRec (fbLink m) (u8 m 4) (u16 m 6) (u64 m 8) (fbAccept s))) ∧
    (fbHead s 5 true m = true → fbSta m = 0xFFF → allZero (slice m 4 4) = true →
      exec (.fbTsf m) s =
        .next (if (getTb (fbAccept s) (4 + fbLink m)).track then tsfSample (4 + fbLink m) (u64 m 8) (fbAccept s) else fbAccept s)) ∧
    (fbHead s 5 true m = false → exec (.fbTsf m) s = .next (fbError m s)) ∧
    (fbHead s 4 true m = false → exec (.fbRxEvent m) s = .next (fbError m s))

/-- Registers of the host channels (R323, R324, R328, R329, R344, R345, R349, R350). Doorbells for every mode of ring,
with the errors that quarantine the channel; events, rearm, mask, completion consumer writes and the vector delay. -/
def Obligations.ChannelRegisterRows : Prop :=
  ∀ (s : State) (c r v : Nat) (tx : Bool), Serving s → c < nChannels s → r < 8 → v < 2 ^ 32 →
    let x := getCh s c
    let g := ringOf s c tx r
    let row : Instr := if tx then .txDb c r v else .rxDb c r v
    ((x.state ≠ .enabled ∨ g.mode = 0 ∨ s.sys.quiescing = true ∨ s.sys.quiesced = true) →
      exec row s = .next (answer 0 (bump 0x80 c 10 (setCh c (fun x => { x with events := x.events ||| 4 }) s)))) ∧
    (x.state = .enabled → s.sys.quiescing = false → s.sys.quiesced = false → g.mode = 1 →
      (v = g.prod → exec row s = .next (answer 0 s)) ∧
      (v ≠ g.prod → (sext 32 (v + 2 ^ 32 - g.prod) < 0 ∨ g.entries < (v + 2 ^ 32 - g.cons) % 2 ^ 32) →
        exec row s = .next (answer 0 (quarantine c 5 s))) ∧
      (v ≠ g.prod → ¬ sext 32 (v + 2 ^ 32 - g.prod) < 0 → (v + 2 ^ 32 - g.cons) % 2 ^ 32 ≤ g.entries →
        exec row s = .next (answer 0 (fetchPump c tx r (setRing c tx r (fun g => { g with prod := v }) s))))) ∧
    (x.state = .enabled → s.sys.quiescing = false → s.sys.quiesced = false → 2 ≤ g.mode →
      exec row s = .next (answer 0 (fetchPump c tx r (setRing c tx r (fun g => { g with pending := true, parked := false }) s)))) ∧
    exec (.chEventsClear c v) s = .next (answer 0 (setCh c (fun x => { x with
      events := andNot x.events (v % 8), wake := x.wake && !v.testBit 1 }) s)) ∧
    exec (.intRearm c v) s = .next (answer 0 ((bitList 8 v).foldl (fun s i =>
      judgeVec c i (setVec c i (fun x => { x with armed := true }) s)) s)) ∧
    exec (.intMaskWrite c v) s = .next (answer 0 ((List.range 8).foldl (fun s i => judgeVec c i s)
      (setCh c (fun x => { x with mask := v % 256 }) s))) ∧
    exec (.cqConsWrite c true r v) s =
      .next (answer 0 (txGoOn c r (setRing c true r (fun g => { g with cqCons := v }) s))) ∧
    (let u := setRing c false r (fun g => { g with cqCons := v }) s
     exec (.cqConsWrite c false r v) s = .next (answer 0 (fetchPump c false r (completeRx (getCh u c).deliv.length c r u)))) ∧
    ((vecOf s c r).maxD ≠ 0 → 0 < (vecOf s c r).u →
      exec (.vectorDelay c r) s = .next (judgeVec c r (setVec c r (fun x => { x with due := true }) s))) ∧
    (((vecOf s c r).maxD = 0 ∨ (vecOf s c r).u = 0) → exec (.vectorDelay c r) s = .next s)

/-- Commands of the host channels and the receive decision (R322, R325, R338, R339, R344, R346, R348, R350, R351,
R352, R353, R395). The ten CH commands in their states, and the decision that chooses a channel and delivers one
frame. -/
def Obligations.ChannelCommandRows : Prop :=
  ∀ (s : State) (q : Req),
    let p := q.payload
    let c := u16 p 0
    let tx := decide (u8 p 2 = 0)
    let st := (getCh s c).state
    let ok (code : Nat) : Prop := InHand code q s ∧ c < nChannels s ∧ (getCh s c).agent = agentOf q s
    (ok 0x0801 → st ≠ .resetting → exec .chConfig s =
      .next (finishTaken q okR (setCh c (fun x => { x with flags := u8 p 2, hashTypes := u8 p 3 }) s))) ∧
    (ok 0x0802 → ringArgs s c p = none → st = .disabled → exec .chRingSet s =
      .next (finishTaken q okR (setRing c tx (u8 p 3) (fun g => { g with
        mode := u8 p 4, vector := if u8 p 4 = 0 then 0xFF else u8 p 5, base := u64 p 8, entries := u32 p 16
        qlimit := u32 p 20, cqBase := u64 p 24, cur := u64 p 8, handled := false, pending := false, parked := true }) s))) ∧
    (ok 0x0802 → ringArgs s c p = none → st ≠ .disabled → exec .chRingSet s = .next (finishTaken q (errR stWrongState) s)) ∧
    (ok 0x0803 → u8 p 2 ≤ 7 → u64 p 8 = 0 → u16 p 16 ≠ 0 → exec .chVectorSet s =
      .next (finishTaken q okR (judgeVec c (u8 p 2) (setVec c (u8 p 2) (fun x => { x with
        data := u32 p 4, addr := 0, maxF := u16 p 16, maxD := u16 p 18 }) s)))) ∧
    (ok 0x0804 → u8 p 2 = 0 → u8 p 4 ≤ 16 → exec .chFilterSet s = .next (finishTaken q okR (setCh c (fun x => { x with
      addrs := (List.range (u8 p 4)).map fun i => slice p (8 + 8 * i) 6 }) s))) ∧
    (ok 0x0804 → u8 p 2 = 1 → exec .chFilterSet s =
      .next (finishTaken q okR (setCh c (fun x => { x with mcast := slice p 8 32 }) s))) ∧
    (ok 0x0804 → u8 p 2 = 2 → exec .chFilterSet s =
      .next (finishTaken q okR (setCh c (fun x => { x with vlan := slice p 8 512 }) s))) ∧
    (ok 0x0805 → (∀ i < 128, u8 p (48 + i) ≤ 7) → exec .chHashSet s =
      .next (finishTaken q okR (setCh c (fun x => { x with key := slice p 8 40, indir := slice p 48 128 }) s))) ∧
    (ok 0x0806 → policerArgs p 2 3 4 8 = none → u32 p 12 ≤ 100000000 → u32 p 16 ≤ 100000000 → exec .chRateSet s =
      .next (finishTaken q okR (setChSch c (fun x => { x with
          txShaper := x.txShaper.setRate (u32 p 12) 16384, rxShaper := x.rxShaper.setRate (u32 p 16) 16384 })
        (setCh c (fun x => { x with pol := x.pol.set (nowNs s) (u8 p 2) (u32 p 4) (u32 p 8) (decide (u8 p 3 = 1)) }) s)))) ∧
    (ok 0x0807 → st = .disabled → exec .chEnable s =
      .next (finishTaken q okR (chStateEvent c (setCh c (fun x => { x with state := .enabled, cause := 0 }) s)))) ∧
    (ok 0x0807 → st ≠ .disabled → exec .chEnable s = .next (finishTaken q (errR stWrongState) s)) ∧
    (ok 0x0808 → st = .disabled → exec .chReset s = .next (finishTaken q okR s)) ∧
    (ok 0x0808 → st = .resetting → exec .chReset s = .next (finishTaken q (errR stWrongState) s)) ∧
    (∀ t, ok 0x0808 → (st = .enabled ∨ st = .quarantined) → settleReset c (startReset c s) = t →
      exec .chReset s = .next (if (getCh t c).state = .disabled then finishTaken q okR t
        else t.updGv fun g => { g with taken := none, running := g.running ++ [q] })) ∧
    (ok 0x0809 → exec .chStatusGet s = .next (finishTaken q (chStatusCmd q s).2 s)) ∧
    (InHand 0x080A q s → u8 p 0 = 0 → u8 p 1 ≤ 1 → u16 p 2 < nChannels s → (getCh s (u16 p 2)).agent = agentOf q s →
      exec .chCountersGet s = .next (let r := readCounters 0x80 (u16 p 2) 20 (decide (u8 p 1 = 1)) s
        finishTaken q (okD r.1) r.2)) ∧
    (let busy : Nat := (s.ch.vals.map fun x => (x.deliv.filter (!·.bad)).length + x.rxReads.length).sum
     (128 ≤ busy ∨ s.pwr.mode ≠ .active ∨ s.sys.quiesced = true → exec .hostRxDecision s = .next s) ∧
     (busy < 128 → s.pwr.mode = .active → s.sys.quiesced = false →
      let front := s.sch.upper.active.take 4
      let u := front.foldl (fun s c => nominateRing c s) s
      let n := (front.filter fun c => u.sch.upper.active.contains c).length
      let d := u.sch.upper.decide (chHead u) (fun c => (getChSch u c).quantum) n
      let w := u.updSch fun t => { t with upper := d.2 }
      (d.1 = none → exec .hostRxDecision s = .next w) ∧
      (∀ i r cost, d.1 = some i → (getChSch w i).nomRing = some r → chHead w i = some cost →
        exec .hostRxDecision s = .next (deliver1 i r (perf 5 3 (setChSch i (fun x => { x with
          round := x.round.charge r cost, rxShaper := x.rxShaper.charge cost }) w))))))

/-- The CRC job unit (R439, R440, R441, R442, R444, R445, R446, R539). Start in every case of its checks, abort, the
end of a job, the retry of the ring and its consumer write, in builds with and without the result ring. -/
def Obligations.CrcRows : Prop :=
  ∀ (s : State) (j v : Nat), Serving s → j < 4 →
    let x := getJob s j
    let f := v.testBit 2
    let p := jobParams x
    let run := setJob j (fun x => { x with state := .running, final := f, fed := 0, code := 0, rd := none
                                           r := (if v.testBit 1 then x.val else p.ini) % 2 ^ p.width }) s
    let ends (c : Nat) (t : State) : State := crcEndJob j (setJob j (fun x => { x with code := c }) t)
    (v % 2 = 1 →
      (jobBusy x = true → exec (.crcStart j v) s = .next (answer 0 s)) ∧
      (jobBusy x = false → (legacyBad x = true ∨ (x.len = 0 ∧ f = false)) → exec (.crcStart j v) s = .next (answer 0 (ends 3 run))) ∧
      (jobBusy x = false → legacyBad x = false → (x.len ≠ 0 ∨ f = true) → x.len ≠ 0 → inWindow s x.addr x.len = false →
        exec (.crcStart j v) s = .next (answer 0 (lines (ends 4 (violation run))))) ∧
      (jobBusy x = false → legacyBad x = false → x.len ≠ 0 → inWindow s x.addr x.len = true →
        exec (.crcStart j v) s = .next (answer 0 (jobRead j run))) ∧
      (jobBusy x = false → legacyBad x = false → x.len = 0 → f = true →
        exec (.crcStart j v) s = .next (answer 0 (jobRead j run)))) ∧
    (v % 2 = 0 → v.testBit 3 = true →
      (x.state = .running → exec (.crcAbort j v) s =
        .next (answer 0 (crcEndJob j (setJob j (fun x => { x with code := 5, rd := none }) (dropXfers (fun y => decide (some y.id = x.rd)) s))))) ∧
      (x.state ≠ .running → exec (.crcAbort j v) s = .next (answer 0 s))) ∧
    (x.state = .running → x.rd = none → exec (.crcJobEnd j) s = .next (crcEndJob j s)) ∧
    exec .crcRingRetry s = .next (tryRings (s.updCrc fun c => { c with
      slots := c.slots.map fun x => (x.1, { x.2 with hold := false }) })) ∧
    (resultRing s = true → exec (.crcRingConsWrite v) s =
      .next (answer 0 (tryRings (s.updCrc fun c => { c with cons := v % 2 ^ 32 })))) ∧
    (resultRing s = false → exec (.crcRingConsWrite v) s = .next (decodeError (2 ^ 31 + 0x040410) (answer 0 s)))

/-- Entry into a low-power state (R452, R453, R454, R455, R466, R510). PWR_STATE_SET, the commit point, the refusal,
the forced end of remaining work, and the end of a quiesce's drain. -/
def Obligations.PowerEntryRows : Prop :=
  ∀ (s : State) (q : Req),
    let p := q.payload
    let low := s.updPwr fun w => { w with mode := .entering, target := u8 p 0, force := (u8 p 1).testBit 0, forced := false, committed := false, isolated := false, dropped := 0, heldCause := none }
    (InHand 0x0D01 q s → (u8 p 0 = 2 ∨ (u8 p 0 = 1 ∧ canWatch s = true)) → s.gv.running = [] → s.pwr.mode = .active →
      exec .pwrStateSet s = .next ((((low.flow.cache.vals.flatMap id).filter (·.dirty)).foldl (fun s w => entryWash w.index s) low).updGv
        fun g => { g with taken := none, running := g.running ++ [q] })) ∧
    (InHand 0x0D01 q s → (u8 p 0 = 1 ∨ u8 p 0 = 2) → (s.gv.running ≠ [] ∨ s.pwr.mode ≠ .active ∨ (u8 p 0 = 1 ∧ canWatch s = false)) →
      exec .pwrStateSet s = .next (finishTaken q (errR stWrongState) s)) ∧
    (runningFor 0x0D01 s = some q → s.pwr.mode = .entering → s.pwr.committed = false → inflight s = 0 →
      exec .powerCommitPoint s = .next (commitPoint q s)) ∧
    (inflight s ≠ 0 → exec .powerCommitPoint s = .next s) ∧
    (runningFor 0x0D01 s = some q → s.pwr.mode = .entering → s.pwr.committed = false → s.pwr.forced = false → inflight s ≠ 0 →
      (s.pwr.force = false → exec .powerDeferTimeout s = .next (finishRunning q ⟨stDeferred, 0xFFFFFFFF, toLe 4 (inflight s) ++ toLe 4 s.pwr.dropped⟩
        (pwrResume (bump 0xD0 0 3 (raise0 0x0D82 noSubj (toLe 4 (inflight s) ++ toLe 1 0) s))))) ∧
      (s.pwr.force = true → exec .powerDeferTimeout s = .next (force s))) ∧
    (runningFor 0x0D01 s = some q → s.pwr.mode = .entering → s.pwr.committed = false → s.pwr.forced = true → inflight s ≠ 0 →
      exec .forceLateTimeout s = .next (finishRunning q ⟨stDeferred, 0xFFFFFFFF, toLe 4 (inflight s) ++ toLe 4 s.pwr.dropped⟩
        (pwrResume (bump 0xD0 0 3 (raise0 0x0D82 noSubj (toLe 4 (inflight s) ++ toLe 1 1) s))))) ∧
    (s.sys.quiescing = true → exec .quiesceDrainTimeout s = .next (settleQuiesce ((dropEntered s).updSys fun y => { y with
      qDropped := y.qDropped + (enteredFrames s + heldInq s), quiescing := false, quiesced := true }))) ∧
    (s.sys.quiescing = false → exec .quiesceDrainTimeout s = .next s)

/-- Commands of the power unit (R6, R457, R459, R460, R466, R467). PWR_WATCH_SET, PWR_PATTERN_SET, PWR_STATUS_GET and
PWR_COUNTERS_GET; a mask that names an absent port is refused. -/
def Obligations.PowerCommandRows : Prop :=
  ∀ (s : State) (q : Req),
    let p := q.payload
    (InHand 0x0D02 q s → (∀ i < 3, u8 p i < 2 ^ nPorts s) → (∀ n < 4, (u8 p (4 + 6 * n)).testBit 0 = false) → exec .pwrWatchSet s =
      .next (finishTaken q okR (s.updPwr fun w => { w with
        watchPorts := u8 p 0, linkWake := u8 p 1, addrWake := u8 p 2
        wakeAddr := (List.range 4).foldl (fun t n => t.set n (le p (4 + 6 * n) 6)) w.wakeAddr }))) ∧
    (∀ i < 3, InHand 0x0D02 q s → (∀ k < i, u8 p k < 2 ^ nPorts s) → 2 ^ nPorts s ≤ u8 p i →
      exec .pwrWatchSet s = .next (finishTaken q (inv i) s)) ∧
    (∀ n < 4, InHand 0x0D02 q s → (∀ i < 3, u8 p i < 2 ^ nPorts s) → (∀ k < n, (u8 p (4 + 6 * k)).testBit 0 = false) →
      (u8 p (4 + 6 * n)).testBit 0 = true → exec .pwrWatchSet s = .next (finishTaken q (inv (4 + 6 * n)) s)) ∧
    (InHand 0x0D03 q s → u8 p 0 ≤ 15 → u8 p 1 < 2 ^ nPorts s → (∀ i < 64, andNot (u8 p (8 + i)) (u8 p (72 + i)) = 0) →
      exec .pwrPatternSet s = .next (finishTaken q okR (s.updPwr fun w => { w with
        pats := w.pats.set (u8 p 0) { ports := u8 p 1, value := slice p 8 64, mask := slice p 72 64 } }))) ∧
    (InHand 0x0D03 q s → u8 p 0 ≤ 15 → 2 ^ nPorts s ≤ u8 p 1 →
      exec .pwrPatternSet s = .next (finishTaken q (inv 1) s)) ∧
    (InHand 0x0D04 q s → exec .pwrStatusGet s = .next (finishTaken q (okD (toLe 1 (modeNum s.pwr.mode) ++ toLe 1 s.pwr.cause ++
      toLe 1 (wakeWhat s) ++ zeros 1 ++ toLe 4 s.pwr.drained ++ toLe 8 s.pwr.commitNs ++ toLe 8 s.pwr.activeNs ++ zeros 8)) s)) ∧
    (InHand 0x0D05 q s → u8 p 0 = 0 → u8 p 1 ≤ 1 → exec .pwrCountersGet s =
      .next (let r := readCounters 0xD0 0 5 (decide (u8 p 1 = 1)) s; finishTaken q (okD r.1) r.2)) ∧
    (InHand 0x0D05 q s → u8 p 0 = 1 → u8 p 1 ≤ 1 → portCodeOk s (u16 p 2) = true → exec .pwrCountersGet s =
      .next (let r := readCounters 0xD1 (u16 p 2) 4 (decide (u8 p 1 = 1)) s; finishTaken q (okD r.1) r.2))

/-- Handshakes, wakes and light sleep (R62, R72, R74, R409, R410, R430, R451, R458, R462, R463). An ACK that follows
its REQ, the clock's rise and fall, a late ACK, host and timer wakes, light sleep and a frame at a watched port. -/
def Obligations.HandshakeRows : Prop :=
  ∀ (s : State) (k : Nat) (b : Bool) (rx : RxFrame),
    (k < 24 → s.pwr.ack.testBit k ≠ b → s.pwr.req.testBit k = b →
      exec (.pwrAckChange k b) s = .next (ackIn 0 k (s.updPwr fun p => { p with
        ack := withBit p.ack k b, absent := if b then p.absent.filter (· != k) else p.absent }))) ∧
    (k < 4 → s.pwr.retAck.testBit k ≠ b → s.pwr.retReq.testBit k = b →
      exec (.retAckChange k b) s = .next (ackIn 1 k (s.updPwr fun p => { p with retAck := withBit p.retAck k b }))) ∧
    (s.pwr.clkAck = false → s.pwr.clkReq = true →
      exec .clkAckRise s = .next (
        let on := (s.updPwr fun p => { p with clkAck := true }).updTime fun t => { t with kept := none }
        let u := match s.time.kept with
          | some v => (List.range 7).foldl (fun t k => resumeBase ((getTb t 7).v - v) k t) on
          | none => on
        ackIn 2 0 (lines ((List.range 8).foldl (fun t k => gclStep k (trgJudgeBase k t)) u)))) ∧
    (s.pwr.clkAck = true → s.pwr.clkReq = false →
      exec .clkAckFall s = .next (ackIn 2 0 ((s.updTime fun t => { t with
        kept := some (getTb s 7).v, edges := [], trg := t.trg.map fun x => (x.1, { x.2 with out := false, pulse := false }) }).updPwr fun p => { p with clkAck := false }))) ∧
    (s.pwr.clkAck = true → exec .clkAckRise s = .next s) ∧
    (s.pwr.clkAck = false → exec .clkAckFall s = .next s) ∧
    (k < 18 → s.pwr.req.testBit k ≠ s.pwr.ack.testBit k → timedOut s 0 k = false →
      exec (.handshakeTimeout 0 k) s = .next (settlePower (raise0 0x0D83 noSubj (toLe 1 0 ++ toLe 1 k ++ toLe 1 (b2n (s.pwr.req.testBit k)))
        (judgeHs (s.updPwr fun p => { p with
          hsTimeout := p.hsTimeout ++ [(0, k)], absent := if s.pwr.req.testBit k then p.absent ++ [k] else p.absent }))))) ∧
    (s.sys.held = false →
      let now := (getTb s 7).v
      ((s.pwr.mode = .watch ∨ s.pwr.mode = .dormant) →
        exec .pwrWake s = .next (answer 0 (beginWake 4 0 0 (s.updPwr fun p => { p with causeAt := now })))) ∧
      ((s.pwr.mode = .active ∨ s.pwr.mode = .entering) → exec .pwrWake s = .next (answer 0 s)) ∧
      (s.pwr.mode = .waking → (s.pwr.causeAt ≠ now ∨ s.pwr.cause ≤ 4) → exec .pwrWake s = .next (answer 0 s)) ∧
      (s.pwr.mode = .waking → s.pwr.causeAt = now → 4 < s.pwr.cause → exec .pwrWake s =
        .next (answer 0 (s.updPwr fun p => { p with cause := 4, causePat := 0, causePort := 0 }))) ∧
      (s.pwr.wakeTime ≠ 0 → s.pwr.wakeTime ≤ nowNs s →
        ((s.pwr.mode = .watch ∨ s.pwr.mode = .dormant) →
          exec .wakeTimer s = .next (beginWake 5 0 0 (s.updPwr fun p => { p with causeAt := now }))) ∧
        (s.pwr.mode = .entering → s.pwr.heldCause = none →
          exec .wakeTimer s = .next (s.updPwr fun p => { p with heldCause := some (5, 0, 0), causeAt := now })) ∧
        (s.pwr.mode = .active → exec .wakeTimer s = .next s))) ∧
    ((s.pwr.wakeTime = 0 ∨ nowNs s < s.pwr.wakeTime) → exec .wakeTimer s = .next s) ∧
    (Serving s → k < nBanks s → s.store.banks.getD k 4 ≠ 4 →
      exec (.lightSleep k) s = .next (s.updStore fun t => { t with asleep := withBit t.asleep k true })) ∧
    (k < nPorts s → watched s k = true → (getPort s k).link = true → laneOn s k = true → s.sys.held = false →
      (s.pwr.mode = .entering ∨ s.pwr.mode = .watch ∨ s.pwr.mode = .waking) →
      exec (.watchRxFrame k rx) s = .next (watchPacket k rx s))

/-- Signals of a lane (R128, R129, R137, R138, R139, R140, R141, R142, R155). Loss of signal, clock recovery, PLL
start and lock, receiver adaptation and alignment of every code. -/
def Obligations.LaneSignalRows : Prop :=
  ∀ (s : State) (n ctle : Nat) (dfe : List Int), laneRuns s n = true →
    let l := getLane s n
    (l.los = false → pinsUsed l = true → l.rxLpi ≠ .sleep → exec (.losAssert n) s = .next (losCounted n s)) ∧
    (l.los = false → pinsUsed l = true → l.rxLpi = .sleep →
      exec (.losAssert n) s = .next (setLane n (fun l => { l with
        los := true, losCounted := false, rxReady := false, aligned := false, rxLpi := .quiet
        quietLimit := bits l.applied.lpi1 31 16 }) s)) ∧
    (l.los = true → pinsUsed l = true → l.losCounted = false → l.rxLpi = .quiet →
      exec (.losDeassert n) s = .next (setLane n (fun l =>
        { l with los := false, losCounted := false, rxLpi := .wake, rxReady := l.cdr }) s)) ∧
    (l.los = true → pinsUsed l = true → l.losCounted = true → l.rxLpi ≠ .quiet →
      exec (.losDeassert n) s = .next (laneEvent 0x0381 n (toLe 1 0) (laneCount n 0 1 (setLane n (fun l =>
        { l with los := false, losCounted := false }) s)))) ∧
    (l.pll = true → l.cdr = false → loopback l.applied ≠ 2 →
      exec (.cdrLock n) s = .next (laneEvent 0x0382 n (toLe 1 1) (setLane n (fun l => { l with cdr := true }) s))) ∧
    (l.cdr = true → l.rxLpi ≠ .quiet →
      exec (.cdrLockLoss n) s = .next (checkLink n (laneEvent 0x0382 n (toLe 1 0) (laneCount n 1 1
        (setLane n (fun l => { l with cdr := false, rxReady := false, aligned := false }) s))))) ∧
    (l.starting = true → exec (.pllLock n) s = .next (
      let t := setLane n (fun l => { l with pll := true, starting := false, fails := 0, inSeq := false }) s
      let u := if l.inSeq then laneDone n 0 t else t
      if (getPort u n).lpiReq then txLpiEnter n u else u)) ∧
    (l.starting = true → exec (.pllStartFail n) s = .next (
      let t := setLane n (fun l => { l with starting := false, fails := l.fails + 1, retryWait := decide (l.fails < 2) }) s
      if 2 ≤ l.fails then retireLane n 0 t else t)) ∧
    (l.retryWait = true → exec (.pllRetry n) s = .next (setLane n (fun l => { l with starting := true, retryWait := false }) s)) ∧
    (l.pll = true → exec (.pllLockLoss n) s =
      .next (laneCount n 2 1 (setLane n (fun l => { l with pll := false, starting := true }) s))) ∧
    (l.rxReady = false → (loopback l.applied = 2 ∨ l.cdr = true ∧ (l.los = false ∨ pinsUsed l = false)) →
      exec (.rxReady n ctle dfe) s = .next (tryTraining n (setLane n (fun l =>
        { adapted ctle dfe l with rxReady := true, applying := false }) s))) ∧
    (l.rxReady = true → exec (.rxReady n ctle dfe) s = .next (setLane n (adapted ctle dfe) s)) ∧
    (2 ≤ laneRate l →
      (l.rxReady = true → l.aligned = false → exec (.blockLock n) s =
        .next (tryTraining n (setLane n (fun l => { l with aligned := true }) s))) ∧
      (l.aligned = true → l.rxLpi ≠ .quiet → exec (.blockSlip n) s = .next (checkLink n (setLane n (fun l => { l with aligned := false }) s)))) ∧
    (laneRate l ≤ 1 →
      (l.rxReady = true → l.aligned = false → exec (.codeGroupSync n true) s =
        .next (tryTraining n (setLane n (fun l => { l with aligned := true }) s))) ∧
      (l.aligned = true → l.rxLpi ≠ .quiet → exec (.codeGroupSync n false) s =
        .next (checkLink n (setLane n (fun l => { l with aligned := false }) s))))

/-- What a lane receives, times and sends (R130, R131, R132, R133, R135, R136, R143, R144, R145, R146, R150, R167).
The elastic buffer, training, the low-power idle of both directions and the pattern checker. The descrambler, from any
state, gives back from its 59th bit what was scrambled; a control block is its header, the scrambled payload and
TX_POL; the line carries remote fault ordered sets under local fault and idle under remote fault. The order and sign
of several coefficient steps (log 79) and one word a cycle (log 80) are the model's choices. -/
def Obligations.LaneReceiverRows : Prop :=
  (∀ (s : State) (n a b : Nat) (bs : List Bool), laneRuns s n = true →
    let l := getLane s n
    (a ≤ 12 → exec (.ctcInsert n a) s = .next (laneCount n 3 1 (setLane n (fun l => { l with fill := a + 1 }) s))) ∧
    (20 ≤ a → exec (.ctcDelete n a) s = .next (laneCount n 4 1 (setLane n (fun l => { l with fill := a - 1 }) s))) ∧
    (12 < a → exec (.ctcInsert n a) s = .next (setLane n (fun l => { l with fill := a }) s)) ∧
    (a < 20 → exec (.ctcDelete n a) s = .next (setLane n (fun l => { l with fill := a }) s)) ∧
    (exec (.ctcSlip n) s = .next (setPort n (fun p => { p with asm := p.asm.map fun a => { a with bad := true } })
      (laneCount n 5 1 (setLane n (fun l => { l with fill := 16 }) s)))) ∧
    (l.training = true →
      exec (.trainingRequest n .preset) s =
        .next (setLane n (fun l => { l with pre := 0, main := 63, post := 0, coef := 0x15 }) s) ∧
      exec (.trainingRequest n .initial) s =
        .next (setLane n (fun l => { l with pre := 4, main := 47, post := 12, coef := 0x15 }) s) ∧
      (∀ x y z, exec (.trainingRequest n (.step x y z)) s = .next (setLane n (fun l =>
        coefStep 2 z (coefStep 1 y (coefStep 0 x { l with coef := 0 }))) s))) ∧
    (l.training = true → l.rxReady = true → exec (.trained n) s =
      .next (laneEvent 0x0384 n (toLe 1 0) (setLane n (fun l => { l with training := false, trained := true }) s))) ∧
    (l.training = true → ptAn (getPort s n).applied = 0 → exec (.trainingTimeout n) s =
      .next (setPort n (fun p => { p with anWait := true, anDone := false }) (laneEvent 0x0384 n (toLe 1 1) (laneCount n 11 1
        (setLane n (fun l => { l with training := false, pre := 4, main := 47, post := 12 }) s))))) ∧
    (l.txLpi = .sleep → bits l.applied.lpi0 29 16 ≠ 0 →
      exec (.txLpiTimer n) s = .next (setLane n (fun l => { l with txLpi := .quiet }) s)) ∧
    (l.txLpi = .quiet → exec (.txLpiTimer n) s = .next (setLane n (fun l => { l with txLpi := .refresh }) s)) ∧
    (l.txLpi = .refresh → exec (.txLpiTimer n) s = .next (setLane n (fun l => { l with txLpi := .quiet }) s)) ∧
    (l.txLpi = .wake → exec (.txLpiTimer n) s = .next (setLane n (fun l => { l with txLpi := .active }) s)) ∧
    (l.applied.lpi0.testBit 1 = true → noLpi l.applied = false → 2 ≤ laneRate l → l.los = false →
      (l.rxLpi = .active → l.rxReady = true → l.aligned = true → exec (.rxLpiBlocks n true) s = .next (rxSleep n s)) ∧
      (l.rxLpi = .wake → l.rxReady = true → exec (.rxLpiBlocks n true) s = .next (rxSleep n s)) ∧
      (l.rxLpi = .sleep → exec (.rxLpiBlocks n false) s = .next (checkLink n (setLane n (fun l => { l with rxLpi := .active }) s))) ∧
      (l.rxLpi = .wake → l.rxReady = true → exec (.rxLpiBlocks n false) s =
        .next (checkLink n (setLane n (fun l => { l with rxLpi := .active, aligned := true }) s)))) ∧
    (l.rxLpi = .quiet → l.quietLimit ≠ 0 → l.los = true → l.losCounted = false → exec (.rxLpiFault n 0) s =
      .next (losCounted n (laneEvent 0x0386 n (toLe 1 0) (laneCount n 10 1 (setLane n (fun l => { l with rxLpi := .active }) s))))) ∧
    (l.rxLpi = .wake → l.aligned = false → l.los = false → exec (.rxLpiFault n 1) s =
      .next (checkLink n (laneEvent 0x0386 n (toLe 1 1) (laneCount n 10 1 (setLane n (fun l => { l with rxLpi := .active }) s))))) ∧
    (l.applied.prbs.testBit 4 = true → l.prbsDone = false →
      (l.prbsLock = false → prbsClean l bs = true → exec (.prbsLock n bs a b) s = .next (setLane n (fun l => { l with prbsLock := true }) s)) ∧
      (l.prbsLock = false → prbsClean l bs = false → exec (.prbsLock n bs a b) s = .next s) ∧
      (l.prbsLock = true → (bits l.applied.prbs 31 16 = 0 ∨ l.runMbits + b < bits l.applied.prbs 31 16) →
        exec (.prbsLock n bs a b) s = .next (prbsCount n a b s)) ∧
      (l.prbsLock = true → bits l.applied.prbs 31 16 ≠ 0 → bits l.applied.prbs 31 16 ≤ l.runMbits + b →
        exec (.prbsLock n bs a b) s =
          .next (setLane n (fun l => { l with prbsDone := true }) (prbsCount n a (bits l.applied.prbs 31 16 - l.runMbits) s))) ∧
      (l.prbsLock = true → exec (.prbsLockLoss n a b) s =
        .next (laneCount n 14 1 (setLane n (fun l => { l with prbsLock := false }) (prbsCount n a b s)))) ∧
      (l.prbsLock = true → bits l.applied.prbs 31 16 ≠ 0 → exec (.prbsDone n a) s =
        .next (setLane n (fun l => { l with prbsDone := true }) (prbsCount n a (bits l.applied.prbs 31 16 - l.runMbits) s))))) ∧
  ((∀ (st seen : Nat) (l : List Bool), (descramble seen (scramble st l).1).1.drop 58 = l.drop 58) ∧
  (∀ (s : State) (n : Nat) (o : LineOut) (p : List Bool), lineOut s n = o → controlPayload o = some p → 2 ≤ laneRate (getLane s n) →
    sendWord n s = setLane n (fun l => { l with
      scrambler := (scramble l.scrambler p).2
      word := if pinOut s n = .off then [] else (true :: false :: (scramble l.scrambler p).1).map fun b => b != txPol l }) s) ∧
  (∀ (s : State) (n : Nat) (d : Bool) (p : List Bool) (t : TxFrame), lineOut s n = .frame → 2 ≤ laneRate (getLane s n) →
    (getPort s n).tx = some t → t.express = true → frameBlock (withFcs t.bytes) t.words = some (d, p) →
    sendWord n s = setPort n (fun x => { x with tx := x.tx.map fun t => { t with words := t.words + 1 } }) (setLane n (fun l => { l with
      scrambler := (scramble l.scrambler p).2
      word := if pinOut s n = .off then [] else ((!d) :: d :: (scramble l.scrambler p).1).map fun b => b != txPol l }) s)) ∧
  (∀ (s : State) (n : Nat), lineOut s n = .pattern →
    ∃ g w, sendWord n s = setLane n (fun l => { l with gen := g, word := if pinOut s n = .off then [] else w, errInject := false }) s) ∧
  (∀ (s : State) (n : Nat), lineOut s n = .off → sendWord n s = setLane n (fun l => { l with word := [] }) s) ∧
  (∀ (s : State) (n : Nat), laneOn s n = true → (getLane s n).pll = true → (getLane s n).applied.prbs.testBit 0 = false →
    loopback (getLane s n).applied ≠ 3 → (getLane s n).txLpi = .active → (getLane s n).training = false →
    (ptAn (getPort s n).applied = 0 ∨ (getPort s n).anDone = true) →
    ((getPort s n).localF = true → lineOut s n = .remoteFault) ∧
    ((getPort s n).localF = false → (getPort s n).remoteF = true → lineOut s n = .idle)))

/-- Commands of lanes and ports (R151, R153, R156, R158, R159, R160, R189, R192). LN_STATUS_GET, LN_RETIRE,
PORT_STATUS_GET, PORT_TS_READ, APPLY with its verdict and error injection. -/
def Obligations.LaneAndPortCommandRows : Prop :=
  ∀ (s : State) (q : Req) (n v : Nat),
    let p := q.payload
    let m := u8 p 0
    (InHand 0x0302 q s → m < nPorts s → exec .lnStatusGet s = .next (finishTaken q (okD (lnStatusBytes (getLane s m))) s)) ∧
    (InHand 0x0303 q s → m < nPorts s → u8 p 1 = 0 → (getLane s m).retired = false →
      exec .lnRetire s = .next (finishTaken q okR (retireLane m 1 s))) ∧
    (InHand 0x0303 q s → m < nPorts s → u8 p 1 = 1 → (getLane s m).retired = true →
      exec .lnRetire s = .next (finishTaken q okR (returnLane m s))) ∧
    (InHand 0x0204 q s → m < nPorts s → exec .portStatusGet s = .next (finishTaken q (okD (portStatusBytes (getPort s m))) s)) ∧
    (InHand 0x0205 q s → m < nPorts s → 1 ≤ u8 p 1 → u8 p 1 ≤ 8 →
      let t := (getPort s m).ts.take (u8 p 1)
      exec .portTsRead s = .next (finishTaken q (okD (toLe 1 t.length ++ zeros 7 ++ t.flatMap tsBytes))
        (setPort m (fun x => { x with ts := x.ts.drop (u8 p 1) }) s))) ∧
    (Serving s →
      (v % 2 ^ nPorts s = 0 → exec (.lnApply v) s = .next (answer 0 s)) ∧
      (v % 2 ^ nPorts s ≠ 0 →
        let u := (recordApply v s).updLanes fun x => { x with applyErr := applyFails s v, applyMask := v % 2 ^ nPorts s }
        (applyFails s v = true → exec (.lnApply v) s =
          .next (answer 0 ((namedLanes s v).foldl (fun t i => laneDone i (applyReason s v i) t) u))) ∧
        (applyFails s v = false → exec (.lnApply v) s =
          .next (answer 0 (driveReqs (((namedLanes s v).foldl (fun t i => applyOne i t) u).updLanes fun x =>
            { x with quadApplied := x.quadStaged }))))) ∧
      (n < nPorts s → (getLane s n).applied.prbs.testBit 0 = true →
        exec (.errInject n) s = .next (answer 0 (setLane n (fun l => { l with errInject := true }) s))) ∧
      (n < nPorts s → (getLane s n).applied.prbs.testBit 0 = false → exec (.errInject n) s = .next (answer 0 s)))

/-- Links (R136, R165, R166, R167, R168, R169, R170, R171, R179). Link up and the hold time, faults, FEC lock, auto-
negotiation and low-power idle requests. -/
def Obligations.LinkRows : Prop :=
  ∀ (s : State) (n : Nat) (b c : Bool) (a : AnPartner), laneRuns s n = true →
    let p := getPort s n
    (p.link = false → linkFault false s n = none →
      exec (.linkUp n) s = .next (linkWake n (linkEvent n 1 0 (setPort n (fun x => { x with
        link := true, verify := if bits p.applied.preempt 1 0 = 3 then 1 else 0, verifyN := 1 }) s)))) ∧
    ((p.link = true ∨ linkFault false s n ≠ none) → exec (.linkUp n) s = .next s) ∧
    (n < nPorts s → p.link = false → p.holdOver = false → lowPower s = false →
      exec (.linkDownHoldExpire n) s = .next (dropWireQueues n (setPort n (fun x => { x with holdOver := true }) s))) ∧
    (p.hiBer ≠ b → exec (.hiBer n b) s =
      .next (checkLink n (if b then bump 0x30 n 35 (setPort n (fun x => { x with hiBer := b }) s)
        else setPort n (fun x => { x with hiBer := b }) s))) ∧
    exec (.fecLockChange n b) s = .next (checkLink n (setPort n (fun x => { x with fecLock := b }) s)) ∧
    exec (.rxFaultSignal n b c) s = .next (checkLink n (setPort n (fun x => { x with localF := b, remoteF := c }) s)) ∧
    (anRuns s n = true →
      ((ptTrain p.applied = false ∨ (getLane s n).trained = true) →
        exec (.anComplete n 0 a) s = .next (anEnd n 0 (setPort n (fun x => { x with
          anDone := true, page := a.page, resFec := resolveFec (advertOf (laneRate (getLane s n)) x.applied) a
          pauseOk := (advertOf (laneRate (getLane s n)) x.applied).pause && a.symPause }) s))) ∧
      exec (.anComplete n 1 a) s = .next (anEnd n 1 (setPort n (fun x => { x with anWait := true, page := a.page }) s)) ∧
      exec (.anComplete n 2 a) s = .next (anEnd n 2 (setPort n (fun x => { x with anWait := true }) s))) ∧
    (p.anWait = true → ptAn p.applied = 0 →
      exec (.anRestartTimer n) s = .next (tryTraining n (setPort n (fun x => { x with anWait := false }) s))) ∧
    (p.anWait = true → ptAn p.applied ≠ 0 → exec (.anRestartTimer n) s = .next (anRestart n s)) ∧
    (ptAn p.applied ≠ 0 → p.anDone = true → p.link = false → exec (.anLinkFail n) s = .next (anRestart n (anEnd n 3 s))) ∧
    (ptEee p.applied = true → ptQbv p.applied = false → p.lpiReq = false →
      (watching s = true ∨ (coreOff s = false ∧ p.tx = none ∧ p.rem = none ∧ p.owed = [] ∧ wireOwners s n = [] ∧ (getGc s n).gen = false)) →
      exec (.eeeIdleExpire n) s = .next (txLpiEnter n (setPort n (fun x => { x with lpiReq := true }) s)))

/-- Wire ports (R32, R148, R172, R174, R176, R177, R178, R180, R181, R183, R184, R185). Reception, near-end loopback,
flow control, transmit selection, the end of a transmission, gates, verification and frames longer than any window. -/
def Obligations.WirePortRows : Prop :=
  ∀ (s : State) (n tc : Nat) (rx : RxFrame),
    let p := getPort s n
    let back := fun (t : TxFrame) (u : State) =>
      if pinsUsed (getLane u n) then u
      else lineRx n { data := t.bytes.drop t.sent, kind := if t.sent = 0 then .express else .last } u
    (pinsUsed (getLane s n) = true → laneRuns s n = true → p.link = true → checking (getLane s n) = false → coreOff s = false →
      loopback (getLane s n).applied ≠ 3 → s.pwr.mode = .active →
      (s.sys.quiescing = false → s.sys.quiesced = false →
        exec (.wireRxFrame n rx) s = .next (rxPacket n rx (fecCount n rx s))) ∧
      (rx.kind = .express → (s.sys.quiescing = true ∨ s.sys.quiesced = true) →
        exec (.wireRxFrame n rx) s = .next (bump 0xD1 n 1 (setPort n (fun p => { p with asm := (getPort s n).asm }) s)))) ∧
    (loopback (getLane s n).applied = 3 → lineOut s n = .retimed → exec (.wireRxFrame n rx) s =
      .next (lineRx n rx (setLane n (fun l => { l with echo := l.echo ++ [withFcs rx.data] }) s))) ∧
    (p.link = false → loopback (getLane s n).applied ≠ 3 → exec (.wireRxFrame n rx) s = .next s) ∧
    (pinsUsed (getLane s n) = false → rx.kind ≠ .respond → exec (.wireRxFrame n rx) s = .next s) ∧
    (fcMode p = 2 → exec (.pauseExpire n tc) s =
      .next (setPort n (fun x => if fcMode x = 2 then { x with paused := withBit x.paused tc false, stopping := withBit x.stopping tc false, pauseEnd := x.pauseEnd.erase tc }
        else { x with paused := 0, stopping := 0, pauseEnd := [] }) s)) ∧
    (p.xoff ≠ 0 → txFc p = true → p.refresh ≠ 0 → fcMode p = 1 → p.xoffSent.testBit 8 = true → p.xoff ≤ occSum p →
      exec (.pauseRefresh n tc) s = .next (oweFc n 8 p.quanta s)) ∧
    (mayTransmit s n = true → p.tx = none → egressStops s = false →
      (∀ k x l, p.owed = (k, x) :: l → exec (.txSelect n) s = .next (startControl n k x l s)) ∧
      (p.owed = [] → (getGc s n).gen = true → exec (.txSelect n) s = .next (startGen n s)) ∧
      (p.owed = [] → (getGc s n).gen = false → exec (.txSelect n) s = .next (selectClass n [7, 6, 5, 4, 3, 2, 1, 0] s))) ∧
    (mayTransmit s n = false → exec (.txSelect n) s = .next s) ∧
    (coreOff s = false →
      (∀ t, p.tx = some t → t.reading = true → exec (.txFrameDone n) s = .next s) ∧
      (∀ t, p.tx = some t → t.reading = false → t.control = true → t.gen = false →
        exec (.txFrameDone n) s = .next (back t (countTx n t (setPort n endTx s)))) ∧
      (∀ t b, p.tx = some t → t.reading = false → t.control = false → t.gen = false →
        ∀ u, u = countTx n t (setPort n endTx s) → getBuf u t.handle = some b →
        exec (.txFrameDone n) s = .next (back t (releaseOwner t.handle (n * 65536 + t.tc)
          (unpinBuf t.handle (keepStamp n t b.record u))))) ∧
      (∀ g, p.gclNext = some g → exec (.gclStart n) s = .next (
        let t := setPort n (fun x => { x with
          gcl := some g, gclNext := none, cycleStart := g.start, entry := 0, gates := ((g.segs[0]?).map fun y => y.2.2).getD 0xFF }) s
        let t2 := setTrg (28 + n) (fun x => { x with set := { x.set with base := g.tb } }) t
        raise0 0x0285 n (toLe 1 1) (countOverrun n p (ownedFires n (g.start + g.cycle) g.cycle t2)))) ∧
      (∀ g, p.gcl = some g → p.tx = none → p.entry + 1 < g.segs.length → exec (.gateEntryChange n) s =
        .next (setPort n (fun x => { x with
          entry := p.entry + 1
          gates := ((g.segs[p.entry + 1]?).map fun y => y.2.2).getD 0xFF }) s)) ∧
      (p.gcl = none → exec (.gateEntryChange n) s = .next s) ∧
      (p.gclNext = none → exec (.gclStart n) s = .next s) ∧
      (p.verify = 1 → p.link = true → p.verifyN < 3 →
        exec (.verifyTimer n) s = .next (setPort n (fun x => { x with verifyN := x.verifyN + 1 }) s)) ∧
      (p.verify = 1 → p.link = true → 3 ≤ p.verifyN →
        exec (.verifyTimer n) s = .next (raise0 0x0283 n (toLe 1 1) (setPort n (fun x => { x with verify := 3 }) s))) ∧
      (∀ x g u, p.tx.any (·.reading) = false → u = prepareHead n tc (classDepth s n tc) s →
        (getWire u n).nom.get? tc = some x → (getPort u n).gcl = some g → ptQbv (getPort u n).applied = true →
        (fits 0 (needBytes (getPort u n) tc (wireLen u x.qe) 0) (rateMbps (laneRate (getLane u n))) (longestWindow g tc) = false →
          exec (.gateOversize n tc) s = .next (dropHead n tc 0x30 n 24 x.qe u)) ∧
        (fits 0 (needBytes (getPort u n) tc (wireLen u x.qe) 0) (rateMbps (laneRate (getLane u n))) (longestWindow g tc) = true →
          exec (.gateOversize n tc) s = .next u)))

/-- The spill mover (R208, R217, R218, R219, R220, R221, R222, R223, R224, R225, R229). Moves out and back with every
outcome, the free-index queue with its retry, and relocation. That a relocation by spill is counted when the buffer is
lodged is the model's choice (log 81). -/
def Obligations.SpillMoverRows : Prop :=
  ∀ (s : State) (p h : Nat) (e : QE) (b : Buf) (i k j : Nat), coreOff s = false →
    (p < 4 → (getPool s p).state = .spilling → movesOut s < 32 → moverOpen s = true →
      (selectSpill s p = some e → exec (.spillStart p) s = .next (spillBuf e.h e.oseq s)) ∧
      (selectSpill s p = none → exec (.spillStart p) s = .next s)) ∧
    ((getPool s p).state ≠ .spilling → exec (.spillStart p) s = .next s) ∧
    (∀ x, getBuf s h = some b → b.loc = .movingOut k j i → b.mv.bind (getXfer s) = some x → x.finished = true →
      (x.err = false → exec (.spillComplete h) s = .next (settleRetire 4 (
        let t := evalPool (hPool h) (poolBump (hPool h) 5
          (setBuf h { b with loc := .lodged i, mv := none, reloc := false } (dropXfer x.id s)))
        if b.reloc then poolBump (hPool h) 14 t else t))) ∧
      (x.err = true → exec (.spillComplete h) s = .next (settleRetire 4 (poolBump (hPool h) 10 (poolBump (hPool h) 12
        (setPool (hPool h) (fun c => { c with withdrawn := c.withdrawn ++ [i] })
          (setBuf h { b with loc := .sram k j, mv := none, reloc := false } (dropXfer x.id s)))))))) ∧
    (p < 4 → (getPool s p).state ≠ .spilling → (getPool s p).high ≠ 0 → movesIn s < 32 → moverOpen s = true →
      selectReturn s p = some e → freeSram s p = some (k, j) → getBuf s e.h = some b → b.loc = .lodged i →
      regionOk s (dramAddr s p i) (bufSize p) = true →
      exec (.returnStart p) s = .next (evalPool p (startMove (.ret e.h) false e.h b.data.length (dramAddr s p i) []
        (setBuf e.h { b with loc := .movingIn k j i, mv := some (nextXfer s) } s)))) ∧
    (∀ x, getBuf s h = some b → b.loc = .movingIn k j i → b.mv.bind (getXfer s) = some x → x.finished = true →
      let z := bufSize (hPool h)
      let r := slice x.data 0 64
      let d := slice x.data 64 b.data.length
      let ok : Bool := imageGood h b.oseq b.data.length x.data
      (x.err = false → ok = true → exec (.returnComplete h) s = .next (settleRetire 4 (evalPool (hPool h) (poolBump (hPool h) 6
        (freeDram (hPool h) i (setBuf h { b with loc := .sram k j, mv := none, record := r, data := d, check := u32 x.data (z - 8) }
          (dropXfer x.id s))))))) ∧
      ((x.err = true ∨ ok = false) → exec (.returnComplete h) s = .next (evalPool (hPool h) (markBad h b.oseq (if x.err then 5 else 3)
        (poolBump (hPool h) 11 (setBuf h { b with loc := .lodged i, mv := none } (dropXfer x.id s))))))) ∧
    (∀ x t, p < 4 → takeDone s (fun y => decide (y = .freeRead p)) = some (x, t) →
      (x.err = true → exec (.freeQueueRefill p) s = .next (raiseErr 7 t)) ∧
      (x.err = false → exec (.freeQueueRefill p) s = .next (startRefill p (if refillWanted t p then refillTake p x t else t)))) ∧
    (p < 4 → takeDone s (fun y => decide (y = .freeRead p)) = none → (getPool s p).refill = false →
      exec (.freeQueueRefill p) s = .next (startRefill p s)) ∧
    (p < 4 → (getPool s p).refill = true → s.host.xfers.any (fun x => decide (x.purp = .freeRead p)) = false →
      exec (.refillRetry p) s = .next (startRefill p s)) ∧
    ((getPool s p).refill = false → exec (.refillRetry p) s = .next s) ∧
    (∀ k2 j2, getBuf s h = some b → b.loc = .sram k j → emptying s k = true → b.pins = 0 →
      let t := touchBuf h s
      verifies t h b.oseq = true →
      freeSram t (hPool h) (some k) = some (k2, j2) → exec (.relocationDone h) s =
        .next (settleRetire 4 (poolBump (hPool h) 14 (updBuf h (fun b => { b with loc := .sram k2 j2 }) t)))) ∧
    (getBuf s h = none → exec (.relocationDone h) s = .next s)

/-- Commands of the store, the schedulers, the stations and the links (R198, R224, R226, R227, R403, R404, R356, R357,
R358, R359, R383, R384). STORE_POOL_SPLIT, STORE_STATUS_GET, STORE_COUNTERS_GET, STORE_BANK_RETIRE, SCH_STATUS_GET,
SCH_COUNTERS_GET, STA_SET, STA_REMOVE, STA_FLUSH, STA_STATUS_GET, STA_COUNTERS_GET, RL_CONFIG and RL_STATUS_GET. -/
def Obligations.StoreSchedulerAndStationCommandRows : Prop :=
  (∀ (s : State) (q : Req),
    let p := q.payload
    let id := u16 p 2
    let banks := (List.range 4).map fun i => u8 p i
    let units := (List.range 4).map fun i => u16 p (4 + 2 * i)
    (InHand 0x0401 q s → (∀ x ∈ banks, x ≤ 32) → banks.sum = unretired s → units.sum * 2097152 ≤ s.host.dram.size →
      (∀ i < 4, banks.getD i 0 ≠ 0 ∨ units.getD i 0 * 2097152 / bufSize i ≠ 0) → s.sys.phase = 1 →
      exec .storePoolSplit s = .next (finishTaken q okR (resetDrams (s.updStore fun t => { t with
        banks := dealBanks s banks, split := banks, units := units })))) ∧
    (InHand 0x0401 q s → banks.sum ≠ unretired s → exec .storePoolSplit s = .next (finishTaken q (inv 0) s)) ∧
    (InHand 0x0403 q s → exec .storeStatusGet s = .next (finishTaken q (okD (storeStatusBytes s)) s)) ∧
    (InHand 0x0404 q s → u8 p 0 = 0 → u8 p 1 ≤ 3 → u8 p 4 ≤ 1 → exec .storeCountersGet s =
      .next (let r := readCounters 0x40 (u8 p 1) 19 (decide (u8 p 4 = 1)) s; finishTaken q (okD r.1) r.2)) ∧
    (InHand 0x0404 q s → u8 p 0 = 1 → portCodeOk s (id % 4096) = true → u8 p 4 ≤ 1 → exec .storeCountersGet s =
      .next (let r := readCounters 0x41 (id % 4096) 2 (decide (u8 p 4 = 1)) s; finishTaken q (okD r.1) r.2)) ∧
    (InHand 0x0405 q s → u8 p 0 < nBanks s → s.store.banks.getD (u8 p 0) 4 ≠ 4 → s.store.retire = [] → retireStarves s (u8 p 0) = false →
      exec .storeBankRetire s = .next (startRetire (u8 p 0) 1 (s.updGv fun g => { g with taken := none, running := g.running ++ [q] }))) ∧
    (InHand 0x0A04 q s → u8 p 0 = 0 → id < nPorts s → agentOf q s = 0 →
      exec .schStatusGet s = .next (finishTaken q (okD (schWireBytes s id)) s)) ∧
    (InHand 0x0A04 q s → u8 p 0 = 1 → id < nChannels s → (getCh s id).agent = agentOf q s →
      exec .schStatusGet s = .next (finishTaken q (okD (schChannelBytes s id)) s)) ∧
    (InHand 0x0A05 q s → u8 p 0 = 0 → u8 p 1 ≤ 1 → id < nPorts s → agentOf q s = 0 → exec .schCountersGet s =
      .next (let r := readCounters 0xA0 id 25 (decide (u8 p 1 = 1)) s; finishTaken q (okD r.1) r.2)) ∧
    (InHand 0x0A05 q s → u8 p 0 = 1 → u8 p 1 ≤ 1 → portCodeOk s id = true → exec .schCountersGet s =
      .next (let r := readCounters 0xA1 id 1 (decide (u8 p 1 = 1)) s; finishTaken q (okD r.1) r.2))) ∧
  (∀ (s : State) (q : Req),
    let p := q.payload
    let st := u16 p 0
    let x := getSta s st
    let l := u8 p 0
    (InHand 0x0901 q s → staSetArgs q s = none → u8 p 2 = 0 → x.state = .free →
      exec .staSet s = .next (
        let n := staFields p { state := .active, agent := x.agent
                               per := (bitList 3 (u8 p 3)).map fun l => (l, { win := { avail := nowNs s } }) }
        finishTaken q okR (raiseTo (.agents [x.agent]) 0x0981 st (toLe 1 1)
          ((List.range 4).foldl (fun s a => evalPark st a false s) (s.updSta fun t => t.set st n))))) ∧
    (InHand 0x0901 q s → staSetArgs q s = none → u8 p 2 = 0 → x.state ≠ .free →
      exec .staSet s = .next (finishTaken q (errR stWrongState) s)) ∧
    (InHand 0x0902 q s → staArg q s = none → x.state = .active →
      let s1 := raiseTo (.agents [x.agent]) 0x0981 st (toLe 1 2) (setSta st (fun x => { x with state := .removing, parked := 0 }) s)
      let t := settleSta st ((List.range 3).foldl (fun s l => flushLaunch st l s) ((List.range 4).foldl (fun s a => flushQ st a s) s1))
      exec .staRemove s = .next (if (getSta t st).state = .free then finishTaken q okR t
        else t.updGv fun g => { g with taken := none, running := g.running ++ [q] })) ∧
    (InHand 0x0903 q s → staArg q s = none → u8 p 2 ≠ 0 → x.state = .active →
      exec .staFlush s = .next (finishTaken q okR ((bitList 4 (u8 p 2)).foldl (fun s a => flushQ st a s) s))) ∧
    (InHand 0x0904 q s → staArg q s = none → exec .staStatusGet s = .next (finishTaken q (staStatusCmd q s).2 s)) ∧
    (InHand 0x0905 q s → u8 p 0 = 0 → u8 p 1 ≤ 1 → u16 p 2 < nStations s → (getSta s (u16 p 2)).agent = agentOf q s →
      exec .staCountersGet s = .next (let r := readCounters 0x90 (u16 p 2) 13 (decide (u8 p 1 = 1)) s; finishTaken q (okD r.1) r.2)) ∧
    (InHand 0x0906 q s → l < 3 → u8 p 1 ≤ 1 → u8 p 2 ≤ 7 → le p 4 3 ≠ 0 → u8 p 7 ≠ 0 → 64 ≤ u16 p 16 → u16 p 16 ≤ 10336 →
      let t := setRl l (fun r => { r with
        upTb := some (u8 p 2), defRate := ⟨le p 4 3, u8 p 7, u16 p 8⟩, rateTo := u16 p 12, doneTo := u16 p 14, maxDn := u16 p 16 }) s
      ((getRl s l).enabled = decide (u8 p 1 = 1) → exec .rlConfig s = .next (finishTaken q okR t)) ∧
      ((getRl s l).enabled = false → u8 p 1 = 1 → exec .rlConfig s = .next (finishTaken q okR (rlEnable l t))) ∧
      ((getRl s l).enabled = true → u8 p 1 = 0 → exec .rlConfig s = .next (finishTaken q okR (rlDisable l t)))) ∧
    (InHand 0x0907 q s → l < 3 → exec .rlStatusGet s = .next (finishTaken q (rlStatusCmd q s).2 s)))

/-- Feedback messages, doorbells and the taking of a request complete (R85, R86, R90, R363, R364, R365, R366, R368,
R369). A RATE, CREDIT or PS message of an enabled link about an ACTIVE station on it, with every field in its range,
completes: the station's rate word and its time, credit window or power-save state on the link are the message's. A
rate word older than the link's timeout turns stale and stays in place. A doorbell of a mailbox that is not BUSY
accepts the request, which joins the end of the queue; one of a BUSY mailbox is ignored and counted; writing DONE
clears it. With no request in hand and the firmware up, Onyx takes the oldest request: one with a good header, an
inline payload and a token not used before is in hand with its payload. -/
def Obligations.FeedbackAndRequestRowsComplete : Prop :=
  ((∀ (s : State) (m : Bytes) (l st : Nat), m.length = 16 → l < 3 → coreOff s = false → (getRl s l).enabled = true → u8 m 1 = 0 →
    u16 m 2 = st → (getSta s st).state = .active →
    (u8 m 0 = 1 + 16 * l → st < nStations s → (getSta s st).links.testBit l = true → le m 4 3 ≠ 0 → u8 m 7 ≠ 0 → allZero (slice m 10 6) = true →
      ∃ t, exec (.fbRate m) s = .next t ∧
        (staLink (getSta t st) l).rate = some ⟨le m 4 3, u8 m 7, u16 m 8⟩ ∧ (staLink (getSta t st) l).rateNs = nowNs s ∧
        (staLink (getSta t st) l).stale = false) ∧
    (u8 m 0 = 2 + 16 * l → st < nStations s → (getSta s st).links.testBit l = true → allZero (slice m 10 6) = true →
      ∃ t, exec (.fbCredit m) s = .next t ∧
        (staLink (getSta t st) l).win.limit = u32 m 4 ∧ (staLink (getSta t st) l).win.avail = nowNs s + u16 m 8 * 1000 ∧
        (staLink (getSta t st) l).win.sent = (staLink (getSta s st) l).win.sent) ∧
    (u8 m 0 = 3 + 16 * l → st < nStations s → (getSta s st).links.testBit l = true → u8 m 4 < 2 → u8 m 5 = 0 → u16 m 6 = 0 →
      allZero (slice m 8 8) = true →
      ∃ t, exec (.fbPs m) s = .next t ∧ (staLink (getSta t st) l).ps = if u8 m 4 = 0 then .awake else .doze) ∧
    (u8 m 0 = 3 + 16 * l → st < nStations s → (getSta s st).links.testBit l = true → u8 m 4 = 2 → u8 m 5 ≠ 0 → u8 m 5 < 16 →
      allZero (slice m 8 8) = true → (∃ a < 4, (u8 m 5).testBit a = true ∧ getQ s (.sta st a) ≠ []) →
      ∃ t, exec (.fbPs m) s = .next t ∧ (staLink (getSta t st) l).ps = .period ∧ (staLink (getSta t st) l).spMask = u8 m 5 ∧
        (staLink (getSta t st) l).spLeft = u16 m 6)) ∧
  (∀ (s : State) (st l : Nat), coreOff s = false → (getSta s st).state = .active →
    (staLink (getSta s st) l).rate.isSome = true → (staLink (getSta s st) l).stale = false → (getRl s l).rateTo ≠ 0 →
      (staLink (getSta s st) l).rateNs + (getRl s l).rateTo * 1000000 ≤ nowNs s →
      ∃ t, exec (.rateStale st l) s = .next t ∧ (staLink (getSta t st) l).stale = true ∧
        (staLink (getSta t st) l).rate = (staLink (getSta s st) l).rate)) ∧
  (∀ (s : State) (m v : Nat), m < 16 →
    (Serving s → (getMb s m).busy = false →
      ∃ t, exec (.mbDoorbell m v) s = .next t ∧ (getMb t m).busy = true ∧ (getMb t m).done = false ∧ t.gv.queue = s.gv.queue ++ [m] ∧
        (getMb t m).hdr = (getMb s m).reqHdr ∧ (getMb t m).body = (getMb s m).reqData ∧ (getMb t m).bell = v % 65536) ∧
    (Serving s → (getMb s m).busy = true →
      ∃ t, exec (.mbDoorbell m v) s = .next t ∧ (getMb t m).busy = true ∧ (getMb t m).dbIgnored = true ∧
        (getMb t m).ignored = (getMb s m).ignored + 1 ∧ t.gv.queue = s.gv.queue) ∧
    (Serving s → ∃ t, exec (.mbDoneClear m) s = .next t ∧ (getMb t m).done = false ∧ (getMb t m).busy = (getMb s m).busy) ∧
    (s.gv.taken = none → onyxUp s = true → s.res.jasper ≠ .takeover → s.gv.awaited = [] →
      s.gv.queue.find? (fun m => s.sys.fw || decide (m = 0)) = some m → checkHeader s m = none →
      let b := getMb s m
      rqPtr b.hdr = false → b.tokens.find? (·.token = rqToken b.hdr) = none →
      ∃ t, exec .requestTake s = .next t ∧ t.gv.queue = s.gv.queue.erase m ∧ (getMb t m).busy = b.busy ∧
        t.gv.taken = some { mb := m, hdr := b.hdr, payload := b.body.take (rqLen b.hdr), ready := true
                            digest := digestOf b.hdr (b.body.take (rqLen b.hdr)) }))

/-- Rule generations (R245, R247, R248, R250, R251, R253, R254). CLS_GEN_STATUS, CLS_GEN_RETIRE, CLS_RULE_READ,
CLS_COUNTERS_GET, the end of a sweep and a slow generation. -/
def Obligations.ClassifierRows : Prop :=
  ∀ (s : State) (q : Req) (g : Nat),
    let p := q.payload
    (InHand 0x0509 q s → exec .clsGenStatus s = .next (finishTaken q (okD (genStatusBytes s)) s)) ∧
    (∀ x, InHand 0x050A q s → findGen s (u16 p 0) = some x → x.sweeping = false → u16 p 0 ≠ s.cls.current → x.retiring = false →
      exec .clsGenRetire s = .next (finishTaken q okR (purgeGen (u16 p 0) (updGen (u16 p 0) (fun x => { x with retiring := true }) s)))) ∧
    (∀ x, InHand 0x050A q s → findGen s (u16 p 0) = some x → x.sweeping = false → (u16 p 0 = s.cls.current ∨ x.retiring = true) →
      exec .clsGenRetire s = .next (finishTaken q (errR stWrongState) s)) ∧
    (InHand 0x050A q s → findGen s (u16 p 0) = none → exec .clsGenRetire s = .next (finishTaken q (errR stNotFound) s)) ∧
    (∀ v, InHand 0x050B q s → u8 p 0 ≤ 7 → u8 p 8 = 0 → (findGen s (u16 p 2)).isSome = true →
      findVer s .rule (u8 p 0 * 2 ^ 32 + u32 p 4) (u16 p 2) = some v → exec .clsRuleRead s = .next (finishTaken q (okD (
        toLe 1 (u8 p 0) ++ toLe 1 (b2n v.bornAny + 2 * b2n v.died.isSome) ++ slice v.val 2 2 ++ toLe 4 (u32 p 4) ++ toLe 2 v.born ++
        toLe 2 (v.died.getD 0) ++ toLe 4 v.slot ++ toLe 8 v.hits ++ zeros 8 ++ slice v.val 16 64 ++ slice v.val 80 64 ++
        slice v.val 144 32)) s)) ∧
    (InHand 0x050B q s → u8 p 0 ≤ 7 → u8 p 8 ≤ 1 → (findGen s (u16 p 2)).isSome = true →
      findVer s .rule (u8 p 0 * 2 ^ 32 + u32 p 4) (u16 p 2) = none → exec .clsRuleRead s = .next (finishTaken q (errR stNotFound) s)) ∧
    (InHand 0x050C q s → portCodeOk s (u16 p 0) = true → u8 p 2 ≤ 1 → exec .clsCountersGet s =
      .next (let r := readCounters 0x50 (u16 p 0) 12 (decide (u8 p 2 = 1)) s; finishTaken q (okD r.1) r.2)) ∧
    (Serving s → exec .genSweepEnd s = .next (endSweep s)) ∧
    (∀ x, Serving s → findGen s g = some x → g ≠ s.cls.current → exec (.clsGenSlow g) s =
      .next (raiseAll 0x0582 (toLe 2 g ++ zeros 2 ++ toLe 4 x.inflight ++ toLe 4 ((nowNs s - x.since) / 1000000000)) s)) ∧
    (findGen s g = none → exec (.clsGenSlow g) s = .next s)

/-- Commands of flows and the aging scan (R258, R261, R271, R275, R277, R280, R286). Policers, installation, deletion,
flush, reads, ages, table set, counters, and the pair of buckets that a scan takes. -/
def Obligations.FlowCommandRows : Prop :=
  ∀ (s : State) (q : Req),
    let p := q.payload
    let run (op : SvcOp) : State := svcPump ((s.updFlow fun f => { f with jobs := f.jobs ++ [{ mb := some q.mb, op := op }] }).updGv
      fun g => { g with taken := none, running := g.running ++ [q] })
    (InHand 0x0604 q s → u16 p 0 ≤ 4095 → policerArgs p 2 3 4 8 = none → exec .flowPolicerSet s =
      .next (finishTaken q okR (s.updFlow fun f => { f with
        policers := f.policers.upd (u16 p 0) {} fun x => x.set (nowNs s) (u8 p 2) (u32 p 4) (u32 p 8) (decide (u8 p 3 = 1)) }))) ∧
    (InHand 0x0605 q s → installArgs p = none → s.host.flow.size ≠ 0 → exec .flowInstall s =
      .next (run (.install (slice p 8 64) (slice p 72 64) ((u8 p 0).testBit 0) ((u8 p 0).testBit 1)))) ∧
    (InHand 0x0606 q s → s.host.flow.size ≠ 0 → u32 p 0 < 4 * nBuckets s → exec .flowDelete s =
      .next (run (.delete (u32 p 0) ((u8 p 4).testBit 0)))) ∧
    (InHand 0x060A q s → u8 p 0 ≤ 2 → u8 p 1 ≤ 7 → u16 p 2 ≤ 4095 → s.host.flow.size ≠ 0 → exec .flowFlush s =
      .next (run (.flush (u8 p 0) (u8 p 1) (u16 p 2)))) ∧
    (InHand 0x0605 q s → installArgs p = none → s.host.flow.size = 0 → exec .flowInstall s =
      .next (svcPump (finishTaken q (errR stNotConfigured) s))) ∧
    (InHand 0x0607 q s → s.host.flow.size ≠ 0 → u32 p 0 < 4 * nBuckets s → s.host.xfers.any (fun x => decide (x.purp = .svcRead q.mb)) = false →
      (∀ w, wayOf s (u32 p 0) = some w → exec .flowRead s = .next (finishTaken q (flowImage s (u32 p 0) w.image true) s)) ∧
      (wayOf s (u32 p 0) = none → bucketBusy s (u32 p 0 / 4) = false → regionOk s (bucketAddr s (u32 p 0 / 4)) 128 = true →
        exec .flowRead s = .next (startXfer (.svcRead q.mb) false (svcSid s) (bucketAddr s (u32 p 0 / 4)) 128 [] s))) ∧
    (let l := (List.range 8).map fun i => u16 p (4 + 2 * i)
     InHand 0x0608 q s → u16 p 0 ≠ 0 → u16 p 0 ≤ 2047 → (∀ i < 8, l.getD i 0 ≠ 0 ∧ l.getD i 0 ≤ 2047 ∧ u16 p 0 + l.getD i 0 ≤ 2047) →
      exec .flowAgeSet s = .next (finishTaken q okR (s.updFlow fun f => { f with scanPer := u16 p 0, timeouts := l }))) ∧
    (InHand 0x0609 q s → u8 p 4 ≤ 60 → s.sys.phase = 1 → exec .flowTableSet s =
      .next (finishTaken q okR (s.updFlow fun f => { f with seed := u32 p 0, tick := u8 p 4 }))) ∧
    (InHand 0x0609 q s → u8 p 4 ≤ 60 → s.sys.phase ≠ 1 → exec .flowTableSet s = .next (finishTaken q (errR stWrongState) s)) ∧
    (InHand 0x060B q s → u8 p 0 = 2 → u8 p 1 ≤ 1 → exec .flowCountersGet s =
      .next (let r := readCounters 0x62 0 7 (decide (u8 p 1 = 1)) s; finishTaken q (okD r.1) r.2)) ∧
    (coreOff s = false → ((draining s = true ∧ flushJob s = none) ∨ s.host.flow.size = 0 ∨ (serviceEngine s).isNone = true ∨ (jobAt s).isSome = true ∨ s.flow.looking.isSome = true) →
      exec .agingPair s = .next (svcPump s)) ∧
    (coreOff s = false → s.host.flow.size ≠ 0 → (serviceEngine s).isSome = true → jobAt s = none → s.flow.looking = none →
      (∀ i j, flushJob s = some (i, j) → exec .agingPair s =
        .next (svcPump (s.updFlow fun f => { f with looking := some { pos := j.pos, flush := true } }))) ∧
      (flushJob s = none → draining s = false → s.flow.tick ≠ 0 → exec .agingPair s =
        .next (svcPump (s.updFlow fun f => { f with looking := some { pos := f.scan, flush := false } }))) ∧
      (flushJob s = none → draining s = false → s.flow.tick = 0 → exec .agingPair s = .next s))

/-- Commands of the engines (R284, R285, R310, R312, R315, R316, R317, R318). ENG_PROG_UNLOAD, ENG_CONFIG_SET,
ENG_POLICY_SET, ENG_DATA_WRITE, ENG_STATUS_GET, ENG_COUNTERS_GET, ENG_SAMPLE_READ and ENG_BASE_SET. -/
def Obligations.EngineCommandRows : Prop :=
  ∀ (s : State) (q : Req),
    let p := q.payload
    let n := u8 p 0
    (∀ g, InHand 0x0702 q s → 1 ≤ n → n ≤ 15 → s.eng.progs.get? n = some g → s.eng.hooks.vals.any (fun x => decide (x.prog = n)) = false → g.inflight = 0 →
      exec .engProgUnload s = .next (finishTaken q okR (s.updEng fun g => { g with progs := g.progs.erase n }))) ∧
    (∀ g, InHand 0x0702 q s → 1 ≤ n → n ≤ 15 → s.eng.progs.get? n = some g → (s.eng.hooks.vals.any (fun x => decide (x.prog = n)) = true ∨ g.inflight ≠ 0) →
      exec .engProgUnload s = .next (finishTaken q (errR stWrongState) s)) ∧
    (InHand 0x0703 q s → n < nEngines s → 1 ≤ u16 p 2 → u16 p 2 ≤ 1000 → n ≠ 255 → exec .engConfigSet s =
      .next (finishTaken q okR (setEng n (fun g => { g with destHook := u8 p 1, budget := u16 p 2 }) s))) ∧
    (InHand 0x0704 q s → n ≤ 1 → (n = 0 → s.eng.spareUsed = false) → exec .engPolicySet s =
      .next (settlePolicy 16 (s.updGv fun g => { g with taken := none, running := g.running ++ [q] }))) ∧
    (InHand 0x0704 q s → n = 0 → s.eng.spareUsed = true → exec .engPolicySet s =
      .next (settlePolicy 16 (finishTaken q (errR stWrongState) s))) ∧
    (∀ g, InHand 0x0705 q s → 1 ≤ n → n ≤ 15 → 4 ≤ u16 p 2 → u16 p 2 ≤ 4088 → u16 p 2 % 4 = 0 → u32 p 4 % 4 = 0 →
      s.eng.progs.get? n = some g → u32 p 4 + u16 p 2 ≤ 4096 * g.dpages → exec .engDataWrite s =
      .next (finishTaken q okR ((loadedEngines s).foldl (fun s e =>
        setEng e (fun x => { x with dmem := Mem.wrN x.dmem (0x8000 + 4096 * g.dpage + u32 p 4) (slice p 8 (u16 p 2)) }) s) s))) ∧
    (∀ e, InHand 0x0706 q s → serviceEngine s = some e → exec .engStatusGet s =
      .next (finishTaken q (okD (toLe 1 s.eng.policy ++ toLe 1 e ++ toLe 2 s.pipe.slots.length ++ toLe 4 s.pipe.disp.length ++
        toLe 8 ((s.eng.progs.keys.map (2 ^ ·)).sum) ++
        ((List.range 8).flatMap fun e => if e < nEngines s then engStatus s e else zeros 16) ++ zeros 16)) s)) ∧
    (InHand 0x0707 q s → n = 1 → u8 p 1 ≤ 1 → u16 p 2 < nEngines s → exec .engCountersGet s =
      .next (let r := readCounters 0x71 (u16 p 2) 7 (decide (u8 p 1 = 1)) s; finishTaken q (okD r.1) r.2)) ∧
    (InHand 0x0708 q s → n < nEngines s → 1 ≤ u8 p 1 → u8 p 1 ≤ 8 →
      let l := (getEng s n).samples.take (u8 p 1)
      exec .engSampleRead s = .next (finishTaken q (okD (toLe 1 l.length ++ zeros 7 ++ l.flatMap sampleBytes))
        (setEng n (fun g => { g with samples := g.samples.drop (u8 p 1) }) s))) ∧
    (InHand 0x0709 q s → (n.testBit 0 = true → u16 p 2 ≠ 0 ∧ u32 p 4 ≠ 0) → exec .engBaseSet s =
      .next (finishTaken q okR (s.updEng fun g => { g with
        icmp := n.testBit 0, icmpRate := u16 p 2, ipv4Src := slice p 4 4, ipv6Src := slice p 8 16 })))

/-- The pipeline (R23, R26, R29, R211, R231, R263, R264, R295). Entry, the frame's entry, parsing, the flow stage, a
lookup's return, and release of drops and of committed frames. -/
def Obligations.PipelineRows : Prop :=
  ∀ (s : State),
    (entryOpen s = false → exec .pipelineEntry s = .next s) ∧
    (∀ a u, entryOpen s = true → u = offerAll s → entryHeld u = false → nextArrival u = some a →
      exec .pipelineEntry s = .next (giveCredit a.port (u.updPipe fun p => { p with
        wait := p.wait.erase a, granted := p.granted ++ [a], turn := if a.port < 4 then p.turn else a.port }))) ∧
    (s.pipe.granted = [] → exec .frameEnters s = .next s) ∧
    (coreOff s = false →
      (∀ a rest h b u, s.pipe.granted = a :: rest → a.h = some h → u = s.updPipe (fun p => { p with granted := rest }) → getBuf u h = some b →
        exec .frameEnters s = .next (enterWith a h b.oseq u)) ∧
      (∀ a rest p h u w, s.pipe.granted = a :: rest → a.h = none → poolFor a.data.length = some p →
        u = s.updPipe (fun p => { p with granted := rest }) → allocBuf p u = (some h, w) →
        exec .frameEnters s = .next (enterWith a h u.store.alloc w)) ∧
      (s.pipe.parseQ = [] → exec .parse s = .next s) ∧
      (∀ f0 rest u, s.pipe.parseQ = f0 :: rest → fetchPinned .parser f0.h s = (none, u) → exec .parse s = .next u) ∧
      (∀ f0 rest x v u, s.pipe.parseQ = f0 :: rest → fetchPinned .parser f0.h s = (some x, v) →
        u = v.updPipe (fun p => { p with parseQ := rest }) →
        ((x.any (·.err) = true ∨ isBad u f0.h = true) → exec .parse s =
          .next (postSkip f0.port f0.seq (releaseOwner f0.h ownPipeline (checkFail f0.h f0.oseq (readKind 0 x) 0xFFF u)))) ∧
        (let d := readData u f0.h x
         let r := parseData u f0.gen f0.port d
         let f : PFrame := { f0 with
           key := parseKey r.1 0 f0.port (recCh (readRecord u f0.h x)) f0.tc f0.len f0.tag false
           pres := parseResult r.1 0, shadow := d.take 256, hdrOld := min d.length 256, hdrNew := min d.length 256 }
         x.any (·.err) = false → isBad u f0.h = false → r.2 = 0 →
          exec .parse s = .next (classifyFrame f false (updBuf f.h (fun b => { b with pres := f.pres, key := f.key }) u)))) ∧
      (s.pipe.flowQ = [] → exec .flowLookup s = .next s) ∧
      (∀ f rest, s.pipe.flowQ = f :: rest →
        let u := s.updPipe fun p => { p with flowQ := rest }
        let key := lookupKey f.shadow f.pres (profOf s f)
        let ok : Bool := s.host.flow.size != 0 && eligible f.shadow f.pres (profOf s f)
        (ok = false → exec .flowLookup s = .next (exitFlow f (bump 0x60 f.port 3 u))) ∧
        (ok = true → s.flow.looks.length < 128 → exec .flowLookup s = .next (lookFrame { f with look := true } key u)))) ∧
    (∀ tag beats x u, (s.host.reads.find? (·.tag = tag)).bind (fun t => (getXfer s t.xfer).map (·.purp)) = some .lookup →
      readReturn tag beats s = (u, some x) → exec (.flowReadReturn tag beats) s = .next (lookDone x (dropXfer x.id u))) ∧
    (coreOff s = false →
      let next := s.pipe.slots.find? fun x => releasable s x.2 && !reading s .commit x.2.frame.h
      (next = none → exec .release s = .next s) ∧
      (∀ i e g k, next = some (i, e) → e.state = .drop g k → exec .release s =
        .next (leaveWindow i e (fun t => releaseOwner e.frame.h ownPipeline (bump g e.frame.port k t)) (forgetRead .commit e.frame.h s))) ∧
      (∀ i e, next = some (i, e) → e.state = .ready → isRetiring s e.frame.gen = true → exec .release s =
        .next (leaveWindow i e (fun t => releaseOwner e.frame.h ownPipeline (bump 0x50 e.frame.port 11 t)) (forgetRead .commit e.frame.h s))) ∧
      (∀ i e, next = some (i, e) → e.state = .ready → isRetiring s e.frame.gen = false →
        (∀ u, fetchPinned .commit e.frame.h s = (none, u) → exec .release s = .next u) ∧
        (∀ x u, fetchPinned .commit e.frame.h s = (some x, u) → exec .release s =
          .next (leaveWindow i e (fun t => commitFrame e.frame x (if e.frame.reason = 0 then t else unpinBuf e.frame.h t)) u)))) ∧
    (∀ who h, readOf s who h = none → readOf (pinBuf h s) who h = none → readsDram (pinBuf h s) h = false →
      fetchPinned who h s = (some none, touchBuf h (pinBuf h s)))

/-- Onyx input queue, condemnation and the cipher port (R58, R59, R60, R304, R313, R481, R489, R490). The punt of a
frame, the watchdog, redispatch, the test of a condemned engine, and the cipher port's results; an earlier failure of
a load wins over a cipher timeout's status (model's choice, log 75). -/
def Obligations.EngineServiceRows : Prop :=
  ∀ (s : State) (e c n : Nat) (b : Byte),
    (∀ q rest f, coreOff s = false → onyxServes s = true → getQ s .onyx = q :: rest → getBuf s q.h = some f →
      let own := QKey.owner .onyx
      let port := recPort f.record
      let out := popInq .onyx (forgetRead .onyx q.h s)
      (isRetiring s (recGen f.record) = true → exec .onyxInqServe s = .next (releaseOwner q.h own (bump 0x50 port 11 out))) ∧
      (isRetiring s (recGen f.record) = false → s.gv.puntTarget = 0xFFFFFFFF → exec .onyxInqServe s =
        .next (releaseOwner q.h own (bump 0x70 port 6 out))) ∧
      (isRetiring s (recGen f.record) = false → s.gv.puntTarget ≠ 0xFFFFFFFF →
        (∀ u, fetchPinned .onyx q.h s = (none, u) → exec .onyxInqServe s = .next u) ∧
        (∀ x u v, fetchPinned .onyx q.h s = (some x, u) → v = unpinBuf q.h (popInq .onyx u) →
          (readGood v q.h q.oseq x = false →
            exec .onyxInqServe s = .next (releaseOwner q.h own (checkFail q.h q.oseq (readKind 0 x) 0xF0 v))) ∧
          (readGood v q.h q.oseq x = true → exec .onyxInqServe s =
            .next (redirect q.h q.oseq port own q.wake (readData v q.h x) [(s.gv.puntTarget, 0xFFFFFFFF)] v))))) ∧
    (coreOff s = false →
    (e < nEngines s → ((getEng s e).mode = .active ∨ (getEng s e).mode = .draining) → 1 ≤ c → c ≤ 4 →
      exec (.engineWatchdog e c) s = .next (condemn e c s)) ∧
    (e < nEngines s → (getEng s e).mode ≠ .active → (getEng s e).mode ≠ .draining → exec (.engineWatchdog e c) s = .next s) ∧
    (engWrites s e = true → exec (.redispatch e) s = .next s) ∧
    (engWrites s e = false → let u := (movingSlots s e).foldl (fun s i => redispatchSlot i s) s
      exec (.redispatch e) s = .next (u.updPipe fun p => { p with
        disp := ((movingSlots s e).filter fun i => ((getSlot u i).map fun x => decide (x.state = .queued)).getD false) ++ p.disp })) ∧
    (∀ fails, e < nEngines s → (getEng s e).mode = .condemned →
      let r := engineTest e fails s
      let g := getEng r.2 e
      (r.1 = true → g.noReturn = false → condemnedLately r.2 e < 3 → g.again = none →
        exec (.engineBistDone e fails) s = .next (settlePolicy 16 (engReturn e r.2))) ∧
      (∀ k, r.1 = true → g.noReturn = false → condemnedLately r.2 e < 3 → g.again = some k →
        exec (.engineBistDone e fails) s = .next (settlePolicy 16 (condemn e k (engReturn e r.2)))) ∧
      ((r.1 = false ∨ g.noReturn = true ∨ 3 ≤ condemnedLately r.2 e) →
        exec (.engineBistDone e fails) s = .next (settlePolicy 16 (engFail e r.2)))) ∧
    (s.res.ciphAbandoned = true → exec (.ciphDone n) s = .next (freeCipher (s.updRes fun r => { r with ciphAbandoned := false }))) ∧
    (∀ l, s.res.ciphAbandoned = false → s.res.load = some l → l.phase = .cipher → l.got.length = l.ctLen → l.fed = l.total →
      exec (.ciphDone n) s = .next (settleLoad (updLoad (fun l => { l with phase := .drain (n % 4) })
        (dropXfers (fun x => decide (x.purp = .image)) (s.updRes fun r => { r with ciphOut := false }))))) ∧
    (∀ l, s.res.load = some l → l.phase = .cipher → l.fed = l.total →
      exec .ciphTimeout s = .next (settleLoad (updLoad (fun l => { l with phase := .drain 1, fail := some (l.fail.getD stImgAuth) })
        (s.updRes fun r => { r with ciphOut := false, ciphAbandoned := true })))) ∧
    (∀ l, s.res.load = some l → l.phase = .cipher → l.got.length < l.ctLen → l.fail = none →
      ((l.got.length + 1) % 64 ≠ 0 → l.got.length + 1 ≠ l.ctLen →
        exec (.ciphPlaintextByte b) s = .next (updLoad (fun x => { x with got := l.got ++ [b] }) s)) ∧
      ((l.got.length + 1) % 64 = 0 → exec (.ciphPlaintextByte b) s =
        .next (let lo := l.got.length / 64 * 64
          startXfer .stage true 0x210 (s.host.staging.base + l.off + lo) (l.got.length + 1 - lo) ((l.got ++ [b]).drop lo)
            (updLoad (fun x => { x with written := l.got.length + 1 }) (updLoad (fun x => { x with got := l.got ++ [b] }) s))))))

/-- Resets (R69, R78, R80, R480, R504, R505, R511, R536). Cold and warm reset with what each keeps, release, boot,
TEST_MODE and the line-message control. A release with TEST_MODE high boots as one with it low (model's choice, log
76). -/
def Obligations.ResetRows : Prop :=
  ∀ (s : State) (b : Bool) (l v : Nat),
    (exec .rstAoNAssert s = .next { State.reset with
      build := s.build, free := s.free, pending := s.pending, pwr := pinsInReset s.pwr false
      sys := { held := true, rstN := false, rstAoN := false, lastReset := 0 }
      res := { record := s.res.record }, mt := { test := { mode := s.mt.test.mode, wir := s.mt.test.wir } } }) ∧
    (s.sys.rstN = false → exec .rstNAssert s = .next s) ∧
    (s.sys.rstN = true → ∃ t, exec .rstNAssert s = .next (applyRecord t) ∧ t.sys.held = true ∧ t.sys.phase = State.reset.sys.phase ∧
      t.time.tb = [(7, { v := (getTb s 7).v })] ∧ t.res.record = s.res.record ∧ t.host = State.reset.host ∧ t.gv = State.reset.gv ∧
      t.reg = State.reset.reg ∧ t.ports = State.reset.ports ∧ t.store = State.reset.store ∧ t.pending = s.pending ∧
      t.pwr.wakeTime = s.pwr.wakeTime ∧ t.cnt = s.cnt.filter fun x => aoCounter x.1) ∧
    (s.sys.rstAoN = false → exec .rstAoNDeassert s = .next (applyRecord (s.updSys fun y => { y with rstAoN := true }))) ∧
    (s.sys.held = true → s.sys.rstAoN = true → exec .coreResetRelease s = .next (
      let t := s.updSys fun y => { y with
        held := false, rstN := true, lastReset := if s.sys.lastReset = 0 then 1 else 2
        warmCount := if s.sys.lastReset = 0 then 0 else min 255 (y.warmCount + 1) }
      let u := if s.mt.test.session then applyRecord t else t
      driveReqs (dealDefault (u.updMt fun m => { m with
        test := { m.test with atReset := m.test.mode, session := false, bistRun := false, fixes := [] } })))) ∧
    (s.sys.held = false → exec .coreResetRelease s = .next s) ∧
    (s.sys.held = false → s.sys.boot = false → s.sys.fw = false → s.sys.phase = 0 → s.res.jasper = .idle →
      exec .bootReady s = .next (s.updSys fun y => { y with boot := true })) ∧
    (exec (.testModeChange b) s = .next (s.updMt fun m => { m with
      test := { m.test with mode := b, bistRun := m.test.bistRun && (b || s.sys.rstN) } })) ∧
    (Serving s → l < 4 → (v % 2 = 0 ∨ msgAddrBad (getMsg s l).addr = false) →
      exec (.intMsgCtrlWrite l v) s = .next (answer 0 (setMsg l (fun x =>
        let bad := v.testBit 0 && msgAddrBad x.addr
        { x with enable := v.testBit 0 && !bad, addrErr := bad, owed := x.owed && v.testBit 0 && !bad }) s)))

/-- Scrubbing, repair and the Onyx pair (R473, R474, R475, R476, R477, R480, R482, R483, R484, R485, R491, R493). The
scrubber's reads, the ends of repairs, refills, traps and hangs, cold restarts and the standby. That the next repair
of a unit starts at the end of one, and that a core that is not resynchronised stays FAILED, are read from the spec by
inference (log 83). -/
def Obligations.RepairEventRows : Prop :=
  ∀ (s : State) (h : ScrubHit) (p : Place) (n : Nat),
    (Serving s →
      let s0 := s.updRes fun r => { r with passRun := r.passRun || r.period != 0 }
      let end_ := fun (t : State) => if h.last && (s.res.passRun || s.res.period != 0) then endPass t else t
      (h.wrong = 0 → exec (.scrubRead h) s = .next (nextRetire (end_ s0))) ∧
      (h.wrong = 1 → exec (.scrubRead h) s = .next (nextRetire (end_ (corrected h.place s0)))) ∧
      (h.wrong = 2 → exec (.scrubRead h) s = .next (nextRetire (end_ (uncorrected h s0))))) ∧
    (∀ r, coreOff s = false → s.res.repairs.find? (fun x => decide (x.place = rowOf p) && decide (x.column = false) && x.spare.isSome) = some r →
      exec (.rowRepairDone p) s = .next (nextRepair (rowOf p) s.res.repairs.length
        (appendRecord (recordEntry 1 (rowOf p) (rowOf p).row (r.spare.getD 0)) (logFault fkRow (rowOf p) 0
          (bump 0xE0 0 2 (s.updRes fun x => { x with
            repairs := x.repairs.filter (· != r), rowErr := x.rowErr.filter (·.1 != rowOf p) })))))) ∧
    (∀ r, coreOff s = false → s.res.repairs.find? (fun x => decide (x.place = colOf p) && decide (x.column = true) && x.spare.isSome) = some r →
      exec (.columnRepairDone p) s = .next (nextRepair (colOf p) s.res.repairs.length
        (appendRecord (recordEntry 2 (colOf p) (colOf p).col (r.spare.getD 0)) (logFault fkColumn (colOf p) 0
          (bump 0xE0 0 3 (s.updRes fun x => { x with repairs := x.repairs.filter (· != r) })))))) ∧
    (s.res.repairs = [] → exec (.rowRepairDone p) s = .next s ∧ exec (.columnRepairDone p) s = .next s) ∧
    (coreOff s = false → exec (.freeListRebuildDone n) s = .next (s.updRes fun r => { r with rebuild := r.rebuild.filter (· != n) })) ∧
    (coreOff s = false → n < nEngines s → (getEng s n).base = true → exec (.imemRefillDone n) s = .next (setEng n (fun g => { g with imem := imemImage s }) s)) ∧
    (Serving s → s.res.jasper = .idle → s.sys.fw = true → s.res.standby ≠ .ready →
      let c := s.res.active
      let u := (s.updSys fun y => { y with boot := false, fw := false }).updRes fun r => { r with fails := r.fails ++ [(c, nowNs s)] }
      exec .onyxTrap s = .next (tryCold (if bothFailed c s then 3 else 1) (logFault fkOnyx { sub := 4, unit := c } 1 u)) ∧
      exec .onyxHang s = .next (tryCold (if bothFailed c s then 3 else 1) (logFault fkOnyx { sub := 4, unit := c } 2 u))) ∧
    (s.res.jasper = .cold → (s.res.fwHeld = false ∨ s.res.fwBad = true) →
      exec .coldRestartDone s = .next (onyxRuns (setService 6 true ((s.updRes fun r => { r with jasper := .idle }).updSys fun y => { y with boot := true })))) ∧
    (s.res.jasper = .cold → s.res.fwHeld = true → s.res.fwBad = false →
      exec .coldRestartDone s = .next (onyxRuns (raiseAll 0x0182 (toLe 1 1 ++ zeros 3 ++ toLe 4 s.gv.queue.length)
        (((s.updRes fun r => { r with jasper := .idle }).updSys fun y => { y with fw := true, onyxVer := s.res.keptVer }).updRes fun r => { r with
          coldTimes := [], fwBuild := r.keptBuild, fwNext := none, standby := if r.noResync.contains (1 - r.active) then .failed else .sync })))) ∧
    (Serving s → s.res.standby = .sync → s.res.jasper = .idle → s.res.act = none →
      exec .standbyReady s = .next (judgeMgmt (retainFirmware (s.updRes fun r => { r with standby := .ready })))) ∧
    (Serving s → s.sys.fw = true → s.res.jasper = .idle → s.res.standby = .failed → exec .standbyCoreFail s = .next s) ∧
    (Serving s → s.sys.fw = true → s.res.jasper = .takeover → exec .standbyCoreFail s =
      .next (coldRestart (if bothFailed (1 - s.res.active) s then 3 else 2) s)) ∧
    (∀ a, s.res.act = some a → (a.phase = .sync ∨ (a.phase = .switch ∧ s.res.standby ≠ .ready)) → exec .standbySyncTimeout s = .next (endAct stImgFormat s)) ∧
    (coreOff s = false → exec .scrubWriteRetry s = .next (s.res.scrubs.foldl (fun s x => scrubAt x.1 x.2 s)
      (s.updRes fun r => { r with scrubs := [] })))

/-- Commands of the resilience unit (R313, R473, R475, R481, R484, R489, R493, R499, R500, R501). RES_IMAGE_LOAD,
RES_IMAGE_ACTIVATE, RES_ENGINE_CONDEMN, RES_ENGINE_RETURN, RES_MGMT_SWITCH, RES_CONFIG, RES_STATUS_GET, RES_FAULT_READ
and RES_COUNTERS_GET. -/
def Obligations.ResilienceCommandRows : Prop :=
  ∀ (s : State) (q : Req),
    let p := q.payload
    let n := u8 p 0
    (InHand 0x0E01 q s → n ≤ 2 → u32 p 4 = 0 → u64 p 8 % 64 = 0 → busyImages s = false → s.host.staging.size ≠ 0 →
      windowOk s (agentOf q s) (u64 p 8) 16 = true → exec .resImageLoad s = .next ((startXfer .image false 0x210 (u64 p 8) 16 []
        (s.updRes fun r => { r with load := some { mb := q.mb, kind := n, slot := u8 p 1, epoch := u16 p 2, group := 0, addr := u64 p 8
                                                   rollback := (u8 p 16).testBit 0 } })).updGv
        fun g => { g with taken := none, running := g.running ++ [q] })) ∧
    (InHand 0x0E01 q s → n ≤ 2 → u32 p 4 = 0 → u64 p 8 % 64 = 0 → busyImages s = false → s.host.staging.size ≠ 0 →
      windowOk s (agentOf q s) (u64 p 8) 16 = false → inWindow s (u64 p 8) 16 = true →
      exec .resImageLoad s = .next (finishTaken q (errAt stNotOwner 8) s)) ∧
    (InHand 0x0E01 q s → 3 < n → exec .resImageLoad s = .next (finishTaken q (inv 0) s)) ∧
    (∀ im, InHand 0x0E02 q s → n = 1 → busyImages s = false → s.res.images.get? n = some im → s.host.staging.size ≠ 0 →
      exec .resImageActivate s = .next ((startXfer .stageRead false 0x210 (s.host.staging.base + im.off) im.len []
        (s.updRes fun r => { r with act := some { mb := q.mb, kind := n } })).updGv
        fun g => { g with taken := none, running := g.running ++ [q] })) ∧
    (InHand 0x0E02 q s → n ≤ 1 → busyImages s = false → s.res.images.get? n = none →
      exec .resImageActivate s = .next (finishTaken q (errR stNotFound) s)) ∧
    (InHand 0x0E03 q s → n < nEngines s → ((getEng s n).mode = .active ∨ (getEng s n).mode = .draining ∨ (getEng s n).mode = .spare) →
      exec .resEngineCondemn s = .next (finishTaken q okR (condemn n 5 s))) ∧
    (InHand 0x0E04 q s → n < nEngines s → (getEng s n).failed = true → (getEng s n).testing = false →
      exec .resEngineReturn s = .next ((driveReqs (setEng n (fun g => { g with testing := true }) s)).updGv
        fun g => { g with taken := none, running := g.running ++ [q] })) ∧
    (InHand 0x0E04 q s → n < nEngines s → (getEng s n).failed = false → exec .resEngineReturn s = .next (finishTaken q (errR stWrongState) s)) ∧
    (InHand 0x0E05 q s → s.res.standby ≠ .ready → exec .resMgmtSwitch s = .next (finishTaken q (errR stWrongState) s)) ∧
    (InHand 0x0E05 q s → s.res.standby = .ready → exec .resMgmtSwitch s =
      .next (finishTaken q okR (finishTakeover (swapCores .sync (logFault fkOnyx { sub := 4, unit := s.res.active } 4 s))))) ∧
    (InHand 0x0E06 q s → u16 p 0 ≤ 168 → exec .resConfig s =
      .next (finishTaken q okR (s.updRes fun r => { r with period := u16 p 0, blockId := u8 p 2, packageId := u8 p 3 }))) ∧
    (InHand 0x0E07 q s → exec .resStatusGet s = .next (finishTaken q (okD (resStatusBytes s)) s)) ∧
    (InHand 0x0E08 q s → 1 ≤ n → n ≤ 7 → exec .resFaultRead s =
      .next (finishTaken q (okD (toLe 1 (s.res.log.take n).length ++ zeros 7 ++ (s.res.log.take n).flatten))
        (s.updRes fun r => { r with log := r.log.drop n }))) ∧
    (InHand 0x0E09 q s → n = 0 → u8 p 1 ≤ 1 → exec .resCountersGet s =
      .next (let r := readCounters 0xE0 0 13 (decide (u8 p 1 = 1)) s; finishTaken q (okD r.1) r.2))

/-- Measurement and test access (R78, R79, R513, R514, R517, R518, R520, R521, R522, R523, R524, R527). The monitored
units, bandwidth windows, generator and checker commands; the wrapper's instructions in test mode and refused outside
it; BIST results and the repair record. -/
def Obligations.MeasurementAndTestRows : Prop :=
  (∀ (s : State) (q : Req) (u v : Nat),
    let p := q.payload
    let n := u8 p 0
    (Serving s → pmuPresent s u = true →
      exec (.pmuLoad u) s = .next (answer 0 (setPmu u (fun x => { x with cnt := x.reload, cycle := 0 }) (hostPerf s))) ∧
      (v / 4 % 2 = 0 → exec (.pmuRunWrite u v) s =
        .next (answer 0 (setPmu u (fun x => { x with run := v.testBit 0, freeze := v.testBit 1 }) (hostPerf s))))) ∧
    (Serving s → u < nPorts s → exec (.bwCfgWrite u v) s = .next (answer 0 (bwCfg u v s))) ∧
    (coreOff s = false → u < nPorts s → (getBw s u).run = true → exec (.bwWindowEnd u) s = .next (setBw u (fun b => { b with
      lrxO := b.rxO, lrxF := b.rxF, ltxO := b.txO, ltxF := b.txF, seq := (b.seq + 1) % 2 ^ 32
      rxPeak := max b.rxPeak b.rxO, txPeak := max b.txPeak b.txO, rxO := 0, rxF := 0, txO := 0, txF := 0 }) s)) ∧
    ((getBw s u).run = false → exec (.bwWindowEnd u) s = .next s) ∧
    (InHand 0x0F01 q s → n < nPorts s → u8 p 1 = 1 → u8 p 2 ≤ 1 → 14 ≤ u8 p 4 → u8 p 4 ≤ 64 → 64 ≤ u16 p 8 → u8 p 4 + 20 ≤ u16 p 8 →
      u16 p 8 ≤ u16 p 10 → u16 p 10 ≤ ptMax (getPort s n).applied →
      exec .mtGenSet s = .next (finishTaken q okR (endLpi n (setGc n (fun g => { g with
        gen := true, set := p, i := 0, stop := false, old := (getPort s n).tx.any (·.gen) }) s)))) ∧
    (InHand 0x0F01 q s → n < nPorts s → u8 p 1 = 0 → exec .mtGenSet s = .next (finishTaken q okR
      (setGc n (fun g => if (getPort s n).tx.any (·.gen) then { g with stop := true } else { g with gen := false }) s))) ∧
    (InHand 0x0F02 q s → n < nPorts s → u8 p 1 = 0 → exec .mtChkSet s =
      .next (finishTaken q okR (setGc n (fun g => { g with chk := false }) s))) ∧
    (InHand 0x0F03 q s → n < nPorts s → u8 p 1 = 0 → exec .mtResultGet s = .next (finishTaken q (okD (mtResult s n)) s)) ∧
    (InHand 0x0F03 q s → n < nPorts s → u8 p 1 = 1 → exec .mtResultGet s =
      .next (finishTaken q (okD (mtResult s n)) (setGc n clearResults s))) ∧
    (InHand 0x0F04 q s → u32 p 0 ≠ 0 → u8 p 4 = 0 → exec .mtPmuControl s =
      .next (finishTaken q okR (((bitList 16 (u32 p 0)).filter (pmuPresent s)).foldl
        (fun s i => setPmu i (fun x => { x with run := false }) s) (hostPerf s)))) ∧
    (InHand 0x0F04 q s → u32 p 0 = 0 → exec .mtPmuControl s = .next (finishTaken q (inv 0) s))) ∧
  (∀ (s : State) (entry code : Nat) (cells : List Bool) (chains : List (List Bool)) (fails : List (Option (List Cell))),
    let open_ (code : Nat) : State := updTest (fun t => { t with wir := code, session := true }) s
    let shut := updTest (fun t => { t with wir := 0, refused := sat32 t.refused }) s
    (code % 256 = 0 → exec (.wsBypass code) s = .next (updTest (fun t => { t with wir := 0 }) s)) ∧
    (wirCodes.contains (code % 256) = false → exec (.wsBypass code) s = .next (updTest (fun t => { t with wir := code % 256 }) s)) ∧
    (exec (.wsPreload cells) s = .next (updTest (fun t => { t with wir := 3, boundary := cells }) s)) ∧
    (exec .memoryBistStatusRead s = .next (updTest (fun t => { t with wir := 0x21, shiftOut := statusBits t }) s)) ∧
    (exec .repairRecordRead s = .next (updTest (fun t => { t with wir := 0x22, shiftOut := recordBits s.res.record }) s)) ∧
    (s.mt.test.mode = true → s.sys.rstN = false →
      exec (.wsExtest cells) s = .next (updTest (fun t => { t with boundary := cells }) (open_ 1)) ∧
      exec (.wsIntest cells) s = .next (updTest (fun t => { t with boundary := cells }) (open_ 2)) ∧
      exec (.internalScan chains) s = .next (updTest (fun t => { t with scan := chains.take 32 }) (open_ 0x10)) ∧
      exec .memoryBistRun s = .next (updTest (fun t => { t with bistRun := true }) (open_ 0x20)) ∧
      exec (.repairRecordProgram entry) s = .next (programRecord entry (open_ 0x23))) ∧
    ((s.mt.test.mode = false ∨ s.sys.rstN = true) →
      exec (.wsExtest cells) s = .next shut ∧ exec (.wsIntest cells) s = .next shut ∧ exec (.internalScan chains) s = .next shut ∧
      exec .memoryBistRun s = .next shut ∧ exec (.repairRecordProgram entry) s = .next shut) ∧
    (s.mt.test.bistRun = false → exec (.bistDone fails) s = .next s) ∧
    (s.mt.test.bistRun = true → ∃ t, exec (.bistDone fails) s = .next (updTest (fun _ => t) s) ∧ t.bistRun = false ∧
      t.results = fails.map (fun m => (m.map fun c => (bistAllocate 0 0 c).1).getD 3) ∧ t.wir = s.mt.test.wir ∧ t.mode = s.mt.test.mode ∧
      (2 ∈ t.results → t.outcome = 3) ∧ (2 ∉ t.results → 1 ∈ t.results → t.outcome = 2) ∧
      (2 ∉ t.results → 1 ∉ t.results → t.outcome = 1)))
end

