-- ==== Sys2Proof/Laws/Commands.lean ====
section
/-! SUPPORT. What the shared operations of the commands do with a request in hand, and the command lists of a rule. -/

namespace Sys2Proof.Machine

open Sys2Proof

theorem immediate_inHand {code : Nat} {f : Req → State → State × Reply} {q : Req} {s t : State} {r : Reply}
    (h : InHand code q s) (hf : f q s = (t, r)) : immediate code f s = finishTaken q r t := by
  unfold immediate; rw [h.1]; simp only [h.2, hf]

theorem longRunning_answers {code : Nat} {f : Req → State → State × Option Reply} {q : Req} {s t : State} {r : Reply}
    (h : InHand code q s) (hf : f q s = (t, some r)) : longRunning code f s = finishTaken q r t := by
  unfold longRunning; rw [h.1]; simp only [h.2, hf]

theorem longRunning_runs {code : Nat} {f : Req → State → State × Option Reply} {q : Req} {s t : State}
    (h : InHand code q s) (hf : f q s = (t, none)) :
    longRunning code f s = t.updGv fun g => { g with taken := none, running := g.running ++ [q] } := by
  unfold longRunning; rw [h.1]; simp only [h.2, hf]

theorem firstErr_none {l : List (Bool × Reply)} (h : ∀ x ∈ l, x.1 = false) : firstErr l = none := by
  induction l with
  | nil => rfl
  | cons a t ih => simp [firstErr, h a (by simp)]; exact ih fun x hx => h x (by simp [hx])

theorem isa_of_canRun {e t : Nat} {f : State → State} {s : State} (h : canRun s e t = true) : isa e t f s = f s := by
  simp [isa, h]

/-- With the core domain on, an event of that domain has its effect; with it off, none. -/
theorem clocked_on {s t : State} (h : coreOff s = false) : clocked s t = t := by simp [clocked, h]
theorem clocked_off {s t : State} (h : coreOff s = true) : clocked s t = s := by simp [clocked, h]

end Sys2Proof.Machine
end

