-- ==== Sys2Proof/Laws/Mem.lean ====
section
/-! SUPPORT. The laws of a memory: reading back, and the canonical form that every write keeps. -/

namespace Sys2Proof.Machine

open Sys2Proof

theorem Mem.wfFrom_mono {m : Mem} : ∀ {lo lo' : Nat}, lo' ≤ lo → Mem.wfFrom lo m = true → Mem.wfFrom lo' m = true := by
  cases m with
  | nil => intros; rfl
  | cons c m =>
    intro lo lo' h hw
    simp only [Mem.wfFrom, Bool.and_eq_true, decide_eq_true_eq] at hw ⊢
    exact ⟨⟨by omega, hw.1.2⟩, hw.2⟩

theorem Mem.del_wf {m : Mem} {a : Nat} : ∀ {lo : Nat}, Mem.wfFrom lo m = true → Mem.wfFrom lo (Mem.del m a) = true := by
  induction m with
  | nil => intros; rfl
  | cons c m ih =>
    intro lo hw
    have hw' := hw
    simp only [Mem.wfFrom, Bool.and_eq_true, decide_eq_true_eq] at hw
    simp only [Mem.del]
    split
    · simp only [Mem.wfFrom, Bool.and_eq_true, decide_eq_true_eq]
      exact ⟨hw.1, ih hw.2⟩
    · split
      · exact Mem.wfFrom_mono (by omega) hw.2
      · exact hw'

theorem Mem.ins_wf {m : Mem} {a : Nat} {x : Byte} (hx : x ≠ 0#8) :
    ∀ {lo : Nat}, lo ≤ a → Mem.wfFrom lo m = true → Mem.wfFrom lo (Mem.ins m a x) = true := by
  induction m with
  | nil => intro lo h _; simp [Mem.ins, Mem.wfFrom, h, hx]
  | cons c m ih =>
    intro lo h hw
    simp only [Mem.wfFrom, Bool.and_eq_true, decide_eq_true_eq] at hw
    simp only [Mem.ins]
    split
    · simp only [Mem.wfFrom, Bool.and_eq_true, decide_eq_true_eq]
      exact ⟨hw.1, ih (by omega) hw.2⟩
    · split
      · subst_vars; simp [Mem.wfFrom, h, hx, hw.2]
      · simp only [Mem.wfFrom, Bool.and_eq_true, decide_eq_true_eq]
        exact ⟨⟨h, by simpa using hx⟩, ⟨by omega, hw.1.2⟩, hw.2⟩

/-- Writing a byte keeps the canonical form. -/
theorem Mem.wr_wf {m : Mem} {a : Nat} {x : Byte} (h : Memory.wf m = true) : Memory.wf (Mem.wr m a x) = true := by
  unfold Mem.wr Memory.wf
  split
  · exact Mem.del_wf h
  · rename_i hx; exact Mem.ins_wf hx (Nat.zero_le _) h

/-- Writing bytes keeps the canonical form. -/
theorem Mem.wrN_wf {l : Bytes} : ∀ {m : Mem} {a : Nat}, Memory.wf m = true → Memory.wf (Mem.wrN m a l) = true := by
  induction l with
  | nil => intro m a h; exact h
  | cons x t ih => intro m a h; exact ih (Mem.wr_wf h)

/-- Below its first cell a memory in canonical form reads 0. -/
theorem Mem.rd_below {m : Mem} : ∀ {lo a : Nat}, a < lo → Mem.wfFrom lo m = true → Mem.rd m a = 0#8 := by
  induction m with
  | nil => intros; rfl
  | cons c m ih =>
    intro lo a h hw
    simp only [Mem.wfFrom, Bool.and_eq_true, decide_eq_true_eq] at hw
    simp only [Mem.rd]
    rw [if_neg (by omega)]
    exact ih (lo := c.1 + 1) (by omega) hw.2

theorem Mem.rd_del {m : Mem} {a b : Nat} : ∀ {lo : Nat}, Mem.wfFrom lo m = true →
    Mem.rd (Mem.del m a) b = if b = a then 0#8 else Mem.rd m b := by
  induction m with
  | nil => intro lo _; simp [Mem.del, Mem.rd]
  | cons c m ih =>
    intro lo hw
    simp only [Mem.wfFrom, Bool.and_eq_true, decide_eq_true_eq] at hw
    simp only [Mem.del]
    split
    · rename_i h
      simp only [Mem.rd, ih hw.2]
      by_cases h1 : c.1 = b
      · rw [if_pos h1, if_pos h1, if_neg (by omega)]
      · rw [if_neg h1, if_neg h1]
    · split
      · rename_i h; simp only [Mem.rd]
        by_cases h1 : b = a
        · rw [if_pos h1]; exact Mem.rd_below (lo := c.1 + 1) (by omega) hw.2
        · rw [if_neg h1, if_neg (by omega)]
      · rename_i h2 h3
        by_cases h1 : b = a
        · subst h1; rw [if_pos rfl]; simp only [Mem.rd]; rw [if_neg h3]
          exact Mem.rd_below (lo := c.1 + 1) (by omega) hw.2
        · rw [if_neg h1]

theorem Mem.rd_ins {m : Mem} {a b : Nat} {x : Byte} : Mem.rd (Mem.ins m a x) b = if b = a then x else Mem.rd m b := by
  induction m with
  | nil =>
    simp only [Mem.ins, Mem.rd]
    by_cases h : b = a
    · rw [if_pos h.symm, if_pos h]
    · rw [if_neg (Ne.symm h), if_neg h]
  | cons c m ih =>
    simp only [Mem.ins]
    split
    · rename_i h
      simp only [Mem.rd, ih]
      by_cases h1 : c.1 = b
      · rw [if_pos h1, if_pos h1, if_neg (by omega)]
      · rw [if_neg h1, if_neg h1]
    · split
      · rename_i h; simp only [Mem.rd]
        by_cases h1 : b = a
        · rw [if_pos h1, if_pos h1.symm]
        · rw [if_neg h1, if_neg (by omega), if_neg (by omega)]
      · simp only [Mem.rd]
        by_cases h1 : b = a
        · rw [if_pos h1, if_pos h1.symm]
        · rw [if_neg h1, if_neg (by omega)]

/-- A byte reads as last written, and a write leaves every other byte. -/
theorem Mem.rd_wr {m : Mem} {a b : Nat} {x : Byte} (h : Memory.wf m = true) :
    Mem.rd (Mem.wr m a x) b = if b = a then x else Mem.rd m b := by
  unfold Mem.wr
  split
  · rename_i hx; rw [Mem.rd_del h, hx]
  · exact Mem.rd_ins

end Sys2Proof.Machine
end

