-- ==== Sys2Proof/Laws/State.lean ====
section
/-! SUPPORT. One lemma for each field under each named update of the state. -/

namespace Sys2Proof.Machine

variable (s : State)

@[simp] theorem State.updBuild_build (f : Build → Build) : (s.updBuild f).build = f s.build := rfl
@[simp] theorem State.updBuild_host (f : Build → Build) : (s.updBuild f).host = s.host := rfl
@[simp] theorem State.updBuild_intr (f : Build → Build) : (s.updBuild f).intr = s.intr := rfl
@[simp] theorem State.updBuild_reg (f : Build → Build) : (s.updBuild f).reg = s.reg := rfl
@[simp] theorem State.updBuild_gv (f : Build → Build) : (s.updBuild f).gv = s.gv := rfl
@[simp] theorem State.updBuild_time (f : Build → Build) : (s.updBuild f).time = s.time := rfl
@[simp] theorem State.updBuild_lanes (f : Build → Build) : (s.updBuild f).lanes = s.lanes := rfl
@[simp] theorem State.updBuild_ports (f : Build → Build) : (s.updBuild f).ports = s.ports := rfl
@[simp] theorem State.updBuild_store (f : Build → Build) : (s.updBuild f).store = s.store := rfl
@[simp] theorem State.updBuild_sch (f : Build → Build) : (s.updBuild f).sch = s.sch := rfl
@[simp] theorem State.updBuild_sta (f : Build → Build) : (s.updBuild f).sta = s.sta := rfl
@[simp] theorem State.updBuild_ch (f : Build → Build) : (s.updBuild f).ch = s.ch := rfl
@[simp] theorem State.updBuild_rl (f : Build → Build) : (s.updBuild f).rl = s.rl := rfl
@[simp] theorem State.updBuild_crc (f : Build → Build) : (s.updBuild f).crc = s.crc := rfl
@[simp] theorem State.updBuild_pwr (f : Build → Build) : (s.updBuild f).pwr = s.pwr := rfl
@[simp] theorem State.updBuild_sys (f : Build → Build) : (s.updBuild f).sys = s.sys := rfl
@[simp] theorem State.updBuild_cls (f : Build → Build) : (s.updBuild f).cls = s.cls := rfl
@[simp] theorem State.updBuild_res (f : Build → Build) : (s.updBuild f).res = s.res := rfl
@[simp] theorem State.updBuild_pipe (f : Build → Build) : (s.updBuild f).pipe = s.pipe := rfl
@[simp] theorem State.updBuild_flow (f : Build → Build) : (s.updBuild f).flow = s.flow := rfl
@[simp] theorem State.updBuild_eng (f : Build → Build) : (s.updBuild f).eng = s.eng := rfl
@[simp] theorem State.updBuild_mt (f : Build → Build) : (s.updBuild f).mt = s.mt := rfl
@[simp] theorem State.updBuild_cnt (f : Build → Build) : (s.updBuild f).cnt = s.cnt := rfl
@[simp] theorem State.updBuild_free (f : Build → Build) : (s.updBuild f).free = s.free := rfl
@[simp] theorem State.updBuild_pending (f : Build → Build) : (s.updBuild f).pending = s.pending := rfl
@[simp] theorem State.updHost_build (f : HostSt → HostSt) : (s.updHost f).build = s.build := rfl
@[simp] theorem State.updHost_host (f : HostSt → HostSt) : (s.updHost f).host = f s.host := rfl
@[simp] theorem State.updHost_intr (f : HostSt → HostSt) : (s.updHost f).intr = s.intr := rfl
@[simp] theorem State.updHost_reg (f : HostSt → HostSt) : (s.updHost f).reg = s.reg := rfl
@[simp] theorem State.updHost_gv (f : HostSt → HostSt) : (s.updHost f).gv = s.gv := rfl
@[simp] theorem State.updHost_time (f : HostSt → HostSt) : (s.updHost f).time = s.time := rfl
@[simp] theorem State.updHost_lanes (f : HostSt → HostSt) : (s.updHost f).lanes = s.lanes := rfl
@[simp] theorem State.updHost_ports (f : HostSt → HostSt) : (s.updHost f).ports = s.ports := rfl
@[simp] theorem State.updHost_store (f : HostSt → HostSt) : (s.updHost f).store = s.store := rfl
@[simp] theorem State.updHost_sch (f : HostSt → HostSt) : (s.updHost f).sch = s.sch := rfl
@[simp] theorem State.updHost_sta (f : HostSt → HostSt) : (s.updHost f).sta = s.sta := rfl
@[simp] theorem State.updHost_ch (f : HostSt → HostSt) : (s.updHost f).ch = s.ch := rfl
@[simp] theorem State.updHost_rl (f : HostSt → HostSt) : (s.updHost f).rl = s.rl := rfl
@[simp] theorem State.updHost_crc (f : HostSt → HostSt) : (s.updHost f).crc = s.crc := rfl
@[simp] theorem State.updHost_pwr (f : HostSt → HostSt) : (s.updHost f).pwr = s.pwr := rfl
@[simp] theorem State.updHost_sys (f : HostSt → HostSt) : (s.updHost f).sys = s.sys := rfl
@[simp] theorem State.updHost_cls (f : HostSt → HostSt) : (s.updHost f).cls = s.cls := rfl
@[simp] theorem State.updHost_res (f : HostSt → HostSt) : (s.updHost f).res = s.res := rfl
@[simp] theorem State.updHost_pipe (f : HostSt → HostSt) : (s.updHost f).pipe = s.pipe := rfl
@[simp] theorem State.updHost_flow (f : HostSt → HostSt) : (s.updHost f).flow = s.flow := rfl
@[simp] theorem State.updHost_eng (f : HostSt → HostSt) : (s.updHost f).eng = s.eng := rfl
@[simp] theorem State.updHost_mt (f : HostSt → HostSt) : (s.updHost f).mt = s.mt := rfl
@[simp] theorem State.updHost_cnt (f : HostSt → HostSt) : (s.updHost f).cnt = s.cnt := rfl
@[simp] theorem State.updHost_free (f : HostSt → HostSt) : (s.updHost f).free = s.free := rfl
@[simp] theorem State.updHost_pending (f : HostSt → HostSt) : (s.updHost f).pending = s.pending := rfl
@[simp] theorem State.updIntr_build (f : IntrSt → IntrSt) : (s.updIntr f).build = s.build := rfl
@[simp] theorem State.updIntr_host (f : IntrSt → IntrSt) : (s.updIntr f).host = s.host := rfl
@[simp] theorem State.updIntr_intr (f : IntrSt → IntrSt) : (s.updIntr f).intr = f s.intr := rfl
@[simp] theorem State.updIntr_reg (f : IntrSt → IntrSt) : (s.updIntr f).reg = s.reg := rfl
@[simp] theorem State.updIntr_gv (f : IntrSt → IntrSt) : (s.updIntr f).gv = s.gv := rfl
@[simp] theorem State.updIntr_time (f : IntrSt → IntrSt) : (s.updIntr f).time = s.time := rfl
@[simp] theorem State.updIntr_lanes (f : IntrSt → IntrSt) : (s.updIntr f).lanes = s.lanes := rfl
@[simp] theorem State.updIntr_ports (f : IntrSt → IntrSt) : (s.updIntr f).ports = s.ports := rfl
@[simp] theorem State.updIntr_store (f : IntrSt → IntrSt) : (s.updIntr f).store = s.store := rfl
@[simp] theorem State.updIntr_sch (f : IntrSt → IntrSt) : (s.updIntr f).sch = s.sch := rfl
@[simp] theorem State.updIntr_sta (f : IntrSt → IntrSt) : (s.updIntr f).sta = s.sta := rfl
@[simp] theorem State.updIntr_ch (f : IntrSt → IntrSt) : (s.updIntr f).ch = s.ch := rfl
@[simp] theorem State.updIntr_rl (f : IntrSt → IntrSt) : (s.updIntr f).rl = s.rl := rfl
@[simp] theorem State.updIntr_crc (f : IntrSt → IntrSt) : (s.updIntr f).crc = s.crc := rfl
@[simp] theorem State.updIntr_pwr (f : IntrSt → IntrSt) : (s.updIntr f).pwr = s.pwr := rfl
@[simp] theorem State.updIntr_sys (f : IntrSt → IntrSt) : (s.updIntr f).sys = s.sys := rfl
@[simp] theorem State.updIntr_cls (f : IntrSt → IntrSt) : (s.updIntr f).cls = s.cls := rfl
@[simp] theorem State.updIntr_res (f : IntrSt → IntrSt) : (s.updIntr f).res = s.res := rfl
@[simp] theorem State.updIntr_pipe (f : IntrSt → IntrSt) : (s.updIntr f).pipe = s.pipe := rfl
@[simp] theorem State.updIntr_flow (f : IntrSt → IntrSt) : (s.updIntr f).flow = s.flow := rfl
@[simp] theorem State.updIntr_eng (f : IntrSt → IntrSt) : (s.updIntr f).eng = s.eng := rfl
@[simp] theorem State.updIntr_mt (f : IntrSt → IntrSt) : (s.updIntr f).mt = s.mt := rfl
@[simp] theorem State.updIntr_cnt (f : IntrSt → IntrSt) : (s.updIntr f).cnt = s.cnt := rfl
@[simp] theorem State.updIntr_free (f : IntrSt → IntrSt) : (s.updIntr f).free = s.free := rfl
@[simp] theorem State.updIntr_pending (f : IntrSt → IntrSt) : (s.updIntr f).pending = s.pending := rfl
@[simp] theorem State.updReg_build (f : RegSt → RegSt) : (s.updReg f).build = s.build := rfl
@[simp] theorem State.updReg_host (f : RegSt → RegSt) : (s.updReg f).host = s.host := rfl
@[simp] theorem State.updReg_intr (f : RegSt → RegSt) : (s.updReg f).intr = s.intr := rfl
@[simp] theorem State.updReg_reg (f : RegSt → RegSt) : (s.updReg f).reg = f s.reg := rfl
@[simp] theorem State.updReg_gv (f : RegSt → RegSt) : (s.updReg f).gv = s.gv := rfl
@[simp] theorem State.updReg_time (f : RegSt → RegSt) : (s.updReg f).time = s.time := rfl
@[simp] theorem State.updReg_lanes (f : RegSt → RegSt) : (s.updReg f).lanes = s.lanes := rfl
@[simp] theorem State.updReg_ports (f : RegSt → RegSt) : (s.updReg f).ports = s.ports := rfl
@[simp] theorem State.updReg_store (f : RegSt → RegSt) : (s.updReg f).store = s.store := rfl
@[simp] theorem State.updReg_sch (f : RegSt → RegSt) : (s.updReg f).sch = s.sch := rfl
@[simp] theorem State.updReg_sta (f : RegSt → RegSt) : (s.updReg f).sta = s.sta := rfl
@[simp] theorem State.updReg_ch (f : RegSt → RegSt) : (s.updReg f).ch = s.ch := rfl
@[simp] theorem State.updReg_rl (f : RegSt → RegSt) : (s.updReg f).rl = s.rl := rfl
@[simp] theorem State.updReg_crc (f : RegSt → RegSt) : (s.updReg f).crc = s.crc := rfl
@[simp] theorem State.updReg_pwr (f : RegSt → RegSt) : (s.updReg f).pwr = s.pwr := rfl
@[simp] theorem State.updReg_sys (f : RegSt → RegSt) : (s.updReg f).sys = s.sys := rfl
@[simp] theorem State.updReg_cls (f : RegSt → RegSt) : (s.updReg f).cls = s.cls := rfl
@[simp] theorem State.updReg_res (f : RegSt → RegSt) : (s.updReg f).res = s.res := rfl
@[simp] theorem State.updReg_pipe (f : RegSt → RegSt) : (s.updReg f).pipe = s.pipe := rfl
@[simp] theorem State.updReg_flow (f : RegSt → RegSt) : (s.updReg f).flow = s.flow := rfl
@[simp] theorem State.updReg_eng (f : RegSt → RegSt) : (s.updReg f).eng = s.eng := rfl
@[simp] theorem State.updReg_mt (f : RegSt → RegSt) : (s.updReg f).mt = s.mt := rfl
@[simp] theorem State.updReg_cnt (f : RegSt → RegSt) : (s.updReg f).cnt = s.cnt := rfl
@[simp] theorem State.updReg_free (f : RegSt → RegSt) : (s.updReg f).free = s.free := rfl
@[simp] theorem State.updReg_pending (f : RegSt → RegSt) : (s.updReg f).pending = s.pending := rfl
@[simp] theorem State.updGv_build (f : GelvorSt → GelvorSt) : (s.updGv f).build = s.build := rfl
@[simp] theorem State.updGv_host (f : GelvorSt → GelvorSt) : (s.updGv f).host = s.host := rfl
@[simp] theorem State.updGv_intr (f : GelvorSt → GelvorSt) : (s.updGv f).intr = s.intr := rfl
@[simp] theorem State.updGv_reg (f : GelvorSt → GelvorSt) : (s.updGv f).reg = s.reg := rfl
@[simp] theorem State.updGv_gv (f : GelvorSt → GelvorSt) : (s.updGv f).gv = f s.gv := rfl
@[simp] theorem State.updGv_time (f : GelvorSt → GelvorSt) : (s.updGv f).time = s.time := rfl
@[simp] theorem State.updGv_lanes (f : GelvorSt → GelvorSt) : (s.updGv f).lanes = s.lanes := rfl
@[simp] theorem State.updGv_ports (f : GelvorSt → GelvorSt) : (s.updGv f).ports = s.ports := rfl
@[simp] theorem State.updGv_store (f : GelvorSt → GelvorSt) : (s.updGv f).store = s.store := rfl
@[simp] theorem State.updGv_sch (f : GelvorSt → GelvorSt) : (s.updGv f).sch = s.sch := rfl
@[simp] theorem State.updGv_sta (f : GelvorSt → GelvorSt) : (s.updGv f).sta = s.sta := rfl
@[simp] theorem State.updGv_ch (f : GelvorSt → GelvorSt) : (s.updGv f).ch = s.ch := rfl
@[simp] theorem State.updGv_rl (f : GelvorSt → GelvorSt) : (s.updGv f).rl = s.rl := rfl
@[simp] theorem State.updGv_crc (f : GelvorSt → GelvorSt) : (s.updGv f).crc = s.crc := rfl
@[simp] theorem State.updGv_pwr (f : GelvorSt → GelvorSt) : (s.updGv f).pwr = s.pwr := rfl
@[simp] theorem State.updGv_sys (f : GelvorSt → GelvorSt) : (s.updGv f).sys = s.sys := rfl
@[simp] theorem State.updGv_cls (f : GelvorSt → GelvorSt) : (s.updGv f).cls = s.cls := rfl
@[simp] theorem State.updGv_res (f : GelvorSt → GelvorSt) : (s.updGv f).res = s.res := rfl
@[simp] theorem State.updGv_pipe (f : GelvorSt → GelvorSt) : (s.updGv f).pipe = s.pipe := rfl
@[simp] theorem State.updGv_flow (f : GelvorSt → GelvorSt) : (s.updGv f).flow = s.flow := rfl
@[simp] theorem State.updGv_eng (f : GelvorSt → GelvorSt) : (s.updGv f).eng = s.eng := rfl
@[simp] theorem State.updGv_mt (f : GelvorSt → GelvorSt) : (s.updGv f).mt = s.mt := rfl
@[simp] theorem State.updGv_cnt (f : GelvorSt → GelvorSt) : (s.updGv f).cnt = s.cnt := rfl
@[simp] theorem State.updGv_free (f : GelvorSt → GelvorSt) : (s.updGv f).free = s.free := rfl
@[simp] theorem State.updGv_pending (f : GelvorSt → GelvorSt) : (s.updGv f).pending = s.pending := rfl
@[simp] theorem State.updTime_build (f : TimeSt → TimeSt) : (s.updTime f).build = s.build := rfl
@[simp] theorem State.updTime_host (f : TimeSt → TimeSt) : (s.updTime f).host = s.host := rfl
@[simp] theorem State.updTime_intr (f : TimeSt → TimeSt) : (s.updTime f).intr = s.intr := rfl
@[simp] theorem State.updTime_reg (f : TimeSt → TimeSt) : (s.updTime f).reg = s.reg := rfl
@[simp] theorem State.updTime_gv (f : TimeSt → TimeSt) : (s.updTime f).gv = s.gv := rfl
@[simp] theorem State.updTime_time (f : TimeSt → TimeSt) : (s.updTime f).time = f s.time := rfl
@[simp] theorem State.updTime_lanes (f : TimeSt → TimeSt) : (s.updTime f).lanes = s.lanes := rfl
@[simp] theorem State.updTime_ports (f : TimeSt → TimeSt) : (s.updTime f).ports = s.ports := rfl
@[simp] theorem State.updTime_store (f : TimeSt → TimeSt) : (s.updTime f).store = s.store := rfl
@[simp] theorem State.updTime_sch (f : TimeSt → TimeSt) : (s.updTime f).sch = s.sch := rfl
@[simp] theorem State.updTime_sta (f : TimeSt → TimeSt) : (s.updTime f).sta = s.sta := rfl
@[simp] theorem State.updTime_ch (f : TimeSt → TimeSt) : (s.updTime f).ch = s.ch := rfl
@[simp] theorem State.updTime_rl (f : TimeSt → TimeSt) : (s.updTime f).rl = s.rl := rfl
@[simp] theorem State.updTime_crc (f : TimeSt → TimeSt) : (s.updTime f).crc = s.crc := rfl
@[simp] theorem State.updTime_pwr (f : TimeSt → TimeSt) : (s.updTime f).pwr = s.pwr := rfl
@[simp] theorem State.updTime_sys (f : TimeSt → TimeSt) : (s.updTime f).sys = s.sys := rfl
@[simp] theorem State.updTime_cls (f : TimeSt → TimeSt) : (s.updTime f).cls = s.cls := rfl
@[simp] theorem State.updTime_res (f : TimeSt → TimeSt) : (s.updTime f).res = s.res := rfl
@[simp] theorem State.updTime_pipe (f : TimeSt → TimeSt) : (s.updTime f).pipe = s.pipe := rfl
@[simp] theorem State.updTime_flow (f : TimeSt → TimeSt) : (s.updTime f).flow = s.flow := rfl
@[simp] theorem State.updTime_eng (f : TimeSt → TimeSt) : (s.updTime f).eng = s.eng := rfl
@[simp] theorem State.updTime_mt (f : TimeSt → TimeSt) : (s.updTime f).mt = s.mt := rfl
@[simp] theorem State.updTime_cnt (f : TimeSt → TimeSt) : (s.updTime f).cnt = s.cnt := rfl
@[simp] theorem State.updTime_free (f : TimeSt → TimeSt) : (s.updTime f).free = s.free := rfl
@[simp] theorem State.updTime_pending (f : TimeSt → TimeSt) : (s.updTime f).pending = s.pending := rfl
@[simp] theorem State.updLanes_build (f : LanesSt → LanesSt) : (s.updLanes f).build = s.build := rfl
@[simp] theorem State.updLanes_host (f : LanesSt → LanesSt) : (s.updLanes f).host = s.host := rfl
@[simp] theorem State.updLanes_intr (f : LanesSt → LanesSt) : (s.updLanes f).intr = s.intr := rfl
@[simp] theorem State.updLanes_reg (f : LanesSt → LanesSt) : (s.updLanes f).reg = s.reg := rfl
@[simp] theorem State.updLanes_gv (f : LanesSt → LanesSt) : (s.updLanes f).gv = s.gv := rfl
@[simp] theorem State.updLanes_time (f : LanesSt → LanesSt) : (s.updLanes f).time = s.time := rfl
@[simp] theorem State.updLanes_lanes (f : LanesSt → LanesSt) : (s.updLanes f).lanes = f s.lanes := rfl
@[simp] theorem State.updLanes_ports (f : LanesSt → LanesSt) : (s.updLanes f).ports = s.ports := rfl
@[simp] theorem State.updLanes_store (f : LanesSt → LanesSt) : (s.updLanes f).store = s.store := rfl
@[simp] theorem State.updLanes_sch (f : LanesSt → LanesSt) : (s.updLanes f).sch = s.sch := rfl
@[simp] theorem State.updLanes_sta (f : LanesSt → LanesSt) : (s.updLanes f).sta = s.sta := rfl
@[simp] theorem State.updLanes_ch (f : LanesSt → LanesSt) : (s.updLanes f).ch = s.ch := rfl
@[simp] theorem State.updLanes_rl (f : LanesSt → LanesSt) : (s.updLanes f).rl = s.rl := rfl
@[simp] theorem State.updLanes_crc (f : LanesSt → LanesSt) : (s.updLanes f).crc = s.crc := rfl
@[simp] theorem State.updLanes_pwr (f : LanesSt → LanesSt) : (s.updLanes f).pwr = s.pwr := rfl
@[simp] theorem State.updLanes_sys (f : LanesSt → LanesSt) : (s.updLanes f).sys = s.sys := rfl
@[simp] theorem State.updLanes_cls (f : LanesSt → LanesSt) : (s.updLanes f).cls = s.cls := rfl
@[simp] theorem State.updLanes_res (f : LanesSt → LanesSt) : (s.updLanes f).res = s.res := rfl
@[simp] theorem State.updLanes_pipe (f : LanesSt → LanesSt) : (s.updLanes f).pipe = s.pipe := rfl
@[simp] theorem State.updLanes_flow (f : LanesSt → LanesSt) : (s.updLanes f).flow = s.flow := rfl
@[simp] theorem State.updLanes_eng (f : LanesSt → LanesSt) : (s.updLanes f).eng = s.eng := rfl
@[simp] theorem State.updLanes_mt (f : LanesSt → LanesSt) : (s.updLanes f).mt = s.mt := rfl
@[simp] theorem State.updLanes_cnt (f : LanesSt → LanesSt) : (s.updLanes f).cnt = s.cnt := rfl
@[simp] theorem State.updLanes_free (f : LanesSt → LanesSt) : (s.updLanes f).free = s.free := rfl
@[simp] theorem State.updLanes_pending (f : LanesSt → LanesSt) : (s.updLanes f).pending = s.pending := rfl
@[simp] theorem State.updPorts_build (f : Tbl Port → Tbl Port) : (s.updPorts f).build = s.build := rfl
@[simp] theorem State.updPorts_host (f : Tbl Port → Tbl Port) : (s.updPorts f).host = s.host := rfl
@[simp] theorem State.updPorts_intr (f : Tbl Port → Tbl Port) : (s.updPorts f).intr = s.intr := rfl
@[simp] theorem State.updPorts_reg (f : Tbl Port → Tbl Port) : (s.updPorts f).reg = s.reg := rfl
@[simp] theorem State.updPorts_gv (f : Tbl Port → Tbl Port) : (s.updPorts f).gv = s.gv := rfl
@[simp] theorem State.updPorts_time (f : Tbl Port → Tbl Port) : (s.updPorts f).time = s.time := rfl
@[simp] theorem State.updPorts_lanes (f : Tbl Port → Tbl Port) : (s.updPorts f).lanes = s.lanes := rfl
@[simp] theorem State.updPorts_ports (f : Tbl Port → Tbl Port) : (s.updPorts f).ports = f s.ports := rfl
@[simp] theorem State.updPorts_store (f : Tbl Port → Tbl Port) : (s.updPorts f).store = s.store := rfl
@[simp] theorem State.updPorts_sch (f : Tbl Port → Tbl Port) : (s.updPorts f).sch = s.sch := rfl
@[simp] theorem State.updPorts_sta (f : Tbl Port → Tbl Port) : (s.updPorts f).sta = s.sta := rfl
@[simp] theorem State.updPorts_ch (f : Tbl Port → Tbl Port) : (s.updPorts f).ch = s.ch := rfl
@[simp] theorem State.updPorts_rl (f : Tbl Port → Tbl Port) : (s.updPorts f).rl = s.rl := rfl
@[simp] theorem State.updPorts_crc (f : Tbl Port → Tbl Port) : (s.updPorts f).crc = s.crc := rfl
@[simp] theorem State.updPorts_pwr (f : Tbl Port → Tbl Port) : (s.updPorts f).pwr = s.pwr := rfl
@[simp] theorem State.updPorts_sys (f : Tbl Port → Tbl Port) : (s.updPorts f).sys = s.sys := rfl
@[simp] theorem State.updPorts_cls (f : Tbl Port → Tbl Port) : (s.updPorts f).cls = s.cls := rfl
@[simp] theorem State.updPorts_res (f : Tbl Port → Tbl Port) : (s.updPorts f).res = s.res := rfl
@[simp] theorem State.updPorts_pipe (f : Tbl Port → Tbl Port) : (s.updPorts f).pipe = s.pipe := rfl
@[simp] theorem State.updPorts_flow (f : Tbl Port → Tbl Port) : (s.updPorts f).flow = s.flow := rfl
@[simp] theorem State.updPorts_eng (f : Tbl Port → Tbl Port) : (s.updPorts f).eng = s.eng := rfl
@[simp] theorem State.updPorts_mt (f : Tbl Port → Tbl Port) : (s.updPorts f).mt = s.mt := rfl
@[simp] theorem State.updPorts_cnt (f : Tbl Port → Tbl Port) : (s.updPorts f).cnt = s.cnt := rfl
@[simp] theorem State.updPorts_free (f : Tbl Port → Tbl Port) : (s.updPorts f).free = s.free := rfl
@[simp] theorem State.updPorts_pending (f : Tbl Port → Tbl Port) : (s.updPorts f).pending = s.pending := rfl
@[simp] theorem State.updStore_build (f : StoreSt → StoreSt) : (s.updStore f).build = s.build := rfl
@[simp] theorem State.updStore_host (f : StoreSt → StoreSt) : (s.updStore f).host = s.host := rfl
@[simp] theorem State.updStore_intr (f : StoreSt → StoreSt) : (s.updStore f).intr = s.intr := rfl
@[simp] theorem State.updStore_reg (f : StoreSt → StoreSt) : (s.updStore f).reg = s.reg := rfl
@[simp] theorem State.updStore_gv (f : StoreSt → StoreSt) : (s.updStore f).gv = s.gv := rfl
@[simp] theorem State.updStore_time (f : StoreSt → StoreSt) : (s.updStore f).time = s.time := rfl
@[simp] theorem State.updStore_lanes (f : StoreSt → StoreSt) : (s.updStore f).lanes = s.lanes := rfl
@[simp] theorem State.updStore_ports (f : StoreSt → StoreSt) : (s.updStore f).ports = s.ports := rfl
@[simp] theorem State.updStore_store (f : StoreSt → StoreSt) : (s.updStore f).store = f s.store := rfl
@[simp] theorem State.updStore_sch (f : StoreSt → StoreSt) : (s.updStore f).sch = s.sch := rfl
@[simp] theorem State.updStore_sta (f : StoreSt → StoreSt) : (s.updStore f).sta = s.sta := rfl
@[simp] theorem State.updStore_ch (f : StoreSt → StoreSt) : (s.updStore f).ch = s.ch := rfl
@[simp] theorem State.updStore_rl (f : StoreSt → StoreSt) : (s.updStore f).rl = s.rl := rfl
@[simp] theorem State.updStore_crc (f : StoreSt → StoreSt) : (s.updStore f).crc = s.crc := rfl
@[simp] theorem State.updStore_pwr (f : StoreSt → StoreSt) : (s.updStore f).pwr = s.pwr := rfl
@[simp] theorem State.updStore_sys (f : StoreSt → StoreSt) : (s.updStore f).sys = s.sys := rfl
@[simp] theorem State.updStore_cls (f : StoreSt → StoreSt) : (s.updStore f).cls = s.cls := rfl
@[simp] theorem State.updStore_res (f : StoreSt → StoreSt) : (s.updStore f).res = s.res := rfl
@[simp] theorem State.updStore_pipe (f : StoreSt → StoreSt) : (s.updStore f).pipe = s.pipe := rfl
@[simp] theorem State.updStore_flow (f : StoreSt → StoreSt) : (s.updStore f).flow = s.flow := rfl
@[simp] theorem State.updStore_eng (f : StoreSt → StoreSt) : (s.updStore f).eng = s.eng := rfl
@[simp] theorem State.updStore_mt (f : StoreSt → StoreSt) : (s.updStore f).mt = s.mt := rfl
@[simp] theorem State.updStore_cnt (f : StoreSt → StoreSt) : (s.updStore f).cnt = s.cnt := rfl
@[simp] theorem State.updStore_free (f : StoreSt → StoreSt) : (s.updStore f).free = s.free := rfl
@[simp] theorem State.updStore_pending (f : StoreSt → StoreSt) : (s.updStore f).pending = s.pending := rfl
@[simp] theorem State.updSch_build (f : SchSt → SchSt) : (s.updSch f).build = s.build := rfl
@[simp] theorem State.updSch_host (f : SchSt → SchSt) : (s.updSch f).host = s.host := rfl
@[simp] theorem State.updSch_intr (f : SchSt → SchSt) : (s.updSch f).intr = s.intr := rfl
@[simp] theorem State.updSch_reg (f : SchSt → SchSt) : (s.updSch f).reg = s.reg := rfl
@[simp] theorem State.updSch_gv (f : SchSt → SchSt) : (s.updSch f).gv = s.gv := rfl
@[simp] theorem State.updSch_time (f : SchSt → SchSt) : (s.updSch f).time = s.time := rfl
@[simp] theorem State.updSch_lanes (f : SchSt → SchSt) : (s.updSch f).lanes = s.lanes := rfl
@[simp] theorem State.updSch_ports (f : SchSt → SchSt) : (s.updSch f).ports = s.ports := rfl
@[simp] theorem State.updSch_store (f : SchSt → SchSt) : (s.updSch f).store = s.store := rfl
@[simp] theorem State.updSch_sch (f : SchSt → SchSt) : (s.updSch f).sch = f s.sch := rfl
@[simp] theorem State.updSch_sta (f : SchSt → SchSt) : (s.updSch f).sta = s.sta := rfl
@[simp] theorem State.updSch_ch (f : SchSt → SchSt) : (s.updSch f).ch = s.ch := rfl
@[simp] theorem State.updSch_rl (f : SchSt → SchSt) : (s.updSch f).rl = s.rl := rfl
@[simp] theorem State.updSch_crc (f : SchSt → SchSt) : (s.updSch f).crc = s.crc := rfl
@[simp] theorem State.updSch_pwr (f : SchSt → SchSt) : (s.updSch f).pwr = s.pwr := rfl
@[simp] theorem State.updSch_sys (f : SchSt → SchSt) : (s.updSch f).sys = s.sys := rfl
@[simp] theorem State.updSch_cls (f : SchSt → SchSt) : (s.updSch f).cls = s.cls := rfl
@[simp] theorem State.updSch_res (f : SchSt → SchSt) : (s.updSch f).res = s.res := rfl
@[simp] theorem State.updSch_pipe (f : SchSt → SchSt) : (s.updSch f).pipe = s.pipe := rfl
@[simp] theorem State.updSch_flow (f : SchSt → SchSt) : (s.updSch f).flow = s.flow := rfl
@[simp] theorem State.updSch_eng (f : SchSt → SchSt) : (s.updSch f).eng = s.eng := rfl
@[simp] theorem State.updSch_mt (f : SchSt → SchSt) : (s.updSch f).mt = s.mt := rfl
@[simp] theorem State.updSch_cnt (f : SchSt → SchSt) : (s.updSch f).cnt = s.cnt := rfl
@[simp] theorem State.updSch_free (f : SchSt → SchSt) : (s.updSch f).free = s.free := rfl
@[simp] theorem State.updSch_pending (f : SchSt → SchSt) : (s.updSch f).pending = s.pending := rfl
@[simp] theorem State.updSta_build (f : Tbl Sta → Tbl Sta) : (s.updSta f).build = s.build := rfl
@[simp] theorem State.updSta_host (f : Tbl Sta → Tbl Sta) : (s.updSta f).host = s.host := rfl
@[simp] theorem State.updSta_intr (f : Tbl Sta → Tbl Sta) : (s.updSta f).intr = s.intr := rfl
@[simp] theorem State.updSta_reg (f : Tbl Sta → Tbl Sta) : (s.updSta f).reg = s.reg := rfl
@[simp] theorem State.updSta_gv (f : Tbl Sta → Tbl Sta) : (s.updSta f).gv = s.gv := rfl
@[simp] theorem State.updSta_time (f : Tbl Sta → Tbl Sta) : (s.updSta f).time = s.time := rfl
@[simp] theorem State.updSta_lanes (f : Tbl Sta → Tbl Sta) : (s.updSta f).lanes = s.lanes := rfl
@[simp] theorem State.updSta_ports (f : Tbl Sta → Tbl Sta) : (s.updSta f).ports = s.ports := rfl
@[simp] theorem State.updSta_store (f : Tbl Sta → Tbl Sta) : (s.updSta f).store = s.store := rfl
@[simp] theorem State.updSta_sch (f : Tbl Sta → Tbl Sta) : (s.updSta f).sch = s.sch := rfl
@[simp] theorem State.updSta_sta (f : Tbl Sta → Tbl Sta) : (s.updSta f).sta = f s.sta := rfl
@[simp] theorem State.updSta_ch (f : Tbl Sta → Tbl Sta) : (s.updSta f).ch = s.ch := rfl
@[simp] theorem State.updSta_rl (f : Tbl Sta → Tbl Sta) : (s.updSta f).rl = s.rl := rfl
@[simp] theorem State.updSta_crc (f : Tbl Sta → Tbl Sta) : (s.updSta f).crc = s.crc := rfl
@[simp] theorem State.updSta_pwr (f : Tbl Sta → Tbl Sta) : (s.updSta f).pwr = s.pwr := rfl
@[simp] theorem State.updSta_sys (f : Tbl Sta → Tbl Sta) : (s.updSta f).sys = s.sys := rfl
@[simp] theorem State.updSta_cls (f : Tbl Sta → Tbl Sta) : (s.updSta f).cls = s.cls := rfl
@[simp] theorem State.updSta_res (f : Tbl Sta → Tbl Sta) : (s.updSta f).res = s.res := rfl
@[simp] theorem State.updSta_pipe (f : Tbl Sta → Tbl Sta) : (s.updSta f).pipe = s.pipe := rfl
@[simp] theorem State.updSta_flow (f : Tbl Sta → Tbl Sta) : (s.updSta f).flow = s.flow := rfl
@[simp] theorem State.updSta_eng (f : Tbl Sta → Tbl Sta) : (s.updSta f).eng = s.eng := rfl
@[simp] theorem State.updSta_mt (f : Tbl Sta → Tbl Sta) : (s.updSta f).mt = s.mt := rfl
@[simp] theorem State.updSta_cnt (f : Tbl Sta → Tbl Sta) : (s.updSta f).cnt = s.cnt := rfl
@[simp] theorem State.updSta_free (f : Tbl Sta → Tbl Sta) : (s.updSta f).free = s.free := rfl
@[simp] theorem State.updSta_pending (f : Tbl Sta → Tbl Sta) : (s.updSta f).pending = s.pending := rfl
@[simp] theorem State.updCh_build (f : Tbl Ch → Tbl Ch) : (s.updCh f).build = s.build := rfl
@[simp] theorem State.updCh_host (f : Tbl Ch → Tbl Ch) : (s.updCh f).host = s.host := rfl
@[simp] theorem State.updCh_intr (f : Tbl Ch → Tbl Ch) : (s.updCh f).intr = s.intr := rfl
@[simp] theorem State.updCh_reg (f : Tbl Ch → Tbl Ch) : (s.updCh f).reg = s.reg := rfl
@[simp] theorem State.updCh_gv (f : Tbl Ch → Tbl Ch) : (s.updCh f).gv = s.gv := rfl
@[simp] theorem State.updCh_time (f : Tbl Ch → Tbl Ch) : (s.updCh f).time = s.time := rfl
@[simp] theorem State.updCh_lanes (f : Tbl Ch → Tbl Ch) : (s.updCh f).lanes = s.lanes := rfl
@[simp] theorem State.updCh_ports (f : Tbl Ch → Tbl Ch) : (s.updCh f).ports = s.ports := rfl
@[simp] theorem State.updCh_store (f : Tbl Ch → Tbl Ch) : (s.updCh f).store = s.store := rfl
@[simp] theorem State.updCh_sch (f : Tbl Ch → Tbl Ch) : (s.updCh f).sch = s.sch := rfl
@[simp] theorem State.updCh_sta (f : Tbl Ch → Tbl Ch) : (s.updCh f).sta = s.sta := rfl
@[simp] theorem State.updCh_ch (f : Tbl Ch → Tbl Ch) : (s.updCh f).ch = f s.ch := rfl
@[simp] theorem State.updCh_rl (f : Tbl Ch → Tbl Ch) : (s.updCh f).rl = s.rl := rfl
@[simp] theorem State.updCh_crc (f : Tbl Ch → Tbl Ch) : (s.updCh f).crc = s.crc := rfl
@[simp] theorem State.updCh_pwr (f : Tbl Ch → Tbl Ch) : (s.updCh f).pwr = s.pwr := rfl
@[simp] theorem State.updCh_sys (f : Tbl Ch → Tbl Ch) : (s.updCh f).sys = s.sys := rfl
@[simp] theorem State.updCh_cls (f : Tbl Ch → Tbl Ch) : (s.updCh f).cls = s.cls := rfl
@[simp] theorem State.updCh_res (f : Tbl Ch → Tbl Ch) : (s.updCh f).res = s.res := rfl
@[simp] theorem State.updCh_pipe (f : Tbl Ch → Tbl Ch) : (s.updCh f).pipe = s.pipe := rfl
@[simp] theorem State.updCh_flow (f : Tbl Ch → Tbl Ch) : (s.updCh f).flow = s.flow := rfl
@[simp] theorem State.updCh_eng (f : Tbl Ch → Tbl Ch) : (s.updCh f).eng = s.eng := rfl
@[simp] theorem State.updCh_mt (f : Tbl Ch → Tbl Ch) : (s.updCh f).mt = s.mt := rfl
@[simp] theorem State.updCh_cnt (f : Tbl Ch → Tbl Ch) : (s.updCh f).cnt = s.cnt := rfl
@[simp] theorem State.updCh_free (f : Tbl Ch → Tbl Ch) : (s.updCh f).free = s.free := rfl
@[simp] theorem State.updCh_pending (f : Tbl Ch → Tbl Ch) : (s.updCh f).pending = s.pending := rfl
@[simp] theorem State.updRl_build (f : Tbl Rl → Tbl Rl) : (s.updRl f).build = s.build := rfl
@[simp] theorem State.updRl_host (f : Tbl Rl → Tbl Rl) : (s.updRl f).host = s.host := rfl
@[simp] theorem State.updRl_intr (f : Tbl Rl → Tbl Rl) : (s.updRl f).intr = s.intr := rfl
@[simp] theorem State.updRl_reg (f : Tbl Rl → Tbl Rl) : (s.updRl f).reg = s.reg := rfl
@[simp] theorem State.updRl_gv (f : Tbl Rl → Tbl Rl) : (s.updRl f).gv = s.gv := rfl
@[simp] theorem State.updRl_time (f : Tbl Rl → Tbl Rl) : (s.updRl f).time = s.time := rfl
@[simp] theorem State.updRl_lanes (f : Tbl Rl → Tbl Rl) : (s.updRl f).lanes = s.lanes := rfl
@[simp] theorem State.updRl_ports (f : Tbl Rl → Tbl Rl) : (s.updRl f).ports = s.ports := rfl
@[simp] theorem State.updRl_store (f : Tbl Rl → Tbl Rl) : (s.updRl f).store = s.store := rfl
@[simp] theorem State.updRl_sch (f : Tbl Rl → Tbl Rl) : (s.updRl f).sch = s.sch := rfl
@[simp] theorem State.updRl_sta (f : Tbl Rl → Tbl Rl) : (s.updRl f).sta = s.sta := rfl
@[simp] theorem State.updRl_ch (f : Tbl Rl → Tbl Rl) : (s.updRl f).ch = s.ch := rfl
@[simp] theorem State.updRl_rl (f : Tbl Rl → Tbl Rl) : (s.updRl f).rl = f s.rl := rfl
@[simp] theorem State.updRl_crc (f : Tbl Rl → Tbl Rl) : (s.updRl f).crc = s.crc := rfl
@[simp] theorem State.updRl_pwr (f : Tbl Rl → Tbl Rl) : (s.updRl f).pwr = s.pwr := rfl
@[simp] theorem State.updRl_sys (f : Tbl Rl → Tbl Rl) : (s.updRl f).sys = s.sys := rfl
@[simp] theorem State.updRl_cls (f : Tbl Rl → Tbl Rl) : (s.updRl f).cls = s.cls := rfl
@[simp] theorem State.updRl_res (f : Tbl Rl → Tbl Rl) : (s.updRl f).res = s.res := rfl
@[simp] theorem State.updRl_pipe (f : Tbl Rl → Tbl Rl) : (s.updRl f).pipe = s.pipe := rfl
@[simp] theorem State.updRl_flow (f : Tbl Rl → Tbl Rl) : (s.updRl f).flow = s.flow := rfl
@[simp] theorem State.updRl_eng (f : Tbl Rl → Tbl Rl) : (s.updRl f).eng = s.eng := rfl
@[simp] theorem State.updRl_mt (f : Tbl Rl → Tbl Rl) : (s.updRl f).mt = s.mt := rfl
@[simp] theorem State.updRl_cnt (f : Tbl Rl → Tbl Rl) : (s.updRl f).cnt = s.cnt := rfl
@[simp] theorem State.updRl_free (f : Tbl Rl → Tbl Rl) : (s.updRl f).free = s.free := rfl
@[simp] theorem State.updRl_pending (f : Tbl Rl → Tbl Rl) : (s.updRl f).pending = s.pending := rfl
@[simp] theorem State.updCrc_build (f : CrcSt → CrcSt) : (s.updCrc f).build = s.build := rfl
@[simp] theorem State.updCrc_host (f : CrcSt → CrcSt) : (s.updCrc f).host = s.host := rfl
@[simp] theorem State.updCrc_intr (f : CrcSt → CrcSt) : (s.updCrc f).intr = s.intr := rfl
@[simp] theorem State.updCrc_reg (f : CrcSt → CrcSt) : (s.updCrc f).reg = s.reg := rfl
@[simp] theorem State.updCrc_gv (f : CrcSt → CrcSt) : (s.updCrc f).gv = s.gv := rfl
@[simp] theorem State.updCrc_time (f : CrcSt → CrcSt) : (s.updCrc f).time = s.time := rfl
@[simp] theorem State.updCrc_lanes (f : CrcSt → CrcSt) : (s.updCrc f).lanes = s.lanes := rfl
@[simp] theorem State.updCrc_ports (f : CrcSt → CrcSt) : (s.updCrc f).ports = s.ports := rfl
@[simp] theorem State.updCrc_store (f : CrcSt → CrcSt) : (s.updCrc f).store = s.store := rfl
@[simp] theorem State.updCrc_sch (f : CrcSt → CrcSt) : (s.updCrc f).sch = s.sch := rfl
@[simp] theorem State.updCrc_sta (f : CrcSt → CrcSt) : (s.updCrc f).sta = s.sta := rfl
@[simp] theorem State.updCrc_ch (f : CrcSt → CrcSt) : (s.updCrc f).ch = s.ch := rfl
@[simp] theorem State.updCrc_rl (f : CrcSt → CrcSt) : (s.updCrc f).rl = s.rl := rfl
@[simp] theorem State.updCrc_crc (f : CrcSt → CrcSt) : (s.updCrc f).crc = f s.crc := rfl
@[simp] theorem State.updCrc_pwr (f : CrcSt → CrcSt) : (s.updCrc f).pwr = s.pwr := rfl
@[simp] theorem State.updCrc_sys (f : CrcSt → CrcSt) : (s.updCrc f).sys = s.sys := rfl
@[simp] theorem State.updCrc_cls (f : CrcSt → CrcSt) : (s.updCrc f).cls = s.cls := rfl
@[simp] theorem State.updCrc_res (f : CrcSt → CrcSt) : (s.updCrc f).res = s.res := rfl
@[simp] theorem State.updCrc_pipe (f : CrcSt → CrcSt) : (s.updCrc f).pipe = s.pipe := rfl
@[simp] theorem State.updCrc_flow (f : CrcSt → CrcSt) : (s.updCrc f).flow = s.flow := rfl
@[simp] theorem State.updCrc_eng (f : CrcSt → CrcSt) : (s.updCrc f).eng = s.eng := rfl
@[simp] theorem State.updCrc_mt (f : CrcSt → CrcSt) : (s.updCrc f).mt = s.mt := rfl
@[simp] theorem State.updCrc_cnt (f : CrcSt → CrcSt) : (s.updCrc f).cnt = s.cnt := rfl
@[simp] theorem State.updCrc_free (f : CrcSt → CrcSt) : (s.updCrc f).free = s.free := rfl
@[simp] theorem State.updCrc_pending (f : CrcSt → CrcSt) : (s.updCrc f).pending = s.pending := rfl
@[simp] theorem State.updPwr_build (f : PwrSt → PwrSt) : (s.updPwr f).build = s.build := rfl
@[simp] theorem State.updPwr_host (f : PwrSt → PwrSt) : (s.updPwr f).host = s.host := rfl
@[simp] theorem State.updPwr_intr (f : PwrSt → PwrSt) : (s.updPwr f).intr = s.intr := rfl
@[simp] theorem State.updPwr_reg (f : PwrSt → PwrSt) : (s.updPwr f).reg = s.reg := rfl
@[simp] theorem State.updPwr_gv (f : PwrSt → PwrSt) : (s.updPwr f).gv = s.gv := rfl
@[simp] theorem State.updPwr_time (f : PwrSt → PwrSt) : (s.updPwr f).time = s.time := rfl
@[simp] theorem State.updPwr_lanes (f : PwrSt → PwrSt) : (s.updPwr f).lanes = s.lanes := rfl
@[simp] theorem State.updPwr_ports (f : PwrSt → PwrSt) : (s.updPwr f).ports = s.ports := rfl
@[simp] theorem State.updPwr_store (f : PwrSt → PwrSt) : (s.updPwr f).store = s.store := rfl
@[simp] theorem State.updPwr_sch (f : PwrSt → PwrSt) : (s.updPwr f).sch = s.sch := rfl
@[simp] theorem State.updPwr_sta (f : PwrSt → PwrSt) : (s.updPwr f).sta = s.sta := rfl
@[simp] theorem State.updPwr_ch (f : PwrSt → PwrSt) : (s.updPwr f).ch = s.ch := rfl
@[simp] theorem State.updPwr_rl (f : PwrSt → PwrSt) : (s.updPwr f).rl = s.rl := rfl
@[simp] theorem State.updPwr_crc (f : PwrSt → PwrSt) : (s.updPwr f).crc = s.crc := rfl
@[simp] theorem State.updPwr_pwr (f : PwrSt → PwrSt) : (s.updPwr f).pwr = f s.pwr := rfl
@[simp] theorem State.updPwr_sys (f : PwrSt → PwrSt) : (s.updPwr f).sys = s.sys := rfl
@[simp] theorem State.updPwr_cls (f : PwrSt → PwrSt) : (s.updPwr f).cls = s.cls := rfl
@[simp] theorem State.updPwr_res (f : PwrSt → PwrSt) : (s.updPwr f).res = s.res := rfl
@[simp] theorem State.updPwr_pipe (f : PwrSt → PwrSt) : (s.updPwr f).pipe = s.pipe := rfl
@[simp] theorem State.updPwr_flow (f : PwrSt → PwrSt) : (s.updPwr f).flow = s.flow := rfl
@[simp] theorem State.updPwr_eng (f : PwrSt → PwrSt) : (s.updPwr f).eng = s.eng := rfl
@[simp] theorem State.updPwr_mt (f : PwrSt → PwrSt) : (s.updPwr f).mt = s.mt := rfl
@[simp] theorem State.updPwr_cnt (f : PwrSt → PwrSt) : (s.updPwr f).cnt = s.cnt := rfl
@[simp] theorem State.updPwr_free (f : PwrSt → PwrSt) : (s.updPwr f).free = s.free := rfl
@[simp] theorem State.updPwr_pending (f : PwrSt → PwrSt) : (s.updPwr f).pending = s.pending := rfl
@[simp] theorem State.updSys_build (f : SysSt → SysSt) : (s.updSys f).build = s.build := rfl
@[simp] theorem State.updSys_host (f : SysSt → SysSt) : (s.updSys f).host = s.host := rfl
@[simp] theorem State.updSys_intr (f : SysSt → SysSt) : (s.updSys f).intr = s.intr := rfl
@[simp] theorem State.updSys_reg (f : SysSt → SysSt) : (s.updSys f).reg = s.reg := rfl
@[simp] theorem State.updSys_gv (f : SysSt → SysSt) : (s.updSys f).gv = s.gv := rfl
@[simp] theorem State.updSys_time (f : SysSt → SysSt) : (s.updSys f).time = s.time := rfl
@[simp] theorem State.updSys_lanes (f : SysSt → SysSt) : (s.updSys f).lanes = s.lanes := rfl
@[simp] theorem State.updSys_ports (f : SysSt → SysSt) : (s.updSys f).ports = s.ports := rfl
@[simp] theorem State.updSys_store (f : SysSt → SysSt) : (s.updSys f).store = s.store := rfl
@[simp] theorem State.updSys_sch (f : SysSt → SysSt) : (s.updSys f).sch = s.sch := rfl
@[simp] theorem State.updSys_sta (f : SysSt → SysSt) : (s.updSys f).sta = s.sta := rfl
@[simp] theorem State.updSys_ch (f : SysSt → SysSt) : (s.updSys f).ch = s.ch := rfl
@[simp] theorem State.updSys_rl (f : SysSt → SysSt) : (s.updSys f).rl = s.rl := rfl
@[simp] theorem State.updSys_crc (f : SysSt → SysSt) : (s.updSys f).crc = s.crc := rfl
@[simp] theorem State.updSys_pwr (f : SysSt → SysSt) : (s.updSys f).pwr = s.pwr := rfl
@[simp] theorem State.updSys_sys (f : SysSt → SysSt) : (s.updSys f).sys = f s.sys := rfl
@[simp] theorem State.updSys_cls (f : SysSt → SysSt) : (s.updSys f).cls = s.cls := rfl
@[simp] theorem State.updSys_res (f : SysSt → SysSt) : (s.updSys f).res = s.res := rfl
@[simp] theorem State.updSys_pipe (f : SysSt → SysSt) : (s.updSys f).pipe = s.pipe := rfl
@[simp] theorem State.updSys_flow (f : SysSt → SysSt) : (s.updSys f).flow = s.flow := rfl
@[simp] theorem State.updSys_eng (f : SysSt → SysSt) : (s.updSys f).eng = s.eng := rfl
@[simp] theorem State.updSys_mt (f : SysSt → SysSt) : (s.updSys f).mt = s.mt := rfl
@[simp] theorem State.updSys_cnt (f : SysSt → SysSt) : (s.updSys f).cnt = s.cnt := rfl
@[simp] theorem State.updSys_free (f : SysSt → SysSt) : (s.updSys f).free = s.free := rfl
@[simp] theorem State.updSys_pending (f : SysSt → SysSt) : (s.updSys f).pending = s.pending := rfl
@[simp] theorem State.updCls_build (f : ClsSt → ClsSt) : (s.updCls f).build = s.build := rfl
@[simp] theorem State.updCls_host (f : ClsSt → ClsSt) : (s.updCls f).host = s.host := rfl
@[simp] theorem State.updCls_intr (f : ClsSt → ClsSt) : (s.updCls f).intr = s.intr := rfl
@[simp] theorem State.updCls_reg (f : ClsSt → ClsSt) : (s.updCls f).reg = s.reg := rfl
@[simp] theorem State.updCls_gv (f : ClsSt → ClsSt) : (s.updCls f).gv = s.gv := rfl
@[simp] theorem State.updCls_time (f : ClsSt → ClsSt) : (s.updCls f).time = s.time := rfl
@[simp] theorem State.updCls_lanes (f : ClsSt → ClsSt) : (s.updCls f).lanes = s.lanes := rfl
@[simp] theorem State.updCls_ports (f : ClsSt → ClsSt) : (s.updCls f).ports = s.ports := rfl
@[simp] theorem State.updCls_store (f : ClsSt → ClsSt) : (s.updCls f).store = s.store := rfl
@[simp] theorem State.updCls_sch (f : ClsSt → ClsSt) : (s.updCls f).sch = s.sch := rfl
@[simp] theorem State.updCls_sta (f : ClsSt → ClsSt) : (s.updCls f).sta = s.sta := rfl
@[simp] theorem State.updCls_ch (f : ClsSt → ClsSt) : (s.updCls f).ch = s.ch := rfl
@[simp] theorem State.updCls_rl (f : ClsSt → ClsSt) : (s.updCls f).rl = s.rl := rfl
@[simp] theorem State.updCls_crc (f : ClsSt → ClsSt) : (s.updCls f).crc = s.crc := rfl
@[simp] theorem State.updCls_pwr (f : ClsSt → ClsSt) : (s.updCls f).pwr = s.pwr := rfl
@[simp] theorem State.updCls_sys (f : ClsSt → ClsSt) : (s.updCls f).sys = s.sys := rfl
@[simp] theorem State.updCls_cls (f : ClsSt → ClsSt) : (s.updCls f).cls = f s.cls := rfl
@[simp] theorem State.updCls_res (f : ClsSt → ClsSt) : (s.updCls f).res = s.res := rfl
@[simp] theorem State.updCls_pipe (f : ClsSt → ClsSt) : (s.updCls f).pipe = s.pipe := rfl
@[simp] theorem State.updCls_flow (f : ClsSt → ClsSt) : (s.updCls f).flow = s.flow := rfl
@[simp] theorem State.updCls_eng (f : ClsSt → ClsSt) : (s.updCls f).eng = s.eng := rfl
@[simp] theorem State.updCls_mt (f : ClsSt → ClsSt) : (s.updCls f).mt = s.mt := rfl
@[simp] theorem State.updCls_cnt (f : ClsSt → ClsSt) : (s.updCls f).cnt = s.cnt := rfl
@[simp] theorem State.updCls_free (f : ClsSt → ClsSt) : (s.updCls f).free = s.free := rfl
@[simp] theorem State.updCls_pending (f : ClsSt → ClsSt) : (s.updCls f).pending = s.pending := rfl
@[simp] theorem State.updRes_build (f : ResSt → ResSt) : (s.updRes f).build = s.build := rfl
@[simp] theorem State.updRes_host (f : ResSt → ResSt) : (s.updRes f).host = s.host := rfl
@[simp] theorem State.updRes_intr (f : ResSt → ResSt) : (s.updRes f).intr = s.intr := rfl
@[simp] theorem State.updRes_reg (f : ResSt → ResSt) : (s.updRes f).reg = s.reg := rfl
@[simp] theorem State.updRes_gv (f : ResSt → ResSt) : (s.updRes f).gv = s.gv := rfl
@[simp] theorem State.updRes_time (f : ResSt → ResSt) : (s.updRes f).time = s.time := rfl
@[simp] theorem State.updRes_lanes (f : ResSt → ResSt) : (s.updRes f).lanes = s.lanes := rfl
@[simp] theorem State.updRes_ports (f : ResSt → ResSt) : (s.updRes f).ports = s.ports := rfl
@[simp] theorem State.updRes_store (f : ResSt → ResSt) : (s.updRes f).store = s.store := rfl
@[simp] theorem State.updRes_sch (f : ResSt → ResSt) : (s.updRes f).sch = s.sch := rfl
@[simp] theorem State.updRes_sta (f : ResSt → ResSt) : (s.updRes f).sta = s.sta := rfl
@[simp] theorem State.updRes_ch (f : ResSt → ResSt) : (s.updRes f).ch = s.ch := rfl
@[simp] theorem State.updRes_rl (f : ResSt → ResSt) : (s.updRes f).rl = s.rl := rfl
@[simp] theorem State.updRes_crc (f : ResSt → ResSt) : (s.updRes f).crc = s.crc := rfl
@[simp] theorem State.updRes_pwr (f : ResSt → ResSt) : (s.updRes f).pwr = s.pwr := rfl
@[simp] theorem State.updRes_sys (f : ResSt → ResSt) : (s.updRes f).sys = s.sys := rfl
@[simp] theorem State.updRes_cls (f : ResSt → ResSt) : (s.updRes f).cls = s.cls := rfl
@[simp] theorem State.updRes_res (f : ResSt → ResSt) : (s.updRes f).res = f s.res := rfl
@[simp] theorem State.updRes_pipe (f : ResSt → ResSt) : (s.updRes f).pipe = s.pipe := rfl
@[simp] theorem State.updRes_flow (f : ResSt → ResSt) : (s.updRes f).flow = s.flow := rfl
@[simp] theorem State.updRes_eng (f : ResSt → ResSt) : (s.updRes f).eng = s.eng := rfl
@[simp] theorem State.updRes_mt (f : ResSt → ResSt) : (s.updRes f).mt = s.mt := rfl
@[simp] theorem State.updRes_cnt (f : ResSt → ResSt) : (s.updRes f).cnt = s.cnt := rfl
@[simp] theorem State.updRes_free (f : ResSt → ResSt) : (s.updRes f).free = s.free := rfl
@[simp] theorem State.updRes_pending (f : ResSt → ResSt) : (s.updRes f).pending = s.pending := rfl
@[simp] theorem State.updPipe_build (f : PipeSt → PipeSt) : (s.updPipe f).build = s.build := rfl
@[simp] theorem State.updPipe_host (f : PipeSt → PipeSt) : (s.updPipe f).host = s.host := rfl
@[simp] theorem State.updPipe_intr (f : PipeSt → PipeSt) : (s.updPipe f).intr = s.intr := rfl
@[simp] theorem State.updPipe_reg (f : PipeSt → PipeSt) : (s.updPipe f).reg = s.reg := rfl
@[simp] theorem State.updPipe_gv (f : PipeSt → PipeSt) : (s.updPipe f).gv = s.gv := rfl
@[simp] theorem State.updPipe_time (f : PipeSt → PipeSt) : (s.updPipe f).time = s.time := rfl
@[simp] theorem State.updPipe_lanes (f : PipeSt → PipeSt) : (s.updPipe f).lanes = s.lanes := rfl
@[simp] theorem State.updPipe_ports (f : PipeSt → PipeSt) : (s.updPipe f).ports = s.ports := rfl
@[simp] theorem State.updPipe_store (f : PipeSt → PipeSt) : (s.updPipe f).store = s.store := rfl
@[simp] theorem State.updPipe_sch (f : PipeSt → PipeSt) : (s.updPipe f).sch = s.sch := rfl
@[simp] theorem State.updPipe_sta (f : PipeSt → PipeSt) : (s.updPipe f).sta = s.sta := rfl
@[simp] theorem State.updPipe_ch (f : PipeSt → PipeSt) : (s.updPipe f).ch = s.ch := rfl
@[simp] theorem State.updPipe_rl (f : PipeSt → PipeSt) : (s.updPipe f).rl = s.rl := rfl
@[simp] theorem State.updPipe_crc (f : PipeSt → PipeSt) : (s.updPipe f).crc = s.crc := rfl
@[simp] theorem State.updPipe_pwr (f : PipeSt → PipeSt) : (s.updPipe f).pwr = s.pwr := rfl
@[simp] theorem State.updPipe_sys (f : PipeSt → PipeSt) : (s.updPipe f).sys = s.sys := rfl
@[simp] theorem State.updPipe_cls (f : PipeSt → PipeSt) : (s.updPipe f).cls = s.cls := rfl
@[simp] theorem State.updPipe_res (f : PipeSt → PipeSt) : (s.updPipe f).res = s.res := rfl
@[simp] theorem State.updPipe_pipe (f : PipeSt → PipeSt) : (s.updPipe f).pipe = f s.pipe := rfl
@[simp] theorem State.updPipe_flow (f : PipeSt → PipeSt) : (s.updPipe f).flow = s.flow := rfl
@[simp] theorem State.updPipe_eng (f : PipeSt → PipeSt) : (s.updPipe f).eng = s.eng := rfl
@[simp] theorem State.updPipe_mt (f : PipeSt → PipeSt) : (s.updPipe f).mt = s.mt := rfl
@[simp] theorem State.updPipe_cnt (f : PipeSt → PipeSt) : (s.updPipe f).cnt = s.cnt := rfl
@[simp] theorem State.updPipe_free (f : PipeSt → PipeSt) : (s.updPipe f).free = s.free := rfl
@[simp] theorem State.updPipe_pending (f : PipeSt → PipeSt) : (s.updPipe f).pending = s.pending := rfl
@[simp] theorem State.updFlow_build (f : FlowSt → FlowSt) : (s.updFlow f).build = s.build := rfl
@[simp] theorem State.updFlow_host (f : FlowSt → FlowSt) : (s.updFlow f).host = s.host := rfl
@[simp] theorem State.updFlow_intr (f : FlowSt → FlowSt) : (s.updFlow f).intr = s.intr := rfl
@[simp] theorem State.updFlow_reg (f : FlowSt → FlowSt) : (s.updFlow f).reg = s.reg := rfl
@[simp] theorem State.updFlow_gv (f : FlowSt → FlowSt) : (s.updFlow f).gv = s.gv := rfl
@[simp] theorem State.updFlow_time (f : FlowSt → FlowSt) : (s.updFlow f).time = s.time := rfl
@[simp] theorem State.updFlow_lanes (f : FlowSt → FlowSt) : (s.updFlow f).lanes = s.lanes := rfl
@[simp] theorem State.updFlow_ports (f : FlowSt → FlowSt) : (s.updFlow f).ports = s.ports := rfl
@[simp] theorem State.updFlow_store (f : FlowSt → FlowSt) : (s.updFlow f).store = s.store := rfl
@[simp] theorem State.updFlow_sch (f : FlowSt → FlowSt) : (s.updFlow f).sch = s.sch := rfl
@[simp] theorem State.updFlow_sta (f : FlowSt → FlowSt) : (s.updFlow f).sta = s.sta := rfl
@[simp] theorem State.updFlow_ch (f : FlowSt → FlowSt) : (s.updFlow f).ch = s.ch := rfl
@[simp] theorem State.updFlow_rl (f : FlowSt → FlowSt) : (s.updFlow f).rl = s.rl := rfl
@[simp] theorem State.updFlow_crc (f : FlowSt → FlowSt) : (s.updFlow f).crc = s.crc := rfl
@[simp] theorem State.updFlow_pwr (f : FlowSt → FlowSt) : (s.updFlow f).pwr = s.pwr := rfl
@[simp] theorem State.updFlow_sys (f : FlowSt → FlowSt) : (s.updFlow f).sys = s.sys := rfl
@[simp] theorem State.updFlow_cls (f : FlowSt → FlowSt) : (s.updFlow f).cls = s.cls := rfl
@[simp] theorem State.updFlow_res (f : FlowSt → FlowSt) : (s.updFlow f).res = s.res := rfl
@[simp] theorem State.updFlow_pipe (f : FlowSt → FlowSt) : (s.updFlow f).pipe = s.pipe := rfl
@[simp] theorem State.updFlow_flow (f : FlowSt → FlowSt) : (s.updFlow f).flow = f s.flow := rfl
@[simp] theorem State.updFlow_eng (f : FlowSt → FlowSt) : (s.updFlow f).eng = s.eng := rfl
@[simp] theorem State.updFlow_mt (f : FlowSt → FlowSt) : (s.updFlow f).mt = s.mt := rfl
@[simp] theorem State.updFlow_cnt (f : FlowSt → FlowSt) : (s.updFlow f).cnt = s.cnt := rfl
@[simp] theorem State.updFlow_free (f : FlowSt → FlowSt) : (s.updFlow f).free = s.free := rfl
@[simp] theorem State.updFlow_pending (f : FlowSt → FlowSt) : (s.updFlow f).pending = s.pending := rfl
@[simp] theorem State.updEng_build (f : EngSt → EngSt) : (s.updEng f).build = s.build := rfl
@[simp] theorem State.updEng_host (f : EngSt → EngSt) : (s.updEng f).host = s.host := rfl
@[simp] theorem State.updEng_intr (f : EngSt → EngSt) : (s.updEng f).intr = s.intr := rfl
@[simp] theorem State.updEng_reg (f : EngSt → EngSt) : (s.updEng f).reg = s.reg := rfl
@[simp] theorem State.updEng_gv (f : EngSt → EngSt) : (s.updEng f).gv = s.gv := rfl
@[simp] theorem State.updEng_time (f : EngSt → EngSt) : (s.updEng f).time = s.time := rfl
@[simp] theorem State.updEng_lanes (f : EngSt → EngSt) : (s.updEng f).lanes = s.lanes := rfl
@[simp] theorem State.updEng_ports (f : EngSt → EngSt) : (s.updEng f).ports = s.ports := rfl
@[simp] theorem State.updEng_store (f : EngSt → EngSt) : (s.updEng f).store = s.store := rfl
@[simp] theorem State.updEng_sch (f : EngSt → EngSt) : (s.updEng f).sch = s.sch := rfl
@[simp] theorem State.updEng_sta (f : EngSt → EngSt) : (s.updEng f).sta = s.sta := rfl
@[simp] theorem State.updEng_ch (f : EngSt → EngSt) : (s.updEng f).ch = s.ch := rfl
@[simp] theorem State.updEng_rl (f : EngSt → EngSt) : (s.updEng f).rl = s.rl := rfl
@[simp] theorem State.updEng_crc (f : EngSt → EngSt) : (s.updEng f).crc = s.crc := rfl
@[simp] theorem State.updEng_pwr (f : EngSt → EngSt) : (s.updEng f).pwr = s.pwr := rfl
@[simp] theorem State.updEng_sys (f : EngSt → EngSt) : (s.updEng f).sys = s.sys := rfl
@[simp] theorem State.updEng_cls (f : EngSt → EngSt) : (s.updEng f).cls = s.cls := rfl
@[simp] theorem State.updEng_res (f : EngSt → EngSt) : (s.updEng f).res = s.res := rfl
@[simp] theorem State.updEng_pipe (f : EngSt → EngSt) : (s.updEng f).pipe = s.pipe := rfl
@[simp] theorem State.updEng_flow (f : EngSt → EngSt) : (s.updEng f).flow = s.flow := rfl
@[simp] theorem State.updEng_eng (f : EngSt → EngSt) : (s.updEng f).eng = f s.eng := rfl
@[simp] theorem State.updEng_mt (f : EngSt → EngSt) : (s.updEng f).mt = s.mt := rfl
@[simp] theorem State.updEng_cnt (f : EngSt → EngSt) : (s.updEng f).cnt = s.cnt := rfl
@[simp] theorem State.updEng_free (f : EngSt → EngSt) : (s.updEng f).free = s.free := rfl
@[simp] theorem State.updEng_pending (f : EngSt → EngSt) : (s.updEng f).pending = s.pending := rfl
@[simp] theorem State.updMt_build (f : MtSt → MtSt) : (s.updMt f).build = s.build := rfl
@[simp] theorem State.updMt_host (f : MtSt → MtSt) : (s.updMt f).host = s.host := rfl
@[simp] theorem State.updMt_intr (f : MtSt → MtSt) : (s.updMt f).intr = s.intr := rfl
@[simp] theorem State.updMt_reg (f : MtSt → MtSt) : (s.updMt f).reg = s.reg := rfl
@[simp] theorem State.updMt_gv (f : MtSt → MtSt) : (s.updMt f).gv = s.gv := rfl
@[simp] theorem State.updMt_time (f : MtSt → MtSt) : (s.updMt f).time = s.time := rfl
@[simp] theorem State.updMt_lanes (f : MtSt → MtSt) : (s.updMt f).lanes = s.lanes := rfl
@[simp] theorem State.updMt_ports (f : MtSt → MtSt) : (s.updMt f).ports = s.ports := rfl
@[simp] theorem State.updMt_store (f : MtSt → MtSt) : (s.updMt f).store = s.store := rfl
@[simp] theorem State.updMt_sch (f : MtSt → MtSt) : (s.updMt f).sch = s.sch := rfl
@[simp] theorem State.updMt_sta (f : MtSt → MtSt) : (s.updMt f).sta = s.sta := rfl
@[simp] theorem State.updMt_ch (f : MtSt → MtSt) : (s.updMt f).ch = s.ch := rfl
@[simp] theorem State.updMt_rl (f : MtSt → MtSt) : (s.updMt f).rl = s.rl := rfl
@[simp] theorem State.updMt_crc (f : MtSt → MtSt) : (s.updMt f).crc = s.crc := rfl
@[simp] theorem State.updMt_pwr (f : MtSt → MtSt) : (s.updMt f).pwr = s.pwr := rfl
@[simp] theorem State.updMt_sys (f : MtSt → MtSt) : (s.updMt f).sys = s.sys := rfl
@[simp] theorem State.updMt_cls (f : MtSt → MtSt) : (s.updMt f).cls = s.cls := rfl
@[simp] theorem State.updMt_res (f : MtSt → MtSt) : (s.updMt f).res = s.res := rfl
@[simp] theorem State.updMt_pipe (f : MtSt → MtSt) : (s.updMt f).pipe = s.pipe := rfl
@[simp] theorem State.updMt_flow (f : MtSt → MtSt) : (s.updMt f).flow = s.flow := rfl
@[simp] theorem State.updMt_eng (f : MtSt → MtSt) : (s.updMt f).eng = s.eng := rfl
@[simp] theorem State.updMt_mt (f : MtSt → MtSt) : (s.updMt f).mt = f s.mt := rfl
@[simp] theorem State.updMt_cnt (f : MtSt → MtSt) : (s.updMt f).cnt = s.cnt := rfl
@[simp] theorem State.updMt_free (f : MtSt → MtSt) : (s.updMt f).free = s.free := rfl
@[simp] theorem State.updMt_pending (f : MtSt → MtSt) : (s.updMt f).pending = s.pending := rfl
@[simp] theorem State.updCnt_build (f : Tbl2 → Tbl2) : (s.updCnt f).build = s.build := rfl
@[simp] theorem State.updCnt_host (f : Tbl2 → Tbl2) : (s.updCnt f).host = s.host := rfl
@[simp] theorem State.updCnt_intr (f : Tbl2 → Tbl2) : (s.updCnt f).intr = s.intr := rfl
@[simp] theorem State.updCnt_reg (f : Tbl2 → Tbl2) : (s.updCnt f).reg = s.reg := rfl
@[simp] theorem State.updCnt_gv (f : Tbl2 → Tbl2) : (s.updCnt f).gv = s.gv := rfl
@[simp] theorem State.updCnt_time (f : Tbl2 → Tbl2) : (s.updCnt f).time = s.time := rfl
@[simp] theorem State.updCnt_lanes (f : Tbl2 → Tbl2) : (s.updCnt f).lanes = s.lanes := rfl
@[simp] theorem State.updCnt_ports (f : Tbl2 → Tbl2) : (s.updCnt f).ports = s.ports := rfl
@[simp] theorem State.updCnt_store (f : Tbl2 → Tbl2) : (s.updCnt f).store = s.store := rfl
@[simp] theorem State.updCnt_sch (f : Tbl2 → Tbl2) : (s.updCnt f).sch = s.sch := rfl
@[simp] theorem State.updCnt_sta (f : Tbl2 → Tbl2) : (s.updCnt f).sta = s.sta := rfl
@[simp] theorem State.updCnt_ch (f : Tbl2 → Tbl2) : (s.updCnt f).ch = s.ch := rfl
@[simp] theorem State.updCnt_rl (f : Tbl2 → Tbl2) : (s.updCnt f).rl = s.rl := rfl
@[simp] theorem State.updCnt_crc (f : Tbl2 → Tbl2) : (s.updCnt f).crc = s.crc := rfl
@[simp] theorem State.updCnt_pwr (f : Tbl2 → Tbl2) : (s.updCnt f).pwr = s.pwr := rfl
@[simp] theorem State.updCnt_sys (f : Tbl2 → Tbl2) : (s.updCnt f).sys = s.sys := rfl
@[simp] theorem State.updCnt_cls (f : Tbl2 → Tbl2) : (s.updCnt f).cls = s.cls := rfl
@[simp] theorem State.updCnt_res (f : Tbl2 → Tbl2) : (s.updCnt f).res = s.res := rfl
@[simp] theorem State.updCnt_pipe (f : Tbl2 → Tbl2) : (s.updCnt f).pipe = s.pipe := rfl
@[simp] theorem State.updCnt_flow (f : Tbl2 → Tbl2) : (s.updCnt f).flow = s.flow := rfl
@[simp] theorem State.updCnt_eng (f : Tbl2 → Tbl2) : (s.updCnt f).eng = s.eng := rfl
@[simp] theorem State.updCnt_mt (f : Tbl2 → Tbl2) : (s.updCnt f).mt = s.mt := rfl
@[simp] theorem State.updCnt_cnt (f : Tbl2 → Tbl2) : (s.updCnt f).cnt = f s.cnt := rfl
@[simp] theorem State.updCnt_free (f : Tbl2 → Tbl2) : (s.updCnt f).free = s.free := rfl
@[simp] theorem State.updCnt_pending (f : Tbl2 → Tbl2) : (s.updCnt f).pending = s.pending := rfl
@[simp] theorem State.updFree_build (f : Nat → Nat) : (s.updFree f).build = s.build := rfl
@[simp] theorem State.updFree_host (f : Nat → Nat) : (s.updFree f).host = s.host := rfl
@[simp] theorem State.updFree_intr (f : Nat → Nat) : (s.updFree f).intr = s.intr := rfl
@[simp] theorem State.updFree_reg (f : Nat → Nat) : (s.updFree f).reg = s.reg := rfl
@[simp] theorem State.updFree_gv (f : Nat → Nat) : (s.updFree f).gv = s.gv := rfl
@[simp] theorem State.updFree_time (f : Nat → Nat) : (s.updFree f).time = s.time := rfl
@[simp] theorem State.updFree_lanes (f : Nat → Nat) : (s.updFree f).lanes = s.lanes := rfl
@[simp] theorem State.updFree_ports (f : Nat → Nat) : (s.updFree f).ports = s.ports := rfl
@[simp] theorem State.updFree_store (f : Nat → Nat) : (s.updFree f).store = s.store := rfl
@[simp] theorem State.updFree_sch (f : Nat → Nat) : (s.updFree f).sch = s.sch := rfl
@[simp] theorem State.updFree_sta (f : Nat → Nat) : (s.updFree f).sta = s.sta := rfl
@[simp] theorem State.updFree_ch (f : Nat → Nat) : (s.updFree f).ch = s.ch := rfl
@[simp] theorem State.updFree_rl (f : Nat → Nat) : (s.updFree f).rl = s.rl := rfl
@[simp] theorem State.updFree_crc (f : Nat → Nat) : (s.updFree f).crc = s.crc := rfl
@[simp] theorem State.updFree_pwr (f : Nat → Nat) : (s.updFree f).pwr = s.pwr := rfl
@[simp] theorem State.updFree_sys (f : Nat → Nat) : (s.updFree f).sys = s.sys := rfl
@[simp] theorem State.updFree_cls (f : Nat → Nat) : (s.updFree f).cls = s.cls := rfl
@[simp] theorem State.updFree_res (f : Nat → Nat) : (s.updFree f).res = s.res := rfl
@[simp] theorem State.updFree_pipe (f : Nat → Nat) : (s.updFree f).pipe = s.pipe := rfl
@[simp] theorem State.updFree_flow (f : Nat → Nat) : (s.updFree f).flow = s.flow := rfl
@[simp] theorem State.updFree_eng (f : Nat → Nat) : (s.updFree f).eng = s.eng := rfl
@[simp] theorem State.updFree_mt (f : Nat → Nat) : (s.updFree f).mt = s.mt := rfl
@[simp] theorem State.updFree_cnt (f : Nat → Nat) : (s.updFree f).cnt = s.cnt := rfl
@[simp] theorem State.updFree_free (f : Nat → Nat) : (s.updFree f).free = f s.free := rfl
@[simp] theorem State.updFree_pending (f : Nat → Nat) : (s.updFree f).pending = s.pending := rfl
@[simp] theorem State.updPending_build (f : List Instr → List Instr) : (s.updPending f).build = s.build := rfl
@[simp] theorem State.updPending_host (f : List Instr → List Instr) : (s.updPending f).host = s.host := rfl
@[simp] theorem State.updPending_intr (f : List Instr → List Instr) : (s.updPending f).intr = s.intr := rfl
@[simp] theorem State.updPending_reg (f : List Instr → List Instr) : (s.updPending f).reg = s.reg := rfl
@[simp] theorem State.updPending_gv (f : List Instr → List Instr) : (s.updPending f).gv = s.gv := rfl
@[simp] theorem State.updPending_time (f : List Instr → List Instr) : (s.updPending f).time = s.time := rfl
@[simp] theorem State.updPending_lanes (f : List Instr → List Instr) : (s.updPending f).lanes = s.lanes := rfl
@[simp] theorem State.updPending_ports (f : List Instr → List Instr) : (s.updPending f).ports = s.ports := rfl
@[simp] theorem State.updPending_store (f : List Instr → List Instr) : (s.updPending f).store = s.store := rfl
@[simp] theorem State.updPending_sch (f : List Instr → List Instr) : (s.updPending f).sch = s.sch := rfl
@[simp] theorem State.updPending_sta (f : List Instr → List Instr) : (s.updPending f).sta = s.sta := rfl
@[simp] theorem State.updPending_ch (f : List Instr → List Instr) : (s.updPending f).ch = s.ch := rfl
@[simp] theorem State.updPending_rl (f : List Instr → List Instr) : (s.updPending f).rl = s.rl := rfl
@[simp] theorem State.updPending_crc (f : List Instr → List Instr) : (s.updPending f).crc = s.crc := rfl
@[simp] theorem State.updPending_pwr (f : List Instr → List Instr) : (s.updPending f).pwr = s.pwr := rfl
@[simp] theorem State.updPending_sys (f : List Instr → List Instr) : (s.updPending f).sys = s.sys := rfl
@[simp] theorem State.updPending_cls (f : List Instr → List Instr) : (s.updPending f).cls = s.cls := rfl
@[simp] theorem State.updPending_res (f : List Instr → List Instr) : (s.updPending f).res = s.res := rfl
@[simp] theorem State.updPending_pipe (f : List Instr → List Instr) : (s.updPending f).pipe = s.pipe := rfl
@[simp] theorem State.updPending_flow (f : List Instr → List Instr) : (s.updPending f).flow = s.flow := rfl
@[simp] theorem State.updPending_eng (f : List Instr → List Instr) : (s.updPending f).eng = s.eng := rfl
@[simp] theorem State.updPending_mt (f : List Instr → List Instr) : (s.updPending f).mt = s.mt := rfl
@[simp] theorem State.updPending_cnt (f : List Instr → List Instr) : (s.updPending f).cnt = s.cnt := rfl
@[simp] theorem State.updPending_free (f : List Instr → List Instr) : (s.updPending f).free = s.free := rfl
@[simp] theorem State.updPending_pending (f : List Instr → List Instr) : (s.updPending f).pending = f s.pending := rfl

end Sys2Proof.Machine
end

