-- ==== Sys2Proof/Laws/Keep.lean ====
section
/-! SUPPORT. What an operation on the state keeps: the build, the queue, and the invariant; and that each named update
keeps it. -/

namespace Sys2Proof.Machine

open Sys2Proof

/-- `s` is of the same build as `r`, the same commands wait, and it keeps the invariant if `r` has it. -/
def Keep (r s : State) : Prop := s.build = r.build ∧ s.pending = r.pending ∧ (Inv r → Inv s)

def KeepF {α : Type} (r : State) (p : State × α) : Prop := Keep r p.1
def KeepS {α : Type} (r : State) (p : α × State) : Prop := Keep r p.2
def KeepO (r : State) (o : Option State) : Prop := ∀ t, o = some t → Keep r t
def KeepL {β : Type} (r : State) (o : State ⊕ β) : Prop := ∀ t, o = .inl t → Keep r t
def KeepR (r : State) (o : Out) : Prop := ∀ t, o = .next t → Keep r t

theorem Keep.refl (s : State) : Keep s s := ⟨rfl, rfl, id⟩

theorem Keep.trans {r s t : State} (h : Keep r s) (g : Keep s t) : Keep r t :=
  ⟨g.1.trans h.1, g.2.1.trans h.2.1, fun i => g.2.2 (h.2.2 i)⟩

theorem Keep.ite {r a b : State} {c : Prop} [Decidable c] (h : c → Keep r a) (g : ¬ c → Keep r b) :
    Keep r (if c then a else b) := by split <;> simp_all
theorem KeepF.ite {α : Type} {r : State} {a b : State × α} {c : Prop} [Decidable c] (h : c → KeepF r a)
    (g : ¬ c → KeepF r b) : KeepF r (if c then a else b) := by split <;> simp_all
theorem KeepS.ite {α : Type} {r : State} {a b : α × State} {c : Prop} [Decidable c] (h : c → KeepS r a)
    (g : ¬ c → KeepS r b) : KeepS r (if c then a else b) := by split <;> simp_all
theorem KeepO.ite {r : State} {a b : Option State} {c : Prop} [Decidable c] (h : c → KeepO r a)
    (g : ¬ c → KeepO r b) : KeepO r (if c then a else b) := by split <;> simp_all
theorem KeepL.ite {β : Type} {r : State} {a b : State ⊕ β} {c : Prop} [Decidable c] (h : c → KeepL r a)
    (g : ¬ c → KeepL r b) : KeepL r (if c then a else b) := by split <;> simp_all

theorem KeepF.pair {α : Type} {r s : State} {x : α} : KeepF r (s, x) = Keep r s := rfl
theorem KeepS.pair {α : Type} {r s : State} {x : α} : KeepS r (x, s) = Keep r s := rfl
theorem KeepF.fst {α : Type} {r : State} {p : State × α} (h : KeepF r p) : Keep r p.1 := h
theorem KeepS.snd {α : Type} {r : State} {p : α × State} (h : KeepS r p) : Keep r p.2 := h
theorem KeepF.elim {α : Type} {r t : State} {x : α} {p : State × α} (e : p = (t, x)) (h : KeepF r p) : Keep r t := by
  subst e; exact h
theorem KeepS.elim {α : Type} {r t : State} {x : α} {p : α × State} (e : p = (x, t)) (h : KeepS r p) : Keep r t := by
  subst e; exact h
theorem KeepO.elim {r t : State} {o : Option State} (e : o = some t) (h : KeepO r o) : Keep r t := h t e
theorem KeepL.elim {β : Type} {r t : State} {o : State ⊕ β} (e : o = .inl t) (h : KeepL r o) : Keep r t := h t e
theorem KeepO.some {r s : State} (h : Keep r s) : KeepO r (some s) := by intro t e; cases e; exact h
theorem KeepO.none {r : State} : KeepO r none := by intro t e; cases e
theorem KeepO.getD {r d : State} {o : Option State} (h : KeepO r o) (g : Keep r d) : Keep r (o.getD d) := by
  cases o with
  | none => exact g
  | some t => exact h t rfl
theorem KeepL.inl {β : Type} {r s : State} (h : Keep r s) : KeepL (β := β) r (.inl s) := by intro t e; cases e; exact h
theorem KeepL.inr {β : Type} {r : State} {x : β} : KeepL r (.inr x) := by intro t e; cases e
theorem KeepR.next {r s : State} (h : Keep r s) : KeepR r (.next s) := by intro t e; cases e; exact h

theorem Keep.foldl {α : Type} {r : State} {f : State → α → State} (h : ∀ s x, Keep r s → Keep r (f s x)) :
    ∀ {l : List α} {s : State}, Keep r s → Keep r (l.foldl f s) := by
  intro l
  induction l with
  | nil => intro s hs; exact hs
  | cons a l ih => intro s hs; exact ih (h s a hs)

theorem Keep.foldr {α : Type} {r : State} {f : α → State → State} (h : ∀ s x, Keep r s → Keep r (f x s)) {s : State}
    (hs : Keep r s) : ∀ {l : List α}, Keep r (l.foldr f s) := by
  intro l
  induction l with
  | nil => exact hs
  | cons a l ih => exact h _ a ih

theorem KeepF.foldl {α β : Type} {r : State} {f : State × β → α → State × β} (h : ∀ p x, KeepF r p → KeepF r (f p x)) :
    ∀ {l : List α} {p : State × β}, KeepF r p → KeepF r (l.foldl f p) := by
  intro l
  induction l with
  | nil => intro s hs; exact hs
  | cons a l ih => intro s hs; exact ih (h s a hs)

theorem KeepS.foldl {α β : Type} {r : State} {f : β × State → α → β × State} (h : ∀ p x, KeepS r p → KeepS r (f p x)) :
    ∀ {l : List α} {p : β × State}, KeepS r p → KeepS r (l.foldl f p) := by
  intro l
  induction l with
  | nil => intro s hs; exact hs
  | cons a l ih => intro s hs; exact ih (h s a hs)

/-! ## The named updates -/

variable {r s : State}

theorem Keep.updHost (h : Keep r s) {f : HostSt → HostSt} (hf : ∀ x, hostOk x → hostOk (f x)) : Keep r (s.updHost f) :=
  h.trans ⟨rfl, rfl, fun i => ⟨hf _ i.1, i.2⟩⟩
theorem Keep.updEng (h : Keep r s) {f : EngSt → EngSt} (hf : ∀ x, engOk x → engOk (f x)) : Keep r (s.updEng f) :=
  h.trans ⟨rfl, rfl, fun i => ⟨i.1, hf _ i.2.1, i.2.2⟩⟩
theorem Keep.updRes (h : Keep r s) {f : ResSt → ResSt} (hf : ∀ x, (f x).record = x.record) : Keep r (s.updRes f) :=
  h.trans ⟨rfl, rfl, fun i => ⟨i.1, i.2.1, by have := i.2.2; simp only [recordOk, State.updRes_res, hf] at *; exact this⟩⟩
theorem Keep.updIntr (h : Keep r s) {f : IntrSt → IntrSt} : Keep r (s.updIntr f) := h
theorem Keep.updReg (h : Keep r s) {f : RegSt → RegSt} : Keep r (s.updReg f) := h
theorem Keep.updGv (h : Keep r s) {f : GelvorSt → GelvorSt} : Keep r (s.updGv f) := h
theorem Keep.updTime (h : Keep r s) {f : TimeSt → TimeSt} : Keep r (s.updTime f) := h
theorem Keep.updLanes (h : Keep r s) {f : LanesSt → LanesSt} : Keep r (s.updLanes f) := h
theorem Keep.updPorts (h : Keep r s) {f : Tbl Port → Tbl Port} : Keep r (s.updPorts f) := h
theorem Keep.updStore (h : Keep r s) {f : StoreSt → StoreSt} : Keep r (s.updStore f) := h
theorem Keep.updSch (h : Keep r s) {f : SchSt → SchSt} : Keep r (s.updSch f) := h
theorem Keep.updSta (h : Keep r s) {f : Tbl Sta → Tbl Sta} : Keep r (s.updSta f) := h
theorem Keep.updCh (h : Keep r s) {f : Tbl Ch → Tbl Ch} : Keep r (s.updCh f) := h
theorem Keep.updRl (h : Keep r s) {f : Tbl Rl → Tbl Rl} : Keep r (s.updRl f) := h
theorem Keep.updCrc (h : Keep r s) {f : CrcSt → CrcSt} : Keep r (s.updCrc f) := h
theorem Keep.updPwr (h : Keep r s) {f : PwrSt → PwrSt} : Keep r (s.updPwr f) := h
theorem Keep.updSys (h : Keep r s) {f : SysSt → SysSt} : Keep r (s.updSys f) := h
theorem Keep.updCls (h : Keep r s) {f : ClsSt → ClsSt} : Keep r (s.updCls f) := h
theorem Keep.updPipe (h : Keep r s) {f : PipeSt → PipeSt} : Keep r (s.updPipe f) := h
theorem Keep.updFlow (h : Keep r s) {f : FlowSt → FlowSt} : Keep r (s.updFlow f) := h
theorem Keep.updMt (h : Keep r s) {f : MtSt → MtSt} : Keep r (s.updMt f) := h
theorem Keep.updCnt (h : Keep r s) {f : Tbl2 → Tbl2} : Keep r (s.updCnt f) := h
theorem Keep.updFree (h : Keep r s) {f : Nat → Nat} : Keep r (s.updFree f) := h

/-- A change of the host port that leaves its queues and its retired tags. -/
theorem Keep.updHost' (h : Keep r s) {f : HostSt → HostSt} (hf : ∀ x, (f x).reads = x.reads ∧ (f x).writes = x.writes ∧
    (f x).retiredR = x.retiredR ∧ (f x).retiredW = x.retiredW ∧ (f x).xfers = x.xfers) : Keep r (s.updHost f) :=
  h.updHost fun x hx => by
    obtain ⟨h1, h2, h3, h4, h5⟩ := hf x
    unfold hostOk; rw [h1, h2, h3, h4, h5]; exact hx

/-- A change of the engines that leaves their memories. -/
theorem Keep.updEng' (h : Keep r s) {f : EngSt → EngSt} (hf : ∀ x, (f x).engines = x.engines) : Keep r (s.updEng f) :=
  h.updEng fun x hx p hp => hx p (by rw [hf] at hp; exact hp)

theorem Tbl.set_mem {α : Type} {i : Nat} {v : α} : ∀ {t : Tbl α} {p : Nat × α}, p ∈ t.set i v → p ∈ t ∨ p = (i, v) := by
  intro t
  induction t with
  | nil => intro p hp; exact .inr (List.mem_singleton.mp hp)
  | cons q t ih =>
    intro p hp
    simp only [Tbl.set] at hp
    split at hp
    · rcases List.mem_cons.mp hp with rfl | hp
      · exact .inr rfl
      · exact .inl hp
    · split at hp
      · rcases List.mem_cons.mp hp with rfl | hp
        · exact .inr rfl
        · exact .inl (List.mem_cons_of_mem _ hp)
      · rcases List.mem_cons.mp hp with rfl | hp
        · exact .inl List.mem_cons_self
        · rcases ih hp with h | h
          · exact .inl (List.mem_cons_of_mem _ h)
          · exact .inr h

theorem Tbl.get?_mem {α : Type} {i : Nat} {v : α} : ∀ {t : Tbl α}, t.get? i = some v → (i, v) ∈ t := by
  intro t
  induction t with
  | nil => intro h; cases h
  | cons q t ih =>
    intro h
    simp only [Tbl.get?] at h
    split at h
    · rename_i e; cases h; subst e; exact List.mem_cons_self
    · exact List.mem_cons_of_mem _ (ih h)

theorem setEng_keep {e : Nat} {f : Engine → Engine} (h : Keep r s) (hf : ∀ g, memsOk g → memsOk (f g)) :
    Keep r (setEng e f s) := by
  refine Keep.updEng h fun x hx p hp => ?_
  rcases Tbl.set_mem hp with hp | rfl
  · exact hx p hp
  · refine hf _ ?_
    unfold Tbl.getD
    cases hg : Tbl.get? x.engines e with
    | none => exact ⟨rfl, rfl⟩
    | some g => exact hx _ (Tbl.get?_mem hg)

/-- A change of an engine that leaves its memories. -/
theorem setEng_keep' {e : Nat} {f : Engine → Engine} (h : Keep r s) (hf : ∀ g, (f g).imem = g.imem ∧ (f g).dmem = g.dmem) :
    Keep r (setEng e f s) :=
  setEng_keep h fun g hg => by unfold memsOk; rw [(hf g).1, (hf g).2]; exact hg

theorem setThr_keep {e t : Nat} {f : Thread → Thread} (h : Keep r s) : Keep r (setThr e t f s) :=
  setEng_keep' h fun _ => ⟨rfl, rfl⟩

end Sys2Proof.Machine
end

