-- ==== Sys2Proof/Laws/KeepHost.lean ====
section
/-! SUPPORT. The host port's queues keep their rules: what is issued has a free tag and is a lawful piece. -/

namespace Sys2Proof.Machine

open Sys2Proof

theorem lowestFree_spec {n i : Nat} {l : List Nat} (h : lowestFree n l = some i) : i < n ∧ i ∉ l := by
  unfold lowestFree at h
  have h1 := List.find?_some h
  have h2 := List.mem_of_find?_eq_some h
  simp only [List.mem_range] at h2
  exact ⟨by omega, by simpa using h1⟩

/-- A tag that is given out is free, and of 8 bits (R39, R46). -/
theorem freeTag_spec {l : List Txn} {ret : List Nat} {t : Nat} (h : freeTag l ret = some t) :
    t < 256 ∧ t ∉ l.map (·.tag) ++ ret := by
  unfold freeTag at h
  split at h
  · exact lowestFree_spec h
  · cases h

theorem tagsOk.add {l : List Txn} {ret cool : List Nat} {t : Txn} (h : tagsOk l ret)
    (hf : freeTag l (ret ++ cool) = some t.tag) (hp : pieceOk (t.addr, t.beats)) : tagsOk (l ++ [t]) ret := by
  obtain ⟨h1, h2, h3⟩ := h
  obtain ⟨g1, g2⟩ := freeTag_spec hf
  simp only [List.mem_append, not_or] at g2
  replace g2 : t.tag ∉ l.map (·.tag) ∧ t.tag ∉ ret := ⟨g2.1, g2.2.1⟩
  refine ⟨?_, ?_, ?_⟩
  · rw [List.map_append, List.append_assoc]
    have hp : List.Perm (t.tag :: (l.map (·.tag) ++ ret)) (l.map (·.tag) ++ ([t].map (·.tag) ++ ret)) := by
      simpa using List.perm_middle.symm
    rw [← hp.nodup_iff]
    exact List.nodup_cons.mpr ⟨by rw [List.mem_append]; rintro (x | x); exacts [g2.1 x, g2.2 x], h1⟩
  · intro x hx
    simp only [List.map_append, List.mem_append, List.map_cons, List.map_nil, List.mem_singleton] at hx
    rcases hx with (hx | hx) | hx
    · exact h2 x (List.mem_append_left _ hx)
    · omega
    · exact h2 x (List.mem_append_right _ hx)
  · intro x hx
    rcases List.mem_append.mp hx with hx | hx
    · exact h3 x hx
    · rw [List.mem_singleton.mp hx]; exact hp

theorem tagsOk.filter {l : List Txn} {ret : List Nat} (p : Txn → Bool) (h : tagsOk l ret) : tagsOk (l.filter p) ret := by
  obtain ⟨h1, h2, h3⟩ := h
  have hs : List.Sublist ((l.filter p).map (·.tag) ++ ret) (l.map (·.tag) ++ ret) :=
    (List.filter_sublist.map _).append_right _
  exact ⟨h1.sublist hs, fun x hx => h2 x (hs.subset hx), fun x hx => h3 x (List.mem_of_mem_filter hx)⟩

theorem tagsOk.erase {l : List Txn} {ret : List Nat} (t : Nat) (h : tagsOk l ret) : tagsOk l (ret.erase t) := by
  obtain ⟨h1, h2, h3⟩ := h
  have hs : List.Sublist (l.map (·.tag) ++ ret.erase t) (l.map (·.tag) ++ ret) := List.erase_sublist.append_left _
  exact ⟨h1.sublist hs, fun x hx => h2 x (hs.subset hx), h3⟩

/-- The tag of an outstanding transaction goes over to the retired ones (R46). -/
theorem tagsOk.retire {l : List Txn} {ret : List Nat} {t : Txn} (h : tagsOk l ret) (ht : t ∈ l) :
    tagsOk (l.filter (fun x => x.tag != t.tag)) (ret ++ [t.tag]) := by
  obtain ⟨h1, h2, h3⟩ := h
  have hm : t.tag ∈ l.map (·.tag) := List.mem_map_of_mem ht
  have hg := tagsOk.filter (fun x => x.tag != t.tag) ⟨h1, h2, h3⟩
  refine ⟨?_, ?_, hg.2.2⟩
  · rw [← List.append_assoc]
    have hp : List.Perm (t.tag :: ((l.filter (fun x => x.tag != t.tag)).map (·.tag) ++ ret))
        ((l.filter (fun x => x.tag != t.tag)).map (·.tag) ++ ret ++ [t.tag]) := 
      (List.perm_append_singleton _ _).symm
    rw [← hp.nodup_iff]
    refine List.nodup_cons.mpr ⟨?_, hg.1⟩
    intro hx
    rcases List.mem_append.mp hx with hx | hx
    · obtain ⟨a, ha, hb⟩ := List.mem_map.mp hx
      have := (List.mem_filter.mp ha).2
      rw [hb] at this
      simp at this
    · exact (List.nodup_append.mp h1).2.2 _ hm _ hx rfl
  · intro x hx
    rw [← List.append_assoc] at hx
    rcases List.mem_append.mp hx with hx | hx
    · exact hg.2.1 x hx
    · rw [List.mem_singleton.mp hx]; exact h2 _ (List.mem_append_left _ hm)

theorem tagsOk.mapIf {l : List Txn} {ret : List Nat} (p : Txn → Bool) (f : Txn → Txn)
    (hf : ∀ x, (f x).tag = x.tag ∧ (f x).addr = x.addr ∧ (f x).beats = x.beats) (h : tagsOk l ret) :
    tagsOk (mapIf l p f) ret := by
  have e : (Machine.mapIf l p f).map (·.tag) = l.map (·.tag) := by
    unfold Machine.mapIf; rw [List.map_map]; apply List.map_congr_left; intro x _
    simp only [Function.comp]; split
    · exact (hf x).1
    · rfl
  obtain ⟨h1, h2, h3⟩ := h
  refine ⟨by rw [e]; exact h1, by rw [e]; exact h2, ?_⟩
  intro x hx
  simp only [Machine.mapIf, List.mem_map] at hx
  obtain ⟨y, hy, rfl⟩ := hx
  split
  · rw [(hf y).2.1, (hf y).2.2]; exact h3 y hy
  · exact h3 y hy

theorem piecesFrom_ok : ∀ {f a e : Nat}, a % 64 = 0 → e % 64 = 0 → ∀ p ∈ piecesFrom f a e, pieceOk p := by
  intro f
  induction f with
  | zero => intro a e _ _ p hp; cases hp
  | succ f ih =>
    intro a e ha he p hp
    simp only [piecesFrom] at hp
    split at hp
    · rcases List.mem_cons.mp hp with rfl | hp
      · refine ⟨ha, ?_, ?_⟩ <;> simp only <;> omega
      · exact ih (by omega) he p hp
    · cases hp

/-- The pieces of an access are aligned, and none crosses a 4 KiB boundary (R38). -/
theorem pieces_ok {a n : Nat} : ∀ p ∈ pieces a n, pieceOk p := by
  unfold pieces
  exact piecesFrom_ok (by omega) (by unfold roundUp; omega)

theorem setXfer_ok {x : Xfer} {h : HostSt} (hx : ∀ p ∈ x.todo, pieceOk p) (hh : hostOk h) : hostOk (setXfer x h) := by
  refine ⟨hh.1, hh.2.1, ?_⟩
  intro y hy
  simp only [setXfer, List.mem_map] at hy
  obtain ⟨z, hz, rfl⟩ := hy
  split
  · exact hx
  · exact hh.2.2 z hz

theorem issuePiece_ok {x : Xfer} {p : Nat × Nat} {h h' : HostSt} (hp : pieceOk p) (hh : hostOk h)
    (e : issuePiece x p h = some h') : hostOk h' := by
  unfold issuePiece at e
  split at e
  · obtain ⟨t, ht, rfl⟩ := Option.map_eq_some_iff.mp e
    exact ⟨hh.1, hh.2.1.add ht hp, hh.2.2⟩
  · obtain ⟨t, ht, rfl⟩ := Option.map_eq_some_iff.mp e
    exact ⟨hh.1.add ht hp, hh.2.1, hh.2.2⟩

theorem pumpXfer_ok : ∀ {f : Nat} {x : Xfer} {h : HostSt}, (∀ p ∈ x.todo, pieceOk p) → hostOk h → hostOk (pumpXfer f x h) := by
  intro f
  induction f with
  | zero => intro x h hx hh; exact setXfer_ok hx hh
  | succ f ih =>
    intro x h hx hh
    simp only [pumpXfer]
    split
    · exact setXfer_ok hx hh
    · rename_i p rest e
      rw [e] at hx
      split
      · exact setXfer_ok (by rw [e]; exact hx) hh
      · rename_i h' e'
        exact ih (fun q hq => hx q (List.mem_cons_of_mem _ hq)) (issuePiece_ok (hx p List.mem_cons_self) hh e')

/-- Issuing what waits keeps the rules of the host port. -/
theorem pumpAll_ok {l : List Xfer} {skip : HostSt → Xfer → Bool} (hl : ∀ x ∈ l, ∀ p ∈ x.todo, pieceOk p) : ∀ {h : HostSt},
    hostOk h → hostOk (l.foldl (fun h x => if skip h x then h else pumpXfer x.todo.length x h) h) := by
  induction l with
  | nil => intro h hh; exact hh
  | cons x l ih =>
    intro h hh
    refine ih (fun y hy => hl y (List.mem_cons_of_mem _ hy)) ?_
    dsimp only
    split
    · exact hh
    · exact pumpXfer_ok (hl x List.mem_cons_self) hh

variable {r s : State}

theorem pump_keep (h : Keep r s) : Keep r (pump s) := by
  unfold pump
  exact Keep.updHost h fun x hx =>
    pumpAll_ok (skip := fun h x => x.todo.isEmpty || waitsFor h x || (s.sys.quiesced && !commandXfer s x)) hx.2.2 hx

theorem startXfer_keep {purp : Purp} {write : Bool} {sid addr len : Nat} {data : Bytes} (h : Keep r s) :
    Keep r (startXfer purp write sid addr len data s) := by
  unfold startXfer
  refine pump_keep (Keep.updHost h fun x hx => ⟨hx.1, hx.2.1, ?_⟩)
  intro y hy
  rcases List.mem_append.mp hy with hy | hy
  · exact hx.2.2 y hy
  · rw [List.mem_singleton.mp hy]; exact pieces_ok

theorem dropXfers_keep {p : Xfer → Bool} (h : Keep r s) : Keep r (dropXfers p s) := by
  unfold dropXfers
  refine Keep.updHost h fun x hx => ⟨hx.1, hx.2.1, ?_⟩
  intro y hy
  obtain ⟨z, hz, rfl⟩ := List.mem_map.mp hy
  split
  · intro q hq; cases hq
  · exact hx.2.2 z (List.mem_of_mem_filter hz)

theorem dropXfer_keep {id : Nat} (h : Keep r s) : Keep r (dropXfer id s) := by
  unfold dropXfer
  exact Keep.updHost h fun x hx => ⟨hx.1, hx.2.1, fun y hy => hx.2.2 y (List.mem_of_mem_filter hy)⟩

theorem startMove_keep {purp : Purp} {write : Bool} {b len a : Nat} {data : Bytes} (h : Keep r s) :
    Keep r (startMove purp write b len a data s) := by
  unfold startMove
  refine pump_keep (Keep.updHost h fun x hx => ⟨hx.1, hx.2.1, ?_⟩)
  intro y hy
  rcases List.mem_append.mp hy with hy | hy
  · exact hx.2.2 y hy
  · rw [List.mem_singleton.mp hy]
    intro p hp
    simp only [movePieces] at hp
    split at hp
    · exact pieces_ok p hp
    · simp only [bufPieces] at hp
      split at hp
      · exact pieces_ok p hp
      · rcases List.mem_append.mp hp with hp | hp <;> exact pieces_ok p hp

/-- Putting a transfer in the place of the one with its identifier, with no new pieces. -/
theorem setXfer_keep {x y : Xfer} (hx : ∀ q, Keep r q → q = s → Inv s → ∀ p ∈ x.todo, pieceOk p) (e : y.todo = x.todo)
    (h : Keep r s) : Keep r (s.updHost (setXfer y)) :=
  h.trans ⟨rfl, rfl, fun i => ⟨setXfer_ok (by rw [e]; exact hx s h rfl i) i.1, i.2⟩⟩

theorem getXfer_todo {id : Nat} {x : Xfer} (hx : getXfer s id = some x) :
    ∀ q, Keep r q → q = s → Inv s → ∀ p ∈ x.todo, pieceOk p := by
  intro _ _ _ i
  exact i.1.2.2 x (List.mem_of_find?_eq_some hx)

theorem record_append_keep {e : Nat} (h : Keep r s) (hl : ¬ s.res.record.length ≥ 256) :
    Keep r (s.updRes fun x => { x with record := x.record ++ [e] }) := by
  refine h.trans ⟨rfl, rfl, fun i => ⟨i.1, i.2.1, ?_⟩⟩
  simp only [recordOk, State.updRes_res, List.length_append, List.length_singleton]
  omega

theorem images_wf (l : List Prog) (f : Mem → Prog → Mem) (hf : ∀ m p, Memory.wf m = true → Memory.wf (f m p) = true) :
    ∀ {m : Mem}, Memory.wf m = true → Memory.wf (l.foldl f m) = true := by
  induction l with
  | nil => intro m h; exact h
  | cons p l ih => intro m h; exact ih (hf m p h)

theorem imemImage_wf : Memory.wf (imemImage s) = true := images_wf _ _ (fun _ _ => Mem.wrN_wf) (Mem.wrN_wf rfl)
theorem dmemImage_wf : Memory.wf (dmemImage s) = true := images_wf _ _ (fun _ _ => Mem.wrN_wf) (Mem.wrN_wf rfl)

theorem tagsOk_nil : tagsOk [] [] :=
  ⟨List.nodup_nil, fun _ h => absurd h List.not_mem_nil, fun _ h => absurd h List.not_mem_nil⟩

theorem reset_hostOk : hostOk State.reset.host := ⟨tagsOk_nil, tagsOk_nil, fun _ h => absurd h List.not_mem_nil⟩

end Sys2Proof.Machine
end

