-- ==== Sys2Proof/Laws/KeepUnits.lean ====
section
/-! SUPPORT. Each operation of the shared operations, the buffer store, the parser, the queues and the pipeline keeps the build, the queue and the invariant. -/

namespace Sys2Proof.Machine

open Sys2Proof

/-! ## Ops -/

theorem bumpN_keep {r : State} {g : Nat} {i : Nat} {k : Nat} {n : Nat} {s : State} (h : Keep r s) :
    Keep r (bumpN g i k n s) := by
  unfold bumpN
  with_reducible repeat' (first | assumption | apply Keep.updCnt)

theorem bump_keep {r : State} {g : Nat} {i : Nat} {k : Nat} {s : State} (h : Keep r s) :
    Keep r (bump g i k s) := by
  unfold bump
  with_reducible repeat' (first | assumption | apply bumpN_keep)

theorem readCounters_keep {r : State} {g : Nat} {i : Nat} {n : Nat} {clear : Bool} {s : State} (h : Keep r s) :
    KeepS r (readCounters g i n clear s) := by
  unfold readCounters
  with_reducible repeat' (first | assumption | apply Keep.ite | apply Keep.updCnt | simp only [KeepS.pair] | intro _)

theorem draw_keep {r : State} {s : State} (h : Keep r s) :
    KeepS r (draw s) := by
  unfold draw
  with_reducible repeat' (first | assumption | apply Keep.updFree | simp only [KeepS.pair])

theorem setTb_keep {r : State} {k : Nat} {f : Tb → Tb} {s : State} (h : Keep r s) :
    Keep r (setTb k f s) := by
  unfold setTb
  with_reducible repeat' (first | assumption | apply Keep.updTime)

theorem setMb_keep {r : State} {m : Nat} {f : Mb → Mb} {s : State} (h : Keep r s) :
    Keep r (setMb m f s) := by
  unfold setMb
  with_reducible repeat' (first | assumption | apply Keep.updGv)

theorem clocked_keep {r s t : State} (h : Keep r s) (g : Keep r t) : Keep r (clocked s t) :=
  Keep.ite (fun _ => h) fun _ => g

theorem setMsg_keep {r : State} {l : Nat} {f : LineMsg → LineMsg} {s : State} (h : Keep r s) :
    Keep r (setMsg l f s) := by
  unfold setMsg
  with_reducible repeat' (first | assumption | apply Keep.updIntr)

theorem errBit_keep {r : State} {b : Nat} {s : State} (h : Keep r s) :
    Keep r (errBit b s) := by
  unfold errBit
  with_reducible repeat' (first | assumption | apply Keep.updIntr)

theorem violation_keep {r : State} {s : State} (h : Keep r s) :
    Keep r (violation s) := by
  unfold violation
  with_reducible repeat' (first | assumption | apply errBit_keep | refine Keep.updHost' ?_ (fun _ => ⟨rfl, rfl, rfl, rfl, rfl⟩))

theorem sendMsg_keep {r : State} {src : MsgSrc} {sid : Nat} {addr : Nat} {data : Nat} {s : State} (h : Keep r s) :
    KeepF r (sendMsg src sid addr data s) := by
  unfold sendMsg
  with_reducible repeat' (first | assumption | apply KeepF.ite | apply violation_keep | apply startXfer_keep | apply errBit_keep | simp only [KeepF.pair] | intro _)

theorem driveLine_keep {r : State} {l : Nat} {s : State} (h : Keep r s) :
    Keep r (driveLine l s) := by
  unfold driveLine
  with_reducible repeat' (first | assumption | apply Keep.ite | apply sendMsg_keep | apply Keep.updIntr | apply setMsg_keep | simp only [KeepF.pair] | apply KeepF.fst | intro _)

theorem dropLine_keep {r : State} {l : Nat} {s : State} (h : Keep r s) :
    Keep r (dropLine l s) := by
  unfold dropLine
  with_reducible repeat' (first | assumption | apply Keep.ite | apply setMsg_keep | apply Keep.updIntr | intro _ | split | dsimp only)

theorem dropLines_keep {r : State} {s : State} (h : Keep r s) :
    Keep r (dropLines s) := by
  unfold dropLines
  with_reducible repeat' (first | assumption | apply dropLine_keep | intro _ | split | dsimp only)

theorem lines_keep {r : State} {s : State} (h : Keep r s) :
    Keep r (lines s) := by
  unfold lines
  with_reducible repeat' (first | assumption | apply driveLine_keep)

theorem raiseErr_keep {r : State} {b : Nat} {s : State} (h : Keep r s) :
    Keep r (raiseErr b s) := by
  unfold raiseErr
  with_reducible repeat' (first | assumption | apply lines_keep | apply errBit_keep)

theorem raiseTime0_keep {r : State} {b : Nat} {s : State} (h : Keep r s) :
    Keep r (raiseTime0 b s) := by
  unfold raiseTime0
  with_reducible repeat' (first | assumption | apply lines_keep | apply Keep.updTime)

theorem raiseTime1_keep {r : State} {b : Nat} {s : State} (h : Keep r s) :
    Keep r (raiseTime1 b s) := by
  unfold raiseTime1
  with_reducible repeat' (first | assumption | apply lines_keep | apply Keep.updTime)

theorem evLose_keep {r : State} {m : Nat} {s : State} (h : Keep r s) :
    Keep r (evLose m s) := by
  unfold evLose
  with_reducible repeat' (first | assumption | apply setMb_keep)

theorem evPassed_keep {r : State} {m : Nat} {s : State} (h : Keep r s) :
    Keep r (evPassed m s) := by
  unfold evPassed
  with_reducible repeat' (first | assumption | apply Keep.ite | apply Keep.updGv | intro _ | split)

theorem evPump_keep {r : State} {a : Nat} {a1x : Nat} {s : State} (h : Keep r s) :
    Keep r (evPump a a1x s) := by
  induction a generalizing a1x s with
  | zero =>
    simp only [evPump]
    exact h
  | succ n ih =>
    simp only [evPump]
    with_reducible repeat' (first | assumption | apply ih | apply Keep.ite | apply evLose_keep | apply evPassed_keep | apply setMb_keep | apply startXfer_keep | apply violation_keep | intro _ | split | dsimp only)

theorem deliver_keep {r : State} {e : Ev} {a : Aud} {s : State} (h : Keep r s) :
    Keep r (deliver e a s) := by
  unfold deliver
  with_reducible repeat' (first | assumption | apply Keep.ite | apply evPump_keep | apply setMb_keep | apply Keep.foldl | intro _ | split | dsimp only)

theorem awaitEvents_keep {r : State} {rsp : Option (Nat × Bytes × Bytes)} {s : State} (h : Keep r s) :
    Keep r (awaitEvents rsp s) := by
  unfold awaitEvents
  with_reducible repeat' (first | assumption | apply Keep.updGv | intro _ | split)

theorem deliverHeld_keep {r : State} {s : State} (h : Keep r s) :
    Keep r (deliverHeld s) := by
  unfold deliverHeld
  with_reducible repeat' (first | assumption | apply Keep.ite | apply awaitEvents_keep | apply deliver_keep | apply Keep.updGv | apply Keep.foldl | apply KeepS.foldl | apply KeepF.foldl | simp only [KeepF.pair] | apply KeepF.fst | (refine KeepF.elim (by assumption) ?_) | intro _ | split)

theorem raiseTo_keep {r : State} {a : Aud} {code : Nat} {subject : Nat} {detail : Bytes} {s : State} (h : Keep r s) :
    Keep r (raiseTo a code subject detail s) := by
  unfold raiseTo
  with_reducible repeat' (first | assumption | apply Keep.ite | apply Keep.updGv | apply evLose_keep | apply deliver_keep | apply Keep.foldl | intro _)

theorem raise0_keep {r : State} {code : Nat} {subject : Nat} {detail : Bytes} {s : State} (h : Keep r s) :
    Keep r (raise0 code subject detail s) := by
  unfold raise0
  with_reducible repeat' (first | assumption | apply raiseTo_keep)

theorem raiseAll_keep {r : State} {code : Nat} {detail : Bytes} {s : State} (h : Keep r s) :
    Keep r (raiseAll code detail s) := by
  unfold raiseAll
  with_reducible repeat' (first | assumption | apply raiseTo_keep)

theorem setService_keep {r : State} {b : Nat} {on : Bool} {s : State} (h : Keep r s) :
    Keep r (setService b on s) := by
  unfold setService
  with_reducible repeat' (first | assumption | apply Keep.ite | apply lines_keep | apply raise0_keep | apply Keep.updSys | simp only [KeepF.pair] | intro _)

theorem decodeError_keep {r : State} {addr : Nat} {s : State} (h : Keep r s) :
    Keep r (decodeError addr s) := by
  unfold decodeError
  with_reducible repeat' (first | assumption | apply Keep.updSys)

/-! ## Access -/

theorem answer_keep {r : State} {v : Nat} {s : State} (h : Keep r s) :
    Keep r (answer v s) := by
  unfold answer
  with_reducible repeat' (first | assumption | apply Keep.updReg)

theorem targetErr_keep {r : State} {s : State} (h : Keep r s) :
    Keep r (targetErr s) := by
  unfold targetErr
  with_reducible repeat' (first | assumption | apply Keep.updReg)

theorem regWrite_keep {r : State} {present : Bool} {addr : Nat} {f : State → State} {s : State} (hf : ∀ t, Keep r t → Keep r (f t)) (h : Keep r s) :
    Keep r (regWrite present addr f s) := by
  unfold regWrite
  with_reducible repeat' (first | assumption | apply hf | apply Keep.ite | apply decodeError_keep | apply answer_keep | apply targetErr_keep | intro _)

/-! ## HostPort -/

theorem judgeTags_keep {r : State} {s : State} (h : Keep r s) :
    Keep r (judgeTags s) := by
  unfold judgeTags
  with_reducible repeat' (first | assumption | apply setService_keep)

theorem countErrored_keep {r : State} {s : State} (h : Keep r s) :
    Keep r (countErrored s) := by
  unfold countErrored
  with_reducible repeat' (first | assumption | apply errBit_keep | refine Keep.updHost' ?_ (fun _ => ⟨rfl, rfl, rfl, rfl, rfl⟩))

theorem endTxn_keep {r : State} {t : Txn} {err : Bool} {bytes : Bytes} {s : State} (h : Keep r s) :
    KeepF r (endTxn t err bytes s) := by
  unfold endTxn
  cases hx : getXfer s t.xfer with
  | none => exact pump_keep h
  | some x =>
    dsimp only
    refine KeepF.ite (fun _ => KeepF.ite (fun _ => ?_) fun _ => ?_) fun _ => ?_
    · exact pump_keep (dropXfer_keep (setXfer_keep (getXfer_todo hx) rfl h))
    · exact pump_keep (setXfer_keep (getXfer_todo hx) rfl h)
    · exact pump_keep (setXfer_keep (getXfer_todo hx) rfl h)

theorem lateBeats_keep {r : State} {tag : Nat} {n : Nat} {s : State} (h : Keep r s) :
    Keep r (lateBeats tag n s) := by
  unfold lateBeats
  with_reducible repeat' (first | assumption | refine Keep.updHost' ?_ (fun _ => ⟨rfl, rfl, rfl, rfl, rfl⟩) | intro _ | split)

theorem lateDone_keep {r : State} {write : Bool} {tag : Nat} {s : State} (h : Keep r s) :
    Keep r (lateDone write tag s) := by
  unfold lateDone
  refine judgeTags_keep (raiseErr_keep (Keep.updHost h fun x hx => ?_))
  split
  · exact ⟨hx.1, hx.2.1.erase tag, hx.2.2⟩
  · exact ⟨hx.1.erase tag, hx.2.1, hx.2.2⟩

theorem lateOrStray_keep {r : State} {write : Bool} {tag : Nat} {n : Nat} {s : State} (h : Keep r s) :
    Keep r (lateOrStray write tag n s) := by
  unfold lateOrStray
  with_reducible repeat' (first | assumption | apply Keep.ite | apply lateBeats_keep | apply lateDone_keep | apply raiseErr_keep | refine Keep.updHost' ?_ (fun _ => ⟨rfl, rfl, rfl, rfl, rfl⟩) | intro _ | split)

theorem readReturn_keep {r : State} {tag : Nat} {beats : List Beat} {s : State} (h : Keep r s) :
    KeepF r (readReturn tag beats s) := by
  unfold readReturn
  cases hf : s.host.reads.find? (·.tag = tag) with
  | none => exact lateOrStray_keep h
  | some t =>
    have h0 : Keep r (s.updHost fun g => { g with pmu := addAt g.pmu 2 beats.length }) := Keep.updHost h fun _ hx => hx
    dsimp only
    refine KeepF.ite (fun _ => ?_) fun _ => ?_
    · exact Keep.updHost h0 fun x hx => ⟨hx.1.mapIf _ _ fun _ => ⟨rfl, rfl, rfl⟩, hx.2.1, hx.2.2⟩
    · have h1 := Keep.updHost h0 (f := fun g => { g with reads := g.reads.filter (fun x => x.tag != tag) })
        fun x hx => ⟨hx.1.filter _, hx.2.1, hx.2.2⟩
      exact endTxn_keep (Keep.ite (fun _ => lines_keep (countErrored_keep h1)) fun _ => h1)

theorem writeReturn_keep {r : State} {tag resp : Nat} {s : State} (h : Keep r s) : KeepF r (writeReturn tag resp s) := by
  unfold writeReturn
  cases hf : s.host.writes.find? (·.tag = tag) with
  | none => exact lateOrStray_keep h
  | some t =>
    have h1 : Keep r (s.updHost fun g => { g with writes := g.writes.filter (fun x => x.tag != tag) }) :=
      Keep.updHost h fun x hx => ⟨hx.1, hx.2.1.filter _, hx.2.2⟩
    dsimp only
    refine endTxn_keep (Keep.ite (fun _ => lines_keep (countErrored_keep h1)) fun _ => h1)

theorem retireTag_keep {r : State} {write : Bool} {tag : Nat} {s : State} {t : Txn} (hf : findTxn write tag s = some t)
    (h : Keep r s) : Keep r (retireTag write tag s) := by
  unfold findTxn at hf
  refine h.trans ⟨rfl, rfl, fun i => ⟨?_, i.2⟩⟩
  obtain ⟨hr, hw, hx⟩ := i.1
  have ht : t.tag = tag := by simpa using List.find?_some hf
  have hm := List.mem_of_find?_eq_some hf
  subst ht
  cases write with
  | true => exact ⟨hr, hw.retire hm, hx⟩
  | false => exact ⟨hr.retire hm, hw, hx⟩

theorem timeoutTxn_keep {r : State} {write : Bool} {tag : Nat} {s : State} (h : Keep r s) : KeepF r (timeoutTxn write tag s) := by
  unfold timeoutTxn
  cases hf : findTxn write tag s with
  | none => exact h
  | some t =>
    exact endTxn_keep (judgeTags_keep (lines_keep (errBit_keep (countErrored_keep
      (Keep.updHost (retireTag_keep hf h) fun _ hx => hx)))))

theorem giveUpTxn_keep {r : State} {write : Bool} {tag : Nat} {s : State} (h : Keep r s) : KeepF r (giveUpTxn write tag s) := by
  unfold giveUpTxn
  cases hf : findTxn write tag s with
  | none => exact h
  | some t => exact endTxn_keep (judgeTags_keep (lines_keep (countErrored_keep (retireTag_keep hf h))))

/-! ## Perf -/

theorem setPmu_keep {r : State} {u : Nat} {f : Pmu → Pmu} {s : State} (h : Keep r s) :
    Keep r (setPmu u f s) := by
  unfold setPmu
  with_reducible repeat' (first | assumption | apply Keep.updMt)

theorem takeSample_keep {r : State} {e : Nat} {t : Nat} {k : Nat} {s : State} (h : Keep r s) :
    Keep r (takeSample e t k s) := by
  unfold takeSample
  with_reducible repeat' (first | assumption | apply Keep.ite | apply bump_keep | refine setEng_keep' ?_ (fun _ => ⟨rfl, rfl⟩) | apply raise0_keep | simp only [KeepF.pair] | intro _)

theorem overflowEvent_keep {r : State} {u : Nat} {s : State} (h : Keep r s) :
    Keep r (overflowEvent u s) := by
  unfold overflowEvent
  with_reducible repeat' (first | assumption | apply Keep.ite | apply setPmu_keep | apply raise0_keep | intro _)

theorem pmuAdd_keep {r : State} {a : Nat} {a1x : Nat} {a2x : Nat} {a3x : Nat} {a4x : Nat} {s : State} (h : Keep r s) :
    Keep r (pmuAdd a a1x a2x a3x a4x s) := by
  induction a generalizing a1x a2x a3x a4x s with
  | zero =>
    simp only [pmuAdd]
    exact h
  | succ n ih =>
    simp only [pmuAdd]
    with_reducible repeat' (first | assumption | apply ih | apply Keep.ite | apply takeSample_keep | apply setPmu_keep | apply overflowEvent_keep | intro _)

theorem pmuEvent_keep {r : State} {u : Nat} {code : Nat} {n : Nat} {t : Nat} {s : State} (h : Keep r s) :
    Keep r (pmuEvent u code n t s) := by
  unfold pmuEvent
  with_reducible repeat' (first | assumption | apply Keep.ite | apply pmuAdd_keep | apply Keep.foldl | simp only [KeepF.pair] | intro _)

theorem perf_keep {r : State} {u : Nat} {code : Nat} {s : State} (h : Keep r s) :
    Keep r (perf u code s) := by
  unfold perf
  with_reducible repeat' (first | assumption | apply pmuEvent_keep)

theorem perfTimes_keep {r : State} {u : Nat} {code : Nat} {a : Nat} {s : State} (h : Keep r s) :
    Keep r (perfTimes u code a s) := by
  induction a generalizing u code s with
  | zero =>
    simp only [perfTimes]
    exact h
  | succ n ih =>
    simp only [perfTimes]
    with_reducible repeat' (first | assumption | apply ih | apply perf_keep)

theorem hostPerf_keep {r : State} {s : State} (h : Keep r s) :
    Keep r (hostPerf s) := by
  unfold hostPerf
  with_reducible repeat' (first | assumption | apply perfTimes_keep | refine Keep.updHost' ?_ (fun _ => ⟨rfl, rfl, rfl, rfl, rfl⟩) | apply Keep.foldl | intro _)

/-! ## Gens -/

theorem killVer_keep {r : State} {k : VKind} {key : Nat} {g : Nat} {s : State} (h : Keep r s) :
    Keep r (killVer k key g s) := by
  unfold killVer
  with_reducible repeat' (first | assumption | apply Keep.updCls)

theorem putVer_keep {r : State} {k : VKind} {key : Nat} {val : Bytes} {g : Nat} {s : State} (h : Keep r s) :
    Keep r (putVer k key val g s) := by
  unfold putVer
  with_reducible repeat' (first | assumption | apply Keep.updCls | apply killVer_keep)

theorem updGen_keep {r : State} {g : Nat} {f : Gen → Gen} {s : State} (h : Keep r s) :
    Keep r (updGen g f s) := by
  unfold updGen
  with_reducible repeat' (first | assumption | apply Keep.updCls)

theorem retireIfEmpty_keep {r : State} {g : Nat} {s : State} (h : Keep r s) :
    Keep r (retireIfEmpty g s) := by
  unfold retireIfEmpty
  with_reducible repeat' (first | assumption | apply Keep.ite | apply updGen_keep | intro _)

theorem genInc_keep {r : State} {g : Nat} {s : State} (h : Keep r s) :
    Keep r (genInc g s) := by
  unfold genInc
  with_reducible repeat' (first | assumption | apply updGen_keep)

theorem genDec_keep {r : State} {g : Nat} {s : State} (h : Keep r s) :
    Keep r (genDec g s) := by
  unfold genDec
  with_reducible repeat' (first | assumption | apply retireIfEmpty_keep | apply updGen_keep)

theorem endSweep_keep {r : State} {s : State} (h : Keep r s) :
    Keep r (endSweep s) := by
  unfold endSweep
  with_reducible repeat' (first | assumption | apply Keep.updCls | apply raiseAll_keep | simp only [KeepF.pair] | split)

theorem newGeneration_keep {r : State} {s : State} (h : Keep r s) :
    Keep r (newGeneration s) := by
  unfold newGeneration
  with_reducible repeat' (first | assumption | apply Keep.updCls | apply retireIfEmpty_keep | apply updGen_keep)

/-! ## Store -/

theorem setPool_keep {r : State} {p : Nat} {f : Pool → Pool} {s : State} (h : Keep r s) :
    Keep r (setPool p f s) := by
  unfold setPool
  with_reducible repeat' (first | assumption | apply Keep.updStore)

theorem evalPool_keep {r : State} {p : Nat} {s : State} (h : Keep r s) :
    Keep r (evalPool p s) := by
  unfold evalPool
  with_reducible repeat' (first | assumption | apply Keep.ite | apply setPool_keep | intro _)

theorem setBuf_keep {r : State} {h0x : Nat} {b : Buf} {s : State} (h : Keep r s) :
    Keep r (setBuf h0x b s) := by
  unfold setBuf
  with_reducible repeat' (first | assumption | apply Keep.updStore)

theorem updBuf_keep {r : State} {h0x : Nat} {f : Buf → Buf} {s : State} (h : Keep r s) :
    Keep r (updBuf h0x f s) := by
  unfold updBuf
  with_reducible repeat' (first | assumption | apply setBuf_keep | split)

theorem poolBump_keep {r : State} {p : Nat} {k : Nat} {s : State} (h : Keep r s) :
    Keep r (poolBump p k s) := by
  unfold poolBump
  with_reducible repeat' (first | assumption | apply bump_keep | apply perf_keep | simp only [KeepF.pair] | split)

theorem countFailed_keep {r before : State} {p port : Nat} {own : State → State} {s : State}
    (hf : ∀ t, Keep r t → Keep r (own t)) (h : Keep r s) : Keep r (countFailed before p port own s) := by
  unfold countFailed
  split
  · exact bump_keep h
  · exact hf _ h

theorem touchBuf_keep {r : State} {h0x : Nat} {s : State} (h : Keep r s) :
    Keep r (touchBuf h0x s) := by
  unfold touchBuf
  with_reducible repeat' (first | assumption | apply Keep.updStore | intro _ | split | dsimp only)

theorem access_keep {r : State} {h0x : Nat} {trailer : Bool} {start : Nat} {len : Nat} {s : State} (h : Keep r s) :
    KeepS r (access h0x trailer start len s) := by
  unfold access
  with_reducible repeat' (first | assumption | apply KeepS.ite | apply Keep.ite | apply poolBump_keep | apply touchBuf_keep | simp only [KeepS.pair] | apply KeepS.snd | (refine KeepS.elim (by assumption) ?_) | intro _ | split | dsimp only)

theorem allocBuf_keep {r : State} {p : Nat} {s : State} (h : Keep r s) :
    KeepS r (allocBuf p s) := by
  unfold allocBuf
  with_reducible repeat' (first | assumption | apply KeepS.ite | apply Keep.ite | apply setBuf_keep | apply draw_keep | apply poolBump_keep | apply evalPool_keep | apply setPool_keep | apply Keep.updStore | simp only [KeepF.pair] | simp only [KeepS.pair] | apply KeepS.snd | intro _ | split)

theorem freeDram_keep {r : State} {p : Nat} {i : Nat} {s : State} (h : Keep r s) :
    Keep r (freeDram p i s) := by
  unfold freeDram
  with_reducible repeat' (first | assumption | apply Keep.ite | apply startXfer_keep | apply setPool_keep | simp only [KeepF.pair] | intro _)

theorem setPort_keep {r : State} {n : Nat} {f : Port → Port} {s : State} (h : Keep r s) :
    Keep r (setPort n f s) := by
  unfold setPort
  with_reducible repeat' (first | assumption | apply Keep.updPorts)

theorem endLpi_keep {r : State} {n : Nat} {s : State} (h : Keep r s) :
    Keep r (endLpi n s) := by
  unfold endLpi
  with_reducible repeat' (first | assumption | apply Keep.ite | apply Keep.updLanes | apply setPort_keep | intro _)

theorem oweFc_keep {r : State} {n : Nat} {k : Nat} {q : Nat} {s : State} (h : Keep r s) :
    Keep r (oweFc n k q s) := by
  unfold oweFc
  with_reducible repeat' (first | assumption | apply endLpi_keep | apply setPort_keep)

theorem judgeOcc_keep {r : State} {n : Nat} {k : Nat} {occ : Nat} {s : State} (h : Keep r s) :
    Keep r (judgeOcc n k occ s) := by
  unfold judgeOcc
  with_reducible repeat' (first | assumption | apply Keep.ite | apply oweFc_keep | apply setPort_keep | intro _)

theorem checkOcc_keep {r : State} {n : Nat} {s : State} (h : Keep r s) :
    Keep r (checkOcc n s) := by
  unfold checkOcc
  with_reducible repeat' (first | assumption | apply Keep.ite | apply judgeOcc_keep | apply Keep.foldl | intro _)

theorem addOcc_keep {r : State} {h0x : Nat} {r1x : Bytes} {s : State} (h : Keep r s) :
    Keep r (addOcc h0x r1x s) := by
  unfold addOcc
  with_reducible repeat' (first | assumption | apply Keep.ite | apply checkOcc_keep | apply setPort_keep | intro _)

theorem subOcc_keep {r : State} {h0x : Nat} {r1x : Bytes} {s : State} (h : Keep r s) :
    Keep r (subOcc h0x r1x s) := by
  unfold subOcc
  with_reducible repeat' (first | assumption | apply Keep.ite | apply checkOcc_keep | apply setPort_keep | intro _)

theorem landSpill_keep {r : State} {h0x : Nat} {s : State} (h : Keep r s) :
    Keep r (landSpill h0x s) := by
  unfold landSpill
  with_reducible repeat' (first | assumption | apply Keep.ite | apply dropXfer_keep | apply evalPool_keep | apply poolBump_keep | apply setBuf_keep | apply setPool_keep | intro _ | split)

theorem freeDirect_keep {r : State} {h0x : Nat} {p : Nat} {i : Nat} {s : State} (h : Keep r s) :
    Keep r (freeDirect h0x p i s) := by
  unfold freeDirect
  with_reducible repeat' (first | assumption | apply freeDram_keep | apply Keep.updStore | intro _ | split)

theorem freeBuf_keep {r : State} {h0x : Nat} {s : State} (h : Keep r s) :
    Keep r (freeBuf h0x s) := by
  unfold freeBuf
  with_reducible repeat' (first | assumption | apply Keep.ite | apply dropXfers_keep | apply evalPool_keep | apply freeDirect_keep | apply freeDram_keep | apply genDec_keep | apply landSpill_keep | apply poolBump_keep | apply subOcc_keep | apply Keep.updStore | intro _ | split | dsimp only)

theorem checkEvent_keep {r : State} {h0x : Nat} {oseq : Nat} {kind : Nat} {reader : Nat} {s : State} (h : Keep r s) :
    Keep r (checkEvent h0x oseq kind reader s) := by
  unfold checkEvent
  with_reducible repeat' (first | assumption | apply Keep.ite | apply raise0_keep | apply setPool_keep | intro _)

theorem ownerEvent_keep {r : State} {h0x : Nat} {kind : Nat} {owner : Nat} {s : State} (h : Keep r s) :
    Keep r (ownerEvent h0x kind owner s) := by
  unfold ownerEvent
  with_reducible repeat' (first | assumption | apply Keep.ite | apply raise0_keep | apply setPool_keep | intro _)

theorem badHandle_keep {r : State} {h0x : Nat} {s : State} (h : Keep r s) :
    Keep r (badHandle h0x s) := by
  unfold badHandle
  with_reducible repeat' (first | assumption | apply ownerEvent_keep | apply poolBump_keep | intro _ | split)

theorem releaseOwner_keep {r : State} {h0x : Nat} {id : Nat} {s : State} (h : Keep r s) :
    Keep r (releaseOwner h0x id s) := by
  unfold releaseOwner
  with_reducible repeat' (first | assumption | apply Keep.ite | apply freeBuf_keep | apply poolBump_keep | apply ownerEvent_keep | apply Keep.updStore | simp only [KeepF.pair] | intro _ | split)

theorem pinBuf_keep {r : State} {h0x : Nat} {s : State} (h : Keep r s) :
    Keep r (pinBuf h0x s) := by
  unfold pinBuf
  with_reducible repeat' (first | assumption | apply badHandle_keep | apply dropXfers_keep | apply evalPool_keep | apply freeDram_keep | apply landSpill_keep | apply poolBump_keep | apply setBuf_keep | apply Keep.updStore | intro _ | split | dsimp only)

theorem unpinBuf_keep {r : State} {h0x : Nat} {s : State} (h : Keep r s) :
    Keep r (unpinBuf h0x s) := by
  unfold unpinBuf
  with_reducible repeat' (first | assumption | apply Keep.ite | apply badHandle_keep | apply updBuf_keep | intro _ | split)

theorem checkFail_keep {r : State} {h0x : Nat} {oseq : Nat} {kind : Nat} {reader : Nat} {s : State} (h : Keep r s) :
    Keep r (checkFail h0x oseq kind reader s) := by
  unfold checkFail
  with_reducible repeat' (first | assumption | apply bump_keep | apply checkEvent_keep)

theorem writeDram_keep {r : State} {h0x : Nat} {s : State} (h : Keep r s) :
    Keep r (writeDram h0x s) := by
  unfold writeDram
  with_reducible repeat' (first | assumption | apply Keep.ite | apply startMove_keep | apply updBuf_keep | apply violation_keep | intro _ | split)

theorem dramWritten_keep {r : State} {h0x : Nat} {a1x : Xfer} {s : State} (h : Keep r s) :
    Keep r (dramWritten h0x a1x s) := by
  unfold dramWritten
  with_reducible repeat' (first | assumption | apply Keep.ite | apply freeDram_keep | apply updBuf_keep | apply Keep.updStore | intro _ | split)

theorem writeBuf_keep {r : State} {h0x : Nat} {record : Bytes} {data : Bytes} {s : State} (h : Keep r s) :
    Keep r (writeBuf h0x record data s) := by
  unfold writeBuf
  with_reducible repeat' (first | assumption | apply Keep.ite | apply access_keep | apply updBuf_keep | apply writeDram_keep | simp only [KeepS.pair] | apply KeepS.snd | (refine KeepS.elim (by assumption) ?_) | intro _ | split)

theorem startDirect_keep {r : State} {who : Reader} {h1x : Nat} {s : State} (h : Keep r s) :
    KeepS r (startDirect who h1x s) := by
  unfold startDirect
  with_reducible repeat' (first | assumption | apply KeepS.ite | apply Keep.ite | apply startMove_keep | apply violation_keep | simp only [KeepS.pair] | apply KeepS.snd | (refine KeepS.elim (by assumption) ?_) | intro _ | split)

theorem dropDirect_keep {r : State} {who : Reader} {h1x : Nat} {s : State} (h : Keep r s) :
    Keep r (dropDirect who h1x s) := by
  unfold dropDirect
  with_reducible repeat' (first | assumption | apply dropXfers_keep | intro _ | split)

theorem fetchBuf_keep {r : State} {who : Reader} {h1x : Nat} {s : State} (h : Keep r s) :
    KeepS r (fetchBuf who h1x s) := by
  unfold fetchBuf
  with_reducible repeat' (first | assumption | apply KeepS.ite | apply Keep.ite | apply dropXfer_keep | apply startDirect_keep | apply touchBuf_keep | simp only [KeepS.pair] | apply KeepS.snd | (refine KeepS.elim (by assumption) ?_) | intro _ | split | dsimp only)

theorem fetchPinned_keep {r : State} {who : Reader} {h1x : Nat} {s : State} (h : Keep r s) :
    KeepS r (fetchPinned who h1x s) := by
  unfold fetchPinned
  with_reducible repeat' (first | assumption | apply KeepS.ite | apply Keep.ite | apply fetchBuf_keep | apply pinBuf_keep | simp only [KeepS.pair] | apply KeepS.snd | (refine KeepS.elim (by assumption) ?_) | intro _ | split | dsimp only)

theorem forgetRead_keep {r : State} {who : Reader} {h1x : Nat} {s : State} (h : Keep r s) :
    Keep r (forgetRead who h1x s) := by
  unfold forgetRead
  with_reducible repeat' (first | assumption | apply Keep.ite | apply dropDirect_keep | apply unpinBuf_keep | intro _ | split | dsimp only)

/-! ## Parse -/

theorem countHits_keep {r : State} {l : List Ver} {g : Nat} {s : State} (h : Keep r s) :
    Keep r (countHits l g s) := by
  unfold countHits
  with_reducible repeat' (first | assumption | apply Keep.updCls)

theorem classify_keep {r : State} {s : State} {g : Nat} {port : Nat} {key : Bytes} {partly : Bool} (h : Keep r s) :
    KeepS r (classify s g port key partly) := by
  unfold classify
  with_reducible repeat' (first | assumption | apply countHits_keep | simp only [KeepF.pair] | simp only [KeepS.pair])

/-! ## Sched -/

theorem setQ_keep {r : State} {k : QKey} {l : List QE} {s : State} (h : Keep r s) :
    Keep r (setQ k l s) := by
  unfold setQ
  with_reducible repeat' (first | assumption | apply Keep.updSch)

theorem pushQ_keep {r : State} {k : QKey} {e : QE} {s : State} (h : Keep r s) :
    Keep r (pushQ k e s) := by
  unfold pushQ
  with_reducible repeat' (first | assumption | apply setQ_keep)

theorem popQ_keep {r : State} {k : QKey} {s : State} (h : Keep r s) :
    Keep r (popQ k s) := by
  unfold popQ
  with_reducible repeat' (first | assumption | apply setQ_keep)

theorem setWire_keep {r : State} {n : Nat} {f : WireSch → WireSch} {s : State} (h : Keep r s) :
    Keep r (setWire n f s) := by
  unfold setWire
  with_reducible repeat' (first | assumption | apply Keep.updSch)

theorem setRound_keep {r : State} {n : Nat} {tc : Nat} {f : Drr → Drr} {s : State} (h : Keep r s) :
    Keep r (setRound n tc f s) := by
  unfold setRound
  with_reducible repeat' (first | assumption | apply setWire_keep)

theorem nominate_keep {r : State} {n : Nat} {tc : Nat} {s : State} (h : Keep r s) :
    Keep r (nominate n tc s) := by
  unfold nominate
  with_reducible repeat' (first | assumption | apply Keep.ite | apply setRound_keep | apply setWire_keep | apply setQ_keep | simp only [KeepF.pair] | intro _ | split)

theorem clearNom_keep {r : State} {n : Nat} {tc : Nat} {s : State} (h : Keep r s) :
    Keep r (clearNom n tc s) := by
  unfold clearNom
  with_reducible repeat' (first | assumption | apply setWire_keep)

theorem pushWire_keep {r : State} {n : Nat} {tc : Nat} {sq : Nat} {e : QE} {s : State} (h : Keep r s) :
    Keep r (pushWire n tc sq e s) := by
  unfold pushWire
  with_reducible repeat' (first | assumption | apply pushQ_keep | apply setRound_keep)

theorem clearWire_keep {r : State} {n : Nat} {s : State} (h : Keep r s) :
    Keep r (clearWire n s) := by
  unfold clearWire
  with_reducible repeat' (first | assumption | apply setWire_keep | apply Keep.updSch)

theorem setSta_keep {r : State} {st : Nat} {f : Sta → Sta} {s : State} (h : Keep r s) :
    Keep r (setSta st f s) := by
  unfold setSta
  with_reducible repeat' (first | assumption | apply Keep.updSta)

theorem setRl_keep {r : State} {l : Nat} {f : Rl → Rl} {s : State} (h : Keep r s) :
    Keep r (setRl l f s) := by
  unfold setRl
  with_reducible repeat' (first | assumption | apply Keep.updRl)

theorem setStaLink_keep {r : State} {st : Nat} {l : Nat} {f : StaLink → StaLink} {s : State} (h : Keep r s) :
    Keep r (setStaLink st l f s) := by
  unfold setStaLink
  with_reducible repeat' (first | assumption | apply setSta_keep)

theorem setAcRound_keep {r : State} {a : Nat} {f : Drr → Drr} {s : State} (h : Keep r s) :
    Keep r (setAcRound a f s) := by
  unfold setAcRound
  with_reducible repeat' (first | assumption | apply Keep.updSch)

theorem evalPark_keep {r : State} {st : Nat} {a : Nat} {count : Bool} {s : State} (h : Keep r s) :
    Keep r (evalPark st a count s) := by
  unfold evalPark
  with_reducible repeat' (first | assumption | apply Keep.ite | apply bump_keep | apply setAcRound_keep | apply setSta_keep | simp only [KeepF.pair] | intro _)

theorem evalParks_keep {r : State} {st : Nat} {s : State} (h : Keep r s) :
    Keep r (evalParks st s) := by
  unfold evalParks
  with_reducible repeat' (first | assumption | apply evalPark_keep | apply Keep.foldl | intro _)

theorem evalAllParks_keep {r : State} {s : State} (h : Keep r s) :
    Keep r (evalAllParks s) := by
  unfold evalAllParks
  with_reducible repeat' (first | assumption | apply evalParks_keep | apply Keep.foldl | intro _)

theorem pushSta_keep {r : State} {st : Nat} {a : Nat} {e : QE} {s : State} (h : Keep r s) :
    Keep r (pushSta st a e s) := by
  unfold pushSta
  with_reducible repeat' (first | assumption | apply Keep.ite | apply pushQ_keep | apply setAcRound_keep | intro _)

theorem setChSch_keep {r : State} {c : Nat} {f : ChSch → ChSch} {s : State} (h : Keep r s) :
    Keep r (setChSch c f s) := by
  unfold setChSch
  with_reducible repeat' (first | assumption | apply Keep.updSch)

theorem setCh_keep {r : State} {c : Nat} {f : Ch → Ch} {s : State} (h : Keep r s) :
    Keep r (setCh c f s) := by
  unfold setCh
  with_reducible repeat' (first | assumption | apply Keep.updCh)

theorem pushRing_keep {r : State} {c : Nat} {r1x : Nat} {e : QE} {s : State} (h : Keep r s) :
    Keep r (pushRing c r1x e s) := by
  unfold pushRing
  with_reducible repeat' (first | assumption | apply pushQ_keep | apply Keep.updSch | apply setChSch_keep)

theorem popRing_keep {r : State} {c : Nat} {r1x : Nat} {s : State} (h : Keep r s) :
    Keep r (popRing c r1x s) := by
  unfold popRing
  with_reducible repeat' (first | assumption | apply Keep.ite | apply Keep.updSch | apply setChSch_keep | apply popQ_keep | intro _)

theorem chLeave_keep {r : State} {c : Nat} {s : State} (h : Keep r s) :
    Keep r (chLeave c s) := by
  unfold chLeave
  with_reducible repeat' (first | assumption | apply Keep.updSch | apply setChSch_keep)

/-! ## Pipe -/

theorem passSkips_keep {r : State} {a : Nat} {a1x : Nat} {s : State} (h : Keep r s) :
    Keep r (passSkips a a1x s) := by
  induction a generalizing a1x s with
  | zero =>
    simp only [passSkips]
    exact h
  | succ n ih =>
    simp only [passSkips]
    with_reducible repeat' (first | assumption | apply ih | apply Keep.ite | apply Keep.updPipe | intro _)

theorem postSkip_keep {r : State} {port : Nat} {seq : Nat} {s : State} (h : Keep r s) :
    Keep r (postSkip port seq s) := by
  unfold postSkip
  with_reducible repeat' (first | assumption | apply perf_keep | apply passSkips_keep | apply Keep.updPipe)

theorem passSeq_keep {r : State} {port : Nat} {s : State} (h : Keep r s) :
    Keep r (passSeq port s) := by
  unfold passSeq
  with_reducible repeat' (first | assumption | apply passSkips_keep | apply Keep.updPipe)

theorem dropEarly_keep {r : State} {f : PFrame} {g : Nat} {k : Nat} {s : State} (h : Keep r s) :
    Keep r (dropEarly f g k s) := by
  unfold dropEarly
  with_reducible repeat' (first | assumption | apply postSkip_keep | apply bump_keep | apply releaseOwner_keep)

theorem pumpOut_keep {r : State} {a : Nat} {s : State} (h : Keep r s) :
    Keep r (pumpOut a s) := by
  induction a generalizing s with
  | zero =>
    simp only [pumpOut]
    exact h
  | succ n ih =>
    simp only [pumpOut]
    with_reducible repeat' (first | assumption | apply ih | apply Keep.ite | apply Keep.updPipe | intro _ | split)

theorem leaveFlow_keep {r : State} {f : PFrame} {s : State} (h : Keep r s) :
    Keep r (leaveFlow f s) := by
  unfold leaveFlow
  with_reducible repeat' (first | assumption | apply Keep.updPipe | apply unpinBuf_keep | apply pumpOut_keep)

theorem setSlot_keep {r : State} {i : Nat} {f : ReEnt → ReEnt} {s : State} (h : Keep r s) :
    Keep r (setSlot i f s) := by
  unfold setSlot
  with_reducible repeat' (first | assumption | apply Keep.updPipe | split)

theorem slotDrop_keep {r : State} {i : Nat} {g : Nat} {k : Nat} {s : State} (h : Keep r s) :
    Keep r (slotDrop i g k s) := by
  unfold slotDrop
  with_reducible repeat' (first | assumption | apply setSlot_keep)

theorem judgePolicer_keep {r : State} {i : Nat} {len : Nat} {s : State} (h : Keep r s) :
    KeepS r (judgePolicer i len s) := by
  unfold judgePolicer
  with_reducible repeat' (first | assumption | apply bump_keep | apply Keep.updFlow | apply bumpN_keep | simp only [KeepF.pair] | simp only [KeepS.pair])

end Sys2Proof.Machine
end

