-- ==== Sys2Proof/Laws/KeepFlow.lean ====
section
/-! SUPPORT. Each operation of the flow stage, the release stage and Gelvor keeps the build, the queue and the invariant. -/

namespace Sys2Proof.Machine

open Sys2Proof

/-! ## FlowHit -/

theorem tickNow_keep {r : State} {s : State} (h : Keep r s) :
    KeepS r (tickNow s) := by
  unfold tickNow
  with_reducible repeat' (first | assumption | apply KeepS.ite | apply draw_keep | simp only [KeepF.pair] | simp only [KeepS.pair] | apply KeepS.snd | intro _)

theorem finishHit_keep {r : State} {f : PFrame} {a m : Bytes} {index k flags : Nat} {changed : Bool} {s : State} (h : Keep r s) :
    Keep r (finishHit f a m index k flags changed s).2.2.2 := by
  have key : ∀ (o : Nat) (n : Nat) {t : State}, Keep r t →
      Keep r (if o = 0xFFFFFFFF then (true, t) else judgePolicer o n t).2 := by
    intro o n t ht
    split
    · exact ht
    · exact judgePolicer_keep ht
  unfold finishHit
  extract_lets p1 p2 m1 f1
  have h1 : Keep r p1.2 := key _ _ h
  have h2 : Keep r p2.2 := key _ _ h1
  clear_value p1 p2
  repeat' (first | exact h1 | exact h2 | split | dsimp only)

theorem applyHit_keep {r : State} {f : PFrame} {prof m : Bytes} {index : Nat} {s : State} (h : Keep r s) :
    Keep r (applyHit f prof m index s).2.2.2 := by
  unfold applyHit
  have ht : Keep r (tickNow s).2 := tickNow_keep h
  dsimp only
  repeat' (first | exact h | exact ht | exact finishHit_keep ht | split)

/-! ## Flow -/

theorem setCache_keep {r : State} {key : Bytes} {l : List Way} {s : State} (h : Keep r s) :
    Keep r (setCache key l s) := by
  unfold setCache
  with_reducible repeat' (first | assumption | apply Keep.updFlow)

theorem updWay_keep {r : State} {index : Nat} {f : Way → Way} {s : State} (h : Keep r s) :
    Keep r (updWay index f s) := by
  unfold updWay
  with_reducible repeat' (first | assumption | apply Keep.updFlow)

theorem dropWay_keep {r : State} {index : Nat} {s : State} (h : Keep r s) :
    Keep r (dropWay index s) := by
  unfold dropWay
  with_reducible repeat' (first | assumption | apply Keep.updFlow)

theorem noteCtl_keep {r : State} {index : Nat} {ctl : Nat} {s : State} (h : Keep r s) :
    Keep r (noteCtl index ctl s) := by
  unfold noteCtl
  with_reducible repeat' (first | assumption | apply Keep.ite | apply Keep.updFlow | intro _ | split)

theorem writeBackWay_keep {r : State} {w : Way} {s : State} (h : Keep r s) :
    Keep r (writeBackWay w s) := by
  unfold writeBackWay
  with_reducible repeat' (first | assumption | apply Keep.ite | apply bump_keep | apply lines_keep | apply noteCtl_keep | apply startXfer_keep | apply violation_keep | intro _ | split)

theorem entryWash_keep {r : State} {index : Nat} {s : State} (h : Keep r s) :
    Keep r (entryWash index s) := by
  unfold entryWash
  with_reducible repeat' (first | assumption | apply Keep.ite | apply writeBackWay_keep | intro _ | split)

theorem forgetImgs_keep {r : State} {index : Nat} {s : State} (h : Keep r s) :
    Keep r (forgetImgs index s) := by
  unfold forgetImgs
  with_reducible repeat' (first | assumption | apply Keep.updFlow | intro _ | split | dsimp only)

theorem cacheFill_keep {r : State} {index : Nat} {image : Bytes} {s : State} (h : Keep r s) :
    Keep r (cacheFill index image s) := by
  unfold cacheFill
  with_reducible repeat' (first | assumption | apply Keep.ite | apply bump_keep | apply forgetImgs_keep | apply setCache_keep | apply writeBackWay_keep | apply Keep.updFlow | apply Keep.foldl | intro _ | split | dsimp only)

theorem hitWay_keep {r : State} {index : Nat} {image : Bytes} {s : State} (h : Keep r s) :
    Keep r (hitWay index image s) := by
  unfold hitWay
  with_reducible repeat' (first | assumption | apply Keep.updFlow | apply entryWash_keep | apply updWay_keep)

theorem exitFlow_keep {r : State} {f : PFrame} {s : State} (h : Keep r s) :
    Keep r (exitFlow f s) := by
  unfold exitFlow
  with_reducible repeat' (first | assumption | apply Keep.ite | apply judgePolicer_keep | apply leaveFlow_keep | apply dropEarly_keep | simp only [KeepF.pair] | apply KeepS.snd | intro _)

theorem afterHit_keep {r : State} {e : HitEnd} {f : PFrame} {s : State} (h : Keep r s) :
    Keep r (afterHit e f s) := by
  unfold afterHit
  with_reducible repeat' (first | assumption | apply exitFlow_keep | apply dropEarly_keep | split)

theorem hitEntry_keep {r : State} {f : PFrame} {index : Nat} {image : Bytes} {s : State} (h : Keep r s) :
    Keep r (hitEntry f index image s).2.2 := by
  unfold hitEntry
  dsimp only
  split
  · exact applyHit_keep h
  · exact hitWay_keep (applyHit_keep h)

theorem takeHit_keep {r : State} {f : PFrame} {index : Nat} {image : Bytes} {s : State} (h : Keep r s) :
    Keep r (takeHit f index image s) := by
  unfold takeHit
  exact afterHit_keep (hitEntry_keep h)

theorem hitCached_keep {r : State} {f : PFrame} {w : Way} {s : State} (h : Keep r s) :
    Keep r (hitCached f w s) := by
  unfold hitCached
  with_reducible repeat' (first | assumption | apply takeHit_keep)

theorem readBucket_keep {r : State} {p : Purp} {b : Nat} {s : State} (h : Keep r s) :
    KeepS r (readBucket p b s) := by
  unfold readBucket
  with_reducible repeat' (first | assumption | apply KeepS.ite | apply lines_keep | apply violation_keep | apply perf_keep | apply startXfer_keep | simp only [KeepS.pair] | intro _)

theorem addClaim_keep {r : State} {key : Bytes} {index : Nat} {owner : Claimer} {ctl : Option Nat} {ovfl : Bool} {s : State} (h : Keep r s) :
    KeepS r (addClaim key index owner ctl ovfl s) := by
  unfold addClaim
  with_reducible repeat' (first | assumption | apply KeepS.ite | apply Keep.ite | apply Keep.updFlow | simp only [KeepS.pair] | apply KeepS.snd | (refine KeepS.elim (by assumption) ?_) | intro _ | split | dsimp only)

theorem tableFull_keep {r : State} {b : Nat} {s : State} (h : Keep r s) :
    Keep r (tableFull b s) := by
  unfold tableFull
  with_reducible repeat' (first | assumption | apply Keep.ite | apply bump_keep | apply Keep.updFlow | apply raise0_keep | intro _)

theorem claimNewWith_keep {r : State} {key : Bytes} {owner : Claimer} {d1 : Bytes} {d2 : Option Bytes} {s : State} (h : Keep r s) :
    KeepS r (claimNewWith key owner d1 d2 s) := by
  unfold claimNewWith
  with_reducible repeat' (first | assumption | apply KeepS.ite | apply tableFull_keep | apply addClaim_keep | simp only [KeepF.pair] | simp only [KeepS.pair] | apply KeepS.snd | intro _ | split)

theorem startLook_keep {r : State} {l : Look} {s : State} (h : Keep r s) :
    KeepS r (startLook l s) := by
  unfold startLook
  with_reducible repeat' (first | assumption | apply Keep.updFlow | apply readBucket_keep | simp only [KeepF.pair] | simp only [KeepS.pair] | apply KeepS.snd | split)

theorem refuseLearn_keep {r : State} {f : PFrame} {s : State} (h : Keep r s) :
    Keep r (refuseLearn f s) := by
  unfold refuseLearn
  with_reducible repeat' (first | assumption | apply bump_keep | apply exitFlow_keep)

theorem hitRead_keep {r : State} {f : PFrame} {index : Nat} {image : Bytes} {s : State} (h : Keep r s) :
    Keep r (hitRead f index image s) := by
  unfold hitRead
  with_reducible repeat' (first | assumption | apply takeHit_keep | apply cacheFill_keep | apply bump_keep)

theorem learnWith_keep {r : State} {f : PFrame} {key : Bytes} {d1 : Bytes} {d2 : Option Bytes} {s : State} (h : Keep r s) :
    Keep r (learnWith f key d1 d2 s) := by
  unfold learnWith
  with_reducible repeat' (first | assumption | apply Keep.ite | apply bump_keep | apply startLook_keep | apply hitCached_keep | apply hitRead_keep | apply claimNewWith_keep | apply refuseLearn_keep |  apply leaveFlow_keep | simp only [KeepF.pair] | apply KeepS.snd | intro _ | split)

theorem missFrame_keep {r : State} {f : PFrame} {key : Bytes} {d1 : Option Bytes} {d2 : Option Bytes} {s : State} (h : Keep r s) :
    Keep r (missFrame f key d1 d2 s) := by
  unfold missFrame
  with_reducible repeat' (first | assumption | apply Keep.ite | apply bump_keep | apply startLook_keep | apply learnWith_keep | apply refuseLearn_keep | apply exitFlow_keep | apply dropEarly_keep | simp only [KeepF.pair] | apply KeepS.snd | intro _ | split)

theorem holdFollower_keep {r : State} {f : PFrame} {key : Bytes} {s : State} (h : Keep r s) :
    Keep r (holdFollower f key s) := by
  unfold holdFollower
  with_reducible repeat' (first | assumption | apply Keep.ite | apply bump_keep | apply Keep.updFlow | apply exitFlow_keep | intro _)

theorem lookFrame_keep {r : State} {f : PFrame} {key : Bytes} {s : State} (h : Keep r s) :
    Keep r (lookFrame f key s) := by
  unfold lookFrame
  with_reducible repeat' (first | assumption | apply Keep.ite | apply bump_keep | apply startLook_keep | apply perf_keep | apply holdFollower_keep | apply hitCached_keep | apply missFrame_keep | simp only [KeepF.pair] | apply KeepS.snd | intro _ | split)

theorem flowLookup_keep {r : State} {s : State} (h : Keep r s) :
    Keep r (flowLookup s) := by
  unfold flowLookup
  with_reducible repeat' (first | assumption | apply Keep.ite | apply bump_keep | apply lookFrame_keep | apply exitFlow_keep | apply Keep.updPipe | simp only [KeepF.pair] | intro _ | split)

theorem nextRead_keep {r : State} {l : Look} {d1 : Bytes} {s : State} (h : Keep r s) :
    Keep r (nextRead l d1 s) := by
  unfold nextRead
  with_reducible repeat' (first | assumption | apply Keep.ite | apply bump_keep | apply startLook_keep | apply missFrame_keep | apply KeepS.snd | intro _)

theorem retryLooks_keep {r : State} {s : State} (h : Keep r s) :
    Keep r (retryLooks s) := by
  unfold retryLooks
  with_reducible repeat' (first | assumption | apply Keep.ite | apply bump_keep | apply startLook_keep | apply Keep.updFlow | apply missFrame_keep | apply Keep.foldl | simp only [KeepF.pair] | apply KeepS.snd | intro _)

theorem lookJudge_keep {r : State} {x : Xfer} {l : Look} {s : State} (h : Keep r s) :
    Keep r (lookJudge x l s) := by
  unfold lookJudge
  with_reducible repeat' (first | assumption | apply Keep.ite | apply bump_keep | apply perf_keep | apply holdFollower_keep | apply hitRead_keep | apply learnWith_keep | apply nextRead_keep | apply refuseLearn_keep | apply hitCached_keep | apply missFrame_keep | intro _ | split)

theorem lookDone_keep {r : State} {x : Xfer} {s : State} (h : Keep r s) :
    Keep r (lookDone x s) := by
  unfold lookDone
  with_reducible repeat' (first | assumption | apply Keep.ite | apply bump_keep | apply Keep.updFlow | apply retryLooks_keep | apply lookJudge_keep | intro _ | split)

theorem freeFollowers_keep {r : State} {key : Bytes} {s : State} (h : Keep r s) :
    Keep r (freeFollowers key s) := by
  unfold freeFollowers
  with_reducible repeat' (first | assumption | apply Keep.updFlow | apply lookFrame_keep | apply Keep.foldl | intro _)

theorem dropClaim_keep {r : State} {c : Claim} {s : State} (h : Keep r s) :
    Keep r (dropClaim c s) := by
  unfold dropClaim
  with_reducible repeat' (first | assumption | apply Keep.updFlow)

theorem endClaim_keep {r : State} {c : Claim} {count : Bool} {s : State} (h : Keep r s) :
    Keep r (endClaim c count s) := by
  unfold endClaim
  with_reducible repeat' (first | assumption | apply Keep.ite | apply bump_keep | apply freeFollowers_keep | apply dropClaim_keep | intro _)

theorem abandonAll_keep {r : State} {o : Claimer} {s : State} (h : Keep r s) :
    Keep r (abandonAll o s) := by
  unfold abandonAll
  with_reducible repeat' (first | assumption | apply Keep.updFlow | apply endClaim_keep | apply Keep.foldl | intro _)

theorem setOverflow_keep {r : State} {c : Claim} {b : Nat} {s : State} (h : Keep r s) :
    Keep r (setOverflow c b s) := by
  unfold setOverflow
  with_reducible repeat' (first | assumption | apply Keep.ite | apply bump_keep | apply lines_keep | apply noteCtl_keep | apply startXfer_keep | apply updWay_keep | apply violation_keep | apply Keep.updFlow | intro _ | split | dsimp only)

theorem freshView_keep {r : State} {b : Nat} {s : State} (h : Keep r s) :
    Keep r (freshView b s) := by
  unfold freshView
  with_reducible repeat' (first | assumption | apply Keep.ite | apply Keep.updFlow | intro _ | split | dsimp only)

theorem publishClaim_keep {r : State} {o : Claimer} {id : Nat} {image : Bytes} {s : State} (h : Keep r s) :
    KeepS r (publishClaim o id image s) := by
  unfold publishClaim
  with_reducible repeat' (first | assumption | apply KeepS.ite | apply Keep.ite | apply bump_keep | apply cacheFill_keep | apply dropWay_keep | apply endClaim_keep | apply forgetImgs_keep | apply freshView_keep | apply noteCtl_keep | apply perf_keep | apply setOverflow_keep | simp only [KeepS.pair] | apply KeepS.snd | (refine KeepS.elim (by assumption) ?_) | intro _ | split | dsimp only)

theorem abandonClaim_keep {r : State} {o : Claimer} {id : Nat} {s : State} (h : Keep r s) :
    KeepS r (abandonClaim o id s) := by
  unfold abandonClaim
  with_reducible repeat' (first | assumption | apply KeepS.ite | apply endClaim_keep | simp only [KeepS.pair] | intro _ | split)

theorem setFlop_keep {r : State} {b : FlopBy} {f : Flop → Flop} {s : State} (h : Keep r s) :
    Keep r (setFlop b f s) := by
  unfold setFlop
  with_reducible repeat' (first | assumption | apply Keep.updFlow)

theorem flopEnd_keep {r : State} {b : FlopBy} {r1x : FlopRes × Nat} {s : State} (h : Keep r s) :
    Keep r (flopEnd b r1x s) := by
  unfold flopEnd
  with_reducible repeat' (first | assumption | apply setFlop_keep)

theorem flopRead_keep {r : State} {p : Flop} {b : Nat} {s : State} (h : Keep r s) :
    Keep r (flopRead p b s) := by
  unfold flopRead
  with_reducible repeat' (first | assumption | apply bump_keep | apply flopEnd_keep | apply readBucket_keep | apply setFlop_keep | simp only [KeepS.pair] | apply KeepS.snd | (refine KeepS.elim (by assumption) ?_) | intro _ | split | dsimp only)

theorem startClaimNew_keep {r : State} {p : Flop} {s : State} (h : Keep r s) :
    Keep r (startClaimNew p s) := by
  unfold startClaimNew
  with_reducible repeat' (first | assumption | apply Keep.ite | apply flopEnd_keep | apply Keep.updFlow | apply flopRead_keep | simp only [KeepF.pair] | intro _ | split)

theorem grantEntry_keep {r : State} {p : Flop} {m : Bytes} {s : State} (h : Keep r s) :
    Keep r (grantEntry p m s) := by
  unfold grantEntry
  with_reducible repeat' (first | assumption | apply addClaim_keep | apply flopEnd_keep | apply setFlop_keep | simp only [KeepS.pair] | apply KeepS.snd | (refine KeepS.elim (by assumption) ?_) | intro _ | split | dsimp only)

theorem claimCached_keep {r : State} {p : Flop} {w : Way} {s : State} (h : Keep r s) :
    Keep r (claimCached p w s) := by
  unfold claimCached
  with_reducible repeat' (first | assumption | apply Keep.ite | apply bump_keep | apply dropWay_keep | apply flopEnd_keep | apply grantEntry_keep | apply setFlop_keep | apply writeBackWay_keep | intro _ | split)

theorem startClaimEntry_keep {r : State} {p : Flop} {s : State} (h : Keep r s) :
    Keep r (startClaimEntry p s) := by
  unfold startClaimEntry
  with_reducible repeat' (first | assumption | apply Keep.ite | apply claimCached_keep | apply flopEnd_keep | apply flopRead_keep | apply Keep.updFlow | intro _ | split)

theorem flopDone_keep {r : State} {a : Xfer} {s : State} (h : Keep r s) :
    Keep r (flopDone a s) := by
  unfold flopDone
  with_reducible repeat' (first | assumption | apply Keep.ite | apply bump_keep | apply claimCached_keep | apply claimNewWith_keep | apply flopEnd_keep | apply flopRead_keep | apply grantEntry_keep | apply setFlop_keep | simp only [KeepS.pair] | apply KeepS.snd | (refine KeepS.elim (by assumption) ?_) | intro _ | split)

theorem retryFlops_keep {r : State} {s : State} (h : Keep r s) :
    Keep r (retryFlops s) := by
  unfold retryFlops
  with_reducible repeat' (first | assumption | apply Keep.ite | apply flopRead_keep | apply Keep.foldl | intro _)

theorem washed_keep {r : State} {x : Xfer} {s : State} (h : Keep r s) :
    Keep r (washed x s) := by
  unfold washed
  with_reducible repeat' (first | assumption | apply entryWash_keep | apply updWay_keep | split)

theorem tableWriteDone_keep {r : State} {x : Xfer} {s : State} (h : Keep r s) :
    Keep r (tableWriteDone x s) := by
  unfold tableWriteDone
  with_reducible repeat' (first | assumption | apply Keep.ite | apply bump_keep | apply retryFlops_keep | apply washed_keep | apply retryLooks_keep | intro _)

/-! ## Release -/

theorem countAt_keep {r : State} {l : DropAt} {s : State} (h : Keep r s) :
    Keep r (countAt l s) := by
  unfold countAt
  with_reducible repeat' (first | assumption | apply bump_keep | apply Keep.foldl | intro _)

theorem pushQueue_keep {r : State} {k : QKey} {e : QE} {s : State} (h : Keep r s) :
    Keep r (pushQueue k e s) := by
  unfold pushQueue
  with_reducible repeat' (first | assumption | apply pushSta_keep | apply pushQ_keep | apply bump_keep | apply pushWire_keep | apply endLpi_keep | apply pushRing_keep | split)

theorem enqueueOne_keep {r : State} {h0x : Nat} {oseq : Nat} {ingress : Nat} {wake : Bool} {d : QKey × Nat} {s : State} (h : Keep r s) :
    Keep r (enqueueOne h0x oseq ingress wake d s) := by
  unfold enqueueOne
  with_reducible repeat' (first | assumption | apply releaseOwner_keep | apply countAt_keep | apply pushQueue_keep | split)

theorem giveOwners_keep {r : State} {h0x : Nat} {oseq : Nat} {ingress : Nat} {wake : Bool} {dests : List (QKey × Nat)} {s : State} (h : Keep r s) :
    Keep r (giveOwners h0x oseq ingress wake dests s) := by
  unfold giveOwners
  with_reducible repeat' (first | assumption | apply Keep.ite | apply updBuf_keep | apply releaseOwner_keep | apply bumpN_keep | apply Keep.updStore | apply enqueueOne_keep | apply Keep.foldl | simp only [KeepF.pair] | intro _ | split)

theorem dispose_keep {r : State} {h0x : Nat} {oseq : Nat} {ingress : Nat} {gen : Nat} {wake : Bool} {data : Bytes} {r6x : Bytes} {s : State} (h : Keep r s) :
    Keep r (dispose h0x oseq ingress gen wake data r6x s) := by
  unfold dispose
  with_reducible repeat' (first | assumption | apply countAt_keep | apply giveOwners_keep | apply Keep.foldl | intro _)

theorem commitFrame_keep {r : State} {f : PFrame} {a1x : Option Xfer} {s : State} (h : Keep r s) :
    Keep r (commitFrame f a1x s) := by
  unfold commitFrame
  with_reducible repeat' (first | assumption | apply Keep.ite | apply bump_keep | apply checkFail_keep | apply dispose_keep | apply releaseOwner_keep | apply unpinBuf_keep | apply writeBuf_keep | intro _ | split | dsimp only)

theorem enterStaged_keep {r : State} {f : PFrame} {s : State} (h : Keep r s) :
    Keep r (enterStaged f s) := by
  unfold enterStaged
  with_reducible repeat' (first | assumption | apply Keep.updPipe)

theorem leaveWindow_keep {r : State} {i : Nat} {e : ReEnt} {f : State → State} {s : State}
    (hf : ∀ s, Keep r s → Keep r (f s)) (h : Keep r s) : Keep r (leaveWindow i e f s) := by
  unfold leaveWindow
  exact pumpOut_keep (passSeq_keep (enterStaged_keep (abandonAll_keep (hf _ (perf_keep h)))))

theorem dropReleased_keep {r : State} {e : ReEnt} {s : State} (h : Keep r s) :
    Keep r (dropReleased e s) := by
  unfold dropReleased
  with_reducible repeat' (first | assumption | apply bump_keep | apply releaseOwner_keep | intro _ | split | dsimp only)

theorem releaseNext_keep {r : State} {s : State} (h : Keep r s) :
    Keep r (releaseNext s) := by
  unfold releaseNext
  with_reducible repeat' (first | assumption | apply Keep.ite | apply commitFrame_keep | apply dropReleased_keep | apply fetchPinned_keep | apply forgetRead_keep | apply leaveWindow_keep | apply unpinBuf_keep | simp only [KeepS.pair] | apply KeepS.snd | (refine KeepS.elim (by assumption) ?_) | intro _ | split | dsimp only)

theorem execRelease_keep {r : State} {s : State} (h : Keep r s) :
    KeepR r (execRelease s) := by
  unfold execRelease
  with_reducible repeat' (first | assumption | apply KeepR.next | apply clocked_keep | apply releaseNext_keep | intro _ | split | dsimp only)

theorem execFlowLookup_keep {r : State} {s : State} (h : Keep r s) :
    KeepR r (execFlowLookup s) := by
  unfold execFlowLookup
  with_reducible repeat' (first | assumption | apply KeepR.next | apply clocked_keep | apply flowLookup_keep | intro _ | split | dsimp only)

/-! ## Gelvor -/

theorem keepToken_keep {r : State} {m : Nat} {t : Token} {s : State} (h : Keep r s) :
    Keep r (keepToken m t s) := by
  unfold keepToken
  with_reducible repeat' (first | assumption | apply setMb_keep)

theorem putResponse_keep {r : State} {m : Nat} {hdr : Bytes} {data : Bytes} {s : State} (h : Keep r s) :
    Keep r (putResponse m hdr data s) := by
  unfold putResponse
  with_reducible repeat' (first | assumption | apply Keep.ite | apply lines_keep | apply sendMsg_keep | apply setMb_keep | apply KeepF.fst | intro _)

theorem respond_keep {r : State} {q : Req} {r1x : Reply} {record : Bool} {s : State} (h : Keep r s) :
    Keep r (respond q r1x record s) := by
  unfold respond
  with_reducible repeat' (first | assumption | apply Keep.ite | apply awaitEvents_keep | apply keepToken_keep | apply putResponse_keep | intro _ | split)

theorem releaseAwaited_keep {r : State} {s : State} (h : Keep r s) :
    Keep r (releaseAwaited s) := by
  unfold releaseAwaited
  with_reducible repeat' (first | assumption | apply putResponse_keep | apply Keep.updGv | apply Keep.foldl | apply KeepS.foldl | intro _ | split)

theorem onyxRuns_keep {r : State} {s : State} (h : Keep r s) :
    Keep r (onyxRuns s) := by
  unfold onyxRuns
  with_reducible repeat' (first | assumption | apply deliverHeld_keep | apply releaseAwaited_keep | intro _ | split | dsimp only)

theorem finishTaken_keep {r : State} {q : Req} {r1x : Reply} {s : State} (h : Keep r s) :
    Keep r (finishTaken q r1x s) := by
  unfold finishTaken
  with_reducible repeat' (first | assumption | apply respond_keep | apply Keep.updGv)

theorem ringDoorbell_keep {r : State} {m : Nat} {value : Nat} {s : State} (h : Keep r s) :
    Keep r (ringDoorbell m value s) := by
  unfold ringDoorbell
  with_reducible repeat' (first | assumption | apply Keep.ite | apply lines_keep | apply Keep.updGv | apply setMb_keep | simp only [KeepF.pair] | intro _)

theorem judgeToken_keep {r : State} {q : Req} {s : State} (h : Keep r s) :
    Keep r (judgeToken q s) := by
  unfold judgeToken
  with_reducible repeat' (first | assumption | apply Keep.ite | apply putResponse_keep | apply respond_keep | apply Keep.updGv | simp only [KeepF.pair] | intro _ | split)

theorem takeRequest_keep {r : State} {m : Nat} {s : State} (h : Keep r s) :
    Keep r (takeRequest m s) := by
  unfold takeRequest
  with_reducible repeat' (first | assumption | apply Keep.ite | apply respond_keep | apply Keep.updGv | apply startXfer_keep | apply judgeToken_keep | simp only [KeepF.pair] | intro _ | split)

theorem payloadDone_keep {r : State} {x : Xfer} {s : State} (h : Keep r s) :
    Keep r (payloadDone x s) := by
  unfold payloadDone
  with_reducible repeat' (first | assumption | apply Keep.ite | apply respond_keep | apply Keep.updGv | apply judgeToken_keep | simp only [KeepF.pair] | intro _ | split)

theorem takeNext_keep {r : State} {s : State} (h : Keep r s) :
    Keep r (takeNext s) := by
  unfold takeNext
  with_reducible repeat' (first | assumption | apply Keep.ite | apply Keep.updGv | apply takeRequest_keep | intro _ | split)

theorem immediate_keep {r : State} {code : Nat} {f : Req → State → State × Reply} {s : State} (hf : ∀ q t, Keep r t → KeepF r (f q t)) (h : Keep r s) :
    Keep r (immediate code f s) := by
  unfold immediate
  with_reducible repeat' (first | assumption | apply hf | apply finishTaken_keep | simp only [KeepF.pair] | apply KeepF.fst | split)

theorem longRunning_keep {r : State} {code : Nat} {f : Req → State → State × Option Reply} {s : State} (hf : ∀ q t, Keep r t → KeepF r (f q t)) (h : Keep r s) :
    Keep r (longRunning code f s) := by
  unfold longRunning
  with_reducible repeat' (first | assumption | apply hf | apply finishTaken_keep | apply Keep.updGv | simp only [KeepF.pair] | apply KeepF.fst | split)

theorem finishRunning_keep {r : State} {q : Req} {r1x : Reply} {s : State} (h : Keep r s) :
    Keep r (finishRunning q r1x s) := by
  unfold finishRunning
  with_reducible repeat' (first | assumption | apply respond_keep | apply Keep.updGv)

theorem dropGroup_keep {r : State} {id : Nat} {s : State} (h : Keep r s) :
    Keep r (dropGroup id s) := by
  unfold dropGroup
  with_reducible repeat' (first | assumption | apply Keep.updGv)

theorem addStaged_keep {r : State} {g : Group} {c : Cmd} {s : State} (h : Keep r s) :
    KeepF r (addStaged g c s) := by
  unfold addStaged
  with_reducible repeat' (first | assumption | apply KeepF.ite | apply Keep.updGv | simp only [KeepF.pair] | intro _)

end Sys2Proof.Machine
end

