-- ==== Sys2Proof/Laws/KeepChannels.lean ====
section
/-! SUPPORT. Each operation of the stations, the links and the host channels keeps the build, the queue and the invariant. -/

namespace Sys2Proof.Machine

open Sys2Proof

/-! ## Stations -/

theorem releaseSta_keep {r : State} {h0x : Nat} {st : Nat} {a : Nat} {s : State} (h : Keep r s) :
    Keep r (releaseSta h0x st a s) := by
  unfold releaseSta
  with_reducible repeat' (first | assumption | apply releaseOwner_keep)

theorem countSta_keep {r : State} {st : Nat} {k : Nat} {kp : Nat} {h3x : Nat} {s : State} (h : Keep r s) :
    Keep r (countSta st k kp h3x s) := by
  unfold countSta
  with_reducible repeat' (first | assumption | apply bump_keep)

theorem dropStaAdmin_keep {r : State} {st : Nat} {a : Nat} {h2x : Nat} {s : State} (h : Keep r s) :
    Keep r (dropStaAdmin st a h2x s) := by
  unfold dropStaAdmin
  with_reducible repeat' (first | assumption | apply releaseSta_keep | apply countSta_keep)

theorem rlProtocol_keep {r : State} {l : Nat} {kind : Nat} {s : State} (h : Keep r s) :
    Keep r (rlProtocol l kind s) := by
  unfold rlProtocol
  with_reducible repeat' (first | assumption | apply Keep.ite | apply lines_keep | apply bump_keep | apply setRl_keep | apply raise0_keep | apply errBit_keep | intro _)

theorem pruneHead_keep {r : State} {a : Nat} {a1x : Nat} {a2x : Nat} {s : State} (h : Keep r s) :
    Keep r (pruneHead a a1x a2x s) := by
  induction a generalizing a1x a2x s with
  | zero =>
    simp only [pruneHead]
    exact h
  | succ n ih =>
    simp only [pruneHead]
    with_reducible repeat' (first | assumption | apply ih | apply Keep.ite | apply bump_keep | apply releaseSta_keep | apply setAcRound_keep | apply countSta_keep | apply setQ_keep | intro _ | split)

theorem walkRound_keep {r : State} {a n : Nat} {s : State} (h : Keep r s) :
    KeepS r (walkRound a n s) := by
  induction n generalizing s with
  | zero => exact h
  | succ n ih =>
    unfold walkRound
    with_reducible repeat' (first | assumption | apply KeepS.ite | apply ih | apply pruneHead_keep | apply setAcRound_keep | simp only [KeepS.pair] | intro _ | split)

theorem periodAfter_keep {r : State} {st : Nat} {l : Nat} {s : State} (h : Keep r s) :
    KeepS r (periodAfter st l s) := by
  unfold periodAfter
  with_reducible repeat' (first | assumption | apply KeepS.ite | apply setStaLink_keep | simp only [KeepF.pair] | simp only [KeepS.pair] | intro _)

theorem launchHead_keep {r : State} {st : Nat} {a : Nat} {l : Nat} {s : State} (h : Keep r s) :
    Keep r (launchHead st a l s) := by
  unfold launchHead
  with_reducible repeat' (first | assumption | apply Keep.ite | apply bump_keep | apply bumpN_keep | apply evalParks_keep | apply perf_keep | apply periodAfter_keep | apply pinBuf_keep | apply pmuEvent_keep | apply setAcRound_keep | apply setQ_keep | apply setRl_keep | apply setStaLink_keep | apply startDirect_keep | simp only [KeepS.pair] | apply KeepS.snd | (refine KeepS.elim (by assumption) ?_) | intro _ | split)

theorem decideRound_keep {r : State} {a : Nat} {s : State} (h : Keep r s) :
    KeepS r (decideRound a s) := by
  unfold decideRound
  with_reducible repeat' (first | assumption | apply launchHead_keep | apply walkRound_keep | apply KeepS.snd | simp only [KeepS.pair] | split)

theorem stationDecide_keep {r : State} {s : State} (h : Keep r s) :
    Keep r (stationDecide s) := by
  unfold stationDecide
  with_reducible repeat' (first | assumption | apply Keep.ite | apply KeepS.ite | apply perf_keep | apply decideRound_keep | apply KeepS.foldl | simp only [KeepF.pair] | simp only [KeepS.pair] | apply KeepS.snd | intro _)

theorem unreserve_keep {r : State} {l : Nat} {x : Launch} {s : State} (h : Keep r s) :
    Keep r (unreserve l x s) := by
  unfold unreserve
  with_reducible repeat' (first | assumption | apply setStaLink_keep | apply setRl_keep)

theorem leaveLaunch_keep {r : State} {l : Nat} {a1x : Launch} {s : State} (h : Keep r s) :
    Keep r (leaveLaunch l a1x s) := by
  unfold leaveLaunch
  with_reducible repeat' (first | assumption | apply Keep.ite | apply dropDirect_keep | apply unpinBuf_keep | apply unreserve_keep | intro _ | split)

theorem forgetLink_keep {r : State} {st : Nat} {l : Nat} {s : State} (h : Keep r s) :
    Keep r (forgetLink st l s) := by
  unfold forgetLink
  with_reducible repeat' (first | assumption | apply Keep.ite | apply setSta_keep | intro _)

theorem stageGood_keep {r : State} {l : Nat} {a1x : Launch} {s : State} (h : Keep r s) :
    Keep r (stageGood l a1x s) := by
  unfold stageGood
  with_reducible repeat' (first | assumption | apply Keep.ite | apply setRl_keep | apply unpinBuf_keep | intro _ | split)

theorem stageFailed_keep {r : State} {l : Nat} {a1x : Launch} {kind : Nat} {s : State} (h : Keep r s) :
    Keep r (stageFailed l a1x kind s) := by
  unfold stageFailed
  with_reducible repeat' (first | assumption | apply checkFail_keep | apply forgetLink_keep | apply releaseSta_keep | apply setRl_keep | apply unpinBuf_keep | apply unreserve_keep | intro _ | split)

theorem stageDone_keep {r : State} {l : Nat} {s : State} (h : Keep r s) :
    Keep r (stageDone l s) := by
  unfold stageDone
  with_reducible repeat' (first | assumption | apply Keep.ite | apply dropXfer_keep | apply stageFailed_keep | apply stageGood_keep | intro _ | split)

theorem frameStart_keep {r : State} {l : Nat} {s : State} (h : Keep r s) :
    Keep r (frameStart l s) := by
  unfold frameStart
  with_reducible repeat' (first | assumption | apply Keep.ite | apply bump_keep | apply setStaLink_keep | apply setRl_keep | apply forgetLink_keep | apply bumpN_keep | simp only [KeepF.pair] | intro _ | split)

theorem settleSta_keep {r : State} {st : Nat} {s : State} (h : Keep r s) :
    Keep r (settleSta st s) := by
  unfold settleSta
  with_reducible repeat' (first | assumption | apply Keep.ite | apply finishRunning_keep | apply raiseTo_keep | apply Keep.updSta | simp only [KeepF.pair] | intro _ | split)

theorem endFrame_keep {r : State} {l : Nat} {u : Unfin} {s : State} (h : Keep r s) :
    Keep r (endFrame l u s) := by
  unfold endFrame
  with_reducible repeat' (first | assumption | apply releaseSta_keep | apply settleSta_keep | apply setRl_keep)

theorem doneReport_keep {r : State} {l : Nat} {tag : Nat} {status : Nat} {s : State} (h : Keep r s) :
    Keep r (doneReport l tag status s) := by
  unfold doneReport
  with_reducible repeat' (first | assumption | apply Keep.ite | apply endFrame_keep | apply bump_keep | apply countSta_keep | apply rlProtocol_keep | simp only [KeepF.pair] | intro _ | split)

theorem doneTimeout_keep {r : State} {l : Nat} {tag : Nat} {s : State} (h : Keep r s) :
    Keep r (doneTimeout l tag s) := by
  unfold doneTimeout
  with_reducible repeat' (first | assumption | apply Keep.ite | apply endFrame_keep | apply bump_keep | apply countSta_keep | apply rlProtocol_keep | intro _ | split)

theorem fbError_keep {r : State} {m : Bytes} {s : State} (h : Keep r s) :
    Keep r (fbError m s) := by
  unfold fbError
  with_reducible repeat' (first | assumption | apply Keep.ite | apply bump_keep | apply raiseErr_keep | intro _)

theorem fbAccept_keep {r : State} {s : State} (h : Keep r s) :
    Keep r (fbAccept s) := by
  unfold fbAccept
  with_reducible repeat' (first | assumption | apply bump_keep | apply perf_keep)

theorem fbRateMsg_keep {r : State} {m : Bytes} {s : State} (h : Keep r s) :
    Keep r (fbRateMsg m s) := by
  unfold fbRateMsg
  with_reducible repeat' (first | assumption | apply Keep.ite | apply setStaLink_keep | apply fbAccept_keep | apply fbError_keep | intro _)

theorem fbCreditMsg_keep {r : State} {m : Bytes} {s : State} (h : Keep r s) :
    Keep r (fbCreditMsg m s) := by
  unfold fbCreditMsg
  with_reducible repeat' (first | assumption | apply Keep.ite | apply setStaLink_keep | apply setRl_keep | apply fbAccept_keep | apply fbError_keep | simp only [KeepF.pair] | intro _)

theorem psEffect_keep {r : State} {st : Nat} {l : Nat} {state : Nat} {mask : Nat} {frames : Nat} {s : State} (h : Keep r s) :
    Keep r (psEffect st l state mask frames s) := by
  unfold psEffect
  with_reducible repeat' (first | assumption | apply Keep.ite | apply setStaLink_keep | apply evalParks_keep | intro _)

theorem fbPsMsg_keep {r : State} {m : Bytes} {s : State} (h : Keep r s) :
    Keep r (fbPsMsg m s) := by
  unfold fbPsMsg
  with_reducible repeat' (first | assumption | apply Keep.ite | apply psEffect_keep | apply fbAccept_keep | apply fbError_keep | intro _)

theorem rateStales_keep {r : State} {st : Nat} {l : Nat} {s : State} (h : Keep r s) :
    Keep r (rateStales st l s) := by
  unfold rateStales
  with_reducible repeat' (first | assumption | apply Keep.ite | apply setStaLink_keep | apply raiseTo_keep | intro _)

theorem staSetCmd_keep {r : State} {q : Req} {s : State} (h : Keep r s) :
    KeepF r (staSetCmd q s) := by
  unfold staSetCmd
  with_reducible repeat' (first | assumption | apply KeepF.ite | apply setStaLink_keep | apply evalParks_keep | apply setSta_keep | apply forgetLink_keep | apply raiseTo_keep | apply Keep.updSta | apply evalPark_keep | apply Keep.foldl | simp only [KeepF.pair] | intro _ | split)

theorem flushQ_keep {r : State} {st : Nat} {a : Nat} {s : State} (h : Keep r s) :
    Keep r (flushQ st a s) := by
  unfold flushQ
  with_reducible repeat' (first | assumption | apply setAcRound_keep | apply dropStaAdmin_keep | apply setQ_keep | apply Keep.foldl | intro _)

theorem flushLaunch_keep {r : State} {st : Nat} {l : Nat} {s : State} (h : Keep r s) :
    Keep r (flushLaunch st l s) := by
  unfold flushLaunch
  with_reducible repeat' (first | assumption | apply dropStaAdmin_keep | apply leaveLaunch_keep | apply setRl_keep | apply Keep.foldl | intro _ | split)

theorem staRemoveCmd_keep {r : State} {q : Req} {s : State} (h : Keep r s) :
    KeepF r (staRemoveCmd q s) := by
  unfold staRemoveCmd
  with_reducible repeat' (first | assumption | apply KeepF.ite | apply settleSta_keep | apply setSta_keep | apply raiseTo_keep | apply flushQ_keep | apply flushLaunch_keep | apply Keep.foldl | simp only [KeepF.pair] | intro _ | split)

theorem staFlushCmd_keep {r : State} {q : Req} {s : State} (h : Keep r s) :
    KeepF r (staFlushCmd q s) := by
  unfold staFlushCmd
  with_reducible repeat' (first | assumption | apply KeepF.ite | apply flushQ_keep | apply Keep.foldl | simp only [KeepF.pair] | intro _ | split)

theorem staStatusCmd_keep {r : State} {q : Req} {s : State} (h : Keep r s) :
    KeepF r (staStatusCmd q s) := by
  unfold staStatusCmd
  with_reducible repeat' (first | assumption | simp only [KeepF.pair] | split)

theorem staCountersCmd_keep {r : State} {q : Req} {s : State} (h : Keep r s) :
    KeepF r (staCountersCmd q s) := by
  unfold staCountersCmd
  with_reducible repeat' (first | assumption | apply KeepF.ite | apply readCounters_keep | simp only [KeepF.pair] | apply KeepS.snd | intro _ | split)

theorem rlEnable_keep {r : State} {l : Nat} {s : State} (h : Keep r s) :
    Keep r (rlEnable l s) := by
  unfold rlEnable
  with_reducible repeat' (first | assumption | apply Keep.ite | apply setStaLink_keep | apply setRl_keep | apply evalAllParks_keep | apply raise0_keep | apply Keep.foldl | simp only [KeepF.pair] | intro _)

theorem rlDrop_keep {r : State} {l : Nat} {st : Nat} {a : Nat} {h3x : Nat} {s : State} (h : Keep r s) :
    Keep r (rlDrop l st a h3x s) := by
  unfold rlDrop
  with_reducible repeat' (first | assumption | apply bump_keep | apply releaseSta_keep)

theorem rlDisable_keep {r : State} {l : Nat} {s : State} (h : Keep r s) :
    Keep r (rlDisable l s) := by
  unfold rlDisable
  with_reducible repeat' (first | assumption | apply evalAllParks_keep | apply forgetLink_keep | apply leaveLaunch_keep | apply raise0_keep | apply rlDrop_keep | apply setRl_keep | apply settleSta_keep | apply Keep.foldl | intro _ | split)

theorem rlConfigCmd_keep {r : State} {q : Req} {s : State} (h : Keep r s) :
    KeepF r (rlConfigCmd q s) := by
  unfold rlConfigCmd
  with_reducible repeat' (first | assumption | apply KeepF.ite | apply setRl_keep | apply rlEnable_keep | apply rlDisable_keep | simp only [KeepF.pair] | intro _ | split)

theorem rlStatusCmd_keep {r : State} {q : Req} {s : State} (h : Keep r s) :
    KeepF r (rlStatusCmd q s) := by
  unfold rlStatusCmd
  with_reducible repeat' (first | assumption | apply KeepF.ite | simp only [KeepF.pair] | intro _)

theorem execFbRate_keep {r : State} {m : Bytes} {s : State} (h : Keep r s) :
    KeepR r (execFbRate m s) := by
  unfold execFbRate
  with_reducible repeat' (first | assumption | apply KeepR.next | apply clocked_keep | apply fbRateMsg_keep | intro _ | split | dsimp only)

theorem execFbCredit_keep {r : State} {m : Bytes} {s : State} (h : Keep r s) :
    KeepR r (execFbCredit m s) := by
  unfold execFbCredit
  with_reducible repeat' (first | assumption | apply KeepR.next | apply clocked_keep | apply fbCreditMsg_keep | intro _ | split | dsimp only)

theorem execFbPs_keep {r : State} {m : Bytes} {s : State} (h : Keep r s) :
    KeepR r (execFbPs m s) := by
  unfold execFbPs
  with_reducible repeat' (first | assumption | apply KeepR.next | apply clocked_keep | apply fbPsMsg_keep | intro _ | split | dsimp only)

theorem execRateStale_keep {r : State} {st : Nat} {l : Nat} {s : State} (h : Keep r s) :
    KeepR r (execRateStale st l s) := by
  unfold execRateStale
  with_reducible repeat' (first | assumption | apply KeepR.next | apply clocked_keep | apply rateStales_keep | intro _ | split | dsimp only)

theorem execStationDecision_keep {r : State} {s : State} (h : Keep r s) :
    KeepR r (execStationDecision s) := by
  unfold execStationDecision
  with_reducible repeat' (first | assumption | apply stationDecide_keep | apply KeepR.next)

theorem execDnStageDone_keep {r : State} {l : Nat} {s : State} (h : Keep r s) :
    KeepR r (execDnStageDone l s) := by
  unfold execDnStageDone
  with_reducible repeat' (first | assumption | apply KeepR.next | apply clocked_keep | apply stageDone_keep | intro _ | split | dsimp only)

theorem execDnFrameStart_keep {r : State} {l : Nat} {s : State} (h : Keep r s) :
    KeepR r (execDnFrameStart l s) := by
  unfold execDnFrameStart
  with_reducible repeat' (first | assumption | apply KeepR.next | apply clocked_keep | apply frameStart_keep | intro _ | split | dsimp only)

theorem execDnDone_keep {r : State} {l : Nat} {tag : Nat} {status : Nat} {s : State} (h : Keep r s) :
    KeepR r (execDnDone l tag status s) := by
  unfold execDnDone
  with_reducible repeat' (first | assumption | apply KeepR.next | apply clocked_keep | apply doneReport_keep | intro _ | split | dsimp only)

theorem execDnDoneTimeout_keep {r : State} {l : Nat} {tag : Nat} {s : State} (h : Keep r s) :
    KeepR r (execDnDoneTimeout l tag s) := by
  unfold execDnDoneTimeout
  with_reducible repeat' (first | assumption | apply KeepR.next | apply clocked_keep | apply doneTimeout_keep | intro _ | split | dsimp only)

theorem execStaSet_keep {r : State} {s : State} (h : Keep r s) :
    KeepR r (execStaSet s) := by
  unfold execStaSet
  with_reducible repeat' (first | assumption | apply staSetCmd_keep | apply immediate_keep | apply KeepR.next)

theorem execStaRemove_keep {r : State} {s : State} (h : Keep r s) :
    KeepR r (execStaRemove s) := by
  unfold execStaRemove
  with_reducible repeat' (first | assumption | apply staRemoveCmd_keep | apply longRunning_keep | apply KeepR.next)

theorem execStaFlush_keep {r : State} {s : State} (h : Keep r s) :
    KeepR r (execStaFlush s) := by
  unfold execStaFlush
  with_reducible repeat' (first | assumption | apply staFlushCmd_keep | apply immediate_keep | apply KeepR.next)

theorem execStaStatusGet_keep {r : State} {s : State} (h : Keep r s) :
    KeepR r (execStaStatusGet s) := by
  unfold execStaStatusGet
  with_reducible repeat' (first | assumption | apply staStatusCmd_keep | apply immediate_keep | apply KeepR.next)

theorem execStaCountersGet_keep {r : State} {s : State} (h : Keep r s) :
    KeepR r (execStaCountersGet s) := by
  unfold execStaCountersGet
  with_reducible repeat' (first | assumption | apply staCountersCmd_keep | apply immediate_keep | apply KeepR.next)

theorem execRlConfig_keep {r : State} {s : State} (h : Keep r s) :
    KeepR r (execRlConfig s) := by
  unfold execRlConfig
  with_reducible repeat' (first | assumption | apply rlConfigCmd_keep | apply immediate_keep | apply KeepR.next)

theorem execRlStatusGet_keep {r : State} {s : State} (h : Keep r s) :
    KeepR r (execRlStatusGet s) := by
  unfold execRlStatusGet
  with_reducible repeat' (first | assumption | apply rlStatusCmd_keep | apply immediate_keep | apply KeepR.next)

/-! ## Channels -/

theorem setRing_keep {r : State} {c : Nat} {tx : Bool} {r2x : Nat} {f : RingS → RingS} {s : State} (h : Keep r s) :
    Keep r (setRing c tx r2x f s) := by
  unfold setRing
  with_reducible repeat' (first | assumption | apply setCh_keep)

theorem raiseCh_keep {r : State} {c : Nat} {code : Nat} {d : Bytes} {s : State} (h : Keep r s) :
    Keep r (raiseCh c code d s) := by
  unfold raiseCh
  with_reducible repeat' (first | assumption | apply raiseTo_keep)

theorem chStateEvent_keep {r : State} {c : Nat} {s : State} (h : Keep r s) :
    Keep r (chStateEvent c s) := by
  unfold chStateEvent
  with_reducible repeat' (first | assumption | apply raiseCh_keep)

theorem chDrop_keep {r : State} {c : Nat} {k : Nat} {ingress : Nat} {s : State} (h : Keep r s) :
    Keep r (chDrop c k ingress s) := by
  unfold chDrop
  with_reducible repeat' (first | assumption | apply countAt_keep)

theorem chDropN_keep {r : State} {c : Nat} {k : Nat} {ingress : Nat} {a : Nat} {s : State} (h : Keep r s) :
    Keep r (chDropN c k ingress a s) := by
  induction a generalizing c k ingress s with
  | zero =>
    simp only [chDropN]
    exact h
  | succ n ih =>
    simp only [chDropN]
    with_reducible repeat' (first | assumption | apply ih | apply chDrop_keep)

theorem setVec_keep {r : State} {c : Nat} {v : Nat} {f : VecS → VecS} {s : State} (h : Keep r s) :
    Keep r (setVec c v f s) := by
  unfold setVec
  with_reducible repeat' (first | assumption | apply setCh_keep)

theorem judgeVec_keep {r : State} {c : Nat} {v : Nat} {s : State} (h : Keep r s) :
    Keep r (judgeVec c v s) := by
  unfold judgeVec
  with_reducible repeat' (first | assumption | apply Keep.ite | apply bump_keep | apply errBit_keep | apply lines_keep | apply perf_keep | apply sendMsg_keep | apply setVec_keep | apply violation_keep | simp only [KeepF.pair] | apply KeepF.fst | (refine KeepF.elim (by assumption) ?_) | intro _ | split)

theorem vecCount_keep {r : State} {c : Nat} {v : Nat} {s : State} (h : Keep r s) :
    Keep r (vecCount c v s) := by
  unfold vecCount
  with_reducible repeat' (first | assumption | apply Keep.ite | apply judgeVec_keep | apply setVec_keep | intro _)

theorem vecMsgDone_keep {r : State} {c : Nat} {v : Nat} {err : Bool} {s : State} (h : Keep r s) :
    Keep r (vecMsgDone c v err s) := by
  unfold vecMsgDone
  with_reducible repeat' (first | assumption | apply Keep.ite | apply bump_keep | apply errBit_keep | apply judgeVec_keep | apply lines_keep | apply setVec_keep | intro _ | split)

theorem chEmpty_keep {r : State} {c : Nat} {s : State} (h : Keep r s) :
    Keep r (chEmpty c s) := by
  unfold chEmpty
  with_reducible repeat' (first | assumption | apply chDropN_keep | apply releaseOwner_keep | apply setCh_keep | apply chDrop_keep | apply chLeave_keep | apply setQ_keep | apply Keep.updPipe | apply Keep.foldl | intro _)

theorem chEndDeliv_keep {r : State} {c : Nat} {s : State} (h : Keep r s) :
    Keep r (chEndDeliv c s) := by
  unfold chEndDeliv
  with_reducible repeat' (first | assumption | apply Keep.ite | apply chDrop_keep | apply releaseOwner_keep | apply setCh_keep | apply unpinBuf_keep | apply Keep.foldl | intro _ | split | dsimp only)

theorem chDropReads_keep {r : State} {c : Nat} {s : State} (h : Keep r s) :
    Keep r (chDropReads c s) := by
  unfold chDropReads
  with_reducible repeat' (first | assumption | apply dropXfers_keep | intro _ | split | dsimp only)

theorem takeBack_keep {r : State} {c : Nat} {s : State} {x : Xfer} (h : Keep r s) :
    Keep r (takeBack c s x) := by
  unfold takeBack
  with_reducible repeat' (first | assumption | apply setCh_keep | apply setRing_keep | apply setVec_keep | split | dsimp only)

theorem haltWrites_keep {r : State} {c : Nat} {s : State} (h : Keep r s) :
    Keep r (haltWrites c s) := by
  unfold haltWrites
  refine Keep.foldl (fun _ _ => takeBack_keep) (Keep.updHost h fun x hx => ⟨hx.1, hx.2.1, ?_⟩)
  intro y hy
  obtain ⟨z, hz, rfl⟩ := List.mem_map.mp hy
  split
  · intro q hq; cases hq
  · exact hx.2.2 z (List.mem_of_mem_filter hz)

theorem chStop_keep {r : State} {c : Nat} {s : State} (h : Keep r s) :
    Keep r (chStop c s) := by
  unfold chStop
  with_reducible repeat' (first | assumption | apply chDropReads_keep | apply chEmpty_keep | apply chEndDeliv_keep | apply haltWrites_keep | intro _ | split | dsimp only)

theorem quarantine_keep {r : State} {c : Nat} {cause : Nat} {s : State} (h : Keep r s) :
    Keep r (quarantine c cause s) := by
  unfold quarantine
  with_reducible repeat' (first | assumption | apply Keep.ite | apply chStateEvent_keep | apply chStop_keep | apply setCh_keep | intro _ | split)

theorem issueFetch_keep {r : State} {c : Nat} {tx : Bool} {r2x : Nat} {a : Nat} {n : Nat} {s : State} (h : Keep r s) :
    Keep r (issueFetch c tx r2x a n s) := by
  unfold issueFetch
  with_reducible repeat' (first | assumption | apply Keep.ite | apply lines_keep | apply violation_keep | apply perf_keep | apply setRing_keep | apply quarantine_keep | apply startXfer_keep | intro _)

theorem fetchPump_keep {r : State} {c : Nat} {tx : Bool} {r2x : Nat} {s : State} (h : Keep r s) :
    Keep r (fetchPump c tx r2x s) := by
  unfold fetchPump
  with_reducible repeat' (first | assumption | apply Keep.ite | apply issueFetch_keep | apply setRing_keep | simp only [KeepF.pair] | intro _)

theorem setSend_keep {r : State} {c : Nat} {id : Nat} {f : SendS → SendS} {s : State} (h : Keep r s) :
    Keep r (setSend c id f s) := by
  unfold setSend
  with_reducible repeat' (first | assumption | apply setCh_keep)

theorem completionFailed_keep {r : State} {c : Nat} {r1x : Nat} {d : Deliv} {s : State} (h : Keep r s) :
    Keep r (completionFailed c r1x d s) := by
  unfold completionFailed
  with_reducible repeat' (first | assumption | apply Keep.ite | apply chDrop_keep | apply quarantine_keep | apply releaseOwner_keep | apply setCh_keep | intro _ | split)

theorem writeRecord_keep {r : State} {c : Nat} {tx : Bool} {r2x : Nat} {id : Nat} {count : Nat} {len : Nat} {deliv : Option Nat} {rec_ : Bytes} {s : State} (h : Keep r s) :
    Keep r (writeRecord c tx r2x id count len deliv rec_ s) := by
  unfold writeRecord
  with_reducible repeat' (first | assumption | apply Keep.ite | apply completionFailed_keep | apply lines_keep | apply quarantine_keep | apply setCh_keep | apply setRing_keep | apply startXfer_keep | apply violation_keep | intro _ | split | dsimp only)

theorem completeTx_keep {r : State} {a : Nat} {a1x : Nat} {a2x : Nat} {s : State} (h : Keep r s) :
    Keep r (completeTx a a1x a2x s) := by
  induction a generalizing a1x a2x s with
  | zero =>
    simp only [completeTx]
    exact h
  | succ n ih =>
    simp only [completeTx]
    with_reducible repeat' (first | assumption | apply ih | apply Keep.ite | apply bump_keep | apply setCh_keep | apply writeRecord_keep | intro _ | split)

theorem txGoOn_keep {r : State} {c : Nat} {r1x : Nat} {s : State} (h : Keep r s) :
    Keep r (txGoOn c r1x s) := by
  unfold txGoOn
  with_reducible repeat' (first | assumption | apply completeTx_keep | apply fetchPump_keep)

theorem readSend_keep {r : State} {c : Nat} {r1x : Nat} {id : Nat} {a : List Desc} {a4x : Nat} {s : State} (h : Keep r s) :
    Keep r (readSend c r1x id a a4x s) := by
  induction a generalizing c r1x id a4x s with
  | nil =>
    simp only [readSend]
    exact h
  | cons x l ih =>
    simp only [readSend]
    with_reducible repeat' (first | assumption | apply ih | apply Keep.ite | apply setSend_keep | apply startXfer_keep | intro _)

theorem openSend_keep {r : State} {c : Nat} {r1x : Nat} {l : List Desc} {broken : Bool} {s : State} (h : Keep r s) :
    Keep r (openSend c r1x l broken s) := by
  unfold openSend
  with_reducible repeat' (first | assumption | apply lines_keep | apply violation_keep | apply readSend_keep | apply setCh_keep | apply chDrop_keep | simp only [KeepF.pair] | split)

theorem txDesc_keep {r : State} {c : Nat} {r1x : Nat} {d : Desc} {s : State} (h : Keep r s) :
    Keep r (txDesc c r1x d s) := by
  unfold txDesc
  with_reducible repeat' (first | assumption | apply Keep.ite | apply openSend_keep | apply setRing_keep | simp only [KeepF.pair] | intro _)

theorem txDataDone_keep {r : State} {c : Nat} {r1x : Nat} {pid : Nat} {a3x : Xfer} {s : State} (h : Keep r s) :
    Keep r (txDataDone c r1x pid a3x s) := by
  unfold txDataDone
  with_reducible repeat' (first | assumption | apply Keep.ite | apply chDrop_keep | apply chDropN_keep | apply setSend_keep | apply txGoOn_keep | intro _ | split | dsimp only)

theorem offerFrames_keep {r : State} {a : Nat} {a1x : Nat} {s : State} (h : Keep r s) :
    Keep r (offerFrames a a1x s) := by
  induction a generalizing a1x s with
  | zero =>
    simp only [offerFrames]
    exact h
  | succ n ih =>
    simp only [offerFrames]
    with_reducible repeat' (first | assumption | apply ih | apply Keep.ite | apply setSend_keep | apply setCh_keep | apply chDrop_keep | apply txGoOn_keep | apply Keep.updPipe | intro _ | split)

theorem offerAll_keep {r : State} {s : State} (h : Keep r s) :
    Keep r (offerAll s) := by
  unfold offerAll
  with_reducible repeat' (first | assumption | apply Keep.ite | apply offerFrames_keep | apply Keep.foldl | intro _)

theorem fetchTx_keep {r : State} {c : Nat} {s : State} (h : Keep r s) :
    Keep r (fetchTx c s) := by
  unfold fetchTx
  with_reducible repeat' (first | assumption | apply fetchPump_keep | apply Keep.foldl | intro _ | split)

theorem txEntered_keep {r : State} {c : Nat} {id : Nat} {len : Nat} {seq : Nat} {s : State} (h : Keep r s) :
    Keep r (txEntered c id len seq s) := by
  unfold txEntered
  with_reducible repeat' (first | assumption | apply Keep.ite | apply bump_keep | apply bumpN_keep | apply fetchTx_keep | apply perf_keep | apply setChSch_keep | apply setSend_keep | apply txGoOn_keep | intro _ | split)

theorem txNoBuffer_keep {r : State} {c : Nat} {id : Nat} {count : State → State} {s : State}
    (hc : ∀ s, Keep r s → Keep r (count s)) (h : Keep r s) : Keep r (txNoBuffer c id count s) := by
  unfold txNoBuffer
  split
  · exact h
  · exact fetchTx_keep (txGoOn_keep (hc _ (setSend_keep h)))

theorem handleDesc_keep {r : State} {c : Nat} {tx : Bool} {r2x : Nat} {d : Desc} {s : State} (h : Keep r s) :
    Keep r (handleDesc c tx r2x d s) := by
  unfold handleDesc
  with_reducible repeat' (first | assumption | apply Keep.ite | apply txDesc_keep | apply setRing_keep | intro _)

theorem descDone_keep {r : State} {c : Nat} {tx : Bool} {r2x : Nat} {x : Xfer} {s : State} (h : Keep r s) :
    Keep r (descDone c tx r2x x s) := by
  unfold descDone
  with_reducible repeat' (first | assumption | apply Keep.ite | apply handleDesc_keep | apply setRing_keep | apply quarantine_keep | apply txGoOn_keep | apply fetchPump_keep | apply Keep.foldl | simp only [KeepF.pair] | intro _ | split)

theorem doorbell_keep {r : State} {c : Nat} {tx : Bool} {r2x : Nat} {value : Nat} {s : State} (h : Keep r s) :
    Keep r (doorbell c tx r2x value s) := by
  unfold doorbell
  with_reducible repeat' (first | assumption | apply Keep.ite | apply bump_keep | apply setCh_keep | apply setRing_keep | apply quarantine_keep | apply fetchPump_keep | intro _)

theorem pruneRing_keep {r : State} {a : Nat} {a1x : Nat} {a2x : Nat} {s : State} (h : Keep r s) :
    Keep r (pruneRing a a1x a2x s) := by
  induction a generalizing a1x a2x s with
  | zero =>
    simp only [pruneRing]
    exact h
  | succ n ih =>
    simp only [pruneRing]
    with_reducible repeat' (first | assumption | apply ih | apply Keep.ite | apply bump_keep | apply popRing_keep | apply releaseOwner_keep | apply chDrop_keep | intro _ | split)

theorem nominateRing_keep {r : State} {c : Nat} {s : State} (h : Keep r s) :
    Keep r (nominateRing c s) := by
  unfold nominateRing
  with_reducible repeat' (first | assumption | apply Keep.ite | apply fetchPump_keep | apply pruneRing_keep | apply setChSch_keep | apply Keep.foldl | apply KeepS.foldl | apply KeepF.foldl | simp only [KeepF.pair] | apply KeepF.fst | (refine KeepF.elim (by assumption) ?_) | intro _ | split)

theorem rxWrites_keep {r : State} {c : Nat} {r1x : Nat} {id : Nat} {a : List Desc} {a4x : Bytes} {s : State} (h : Keep r s) :
    Keep r (rxWrites c r1x id a a4x s) := by
  induction a generalizing c r1x id a4x s with
  | nil =>
    simp only [rxWrites]
    exact h
  | cons x l ih =>
    simp only [rxWrites]
    with_reducible repeat' (first | assumption | apply ih | apply Keep.ite | apply setCh_keep | apply startXfer_keep | intro _)

theorem completeRx_keep {r : State} {a : Nat} {a1x : Nat} {a2x : Nat} {s : State} (h : Keep r s) :
    Keep r (completeRx a a1x a2x s) := by
  induction a generalizing a1x a2x s with
  | zero =>
    simp only [completeRx]
    exact h
  | succ n ih =>
    simp only [completeRx]
    with_reducible repeat' (first | assumption | apply ih | apply Keep.ite | apply setCh_keep | apply writeRecord_keep | intro _ | split)

theorem rxFailed_keep {r : State} {c : Nat} {r1x : Nat} {e : QE} {kind : Nat} {s : State} (h : Keep r s) :
    Keep r (rxFailed c r1x e kind s) := by
  unfold rxFailed
  with_reducible repeat' (first | assumption | apply checkFail_keep | apply releaseOwner_keep | apply unpinBuf_keep | intro _ | split)

theorem deliverWith_keep {r : State} {c : Nat} {r1x : Nat} {e : QE} {s : State} (h : Keep r s) :
    Keep r (deliverWith c r1x e s) := by
  unfold deliverWith
  with_reducible repeat' (first | assumption | apply Keep.ite | apply bumpN_keep | apply chDrop_keep | apply completeRx_keep | apply fetchPump_keep | apply releaseOwner_keep | apply rxWrites_keep | apply setCh_keep | apply setRing_keep | apply unpinBuf_keep | intro _ | split | dsimp only)

theorem rxNext_keep {r : State} {a : Nat} {a1x : Nat} {a2x : Nat} {s : State} (h : Keep r s) :
    Keep r (rxNext a a1x a2x s) := by
  induction a generalizing a1x a2x s with
  | zero =>
    simp only [rxNext]
    exact h
  | succ n ih =>
    simp only [rxNext]
    with_reducible repeat' (first | assumption | apply ih | apply Keep.ite | apply deliverWith_keep | apply setCh_keep | intro _ | split | dsimp only)

theorem rxGoOn_keep {r : State} {c : Nat} {r1x : Nat} {s : State} (h : Keep r s) :
    Keep r (rxGoOn c r1x s) := by
  unfold rxGoOn
  with_reducible repeat' (first | assumption | apply rxNext_keep | intro _ | split | dsimp only)

theorem deliver1_keep {r : State} {c : Nat} {r1x : Nat} {s : State} (h : Keep r s) :
    Keep r (deliver1 c r1x s) := by
  unfold deliver1
  with_reducible repeat' (first | assumption | apply Keep.ite | apply pinBuf_keep | apply popRing_keep | apply rxFailed_keep | apply rxGoOn_keep | apply setCh_keep | apply startDirect_keep | simp only [KeepS.pair] | apply KeepS.snd | (refine KeepS.elim (by assumption) ?_) | intro _ | split | dsimp only)

theorem dequeueRing_keep {r : State} {c : Nat} {r1x : Nat} {cost : Nat} {s : State} (h : Keep r s) :
    Keep r (dequeueRing c r1x cost s) := by
  unfold dequeueRing
  with_reducible repeat' (first | assumption | apply deliver1_keep | apply perf_keep | apply setChSch_keep | intro _ | split | dsimp only)

theorem hostRxDecide_keep {r : State} {s : State} (h : Keep r s) :
    Keep r (hostRxDecide s) := by
  unfold hostRxDecide
  with_reducible repeat' (first | assumption | apply Keep.ite | apply dequeueRing_keep | apply nominateRing_keep | apply Keep.updSch | apply Keep.foldl | apply KeepS.foldl | apply KeepF.foldl | simp only [KeepF.pair] | apply KeepF.fst | (refine KeepF.elim (by assumption) ?_) | intro _ | split | dsimp only)

theorem settleReset_keep {r : State} {c : Nat} {s : State} (h : Keep r s) :
    Keep r (settleReset c s) := by
  unfold settleReset
  with_reducible repeat' (first | assumption | apply Keep.ite | apply setCh_keep | apply finishRunning_keep | apply chStateEvent_keep | simp only [KeepF.pair] | intro _ | split)

theorem settleResets_keep {r : State} {s : State} (h : Keep r s) :
    Keep r (settleResets s) := by
  unfold settleResets
  with_reducible repeat' (first | assumption | apply Keep.ite | apply settleReset_keep | apply Keep.foldl | intro _ | split)

theorem rxReadDone_keep {r : State} {c : Nat} {r1x : Nat} {h2x : Nat} {a3x : Xfer} {s : State} (h : Keep r s) :
    Keep r (rxReadDone c r1x h2x a3x s) := by
  unfold rxReadDone
  with_reducible repeat' (first | assumption | apply Keep.ite | apply chDrop_keep | apply releaseOwner_keep | apply rxFailed_keep | apply rxGoOn_keep | apply setCh_keep | apply settleReset_keep | apply unpinBuf_keep | intro _ | split | dsimp only)

theorem rxDataDone_keep {r : State} {c : Nat} {r1x : Nat} {id : Nat} {x : Xfer} {s : State} (h : Keep r s) :
    Keep r (rxDataDone c r1x id x s) := by
  unfold rxDataDone
  with_reducible repeat' (first | assumption | apply Keep.ite | apply releaseOwner_keep | apply settleReset_keep | apply setCh_keep | apply completeRx_keep | apply quarantine_keep | apply chDrop_keep | simp only [KeepF.pair] | intro _ | split)

theorem chWake_keep {r : State} {c : Nat} {r1x : Nat} {d : Deliv} {s : State} (h : Keep r s) :
    Keep r (chWake c r1x d s) := by
  unfold chWake
  with_reducible repeat' (first | assumption | apply Keep.ite | apply setCh_keep | apply raiseCh_keep | intro _)

theorem writeBackDone_keep {r : State} {c : Nat} {tx : Bool} {r2x : Nat} {id : Nat} {a4x : Xfer} {s : State} (h : Keep r s) :
    Keep r (writeBackDone c tx r2x id a4x s) := by
  unfold writeBackDone
  with_reducible repeat' (first | assumption | apply Keep.ite | apply bump_keep | apply bumpN_keep | apply chDrop_keep | apply chWake_keep | apply completionFailed_keep | apply fetchPump_keep | apply quarantine_keep | apply releaseOwner_keep | apply setCh_keep | apply setRing_keep | apply settleReset_keep | apply txGoOn_keep | apply vecCount_keep | intro _ | split)

/-! ## ChannelCmd -/

theorem doorbellWrite_keep {r : State} {c : Nat} {tx : Bool} {r2x : Nat} {value : Nat} {s : State} (h : Keep r s) :
    Keep r (doorbellWrite c tx r2x value s) := by
  unfold doorbellWrite
  with_reducible repeat' (first | assumption | apply regWrite_keep | apply doorbell_keep)

theorem chEventsClear_keep {r : State} {c : Nat} {value : Nat} {s : State} (h : Keep r s) :
    Keep r (chEventsClear c value s) := by
  unfold chEventsClear
  with_reducible repeat' (first | assumption | apply regWrite_keep | apply setCh_keep)

theorem intRearm_keep {r : State} {c : Nat} {value : Nat} {s : State} (h : Keep r s) :
    Keep r (intRearm c value s) := by
  unfold intRearm
  with_reducible repeat' (first | assumption | apply regWrite_keep | apply judgeVec_keep | apply setVec_keep | apply Keep.foldl | intro _)

theorem intMaskWrite_keep {r : State} {c : Nat} {value : Nat} {s : State} (h : Keep r s) :
    Keep r (intMaskWrite c value s) := by
  unfold intMaskWrite
  with_reducible repeat' (first | assumption | apply regWrite_keep | apply setCh_keep | apply judgeVec_keep | apply Keep.foldl | intro _)

theorem cqConsWrite_keep {r : State} {c : Nat} {tx : Bool} {r2x : Nat} {value : Nat} {s : State} (h : Keep r s) :
    Keep r (cqConsWrite c tx r2x value s) := by
  unfold cqConsWrite
  with_reducible repeat' (first | assumption | apply Keep.ite | apply regWrite_keep | apply setRing_keep | apply completeRx_keep | apply txGoOn_keep | apply fetchPump_keep | simp only [KeepF.pair] | intro _)

theorem vectorDelay_keep {r : State} {c : Nat} {v : Nat} {s : State} (h : Keep r s) :
    Keep r (vectorDelay c v s) := by
  unfold vectorDelay
  with_reducible repeat' (first | assumption | apply Keep.ite | apply judgeVec_keep | apply setVec_keep | intro _)

theorem chCmd_keep {r : State} {f : Req → Nat → State → State × Reply} {q : Req} {s : State} (hf : ∀ q n t, Keep r t → KeepF r (f q n t)) (h : Keep r s) :
    KeepF r (chCmd f q s) := by
  unfold chCmd
  with_reducible repeat' (first | assumption | apply hf | simp only [KeepF.pair] | split)

theorem chConfigCmd_keep {r : State} {a : Req} {s : State} (h : Keep r s) :
    KeepF r (chConfigCmd a s) := by
  unfold chConfigCmd
  with_reducible repeat' (first | assumption | apply KeepF.ite | apply chCmd_keep | apply setCh_keep | simp only [KeepF.pair] | intro _)

theorem chRingSetCmd_keep {r : State} {a : Req} {s : State} (h : Keep r s) :
    KeepF r (chRingSetCmd a s) := by
  unfold chRingSetCmd
  with_reducible repeat' (first | assumption | apply KeepF.ite | apply chCmd_keep | apply setRing_keep | simp only [KeepF.pair] | intro _ | split)

theorem chVectorSetCmd_keep {r : State} {a : Req} {s : State} (h : Keep r s) :
    KeepF r (chVectorSetCmd a s) := by
  unfold chVectorSetCmd
  with_reducible repeat' (first | assumption | apply chCmd_keep | apply judgeVec_keep | apply setVec_keep | simp only [KeepF.pair] | intro _ | split)

theorem chFilterSetCmd_keep {r : State} {a : Req} {s : State} (h : Keep r s) :
    KeepF r (chFilterSetCmd a s) := by
  unfold chFilterSetCmd
  with_reducible repeat' (first | assumption | apply KeepF.ite | apply chCmd_keep | apply setCh_keep | simp only [KeepF.pair] | intro _ | split)

theorem chHashSetCmd_keep {r : State} {a : Req} {s : State} (h : Keep r s) :
    KeepF r (chHashSetCmd a s) := by
  unfold chHashSetCmd
  with_reducible repeat' (first | assumption | apply chCmd_keep | apply setCh_keep | simp only [KeepF.pair] | intro _ | split)

theorem chRateSetCmd_keep {r : State} {a : Req} {s : State} (h : Keep r s) :
    KeepF r (chRateSetCmd a s) := by
  unfold chRateSetCmd
  with_reducible repeat' (first | assumption | apply chCmd_keep | apply setCh_keep | apply setChSch_keep | simp only [KeepF.pair] | intro _ | split)

theorem chEnableCmd_keep {r : State} {a : Req} {s : State} (h : Keep r s) :
    KeepF r (chEnableCmd a s) := by
  unfold chEnableCmd
  with_reducible repeat' (first | assumption | apply KeepF.ite | apply chCmd_keep | apply setCh_keep | apply chStateEvent_keep | simp only [KeepF.pair] | intro _)

theorem startReset_keep {r : State} {c : Nat} {s : State} (h : Keep r s) :
    Keep r (startReset c s) := by
  unfold startReset
  with_reducible repeat' (first | assumption | apply Keep.ite | apply chEmpty_keep | apply chStateEvent_keep | apply chStop_keep | apply setCh_keep | intro _ | split)

theorem chResetCmd_keep {r : State} {q : Req} {s : State} (h : Keep r s) :
    KeepF r (chResetCmd q s) := by
  unfold chResetCmd
  with_reducible repeat' (first | assumption | apply KeepF.ite | apply startReset_keep | apply settleReset_keep | simp only [KeepF.pair] | intro _ | split)

theorem chStatusCmd_keep {r : State} {a : Req} {s : State} (h : Keep r s) :
    KeepF r (chStatusCmd a s) := by
  unfold chStatusCmd
  with_reducible repeat' (first | assumption | apply chCmd_keep | simp only [KeepF.pair] | intro _)

theorem chCountersCmd_keep {r : State} {q : Req} {s : State} (h : Keep r s) :
    KeepF r (chCountersCmd q s) := by
  unfold chCountersCmd
  with_reducible repeat' (first | assumption | apply KeepF.ite | apply readCounters_keep | simp only [KeepF.pair] | apply KeepS.snd | intro _)

theorem execTxDb_keep {r : State} {c : Nat} {r1x : Nat} {v : Nat} {s : State} (h : Keep r s) :
    KeepR r (execTxDb c r1x v s) := by
  unfold execTxDb
  with_reducible repeat' (first | assumption | apply doorbellWrite_keep | apply KeepR.next)

theorem execRxDb_keep {r : State} {c : Nat} {r1x : Nat} {v : Nat} {s : State} (h : Keep r s) :
    KeepR r (execRxDb c r1x v s) := by
  unfold execRxDb
  with_reducible repeat' (first | assumption | apply doorbellWrite_keep | apply KeepR.next)

theorem execChEventsClear_keep {r : State} {c : Nat} {v : Nat} {s : State} (h : Keep r s) :
    KeepR r (execChEventsClear c v s) := by
  unfold execChEventsClear
  with_reducible repeat' (first | assumption | apply chEventsClear_keep | apply KeepR.next)

theorem execIntRearm_keep {r : State} {c : Nat} {v : Nat} {s : State} (h : Keep r s) :
    KeepR r (execIntRearm c v s) := by
  unfold execIntRearm
  with_reducible repeat' (first | assumption | apply intRearm_keep | apply KeepR.next)

theorem execIntMaskWrite_keep {r : State} {c : Nat} {v : Nat} {s : State} (h : Keep r s) :
    KeepR r (execIntMaskWrite c v s) := by
  unfold execIntMaskWrite
  with_reducible repeat' (first | assumption | apply intMaskWrite_keep | apply KeepR.next)

theorem execVectorDelay_keep {r : State} {c : Nat} {v : Nat} {s : State} (h : Keep r s) :
    KeepR r (execVectorDelay c v s) := by
  unfold execVectorDelay
  with_reducible repeat' (first | assumption | apply KeepR.next | apply clocked_keep | apply vectorDelay_keep | intro _ | split | dsimp only)

theorem execCqConsWrite_keep {r : State} {c : Nat} {tx : Bool} {r2x : Nat} {v : Nat} {s : State} (h : Keep r s) :
    KeepR r (execCqConsWrite c tx r2x v s) := by
  unfold execCqConsWrite
  with_reducible repeat' (first | assumption | apply cqConsWrite_keep | apply KeepR.next)

theorem execHostRxDecision_keep {r : State} {s : State} (h : Keep r s) :
    KeepR r (execHostRxDecision s) := by
  unfold execHostRxDecision
  with_reducible repeat' (first | assumption | apply hostRxDecide_keep | apply KeepR.next)

theorem execChConfig_keep {r : State} {s : State} (h : Keep r s) :
    KeepR r (execChConfig s) := by
  unfold execChConfig
  with_reducible repeat' (first | assumption | apply chConfigCmd_keep | apply immediate_keep | apply KeepR.next)

theorem execChRingSet_keep {r : State} {s : State} (h : Keep r s) :
    KeepR r (execChRingSet s) := by
  unfold execChRingSet
  with_reducible repeat' (first | assumption | apply chRingSetCmd_keep | apply immediate_keep | apply KeepR.next)

theorem execChVectorSet_keep {r : State} {s : State} (h : Keep r s) :
    KeepR r (execChVectorSet s) := by
  unfold execChVectorSet
  with_reducible repeat' (first | assumption | apply chVectorSetCmd_keep | apply immediate_keep | apply KeepR.next)

theorem execChFilterSet_keep {r : State} {s : State} (h : Keep r s) :
    KeepR r (execChFilterSet s) := by
  unfold execChFilterSet
  with_reducible repeat' (first | assumption | apply chFilterSetCmd_keep | apply immediate_keep | apply KeepR.next)

theorem execChHashSet_keep {r : State} {s : State} (h : Keep r s) :
    KeepR r (execChHashSet s) := by
  unfold execChHashSet
  with_reducible repeat' (first | assumption | apply chHashSetCmd_keep | apply immediate_keep | apply KeepR.next)

theorem execChRateSet_keep {r : State} {s : State} (h : Keep r s) :
    KeepR r (execChRateSet s) := by
  unfold execChRateSet
  with_reducible repeat' (first | assumption | apply chRateSetCmd_keep | apply immediate_keep | apply KeepR.next)

theorem execChEnable_keep {r : State} {s : State} (h : Keep r s) :
    KeepR r (execChEnable s) := by
  unfold execChEnable
  with_reducible repeat' (first | assumption | apply chEnableCmd_keep | apply immediate_keep | apply KeepR.next)

theorem execChReset_keep {r : State} {s : State} (h : Keep r s) :
    KeepR r (execChReset s) := by
  unfold execChReset
  with_reducible repeat' (first | assumption | apply chResetCmd_keep | apply longRunning_keep | apply KeepR.next)

theorem execChStatusGet_keep {r : State} {s : State} (h : Keep r s) :
    KeepR r (execChStatusGet s) := by
  unfold execChStatusGet
  with_reducible repeat' (first | assumption | apply chStatusCmd_keep | apply immediate_keep | apply KeepR.next)

theorem execChCountersGet_keep {r : State} {s : State} (h : Keep r s) :
    KeepR r (execChCountersGet s) := by
  unfold execChCountersGet
  with_reducible repeat' (first | assumption | apply immediate_keep | apply chCountersCmd_keep | apply KeepR.next)

end Sys2Proof.Machine
end

