-- ==== Sys2Proof/Laws/KeepEngines.lean ====
section
/-! SUPPORT. Each operation of the host port, the entry, the engines and the table service keeps the build, the queue and the invariant. -/

namespace Sys2Proof.Machine

open Sys2Proof

/-! ## Entry -/

theorem giveCredit_keep {r : State} {port : Nat} {s : State} (h : Keep r s) :
    Keep r (giveCredit port s) := by
  unfold giveCredit
  with_reducible repeat' (first | assumption | apply Keep.ite | apply setRl_keep | intro _)

theorem pipelineEntry_keep {r : State} {s : State} (h : Keep r s) :
    Keep r (pipelineEntry s) := by
  unfold pipelineEntry
  with_reducible repeat' (first | assumption | apply Keep.ite | apply giveCredit_keep | apply offerAll_keep | apply Keep.updPipe | simp only [KeepF.pair] | intro _ | split)

theorem countUp_keep {r : State} {a : Arr} {s : State} (h : Keep r s) :
    Keep r (countUp a s) := by
  unfold countUp
  with_reducible repeat' (first | assumption | apply Keep.ite | apply bump_keep | apply bumpN_keep | simp only [KeepF.pair] | intro _)

theorem countWireRx_keep {r : State} {a : Arr} {s : State} (h : Keep r s) :
    Keep r (countWireRx a s) := by
  unfold countWireRx
  with_reducible repeat' (first | assumption | apply Keep.ite | apply bump_keep | apply bumpN_keep | intro _)

theorem afterEntry_keep {r : State} {a : Arr} {seq : Nat} {s : State} (h : Keep r s) :
    Keep r (afterEntry a seq s) := by
  unfold afterEntry
  with_reducible repeat' (first | assumption | apply countUp_keep | apply setThr_keep | apply countWireRx_keep | apply txEntered_keep | simp only [KeepF.pair] | split)

theorem enterWith_keep {r : State} {a : Arr} {h1x : Nat} {oseq : Nat} {s : State} (h : Keep r s) :
    Keep r (enterWith a h1x oseq s) := by
  unfold enterWith
  with_reducible repeat' (first | assumption | apply addOcc_keep | apply updBuf_keep | apply perf_keep | apply writeBuf_keep | apply afterEntry_keep | apply genInc_keep | apply Keep.updPipe)

theorem frameEnters_keep {r : State} {s : State} (h : Keep r s) :
    Keep r (frameEnters s) := by
  unfold frameEnters
  with_reducible repeat' (first | assumption | apply Keep.ite | apply allocBuf_keep | apply badHandle_keep | apply chDrop_keep | apply countFailed_keep | apply enterWith_keep | apply txNoBuffer_keep | apply Keep.updPipe | simp only [KeepS.pair] | apply KeepS.snd | (refine KeepS.elim (by assumption) ?_) | intro _ | split | dsimp only)

theorem puntFrame_keep {r : State} {f : PFrame} {dest : Nat} {s : State} (h : Keep r s) :
    Keep r (puntFrame f dest s) := by
  unfold puntFrame
  with_reducible repeat' (first | assumption | apply bump_keep | apply leaveFlow_keep)

theorem classifyFrame_keep {r : State} {f : PFrame} {partly : Bool} {s : State} (h : Keep r s) :
    Keep r (classifyFrame f partly s) := by
  unfold classifyFrame
  with_reducible repeat' (first | assumption | apply Keep.ite | apply perf_keep | apply pmuEvent_keep | apply classify_keep | apply exitFlow_keep | apply Keep.updPipe | apply dropEarly_keep | simp only [KeepF.pair] | apply KeepS.snd | intro _)

theorem parseFrame_keep {r : State} {f0 : PFrame} {a1x : Option Xfer} {s : State} (h : Keep r s) :
    Keep r (parseFrame f0 a1x s) := by
  unfold parseFrame
  with_reducible repeat' (first | assumption | apply Keep.ite | apply bump_keep | apply classifyFrame_keep | apply dropEarly_keep | apply perf_keep | apply puntFrame_keep | apply updBuf_keep | intro _ | split | dsimp only)

theorem parseLost_keep {r : State} {f : PFrame} {a1x : Option Xfer} {s : State} (h : Keep r s) :
    Keep r (parseLost f a1x s) := by
  unfold parseLost
  with_reducible repeat' (first | assumption | apply checkFail_keep | apply postSkip_keep | apply releaseOwner_keep | intro _ | split | dsimp only)

theorem parseNext_keep {r : State} {s : State} (h : Keep r s) :
    Keep r (parseNext s) := by
  unfold parseNext
  with_reducible repeat' (first | assumption | apply Keep.ite | apply fetchPinned_keep | apply parseFrame_keep | apply parseLost_keep | apply Keep.updPipe | simp only [KeepS.pair] | apply KeepS.snd | (refine KeepS.elim (by assumption) ?_) | intro _ | split | dsimp only)

theorem flowReadReturn_keep {r : State} {tag : Nat} {beats : List Beat} {s : State} (h : Keep r s) :
    Keep r (flowReadReturn tag beats s) := by
  unfold flowReadReturn
  with_reducible repeat' (first | assumption | apply Keep.ite | apply lookDone_keep | apply readReturn_keep | apply dropXfer_keep | simp only [KeepF.pair] | apply KeepF.fst | intro _ | split)

theorem grantBeats_keep {r : State} {l : Nat} {n : Nat} {s : State} (h : Keep r s) :
    Keep r (grantBeats l n s) := by
  unfold grantBeats
  with_reducible repeat' (first | assumption | apply Keep.ite | apply setRl_keep | intro _)

theorem dropUp_keep {r : State} {l : Nat} {k : Nat} {kp : Nat} {s : State} (h : Keep r s) :
    Keep r (dropUp l k kp s) := by
  unfold dropUp
  with_reducible repeat' (first | assumption | apply bump_keep)

theorem upFrameIn_keep {r : State} {l : Nat} {md : Bytes} {data : Bytes} {framed : Bool} {s : State} (h : Keep r s) :
    Keep r (upFrameIn l md data framed s) := by
  unfold upFrameIn
  with_reducible repeat' (first | assumption | apply Keep.ite | apply freeBuf_keep | apply setRl_keep | apply allocBuf_keep | apply dropUp_keep | apply rlProtocol_keep | apply grantBeats_keep | apply Keep.updPipe | apply countFailed_keep | simp only [KeepF.pair] | apply KeepS.snd | intro _ | split)

theorem execPipelineEntry_keep {r : State} {s : State} (h : Keep r s) :
    KeepR r (execPipelineEntry s) := by
  unfold execPipelineEntry
  with_reducible repeat' (first | assumption | apply pipelineEntry_keep | apply KeepR.next)

theorem execFrameEnters_keep {r : State} {s : State} (h : Keep r s) :
    KeepR r (execFrameEnters s) := by
  unfold execFrameEnters
  with_reducible repeat' (first | assumption | apply frameEnters_keep | apply KeepR.next)

theorem execParse_keep {r : State} {s : State} (h : Keep r s) :
    KeepR r (execParse s) := by
  unfold execParse
  with_reducible repeat' (first | assumption | apply KeepR.next | apply clocked_keep | apply parseNext_keep | intro _ | split | dsimp only)

theorem execFlowReadReturn_keep {r : State} {tag : Nat} {beats : List Beat} {s : State} (h : Keep r s) :
    KeepR r (execFlowReadReturn tag beats s) := by
  unfold execFlowReadReturn
  with_reducible repeat' (first | assumption | apply flowReadReturn_keep | apply KeepR.next)

theorem execUpFrame_keep {r : State} {l : Nat} {md : Bytes} {data : Bytes} {framed : Bool} {s : State} (h : Keep r s) :
    KeepR r (execUpFrame l md data framed s) := by
  unfold execUpFrame
  with_reducible repeat' (first | assumption | apply upFrameIn_keep | apply KeepR.next)

/-! ## Faults -/

theorem faultEvent_keep {r : State} {kind : Nat} {seq : Nat} {p : Place} {s : State} (h : Keep r s) :
    Keep r (faultEvent kind seq p s) := by
  unfold faultEvent
  with_reducible repeat' (first | assumption | apply Keep.ite | refine Keep.updRes ?_ (fun _ => rfl) | apply raise0_keep | intro _)

theorem logFault_keep {r : State} {kind : Nat} {p : Place} {info : Nat} {s : State} (h : Keep r s) :
    Keep r (logFault kind p info s) := by
  unfold logFault
  with_reducible repeat' (first | assumption | apply Keep.ite | apply bump_keep | refine Keep.updRes ?_ (fun _ => rfl) | apply faultEvent_keep | intro _)

theorem appendRecord_keep {r : State} {e : Nat} {s : State} (h : Keep r s) : Keep r (appendRecord e s) := by
  unfold appendRecord
  split
  · exact setService_keep h
  · rename_i hl
    have h1 := record_append_keep (e := e) h hl
    dsimp only
    split
    · exact setService_keep h1
    · exact h1

theorem driveReq_keep {r : State} {k : Nat} {s : State} (h : Keep r s) :
    Keep r (driveReq k s) := by
  unfold driveReq
  with_reducible repeat' (first | assumption | apply Keep.updPwr)

theorem driveRet_keep {r : State} {t : Nat} {s : State} (h : Keep r s) :
    Keep r (driveRet t s) := by
  unfold driveRet
  with_reducible repeat' (first | assumption | apply Keep.updPwr)

theorem driveClk_keep {r : State} {s : State} (h : Keep r s) :
    Keep r (driveClk s) := by
  unfold driveClk
  with_reducible repeat' (first | assumption | apply Keep.updPwr)

theorem judgeHs_keep {r : State} {s : State} (h : Keep r s) :
    Keep r (judgeHs s) := by
  unfold judgeHs
  with_reducible repeat' (first | assumption | apply setService_keep)

theorem driveReqs_keep {r : State} {s : State} (h : Keep r s) :
    Keep r (driveReqs s) := by
  unfold driveReqs
  with_reducible repeat' (first | assumption | apply driveClk_keep | apply driveReq_keep | apply driveRet_keep | apply judgeHs_keep | apply Keep.foldl | intro _ | split | dsimp only)

theorem drawBytes_keep {r : State} {a : Nat} {s : State} (h : Keep r s) :
    KeepS r (drawBytes a s) := by
  induction a generalizing s with
  | zero =>
    simp only [drawBytes]
    exact h
  | succ n ih =>
    simp only [drawBytes]
    with_reducible repeat' (first | assumption | apply ih | apply draw_keep | simp only [KeepS.pair] | apply KeepS.snd)

/-! ## Engine -/

theorem setMode_keep {r : State} {e : Nat} {m : EngMode} {s : State} (h : Keep r s) :
    Keep r (setMode e m s) := by
  unfold setMode
  with_reducible repeat' (first | assumption | refine setEng_keep' ?_ (fun _ => ⟨rfl, rfl⟩) | apply driveReqs_keep | apply raise0_keep)

theorem progStart_keep {r : State} {p : Nat} {s : State} (h : Keep r s) :
    Keep r (progStart p s) := by
  unfold progStart
  with_reducible repeat' (first | assumption | apply Keep.ite | refine Keep.updEng' ?_ (fun _ => rfl) | simp only [KeepF.pair] | intro _)

theorem progEnd_keep {r : State} {p : Nat} {s : State} (h : Keep r s) :
    Keep r (progEnd p s) := by
  unfold progEnd
  with_reducible repeat' (first | assumption | apply Keep.ite | refine Keep.updEng' ?_ (fun _ => rfl) | simp only [KeepF.pair] | intro _)

theorem startThread_keep {r : State} {e : Nat} {t : Nat} {f : PFrame} {hold : Hold} {reason : Nat} {slot : Nat} {prog : Nat} {entry : Option Nat} {s : State} (h : Keep r s) :
    Keep r (startThread e t f hold reason slot prog entry s) := by
  unfold startThread
  with_reducible repeat' (first | assumption | apply setThr_keep | apply draw_keep | apply progStart_keep | simp only [KeepF.pair] | simp only [KeepS.pair] | apply KeepS.snd | split)

theorem endThread_keep {r : State} {e : Nat} {t : Nat} {s : State} (h : Keep r s) :
    Keep r (endThread e t s) := by
  unfold endThread
  with_reducible repeat' (first | assumption | apply Keep.ite | apply progEnd_keep | apply setThr_keep | intro _ | split)

theorem drainOne_keep {r : State} {e : Nat} {s : State} (h : Keep r s) :
    Keep r (drainOne e s) := by
  unfold drainOne
  with_reducible repeat' (first | assumption | apply Keep.ite | apply setMode_keep | intro _)

theorem policyStart_keep {r : State} {p : Nat} {s : State} (h : Keep r s) :
    Keep r (policyStart p s) := by
  unfold policyStart
  with_reducible repeat' (first | assumption | apply Keep.ite | refine setEng_keep' ?_ (fun _ => ⟨rfl, rfl⟩) | apply setMode_keep | apply drainOne_keep | refine Keep.updEng' ?_ (fun _ => rfl) | apply Keep.foldl | simp only [KeepF.pair] | intro _ | split)

theorem settlePolicy_keep {r : State} {a : Nat} {s : State} (h : Keep r s) :
    Keep r (settlePolicy a s) := by
  induction a generalizing s with
  | zero =>
    simp only [settlePolicy]
    exact h
  | succ n ih =>
    simp only [settlePolicy]
    with_reducible repeat' (first | assumption | apply ih | apply Keep.ite | apply policyStart_keep | apply finishRunning_keep | intro _ | split)

theorem settleDrain_keep {r : State} {e : Nat} {s : State} (h : Keep r s) :
    Keep r (settleDrain e s) := by
  unfold settleDrain
  with_reducible repeat' (first | assumption | apply drainOne_keep | apply settlePolicy_keep)

theorem dispatchNext_keep {r : State} {s : State} (h : Keep r s) :
    Keep r (dispatchNext s) := by
  unfold dispatchNext
  with_reducible repeat' (first | assumption | apply Keep.ite | apply pinBuf_keep | apply bump_keep | apply pmuEvent_keep | apply slotDrop_keep | apply startThread_keep | apply Keep.updPipe | apply setSlot_keep | apply pumpOut_keep | simp only [KeepF.pair] | intro _ | split)

theorem freeStaged_keep {r : State} {i : Nat} {s : State} (h : Keep r s) :
    Keep r (freeStaged i s) := by
  unfold freeStaged
  with_reducible repeat' (first | assumption | apply freeBuf_keep | apply setSlot_keep | apply Keep.foldl | simp only [KeepF.pair] | intro _ | split)

theorem dropThreadXfers_keep {r : State} {e : Nat} {t : Nat} {s : State} (h : Keep r s) :
    Keep r (dropThreadXfers e t s) := by
  unfold dropThreadXfers
  with_reducible repeat' (first | assumption | apply dropXfers_keep)

theorem dropHeld_keep {r : State} {e : Nat} {t : Nat} {k : Nat} {s : State} (h : Keep r s) :
    Keep r (dropHeld e t k s) := by
  unfold dropHeld
  with_reducible repeat' (first | assumption | apply bump_keep | apply releaseOwner_keep | apply abandonAll_keep | apply slotDrop_keep | apply unpinBuf_keep | simp only [KeepF.pair] | split)

theorem threadFault_keep {r : State} {e : Nat} {t : Nat} {cause : Nat} {s : State} (h : Keep r s) :
    Keep r (threadFault e t cause s) := by
  unfold threadFault
  with_reducible repeat' (first | assumption | apply Keep.ite | refine setEng_keep' ?_ (fun _ => ⟨rfl, rfl⟩) | apply endThread_keep | apply pmuEvent_keep | apply dropHeld_keep | apply raise0_keep | apply settleDrain_keep | apply dropThreadXfers_keep | apply freeStaged_keep | intro _ | split)

theorem overtime_keep {r : State} {e : Nat} {t : Nat} {s : State} (h : Keep r s) :
    Keep r (overtime e t s) := by
  unfold overtime
  with_reducible repeat' (first | assumption | apply endThread_keep | apply pmuEvent_keep | apply dropHeld_keep | apply raise0_keep | apply settleDrain_keep | apply dropThreadXfers_keep)

theorem budgetExpire_keep {r : State} {e : Nat} {t : Nat} {s : State} (h : Keep r s) :
    Keep r (budgetExpire e t s) := by
  unfold budgetExpire
  with_reducible repeat' (first | assumption | apply Keep.ite | apply setThr_keep | apply overtime_keep | simp only [KeepF.pair] | intro _ | split)

theorem replaceOwner_keep {r : State} {h0x : Nat} {oseq : Nat} {ingress : Nat} {old : Nat} {wake : Bool} {dests : List (QKey × Nat)} {s : State} (h : Keep r s) :
    Keep r (replaceOwner h0x oseq ingress old wake dests s) := by
  unfold replaceOwner
  with_reducible repeat' (first | assumption | apply enqueueOne_keep | apply giveOwners_keep | apply releaseOwner_keep | apply Keep.updStore | apply Keep.foldl | apply KeepF.foldl | simp only [KeepF.pair] | apply KeepF.fst | (refine KeepF.elim (by assumption) ?_) | intro _ | split | dsimp only)

theorem redirect_keep {r : State} {h0x : Nat} {oseq : Nat} {ingress : Nat} {old : Nat} {wake : Bool} {data : Bytes} {dests : List (Nat × Nat)} {s : State} (h : Keep r s) :
    Keep r (redirect h0x oseq ingress old wake data dests s) := by
  unfold redirect
  with_reducible repeat' (first | assumption | apply countAt_keep | apply replaceOwner_keep | apply Keep.foldl | apply KeepS.foldl | apply KeepF.foldl | simp only [KeepF.pair] | apply KeepF.fst | (refine KeepF.elim (by assumption) ?_) | intro _ | split | dsimp only)

theorem popInq_keep {r : State} {k : QKey} {s : State} (h : Keep r s) :
    Keep r (popInq k s) := by
  unfold popInq
  with_reducible repeat' (first | assumption | apply setQ_keep | intro _ | split | dsimp only)

theorem dropInqHead_keep {r : State} {e : Nat} {h1x : Nat} {s : State} (h : Keep r s) :
    Keep r (dropInqHead e h1x s) := by
  unfold dropInqHead
  with_reducible repeat' (first | assumption | apply releaseOwner_keep | apply settleDrain_keep | intro _ | split | dsimp only)

theorem inqTake_keep {r : State} {e : Nat} {s : State} (h : Keep r s) :
    Keep r (inqTake e s) := by
  unfold inqTake
  with_reducible repeat' (first | assumption | apply Keep.ite | apply badHandle_keep | apply bump_keep | apply checkFail_keep | apply dropInqHead_keep | apply fetchPinned_keep | apply forgetRead_keep | apply pmuEvent_keep | apply popInq_keep | apply settleDrain_keep | apply startThread_keep | apply unpinBuf_keep | simp only [KeepS.pair] | apply KeepS.snd | (refine KeepS.elim (by assumption) ?_) | intro _ | split | dsimp only)

theorem onyxServe_keep {r : State} {s : State} (h : Keep r s) :
    Keep r (onyxServe s) := by
  unfold onyxServe
  with_reducible repeat' (first | assumption | apply Keep.ite | apply badHandle_keep | apply bump_keep | apply checkFail_keep | apply fetchPinned_keep | apply forgetRead_keep | apply popInq_keep | apply redirect_keep | apply releaseOwner_keep | apply unpinBuf_keep | simp only [KeepS.pair] | apply KeepS.snd | (refine KeepS.elim (by assumption) ?_) | intro _ | split | dsimp only)

theorem redispatchSlot_keep {r : State} {i : Nat} {s : State} (h : Keep r s) :
    Keep r (redispatchSlot i s) := by
  unfold redispatchSlot
  with_reducible repeat' (first | assumption | apply Keep.ite | apply slotDrop_keep | apply setSlot_keep | simp only [KeepF.pair] | intro _ | split)

theorem redispatchAll_keep {r : State} {e : Nat} {s : State} (h : Keep r s) :
    Keep r (redispatchAll e s) := by
  unfold redispatchAll
  with_reducible repeat' (first | assumption | apply Keep.ite | apply Keep.updPipe | apply redispatchSlot_keep | apply Keep.foldl | simp only [KeepF.pair] | intro _)

theorem takeFrom_keep {r : State} {e : Nat} {t : Nat} {s : State} (h : Keep r s) :
    Keep r (takeFrom e t s) := by
  unfold takeFrom
  with_reducible repeat' (first | assumption | apply setThr_keep | apply bump_keep | apply releaseOwner_keep | apply abandonAll_keep | apply freeStaged_keep | apply unpinBuf_keep | apply setSlot_keep | simp only [KeepF.pair] | split)

theorem dropInq_keep {r : State} {k : QKey} {who : Reader} {s : State} (h : Keep r s) :
    Keep r (dropInq k who s) := by
  unfold dropInq
  with_reducible repeat' (first | assumption | apply bump_keep | apply forgetRead_keep | apply releaseOwner_keep | apply setQ_keep | apply Keep.foldl | intro _ | split | dsimp only)

theorem moveService_keep {r : State} {e : Nat} {s : State} (h : Keep r s) :
    Keep r (moveService e s) := by
  unfold moveService
  with_reducible repeat' (first | assumption | apply Keep.ite | apply dropXfers_keep | refine setEng_keep' ?_ (fun _ => ⟨rfl, rfl⟩) | apply Keep.updFlow | intro _ | split | dsimp only)

theorem condemn_keep {r : State} {e : Nat} {cause : Nat} {s : State} (h : Keep r s) :
    Keep r (condemn e cause s) := by
  unfold condemn
  with_reducible repeat' (first | assumption | apply Keep.ite | apply bump_keep | apply dropInq_keep | apply logFault_keep | apply moveService_keep | refine setEng_keep' ?_ (fun _ => ⟨rfl, rfl⟩) | apply setMode_keep | apply takeFrom_keep | refine Keep.updEng' ?_ (fun _ => rfl) | apply Keep.foldl | intro _ | split | dsimp only)

theorem watchdog_keep {r : State} {e : Nat} {cause : Nat} {s : State} (h : Keep r s) :
    Keep r (watchdog e cause s) := by
  unfold watchdog
  with_reducible repeat' (first | assumption | apply Keep.ite | apply condemn_keep | intro _)

theorem loadImages_keep {r : State} {e : Nat} {s : State} (h : Keep r s) :
    Keep r (loadImages e s) := by
  unfold loadImages
  repeat' (first | with_reducible assumption | refine setEng_keep ?_ (fun g hg => ⟨imemImage_wf, dmemImage_wf⟩))

theorem reloadBase_keep {r : State} {e : Nat} {s : State} (h : Keep r s) :
    Keep r (reloadBase e s) := by
  unfold reloadBase
  exact setEng_keep h fun g hg => ⟨Mem.wrN_wf hg.1, Mem.wrN_wf hg.2⟩

theorem idleThreads_keep {r : State} {e : Nat} {s : State} (h : Keep r s) :
    Keep r (idleThreads e s) := by
  unfold idleThreads
  with_reducible repeat' (first | assumption | apply dropThreadXfers_keep | apply endThread_keep | refine setEng_keep' ?_ (fun _ => ⟨rfl, rfl⟩) | apply Keep.updFlow | apply Keep.updPipe | apply Keep.foldl | intro _ | split | dsimp only)

theorem judgeFailed_keep {r : State} {s : State} (h : Keep r s) :
    Keep r (judgeFailed s) := by
  unfold judgeFailed
  with_reducible repeat' (first | assumption | apply setService_keep)

theorem freshEpochs_keep {r : State} {e : Nat} {s : State} (h : Keep r s) :
    Keep r (freshEpochs e s) := by
  unfold freshEpochs
  with_reducible repeat' (first | assumption | apply setThr_keep | apply Keep.foldl | intro _ | split)

theorem holdReset_keep {r : State} {s : State} (h : Keep r s) :
    Keep r (holdReset s) := by
  unfold holdReset
  with_reducible repeat' (first | assumption | apply Keep.ite | refine setEng_keep' ?_ (fun _ => ⟨rfl, rfl⟩) | apply Keep.foldl | intro _ | split)

theorem engReturn_keep {r : State} {e : Nat} {s : State} (h : Keep r s) :
    Keep r (engReturn e s) := by
  unfold engReturn
  with_reducible repeat' (first | assumption | apply Keep.ite | apply freshEpochs_keep | apply idleThreads_keep | apply judgeFailed_keep | apply loadImages_keep | apply logFault_keep | refine setEng_keep' ?_ (fun _ => ⟨rfl, rfl⟩) | apply setMode_keep | refine Keep.updEng' ?_ (fun _ => rfl) | intro _ | split)

theorem engFail_keep {r : State} {e : Nat} {s : State} (h : Keep r s) :
    Keep r (engFail e s) := by
  unfold engFail
  with_reducible repeat' (first | assumption | apply logFault_keep | apply idleThreads_keep | refine setEng_keep' ?_ (fun _ => ⟨rfl, rfl⟩) | apply setMode_keep | apply judgeFailed_keep)

/-! ## FlowSvc -/

theorem setJobAt_keep {r : State} {i : Nat} {f : SvcJob → SvcJob} {s : State} (h : Keep r s) :
    Keep r (setJobAt i f s) := by
  unfold setJobAt
  with_reducible repeat' (first | assumption | apply Keep.updFlow)

theorem dropJob_keep {r : State} {i : Nat} {s : State} (h : Keep r s) :
    Keep r (dropJob i s) := by
  unfold dropJob
  with_reducible repeat' (first | assumption | apply Keep.updFlow)

theorem endJob_keep {r : State} {i : Nat} {j : SvcJob} {r2x : Reply} {s : State} (h : Keep r s) :
    Keep r (endJob i j r2x s) := by
  unfold endJob
  with_reducible repeat' (first | assumption | apply finishRunning_keep | apply dropJob_keep | apply endClaim_keep | apply Keep.foldl | simp only [KeepF.pair] | intro _ | split)

theorem takeFlop_keep {r : State} {s : State} (h : Keep r s) :
    KeepS r (takeFlop s) := by
  unfold takeFlop
  with_reducible repeat' (first | assumption | apply Keep.updFlow | simp only [KeepS.pair] | split)

theorem askNew_keep {r : State} {key : Bytes} {s : State} (h : Keep r s) :
    Keep r (askNew key s) := by
  unfold askNew
  with_reducible repeat' (first | assumption | apply startClaimNew_keep)

theorem askEntry_keep {r : State} {index : Nat} {expect : Option Nat} {s : State} (h : Keep r s) :
    Keep r (askEntry index expect s) := by
  unfold askEntry
  with_reducible repeat' (first | assumption | apply startClaimEntry_keep)

theorem writeSlot_keep {r : State} {c : Claim} {image : Bytes} {s : State} (h : Keep r s) :
    KeepS r (writeSlot c image s) := by
  unfold writeSlot
  with_reducible repeat' (first | assumption | apply KeepS.ite | apply Keep.ite | apply bump_keep | apply lines_keep | apply noteCtl_keep | apply startXfer_keep | apply violation_keep | simp only [KeepS.pair] | apply KeepS.snd | (refine KeepS.elim (by assumption) ?_) | intro _ | split | dsimp only)

theorem writeSlots_keep {r : State} {i : Nat} {l : List (Claim × Bytes)} {s : State} (h : Keep r s) :
    Keep r (writeSlots i l s) := by
  unfold writeSlots
  with_reducible repeat' (first | assumption | apply writeSlot_keep | apply setJobAt_keep | apply Keep.foldl | simp only [KeepF.pair] | apply KeepS.snd | intro _)

theorem publishSlots_keep {r : State} {l : List (Claim × Bytes)} {s : State} (h : Keep r s) :
    Keep r (publishSlots l s) := by
  unfold publishSlots
  with_reducible repeat' (first | assumption | apply publishClaim_keep | apply Keep.foldl | apply KeepS.snd | intro _)

theorem installWrite_keep {r : State} {i : Nat} {j : SvcJob} {s : State} (h : Keep r s) :
    Keep r (installWrite i j s) := by
  unfold installWrite
  with_reducible repeat' (first | assumption | apply writeSlots_keep)

theorem installGot_keep {r : State} {i : Nat} {second : Bool} {c : Nat} {pair : Bool} {s : State} (h : Keep r s) :
    Keep r (installGot i second c pair s) := by
  unfold installGot
  with_reducible repeat' (first | assumption | apply Keep.ite | apply installWrite_keep | apply setJobAt_keep | intro _ | split)

theorem delNext_keep {r : State} {i : Nat} {j : SvcJob} {s : State} (h : Keep r s) :
    Keep r (delNext i j s) := by
  unfold delNext
  with_reducible repeat' (first | assumption | apply Keep.ite | apply endJob_keep | apply setJobAt_keep | intro _ | split)

theorem delSkip_keep {r : State} {i : Nat} {j : SvcJob} {s : State} (h : Keep r s) :
    Keep r (delSkip i j s) := by
  unfold delSkip
  with_reducible repeat' (first | assumption | apply delNext_keep | apply abandonClaim_keep | apply Keep.foldl | apply KeepS.snd | intro _)

theorem delWrite_keep {r : State} {i : Nat} {j : SvcJob} {s : State} (h : Keep r s) :
    Keep r (delWrite i j s) := by
  unfold delWrite
  with_reducible repeat' (first | assumption | apply writeSlots_keep)

theorem delGot_keep {r : State} {i : Nat} {j : SvcJob} {m : Bytes} {s : State} (h : Keep r s) :
    Keep r (delGot i j m s) := by
  unfold delGot
  with_reducible repeat' (first | assumption | apply Keep.ite | apply lines_keep | apply delWrite_keep | apply violation_keep | apply startXfer_keep | apply setJobAt_keep | simp only [KeepF.pair] | intro _ | split)

theorem delMissed_keep {r : State} {i : Nat} {j : SvcJob} {r2x : FlopRes} {s : State} (h : Keep r s) :
    KeepF r (delMissed i j r2x s) := by
  unfold delMissed
  with_reducible repeat' (first | assumption | apply KeepF.ite | apply delWrite_keep | apply endJob_keep | apply setJobAt_keep | apply delSkip_keep | simp only [KeepF.pair] | intro _ | split)

theorem delDone_keep {r : State} {i : Nat} {j : SvcJob} {s : State} (h : Keep r s) :
    Keep r (delDone i j s) := by
  unfold delDone
  with_reducible repeat' (first | assumption | apply bump_keep | apply Keep.updFlow | apply delNext_keep | apply setJobAt_keep | apply publishSlots_keep | simp only [KeepF.pair] | split)

theorem findDone_keep {r : State} {d : Option Bytes} {i : Nat} {j : SvcJob} {home : Bool} {s : State} (h : Keep r s) :
    Keep r (findDone d i j home s) := by
  unfold findDone
  with_reducible repeat' (first | assumption | apply Keep.ite | apply delWrite_keep | apply setJobAt_keep | intro _ | split)

theorem svcReadErr_keep {r : State} {s : State} (h : Keep r s) :
    Keep r (svcReadErr s) := by
  unfold svcReadErr
  with_reducible repeat' (first | assumption | apply bump_keep | intro _ | split | dsimp only)

theorem svcBucket_keep {r : State} {key : Nat} {b : Nat} {s : State} (h : Keep r s) :
    KeepS r (svcBucket key b s) := by
  unfold svcBucket
  with_reducible repeat' (first | assumption | apply KeepS.ite | apply Keep.ite | apply dropXfer_keep | apply lines_keep | apply startXfer_keep | apply svcReadErr_keep | apply violation_keep | simp only [KeepS.pair] | apply KeepS.snd | (refine KeepS.elim (by assumption) ?_) | intro _ | split | dsimp only)

theorem svcStep_keep {r : State} {s : State} (h : Keep r s) :
    KeepF r (svcStep s) := by
  unfold svcStep
  with_reducible repeat' (first | assumption | apply KeepF.ite | apply Keep.ite | apply askEntry_keep | apply askNew_keep | apply bump_keep | apply delDone_keep | apply delGot_keep | apply delMissed_keep | apply delNext_keep | apply delSkip_keep | apply dropXfer_keep | apply endJob_keep | apply findDone_keep | apply installGot_keep | apply publishSlots_keep | apply setJobAt_keep | apply svcBucket_keep | apply takeFlop_keep | simp only [KeepF.pair] | apply KeepF.fst | (refine KeepF.elim (by assumption) ?_) | simp only [KeepS.pair] | apply KeepS.snd | (refine KeepS.elim (by assumption) ?_) | intro _ | split)

theorem clearOverflow_keep {r : State} {view : List Bucket} {b : Nat} {s : State} (h : Keep r s) :
    Keep r (clearOverflow view b s) := by
  unfold clearOverflow
  with_reducible repeat' (first | assumption | apply Keep.ite | apply bump_keep | apply lines_keep | apply noteCtl_keep | apply startXfer_keep | apply updWay_keep | apply violation_keep | intro _ | split | dsimp only)

theorem scanEnd_keep {r : State} {c : Scan} {s : State} (h : Keep r s) :
    Keep r (scanEnd c s) := by
  unfold scanEnd
  with_reducible repeat' (first | assumption | apply Keep.ite | apply clearOverflow_keep | apply setJobAt_keep | apply tickNow_keep | apply Keep.updFlow | simp only [KeepS.pair] | apply KeepS.snd | (refine KeepS.elim (by assumption) ?_) | intro _ | split)

theorem scanGo_keep {r : State} {a : Nat} {s : State} (h : Keep r s) :
    Keep r (scanGo a s) := by
  induction a generalizing s with
  | zero =>
    simp only [scanGo]
    exact h
  | succ n ih =>
    simp only [scanGo]
    with_reducible repeat' (first | assumption | apply ih | apply scanEnd_keep | apply svcBucket_keep | apply Keep.updFlow | simp only [KeepS.pair] | apply KeepS.snd | (refine KeepS.elim (by assumption) ?_) | intro _ | split | dsimp only)

theorem passEnd_keep {r : State} {s : State} (h : Keep r s) :
    Keep r (passEnd s) := by
  unfold passEnd
  with_reducible repeat' (first | assumption | apply Keep.ite | apply Keep.updFlow | apply raise0_keep | intro _)

theorem svcRun_keep {r : State} {a : Nat} {s : State} (h : Keep r s) :
    Keep r (svcRun a s) := by
  induction a generalizing s with
  | zero =>
    simp only [svcRun]
    exact h
  | succ n ih =>
    simp only [svcRun]
    with_reducible repeat' (first | assumption | apply ih | apply Keep.ite | apply svcStep_keep | apply KeepF.fst | intro _)

theorem svcPump_keep {r : State} {s : State} (h : Keep r s) :
    Keep r (svcPump s) := by
  unfold svcPump
  with_reducible repeat' (first | assumption | apply Keep.ite | apply passEnd_keep | apply scanGo_keep | apply svcRun_keep | intro _ | split | dsimp only)

theorem agingPair_keep {r : State} {s : State} (h : Keep r s) :
    Keep r (agingPair s) := by
  unfold agingPair
  with_reducible repeat' (first | assumption | apply Keep.ite | apply svcPump_keep | apply Keep.updFlow | intro _ | split)

theorem execAgingPair_keep {r : State} {s : State} (h : Keep r s) :
    KeepR r (execAgingPair s) := by
  unfold execAgingPair
  with_reducible repeat' (first | assumption | apply KeepR.next | apply agingPair_keep | apply clocked_keep | intro _ | split | dsimp only)

/-! ## FlowCmd -/

theorem flowPolicerCmd_keep {r : State} {q : Req} {s : State} (h : Keep r s) :
    KeepF r (flowPolicerCmd q s) := by
  unfold flowPolicerCmd
  with_reducible repeat' (first | assumption | apply Keep.updFlow | simp only [KeepF.pair] | split)

theorem svcCommand_keep {r : State} {code : Nat} {args : Bytes → State → Option Reply} {op : Bytes → SvcOp} {s : State} (h : Keep r s) :
    Keep r (svcCommand code args op s) := by
  unfold svcCommand
  with_reducible repeat' (first | assumption | apply svcPump_keep | apply Keep.updFlow | apply longRunning_keep | simp only [KeepF.pair] | intro _ | split)

theorem flowInstallRun_keep {r : State} {s : State} (h : Keep r s) :
    Keep r (flowInstallRun s) := by
  unfold flowInstallRun
  with_reducible repeat' (first | assumption | apply svcCommand_keep)

theorem flowDeleteRun_keep {r : State} {s : State} (h : Keep r s) :
    Keep r (flowDeleteRun s) := by
  unfold flowDeleteRun
  with_reducible repeat' (first | assumption | apply svcCommand_keep)

theorem flowFlushRun_keep {r : State} {s : State} (h : Keep r s) :
    Keep r (flowFlushRun s) := by
  unfold flowFlushRun
  with_reducible repeat' (first | assumption | apply svcCommand_keep)

theorem flowReadRun_keep {r : State} {s : State} (h : Keep r s) :
    Keep r (flowReadRun s) := by
  unfold flowReadRun
  with_reducible repeat' (first | assumption | apply Keep.ite | apply finishTaken_keep | apply lines_keep | apply startXfer_keep | apply svcReadErr_keep | apply violation_keep | intro _ | split | dsimp only)

theorem flowReadDone_keep {r : State} {a : Xfer} {mb : Nat} {s : State} (h : Keep r s) :
    Keep r (flowReadDone a mb s) := by
  unfold flowReadDone
  with_reducible repeat' (first | assumption | apply Keep.ite | apply finishTaken_keep | apply svcReadErr_keep | intro _ | split | dsimp only)

theorem flowAgeCmd_keep {r : State} {q : Req} {s : State} (h : Keep r s) :
    KeepF r (flowAgeCmd q s) := by
  unfold flowAgeCmd
  with_reducible repeat' (first | assumption | apply KeepF.ite | apply Keep.updFlow | simp only [KeepF.pair] | intro _ | split)

theorem flowTableCmd_keep {r : State} {q : Req} {s : State} (h : Keep r s) :
    KeepF r (flowTableCmd q s) := by
  unfold flowTableCmd
  with_reducible repeat' (first | assumption | apply KeepF.ite | apply Keep.updFlow | simp only [KeepF.pair] | intro _)

theorem flowCountersCmd_keep {r : State} {q : Req} {s : State} (h : Keep r s) :
    KeepF r (flowCountersCmd q s) := by
  unfold flowCountersCmd
  with_reducible repeat' (first | assumption | apply KeepF.ite | apply readCounters_keep | simp only [KeepF.pair] | apply KeepS.snd | intro _)

theorem execFlowPolicerSet_keep {r : State} {s : State} (h : Keep r s) :
    KeepR r (execFlowPolicerSet s) := by
  unfold execFlowPolicerSet
  with_reducible repeat' (first | assumption | apply flowPolicerCmd_keep | apply immediate_keep | apply KeepR.next)

theorem execFlowInstall_keep {r : State} {s : State} (h : Keep r s) :
    KeepR r (execFlowInstall s) := by
  unfold execFlowInstall
  with_reducible repeat' (first | assumption | apply flowInstallRun_keep | apply KeepR.next)

theorem execFlowDelete_keep {r : State} {s : State} (h : Keep r s) :
    KeepR r (execFlowDelete s) := by
  unfold execFlowDelete
  with_reducible repeat' (first | assumption | apply flowDeleteRun_keep | apply KeepR.next)

theorem execFlowRead_keep {r : State} {s : State} (h : Keep r s) :
    KeepR r (execFlowRead s) := by
  unfold execFlowRead
  with_reducible repeat' (first | assumption | apply flowReadRun_keep | apply KeepR.next)

theorem execFlowAgeSet_keep {r : State} {s : State} (h : Keep r s) :
    KeepR r (execFlowAgeSet s) := by
  unfold execFlowAgeSet
  with_reducible repeat' (first | assumption | apply flowAgeCmd_keep | apply immediate_keep | apply KeepR.next)

theorem execFlowTableSet_keep {r : State} {s : State} (h : Keep r s) :
    KeepR r (execFlowTableSet s) := by
  unfold execFlowTableSet
  with_reducible repeat' (first | assumption | apply flowTableCmd_keep | apply immediate_keep | apply KeepR.next)

theorem execFlowFlush_keep {r : State} {s : State} (h : Keep r s) :
    KeepR r (execFlowFlush s) := by
  unfold execFlowFlush
  with_reducible repeat' (first | assumption | apply flowFlushRun_keep | apply KeepR.next)

theorem execFlowCountersGet_keep {r : State} {s : State} (h : Keep r s) :
    KeepR r (execFlowCountersGet s) := by
  unfold execFlowCountersGet
  with_reducible repeat' (first | assumption | apply flowCountersCmd_keep | apply immediate_keep | apply KeepR.next)

/-! ## ClsCmd -/

theorem dropRetired_keep {r : State} {k : QKey} {s : State} {e : QE} (h : Keep r s) :
    Keep r (dropRetired k s e) := by
  unfold dropRetired
  with_reducible repeat' (first | assumption | apply bump_keep | apply releaseOwner_keep)

theorem leaveRound_keep {r : State} {k : QKey} {s : State} (h : Keep r s) :
    Keep r (leaveRound k s) := by
  unfold leaveRound
  with_reducible repeat' (first | assumption | apply Keep.ite | apply setRound_keep | apply setAcRound_keep | apply chLeave_keep | apply setChSch_keep | simp only [KeepF.pair] | intro _ | split)

theorem purgeQueue_keep {r : State} {g : Nat} {s : State} {k : QKey} (h : Keep r s) :
    Keep r (purgeQueue g s k) := by
  unfold purgeQueue
  with_reducible repeat' (first | assumption | apply Keep.ite | apply dropRetired_keep | apply leaveRound_keep | apply setQ_keep | apply Keep.foldl | intro _)

theorem purgeNom_keep {r : State} {g : Nat} {n : Nat} {s : State} (h : Keep r s) :
    Keep r (purgeNom g n s) := by
  unfold purgeNom
  with_reducible repeat' (first | assumption | apply Keep.ite | apply clearNom_keep | apply dropRetired_keep | apply Keep.foldl | intro _ | split)

theorem purgeGen_keep {r : State} {g : Nat} {s : State} (h : Keep r s) :
    Keep r (purgeGen g s) := by
  unfold purgeGen
  with_reducible repeat' (first | assumption | apply purgeQueue_keep | apply purgeNom_keep | apply Keep.foldl | intro _)

theorem genRetireCmd_keep {r : State} {q : Req} {s : State} (h : Keep r s) :
    KeepF r (genRetireCmd q s) := by
  unfold genRetireCmd
  with_reducible repeat' (first | assumption | apply KeepF.ite | apply purgeGen_keep | apply updGen_keep | simp only [KeepF.pair] | intro _ | split)

theorem genSlow_keep {r : State} {g : Nat} {s : State} (h : Keep r s) :
    Keep r (genSlow g s) := by
  unfold genSlow
  with_reducible repeat' (first | assumption | apply Keep.ite | apply raiseAll_keep | intro _ | split)

theorem genSweepEnd_keep {r : State} {s : State} (h : Keep r s) :
    Keep r (genSweepEnd s) := by
  unfold genSweepEnd
  with_reducible repeat' (first | assumption | apply Keep.ite | apply endSweep_keep | intro _)

theorem ruleReadCmd_keep {r : State} {q : Req} {s : State} (h : Keep r s) :
    KeepF r (ruleReadCmd q s) := by
  unfold ruleReadCmd
  with_reducible repeat' (first | assumption | apply Keep.ite | apply Keep.updCls | simp only [KeepF.pair] | intro _ | split)

theorem clsCountersCmd_keep {r : State} {q : Req} {s : State} (h : Keep r s) :
    KeepF r (clsCountersCmd q s) := by
  unfold clsCountersCmd
  with_reducible repeat' (first | assumption | apply KeepF.ite | apply readCounters_keep | simp only [KeepF.pair] | apply KeepS.snd | intro _)

theorem execGenSweepEnd_keep {r : State} {s : State} (h : Keep r s) :
    KeepR r (execGenSweepEnd s) := by
  unfold execGenSweepEnd
  with_reducible repeat' (first | assumption | apply genSweepEnd_keep | apply KeepR.next)

theorem execClsGenSlow_keep {r : State} {g : Nat} {s : State} (h : Keep r s) :
    KeepR r (execClsGenSlow g s) := by
  unfold execClsGenSlow
  with_reducible repeat' (first | assumption | apply genSlow_keep | apply KeepR.next)

theorem execClsGenStatus_keep {r : State} {s : State} (h : Keep r s) :
    KeepR r (execClsGenStatus s) := by
  unfold execClsGenStatus
  with_reducible repeat' (first | assumption | apply immediate_keep | simp only [KeepF.pair] | apply KeepR.next | intro _)

theorem execClsGenRetire_keep {r : State} {s : State} (h : Keep r s) :
    KeepR r (execClsGenRetire s) := by
  unfold execClsGenRetire
  with_reducible repeat' (first | assumption | apply genRetireCmd_keep | apply immediate_keep | apply KeepR.next)

theorem execClsRuleRead_keep {r : State} {s : State} (h : Keep r s) :
    KeepR r (execClsRuleRead s) := by
  unfold execClsRuleRead
  with_reducible repeat' (first | assumption | apply ruleReadCmd_keep | apply immediate_keep | apply KeepR.next)

theorem execClsCountersGet_keep {r : State} {s : State} (h : Keep r s) :
    KeepR r (execClsCountersGet s) := by
  unfold execClsCountersGet
  with_reducible repeat' (first | assumption | apply clsCountersCmd_keep | apply immediate_keep | apply KeepR.next)

/-! ## EngineIsa -/

theorem isa_keep {r : State} {e : Nat} {t : Nat} {f : State → State} {s : State} (hf : ∀ t, Keep r t → Keep r (f t)) (h : Keep r s) :
    Keep r (isa e t f s) := by
  unfold isa
  with_reducible repeat' (first | assumption | apply hf | apply Keep.ite | intro _)

theorem retireTo_keep {r : State} {e : Nat} {t : Nat} {pc : Nat} {s : State} (h : Keep r s) :
    Keep r (retireTo e t pc s) := by
  unfold retireTo
  with_reducible repeat' (first | assumption | apply setThr_keep | apply pmuEvent_keep)

theorem retire_keep {r : State} {e : Nat} {t : Nat} {s : State} (h : Keep r s) :
    Keep r (retire e t s) := by
  unfold retire
  with_reducible repeat' (first | assumption | apply retireTo_keep)

theorem setW_keep {r : State} {e : Nat} {t : Nat} {r2x : Reg} {v : Word} {s : State} (h : Keep r s) :
    Keep r (setW e t r2x v s) := by
  unfold setW
  with_reducible repeat' (first | assumption | apply setThr_keep)

theorem retireW_keep {r : State} {e : Nat} {t : Nat} {rd : Reg} {v : Word} {s : State} (h : Keep r s) :
    Keep r (retireW e t rd v s) := by
  unfold retireW
  with_reducible repeat' (first | assumption | apply retire_keep | apply setW_keep)

theorem retireFree_keep {r : State} {e : Nat} {t : Nat} {rd : Reg} {s : State} (h : Keep r s) :
    Keep r (retireFree e t rd s) := by
  unfold retireFree
  with_reducible repeat' (first | assumption | apply retireW_keep | apply draw_keep | apply KeepS.snd)

theorem intOp_keep {r : State} {f : Word → Word → Word} {e : Nat} {t : Nat} {rd : Reg} {ra : Reg} {b : Src} {s : State} (h : Keep r s) :
    Keep r (intOp f e t rd ra b s) := by
  unfold intOp
  with_reducible repeat' (first | assumption | apply retireW_keep | apply isa_keep | intro _)

theorem shiftOp_keep {r : State} {f : Word → Nat → Word} {e : Nat} {t : Nat} {rd : Reg} {ra : Reg} {b : Src} {s : State} (h : Keep r s) :
    Keep r (shiftOp f e t rd ra b s) := by
  unfold shiftOp
  with_reducible repeat' (first | assumption | apply Keep.ite | apply retireFree_keep | apply retireW_keep | apply isa_keep | simp only [KeepF.pair] | intro _)

theorem execPlus_keep {r : State} {e : Nat} {t : Nat} {rd : Reg} {ra : Reg} {b : Src} {s : State} (h : Keep r s) :
    KeepR r (execPlus e t rd ra b s) := by
  unfold execPlus
  with_reducible repeat' (first | assumption | apply intOp_keep | apply KeepR.next)

theorem execMinus_keep {r : State} {e : Nat} {t : Nat} {rd : Reg} {ra : Reg} {b : Src} {s : State} (h : Keep r s) :
    KeepR r (execMinus e t rd ra b s) := by
  unfold execMinus
  with_reducible repeat' (first | assumption | apply intOp_keep | apply KeepR.next)

theorem execBand_keep {r : State} {e : Nat} {t : Nat} {rd : Reg} {ra : Reg} {b : Src} {s : State} (h : Keep r s) :
    KeepR r (execBand e t rd ra b s) := by
  unfold execBand
  with_reducible repeat' (first | assumption | apply intOp_keep | apply KeepR.next)

theorem execBor_keep {r : State} {e : Nat} {t : Nat} {rd : Reg} {ra : Reg} {b : Src} {s : State} (h : Keep r s) :
    KeepR r (execBor e t rd ra b s) := by
  unfold execBor
  with_reducible repeat' (first | assumption | apply intOp_keep | apply KeepR.next)

theorem execBxor_keep {r : State} {e : Nat} {t : Nat} {rd : Reg} {ra : Reg} {b : Src} {s : State} (h : Keep r s) :
    KeepR r (execBxor e t rd ra b s) := by
  unfold execBxor
  with_reducible repeat' (first | assumption | apply intOp_keep | apply KeepR.next)

theorem execShl_keep {r : State} {e : Nat} {t : Nat} {rd : Reg} {ra : Reg} {b : Src} {s : State} (h : Keep r s) :
    KeepR r (execShl e t rd ra b s) := by
  unfold execShl
  with_reducible repeat' (first | assumption | apply shiftOp_keep | apply KeepR.next)

theorem execShr_keep {r : State} {e : Nat} {t : Nat} {rd : Reg} {ra : Reg} {b : Src} {s : State} (h : Keep r s) :
    KeepR r (execShr e t rd ra b s) := by
  unfold execShr
  with_reducible repeat' (first | assumption | apply shiftOp_keep | apply KeepR.next)

theorem execShra_keep {r : State} {e : Nat} {t : Nat} {rd : Reg} {ra : Reg} {b : Src} {s : State} (h : Keep r s) :
    KeepR r (execShra e t rd ra b s) := by
  unfold execShra
  with_reducible repeat' (first | assumption | apply shiftOp_keep | apply KeepR.next)

theorem execCmplt_keep {r : State} {e : Nat} {t : Nat} {rd : Reg} {ra : Reg} {b : Src} {s : State} (h : Keep r s) :
    KeepR r (execCmplt e t rd ra b s) := by
  unfold execCmplt
  with_reducible repeat' (first | assumption | apply intOp_keep | apply KeepR.next)

theorem execCmpltu_keep {r : State} {e : Nat} {t : Nat} {rd : Reg} {ra : Reg} {b : Src} {s : State} (h : Keep r s) :
    KeepR r (execCmpltu e t rd ra b s) := by
  unfold execCmpltu
  with_reducible repeat' (first | assumption | apply intOp_keep | apply KeepR.next)

theorem execImmh_keep {r : State} {e : Nat} {t : Nat} {rd : Reg} {imm : BitVec 16} {s : State} (h : Keep r s) :
    KeepR r (execImmh e t rd imm s) := by
  unfold execImmh
  with_reducible repeat' (first | assumption | apply retireW_keep | apply isa_keep | apply KeepR.next)

theorem execImml_keep {r : State} {e : Nat} {t : Nat} {rd : Reg} {imm : BitVec 16} {s : State} (h : Keep r s) :
    KeepR r (execImml e t rd imm s) := by
  unfold execImml
  with_reducible repeat' (first | assumption | apply retireW_keep | apply isa_keep | apply KeepR.next | intro _)

theorem execMpy_keep {r : State} {e : Nat} {t : Nat} {rd : Reg} {ra : Reg} {rb : Reg} {s : State} (h : Keep r s) :
    KeepR r (execMpy e t rd ra rb s) := by
  unfold execMpy
  with_reducible repeat' (first | assumption | apply intOp_keep | apply KeepR.next)

theorem execMpyhs_keep {r : State} {e : Nat} {t : Nat} {rd : Reg} {ra : Reg} {rb : Reg} {s : State} (h : Keep r s) :
    KeepR r (execMpyhs e t rd ra rb s) := by
  unfold execMpyhs
  with_reducible repeat' (first | assumption | apply intOp_keep | apply KeepR.next)

theorem execMpyhu_keep {r : State} {e : Nat} {t : Nat} {rd : Reg} {ra : Reg} {rb : Reg} {s : State} (h : Keep r s) :
    KeepR r (execMpyhu e t rd ra rb s) := by
  unfold execMpyhu
  with_reducible repeat' (first | assumption | apply intOp_keep | apply KeepR.next)

theorem execBxt_keep {r : State} {e : Nat} {t : Nat} {rd : Reg} {rs : Reg} {pos : Nat} {width : Nat} {s : State} (h : Keep r s) :
    KeepR r (execBxt e t rd rs pos width s) := by
  unfold execBxt
  with_reducible repeat' (first | assumption | apply Keep.ite | apply retireFree_keep | apply retireW_keep | apply isa_keep | apply KeepR.next | intro _)

theorem execBins_keep {r : State} {e : Nat} {t : Nat} {rd : Reg} {rs : Reg} {pos : Nat} {width : Nat} {s : State} (h : Keep r s) :
    KeepR r (execBins e t rd rs pos width s) := by
  unfold execBins
  with_reducible repeat' (first | assumption | apply Keep.ite | apply retireFree_keep | apply retireW_keep | apply isa_keep | simp only [KeepF.pair] | apply KeepR.next | intro _)

theorem execBrev8_keep {r : State} {e : Nat} {t : Nat} {rd : Reg} {rs : Reg} {s : State} (h : Keep r s) :
    KeepR r (execBrev8 e t rd rs s) := by
  unfold execBrev8
  with_reducible repeat' (first | assumption | apply retireW_keep | apply isa_keep | apply KeepR.next | intro _)

theorem execOcadd_keep {r : State} {e : Nat} {t : Nat} {rs : Reg} {s : State} (h : Keep r s) :
    KeepR r (execOcadd e t rs s) := by
  unfold execOcadd
  with_reducible repeat' (first | assumption | apply setThr_keep | apply isa_keep | apply retire_keep | simp only [KeepF.pair] | apply KeepR.next | intro _)

theorem crcOp_keep {r : State} {n : Nat} {e : Nat} {t : Nat} {rs : Reg} {s : State} (h : Keep r s) :
    Keep r (crcOp n e t rs s) := by
  unfold crcOp
  with_reducible repeat' (first | assumption | apply setThr_keep | apply isa_keep | apply retire_keep | simp only [KeepF.pair] | intro _)

theorem execCrc8_keep {r : State} {e : Nat} {t : Nat} {rs : Reg} {s : State} (h : Keep r s) :
    KeepR r (execCrc8 e t rs s) := by
  unfold execCrc8
  with_reducible repeat' (first | assumption | apply crcOp_keep | apply KeepR.next)

theorem execCrc16_keep {r : State} {e : Nat} {t : Nat} {rs : Reg} {s : State} (h : Keep r s) :
    KeepR r (execCrc16 e t rs s) := by
  unfold execCrc16
  with_reducible repeat' (first | assumption | apply crcOp_keep | apply KeepR.next)

theorem execCrc32_keep {r : State} {e : Nat} {t : Nat} {rs : Reg} {s : State} (h : Keep r s) :
    KeepR r (execCrc32 e t rs s) := by
  unfold execCrc32
  with_reducible repeat' (first | assumption | apply crcOp_keep | apply KeepR.next)

theorem jumpIf_keep {r : State} {p : Word → Word → Bool} {e : Nat} {t : Nat} {ra : Reg} {rb : Reg} {off : Int} {s : State} (h : Keep r s) :
    Keep r (jumpIf p e t ra rb off s) := by
  unfold jumpIf
  with_reducible repeat' (first | assumption | apply Keep.ite | apply retireTo_keep | apply isa_keep | apply retire_keep | intro _)

theorem execJeq_keep {r : State} {e : Nat} {t : Nat} {ra : Reg} {rb : Reg} {off : Int} {s : State} (h : Keep r s) :
    KeepR r (execJeq e t ra rb off s) := by
  unfold execJeq
  with_reducible repeat' (first | assumption | apply jumpIf_keep | apply KeepR.next)

theorem execJne_keep {r : State} {e : Nat} {t : Nat} {ra : Reg} {rb : Reg} {off : Int} {s : State} (h : Keep r s) :
    KeepR r (execJne e t ra rb off s) := by
  unfold execJne
  with_reducible repeat' (first | assumption | apply jumpIf_keep | apply KeepR.next)

theorem execJlt_keep {r : State} {e : Nat} {t : Nat} {ra : Reg} {rb : Reg} {off : Int} {s : State} (h : Keep r s) :
    KeepR r (execJlt e t ra rb off s) := by
  unfold execJlt
  with_reducible repeat' (first | assumption | apply jumpIf_keep | apply KeepR.next)

theorem execJge_keep {r : State} {e : Nat} {t : Nat} {ra : Reg} {rb : Reg} {off : Int} {s : State} (h : Keep r s) :
    KeepR r (execJge e t ra rb off s) := by
  unfold execJge
  with_reducible repeat' (first | assumption | apply jumpIf_keep | apply KeepR.next)

theorem execJltu_keep {r : State} {e : Nat} {t : Nat} {ra : Reg} {rb : Reg} {off : Int} {s : State} (h : Keep r s) :
    KeepR r (execJltu e t ra rb off s) := by
  unfold execJltu
  with_reducible repeat' (first | assumption | apply jumpIf_keep | apply KeepR.next)

theorem execJgeu_keep {r : State} {e : Nat} {t : Nat} {ra : Reg} {rb : Reg} {off : Int} {s : State} (h : Keep r s) :
    KeepR r (execJgeu e t ra rb off s) := by
  unfold execJgeu
  with_reducible repeat' (first | assumption | apply jumpIf_keep | apply KeepR.next)

theorem execCall_keep {r : State} {e : Nat} {t : Nat} {off : Int} {s : State} (h : Keep r s) :
    KeepR r (execCall e t off s) := by
  unfold execCall
  with_reducible repeat' (first | assumption | apply retireTo_keep | apply isa_keep | apply setW_keep | simp only [KeepF.pair] | apply KeepR.next | intro _)

theorem execJumpr_keep {r : State} {e : Nat} {t : Nat} {rs : Reg} {off : Int} {s : State} (h : Keep r s) :
    KeepR r (execJumpr e t rs off s) := by
  unfold execJumpr
  with_reducible repeat' (first | assumption | apply Keep.ite | apply retireTo_keep | apply isa_keep | apply setW_keep | simp only [KeepF.pair] | apply KeepR.next | intro _)

theorem fence_keep {r : State} {e : Nat} {t : Nat} {s : State} (h : Keep r s) :
    Keep r (fence e t s) := by
  unfold fence
  with_reducible repeat' (first | assumption | apply bump_keep | apply retire_keep)

theorem startWindow_keep {r : State} {e : Nat} {t : Nat} {h2x : Nat} {off : Nat} {s : State} (h : Keep r s) :
    Keep r (startWindow e t h2x off s) := by
  unfold startWindow
  with_reducible repeat' (first | assumption | apply Keep.ite | apply startXfer_keep | apply violation_keep | intro _ | split | dsimp only)

theorem windowLoad_keep {r : State} {sign : Bool} {n : Nat} {e : Nat} {t : Nat} {rd : Reg} {off : Nat} {s : State} (h : Keep r s) :
    Keep r (windowLoad sign n e t rd off s) := by
  unfold windowLoad
  with_reducible repeat' (first | assumption | apply Keep.ite | apply access_keep | apply fence_keep | apply retire_keep | apply retireW_keep | apply setThr_keep | apply startWindow_keep | apply threadFault_keep | simp only [KeepS.pair] | apply KeepS.snd | (refine KeepS.elim (by assumption) ?_) | intro _ | split | dsimp only)

theorem loadOp_keep {r : State} {frame : Bool} {sign : Bool} {n : Nat} {e : Nat} {t : Nat} {rd : Reg} {ra : Reg} {off : Int} {s : State} (h : Keep r s) :
    Keep r (loadOp frame sign n e t rd ra off s) := by
  unfold loadOp
  with_reducible repeat' (first | assumption | apply Keep.ite | apply windowLoad_keep | apply retireW_keep | apply isa_keep | apply threadFault_keep | simp only [KeepF.pair] | intro _ | split)

theorem storeOp_keep {r : State} {n : Nat} {e : Nat} {t : Nat} {rs : Reg} {ra : Reg} {off : Int} {s : State} (h : Keep r s) :
    Keep r (storeOp n e t rs ra off s) := by
  unfold storeOp
  repeat' (first | with_reducible assumption | with_reducible apply Keep.ite | with_reducible apply setThr_keep | with_reducible apply isa_keep | with_reducible apply threadFault_keep | with_reducible apply retire_keep | refine setEng_keep ?_ (fun g hg => ⟨hg.1, Mem.wrN_wf hg.2⟩) | with_reducible simp only [KeepF.pair] | with_reducible intro _ | with_reducible split)

theorem execLd8_keep {r : State} {e : Nat} {t : Nat} {rd : Reg} {ra : Reg} {off : Int} {s : State} (h : Keep r s) :
    KeepR r (execLd8 e t rd ra off s) := by
  unfold execLd8
  with_reducible repeat' (first | assumption | apply loadOp_keep | apply KeepR.next)

theorem execLd8s_keep {r : State} {e : Nat} {t : Nat} {rd : Reg} {ra : Reg} {off : Int} {s : State} (h : Keep r s) :
    KeepR r (execLd8s e t rd ra off s) := by
  unfold execLd8s
  with_reducible repeat' (first | assumption | apply loadOp_keep | apply KeepR.next)

theorem execLd16_keep {r : State} {e : Nat} {t : Nat} {rd : Reg} {ra : Reg} {off : Int} {s : State} (h : Keep r s) :
    KeepR r (execLd16 e t rd ra off s) := by
  unfold execLd16
  with_reducible repeat' (first | assumption | apply loadOp_keep | apply KeepR.next)

theorem execLd16s_keep {r : State} {e : Nat} {t : Nat} {rd : Reg} {ra : Reg} {off : Int} {s : State} (h : Keep r s) :
    KeepR r (execLd16s e t rd ra off s) := by
  unfold execLd16s
  with_reducible repeat' (first | assumption | apply loadOp_keep | apply KeepR.next)

theorem execLd32_keep {r : State} {e : Nat} {t : Nat} {rd : Reg} {ra : Reg} {off : Int} {s : State} (h : Keep r s) :
    KeepR r (execLd32 e t rd ra off s) := by
  unfold execLd32
  with_reducible repeat' (first | assumption | apply loadOp_keep | apply KeepR.next)

theorem execSt8_keep {r : State} {e : Nat} {t : Nat} {rs : Reg} {ra : Reg} {off : Int} {s : State} (h : Keep r s) :
    KeepR r (execSt8 e t rs ra off s) := by
  unfold execSt8
  with_reducible repeat' (first | assumption | apply storeOp_keep | apply KeepR.next)

theorem execSt16_keep {r : State} {e : Nat} {t : Nat} {rs : Reg} {ra : Reg} {off : Int} {s : State} (h : Keep r s) :
    KeepR r (execSt16 e t rs ra off s) := by
  unfold execSt16
  with_reducible repeat' (first | assumption | apply storeOp_keep | apply KeepR.next)

theorem execSt32_keep {r : State} {e : Nat} {t : Nat} {rs : Reg} {ra : Reg} {off : Int} {s : State} (h : Keep r s) :
    KeepR r (execSt32 e t rs ra off s) := by
  unfold execSt32
  with_reducible repeat' (first | assumption | apply storeOp_keep | apply KeepR.next)

theorem execFld8_keep {r : State} {e : Nat} {t : Nat} {rd : Reg} {ra : Reg} {off : Int} {s : State} (h : Keep r s) :
    KeepR r (execFld8 e t rd ra off s) := by
  unfold execFld8
  with_reducible repeat' (first | assumption | apply loadOp_keep | apply KeepR.next)

theorem execFld16_keep {r : State} {e : Nat} {t : Nat} {rd : Reg} {ra : Reg} {off : Int} {s : State} (h : Keep r s) :
    KeepR r (execFld16 e t rd ra off s) := by
  unfold execFld16
  with_reducible repeat' (first | assumption | apply loadOp_keep | apply KeepR.next)

theorem execFld32_keep {r : State} {e : Nat} {t : Nat} {rd : Reg} {ra : Reg} {off : Int} {s : State} (h : Keep r s) :
    KeepR r (execFld32 e t rd ra off s) := by
  unfold execFld32
  with_reducible repeat' (first | assumption | apply loadOp_keep | apply KeepR.next)

theorem windowReturn_keep {r : State} {e : Nat} {t : Nat} {bad : Bool} {s : State} (h : Keep r s) :
    Keep r (windowReturn e t bad s) := by
  unfold windowReturn
  with_reducible repeat' (first | assumption | apply Keep.ite | apply dropDirect_keep | apply setThr_keep | intro _ | split | dsimp only)

theorem execWindowLoadReturn_keep {r : State} {e : Nat} {t : Nat} {bad : Bool} {s : State} (h : Keep r s) :
    KeepR r (execWindowLoadReturn e t bad s) := by
  unfold execWindowLoadReturn
  with_reducible repeat' (first | assumption | apply KeepR.next | apply clocked_keep | apply windowReturn_keep | intro _ | split | dsimp only)

theorem execCrd_keep {r : State} {e : Nat} {t : Nat} {r2x : Reg} {csr : Csr} {s : State} (h : Keep r s) :
    KeepR r (execCrd e t r2x csr s) := by
  unfold execCrd
  with_reducible repeat' (first | assumption | apply Keep.ite | apply setThr_keep | apply retireW_keep | apply isa_keep | simp only [KeepF.pair] | apply KeepR.next | intro _)

theorem execCwr_keep {r : State} {e : Nat} {t : Nat} {r2x : Reg} {csr : Csr} {s : State} (h : Keep r s) :
    KeepR r (execCwr e t r2x csr s) := by
  unfold execCwr
  with_reducible repeat' (first | assumption | apply setThr_keep | apply isa_keep | apply threadFault_keep | apply retire_keep | apply KeepR.next | intro _ | split)

/-! ## EngineOps -/

theorem outside_keep {r : State} {e : Nat} {t : Nat} {f : State → State} {s : State} (hf : ∀ t, Keep r t → Keep r (f t)) (h : Keep r s) :
    Keep r (outside e t f s) := by
  unfold outside
  with_reducible repeat' (first | assumption | apply hf | apply Keep.ite | apply fence_keep | apply isa_keep | intro _)

theorem setStatus_keep {r : State} {e : Nat} {t : Nat} {code : Nat} {s : State} (h : Keep r s) :
    Keep r (setStatus e t code s) := by
  unfold setStatus
  with_reducible repeat' (first | assumption | apply setW_keep)

theorem refuseEnd_keep {r : State} {e : Nat} {t : Nat} {code : Nat} {s : State} (h : Keep r s) :
    Keep r (refuseEnd e t code s) := by
  unfold refuseEnd
  with_reducible repeat' (first | assumption | apply setThr_keep | apply setStatus_keep | apply retire_keep)

theorem parkFlop_keep {r : State} {e : Nat} {t : Nat} {s : State} (h : Keep r s) :
    Keep r (parkFlop e t s) := by
  unfold parkFlop
  with_reducible repeat' (first | assumption | apply setThr_keep | apply retire_keep)

theorem flopOp_keep {r : State} {e : Nat} {t : Nat} {f : Claimer → State → State} {s : State} (hf : ∀ q t, Keep r t → Keep r (f q t)) (h : Keep r s) :
    Keep r (flopOp e t f s) := by
  unfold flopOp
  with_reducible repeat' (first | assumption | apply hf | apply outside_keep | apply parkFlop_keep | intro _ | split)

theorem flopNow_keep {r : State} {e : Nat} {t : Nat} {o : Claimer} {r3x : (FlopRes × Nat) × State} (h : KeepS r r3x) :
    Keep r (flopNow e t o r3x) := by
  unfold flopNow
  with_reducible repeat' (first | assumption | apply Keep.updFlow | apply KeepS.snd)

theorem execClaimNew_keep {r : State} {e : Nat} {t : Nat} {key : Bytes} {s : State} (h : Keep r s) :
    KeepR r (execClaimNew e t key s) := by
  unfold execClaimNew
  with_reducible repeat' (first | assumption | apply startClaimNew_keep | apply flopOp_keep | apply KeepR.next | intro _)

theorem execClaimEntry_keep {r : State} {e : Nat} {t : Nat} {index : Nat} {expected : Bytes} {s : State} (h : Keep r s) :
    KeepR r (execClaimEntry e t index expected s) := by
  unfold execClaimEntry
  with_reducible repeat' (first | assumption | apply startClaimEntry_keep | apply flopOp_keep | apply KeepR.next | intro _)

theorem execPublish_keep {r : State} {e : Nat} {t : Nat} {claim : Nat} {image : Bytes} {s : State} (h : Keep r s) :
    KeepR r (execPublish e t claim image s) := by
  unfold execPublish
  with_reducible repeat' (first | assumption | apply flopOp_keep | apply flopNow_keep | apply publishClaim_keep | apply KeepR.next | intro _)

theorem execAbandon_keep {r : State} {e : Nat} {t : Nat} {claim : Nat} {s : State} (h : Keep r s) :
    KeepR r (execAbandon e t claim s) := by
  unfold execAbandon
  with_reducible repeat' (first | assumption | apply abandonClaim_keep | apply flopOp_keep | apply flopNow_keep | apply KeepR.next | intro _)

theorem flopOutcome_keep {r : State} {e : Nat} {t : Nat} {s : State} (h : Keep r s) :
    Keep r (flopOutcome e t s) := by
  unfold flopOutcome
  with_reducible repeat' (first | assumption | apply Keep.ite | apply setThr_keep | apply setStatus_keep | apply Keep.updFlow | apply overtime_keep | apply setW_keep | simp only [KeepF.pair] | intro _ | split)

theorem noteSlot_keep {r : State} {a : Nat} {ctl : Nat} {s : State} (h : Keep r s) :
    Keep r (noteSlot a ctl s) := by
  unfold noteSlot
  with_reducible repeat' (first | assumption | apply noteCtl_keep | intro _ | split | dsimp only)

theorem hostOp_keep {r : State} {write : Bool} {e : Nat} {t : Nat} {haddr : Nat} {daddr : Nat} {len : Nat} {s : State} (h : Keep r s) :
    Keep r (hostOp write e t haddr daddr len s) := by
  unfold hostOp
  with_reducible repeat' (first | assumption | apply Keep.ite | apply lines_keep | apply noteSlot_keep | apply outside_keep | apply retire_keep | apply setThr_keep | apply startXfer_keep | apply threadFault_keep | apply violation_keep | intro _ | split | dsimp only)

theorem execHrd_keep {r : State} {e : Nat} {t : Nat} {haddr : Nat} {daddr : Nat} {len : Nat} {s : State} (h : Keep r s) :
    KeepR r (execHrd e t haddr daddr len s) := by
  unfold execHrd
  with_reducible repeat' (first | assumption | apply hostOp_keep | apply KeepR.next)

theorem execHwr_keep {r : State} {e : Nat} {t : Nat} {haddr : Nat} {daddr : Nat} {len : Nat} {s : State} (h : Keep r s) :
    KeepR r (execHwr e t haddr daddr len s) := by
  unfold execHwr
  with_reducible repeat' (first | assumption | apply hostOp_keep | apply KeepR.next)

theorem hostAccessDone_keep {r : State} {e : Nat} {t : Nat} {s : State} (h : Keep r s) :
    Keep r (hostAccessDone e t s) := by
  unfold hostAccessDone
  repeat' (first | with_reducible assumption | with_reducible apply Keep.ite | with_reducible apply setThr_keep | with_reducible apply setStatus_keep | with_reducible apply dropXfer_keep | refine setEng_keep ?_ (fun g hg => ⟨hg.1, Mem.wrN_wf hg.2⟩) | with_reducible simp only [KeepF.pair] | with_reducible intro _ | with_reducible split)

theorem placeSend_keep {r : State} {e : Nat} {t : Nat} {a : Arr} {s : State} (h : Keep r s) :
    Keep r (placeSend e t a s) := by
  unfold placeSend
  with_reducible repeat' (first | assumption | apply setThr_keep | apply retire_keep | apply Keep.updPipe | apply setSlot_keep | simp only [KeepF.pair] | split)

theorem sendFrame_keep {r : State} {e : Nat} {t : Nat} {d : Bytes} {tag : Nat} {tc : Nat} {s : State} (h : Keep r s) :
    Keep r (sendFrame e t d tag tc s) := by
  unfold sendFrame
  with_reducible repeat' (first | assumption | apply Keep.ite | apply allocBuf_keep | apply bump_keep | apply countFailed_keep | apply placeSend_keep | apply refuseEnd_keep | apply retire_keep | apply setStatus_keep | apply setThr_keep | simp only [KeepS.pair] | apply KeepS.snd | (refine KeepS.elim (by assumption) ?_) | intro _ | split | dsimp only)

theorem sendTail_keep {r : State} {e : Nat} {t : Nat} {f : PFrame} {d : Bytes} {off : Nat} {tag : Nat} {tc : Nat} {s : State} (h : Keep r s) :
    Keep r (sendTail e t f d off tag tc s) := by
  unfold sendTail
  with_reducible repeat' (first | assumption | apply Keep.ite | apply fetchBuf_keep | apply sendFrame_keep | apply setThr_keep | simp only [KeepS.pair] | apply KeepS.snd | (refine KeepS.elim (by assumption) ?_) | intro _ | split | dsimp only)

theorem resumeSends_keep {r : State} {s : State} (h : Keep r s) :
    Keep r (resumeSends s) := by
  unfold resumeSends
  with_reducible repeat' (first | assumption | apply sendFrame_keep | apply setThr_keep | apply Keep.foldl | intro _ | split | dsimp only)

theorem sendOp_keep {r : State} {e : Nat} {t : Nat} {src : Nat} {len : Nat} {tail : Option Nat} {tag : Nat} {tc : Nat} {s : State} (h : Keep r s) :
    Keep r (sendOp e t src len tail tag tc s) := by
  unfold sendOp
  with_reducible repeat' (first | assumption | apply Keep.ite | apply outside_keep | apply refuseEnd_keep | apply sendFrame_keep | apply sendTail_keep | apply threadFault_keep | intro _ | split | dsimp only)

theorem execSend_keep {r : State} {e : Nat} {t : Nat} {src : Nat} {len : Nat} {tail : Option Nat} {tag : Nat} {tc : Nat} {s : State} (h : Keep r s) :
    KeepR r (execSend e t src len tail tag tc s) := by
  unfold execSend
  with_reducible repeat' (first | assumption | apply sendOp_keep | apply KeepR.next)

theorem commitInq_keep {r : State} {e : Nat} {f : PFrame} {a2x : Option Xfer} {s : State} (h : Keep r s) :
    Keep r (commitInq e f a2x s) := by
  unfold commitInq
  with_reducible repeat' (first | assumption | apply Keep.ite | apply abandonAll_keep | apply bump_keep | apply checkFail_keep | apply redirect_keep | apply releaseOwner_keep | apply unpinBuf_keep | apply writeBuf_keep | intro _ | split | dsimp only)

theorem dropBy_keep {r : State} {e : Nat} {g : Nat} {k : Nat} {hold : Hold} {f : PFrame} {s : State} (h : Keep r s) :
    Keep r (dropBy e g k hold f s) := by
  unfold dropBy
  with_reducible repeat' (first | assumption | apply Keep.ite | apply abandonAll_keep | apply bump_keep | apply checkFail_keep | apply releaseOwner_keep | apply setSlot_keep | apply slotDrop_keep | apply unpinBuf_keep | intro _ | split | dsimp only)

theorem doneDrop_keep {r : State} {e : Nat} {t : Nat} {g : Nat} {k : Nat} {f : PFrame} {s : State} (h : Keep r s) :
    Keep r (doneDrop e t g k f s) := by
  unfold doneDrop
  with_reducible repeat' (first | assumption | apply bump_keep | apply dropBy_keep | apply endThread_keep | apply pmuEvent_keep | apply retire_keep | apply settleDrain_keep | intro _ | split | dsimp only)

theorem forwardWith_keep {r : State} {e : Nat} {t : Nat} {f : PFrame} {y : Option Xfer} {s : State} (h : Keep r s) :
    Keep r (forwardWith e t f y s) := by
  unfold forwardWith
  with_reducible repeat' (first | assumption | apply Keep.ite | apply bump_keep | apply commitInq_keep | apply endThread_keep | apply judgePolicer_keep | apply pmuEvent_keep | apply retire_keep | apply setSlot_keep | apply settleDrain_keep | apply slotDrop_keep | simp only [KeepS.pair] | apply KeepS.snd | (refine KeepS.elim (by assumption) ?_) | intro _ | split | dsimp only)

theorem forwardInq_keep {r : State} {e : Nat} {t : Nat} {f : PFrame} {s : State} (h : Keep r s) :
    Keep r (forwardInq e t f s) := by
  unfold forwardInq
  with_reducible repeat' (first | assumption | apply fetchBuf_keep | apply forwardWith_keep | apply setThr_keep | simp only [KeepS.pair] | apply KeepS.snd | (refine KeepS.elim (by assumption) ?_) | intro _ | split | dsimp only)

theorem doneForward_keep {r : State} {e : Nat} {t : Nat} {f : PFrame} {s : State} (h : Keep r s) :
    Keep r (doneForward e t f s) := by
  unfold doneForward
  with_reducible repeat' (first | assumption | apply forwardInq_keep | apply forwardWith_keep | apply refuseEnd_keep | intro _ | split | dsimp only)

theorem doneRead_keep {r : State} {e : Nat} {t : Nat} {s : State} (h : Keep r s) :
    Keep r (doneRead e t s) := by
  unfold doneRead
  with_reducible repeat' (first | assumption | apply forwardInq_keep | apply sendTail_keep | intro _ | split | dsimp only)

theorem doneAgain_keep {r : State} {e : Nat} {t : Nat} {reason : Nat} {hook : Nat} {f : PFrame} {s : State} (h : Keep r s) :
    Keep r (doneAgain e t reason hook f s) := by
  unfold doneAgain
  with_reducible repeat' (first | assumption | apply endThread_keep | apply retire_keep | apply setSlot_keep | apply settleDrain_keep | apply unpinBuf_keep | apply Keep.updPipe | intro _ | split)

theorem doneOp_keep {r : State} {e : Nat} {t : Nat} {forward : Bool} {s : State} (h : Keep r s) :
    Keep r (doneOp e t forward s) := by
  unfold doneOp
  with_reducible repeat' (first | assumption | apply Keep.ite | apply doneAgain_keep | apply doneDrop_keep | apply doneForward_keep | apply outside_keep | intro _ | split)

theorem execDone_keep {r : State} {e : Nat} {t : Nat} {forward : Bool} {s : State} (h : Keep r s) :
    KeepR r (execDone e t forward s) := by
  unfold execDone
  with_reducible repeat' (first | assumption | apply KeepR.next | apply doneOp_keep | intro _ | split)

theorem execWait_keep {r : State} {e : Nat} {t : Nat} {untl : Nat} {s : State} (h : Keep r s) :
    KeepR r (execWait e t untl s) := by
  unfold execWait
  with_reducible repeat' (first | assumption | apply setThr_keep | apply isa_keep | apply retire_keep | apply KeepR.next | intro _)

theorem waitWake_keep {r : State} {e : Nat} {t : Nat} {s : State} (h : Keep r s) :
    Keep r (waitWake e t s) := by
  unfold waitWake
  with_reducible repeat' (first | assumption | apply setThr_keep | split)

theorem execWaitWake_keep {r : State} {e : Nat} {t : Nat} {s : State} (h : Keep r s) :
    KeepR r (execWaitWake e t s) := by
  unfold execWaitWake
  with_reducible repeat' (first | assumption | apply KeepR.next | apply clocked_keep | apply waitWake_keep | intro _ | split | dsimp only)

theorem execFrameBudgetExpire_keep {r : State} {e : Nat} {t : Nat} {s : State} (h : Keep r s) :
    KeepR r (execFrameBudgetExpire e t s) := by
  unfold execFrameBudgetExpire
  with_reducible repeat' (first | assumption | apply KeepR.next | apply budgetExpire_keep | apply clocked_keep | intro _ | split | dsimp only)

theorem execOnyxInqServe_keep {r : State} {s : State} (h : Keep r s) :
    KeepR r (execOnyxInqServe s) := by
  unfold execOnyxInqServe
  with_reducible repeat' (first | assumption | apply KeepR.next | apply clocked_keep | apply onyxServe_keep | intro _ | split | dsimp only)

theorem execEngineWatchdog_keep {r : State} {e : Nat} {cause : Nat} {s : State} (h : Keep r s) :
    KeepR r (execEngineWatchdog e cause s) := by
  unfold execEngineWatchdog
  with_reducible repeat' (first | assumption | apply KeepR.next | apply clocked_keep | apply watchdog_keep | intro _ | split | dsimp only)

theorem execRedispatch_keep {r : State} {e : Nat} {s : State} (h : Keep r s) :
    KeepR r (execRedispatch e s) := by
  unfold execRedispatch
  with_reducible repeat' (first | assumption | apply KeepR.next | apply clocked_keep | apply redispatchAll_keep | intro _ | split | dsimp only)

/-! ## BasePrograms -/

theorem setBase_keep {r : State} {e : Nat} {t : Nat} {b : BaseSt} {s : State} (h : Keep r s) :
    Keep r (setBase e t b s) := by
  unfold setBase
  with_reducible repeat' (first | assumption | apply setThr_keep | intro _ | split)

theorem baseEnd_keep {r : State} {e : Nat} {t : Nat} {v : BaseEnd} {s : State} (h : Keep r s) :
    Keep r (baseEnd e t v s) := by
  unfold baseEnd
  with_reducible repeat' (first | assumption | apply setBase_keep | intro _ | split)

theorem noteIcmp_keep {r : State} {e : Nat} {s : State} (h : Keep r s) :
    Keep r (noteIcmp e s) := by
  unfold noteIcmp
  with_reducible repeat' (first | assumption | apply Keep.ite | refine setEng_keep' ?_ (fun _ => ⟨rfl, rfl⟩) | intro _ | split)

theorem ttlExpired_keep {r : State} {e : Nat} {t : Nat} {f : PFrame} {d : Bytes} {s : State} (h : Keep r s) :
    Keep r (ttlExpired e t f d s) := by
  unfold ttlExpired
  with_reducible repeat' (first | assumption | apply Keep.ite | apply allocBuf_keep | apply baseEnd_keep | apply bump_keep | apply countFailed_keep | apply noteIcmp_keep | apply placeSend_keep | simp only [KeepS.pair] | apply KeepS.snd | (refine KeepS.elim (by assumption) ?_) | intro _ | split | dsimp only)

theorem sctpCsum_keep {r : State} {e : Nat} {t : Nat} {f : PFrame} {d : Bytes} {s : State} (h : Keep r s) :
    Keep r (sctpCsum e t f d s) := by
  unfold sctpCsum
  with_reducible repeat' (first | assumption | apply baseEnd_keep | apply setThr_keep | intro _ | split | dsimp only)

theorem withFrame_keep {r : State} {e t : Nat} {f : PFrame} {go : Bytes → State → State} {s : State}
    (hg : ∀ d s, Keep r s → Keep r (go d s)) (h : Keep r s) : Keep r (withFrame e t f go s) := by
  unfold withFrame
  have k := fetchBuf_keep (who := .thread e t) (h1x := f.h) h
  dsimp only
  split
  · exact k.snd
  · split
    · exact baseEnd_keep (setThr_keep k.snd)
    · exact hg _ _ k.snd

theorem letGo_keep {r : State} {f : PFrame} {s : State} (h : Keep r s) :
    Keep r (letGo f s) := by
  unfold letGo
  with_reducible repeat' (first | assumption | apply abandonClaim_keep | apply Keep.foldl | apply KeepS.foldl | simp only [KeepS.pair] | apply KeepS.snd | (refine KeepS.elim (by assumption) ?_) | intro _ | split)

theorem learnDrop_keep {r : State} {e : Nat} {t : Nat} {k : Nat} {f : PFrame} {s : State} (h : Keep r s) :
    Keep r (learnDrop e t k f s) := by
  unfold learnDrop
  with_reducible repeat' (first | assumption | apply baseEnd_keep | apply letGo_keep | intro _ | split)

theorem learnRefused_keep {r : State} {e : Nat} {t : Nat} {f : PFrame} {s : State} (h : Keep r s) :
    Keep r (learnRefused e t f s) := by
  unfold learnRefused
  with_reducible repeat' (first | assumption | apply Keep.ite | apply baseEnd_keep | apply bump_keep | apply letGo_keep | intro _ | split)

theorem askClaim_keep {r : State} {e : Nat} {t : Nat} {f : PFrame} {key : Bytes} {b : BaseSt} {s : State} (h : Keep r s) :
    Keep r (askClaim e t f key b s) := by
  unfold askClaim
  with_reducible repeat' (first | assumption | apply parkFlop_keep | apply setBase_keep | apply startClaimNew_keep | intro _ | split)

theorem askReply_keep {r : State} {e : Nat} {t : Nat} {f : PFrame} {a : Bytes} {claim : Nat} {n : Nat} {s : State} (h : Keep r s) :
    Keep r (askReply e t f a claim n s) := by
  unfold askReply
  with_reducible repeat' (first | assumption | apply askClaim_keep | apply tickNow_keep | simp only [KeepS.pair] | apply KeepS.snd | (refine KeepS.elim (by assumption) ?_) | intro _ | split)

theorem baseTake_keep {r : State} {e t : Nat} {v : BaseEnd} {f : PFrame} {s : State} (h : Keep r s) :
    Keep r (baseTake e t v f s) := by
  unfold baseTake
  with_reducible repeat' (first | assumption | apply baseEnd_keep | apply setThr_keep | apply setSlot_keep | apply Keep.ite | split | dsimp only)

theorem learnApply_keep {r : State} {e t flags : Nat} {x : HitEnd × PFrame × State} (h : Keep r x.2.2) :
    Keep r (learnApply e t flags x) := by
  unfold learnApply
  exact baseTake_keep h

theorem learnExists_keep {r : State} {e t : Nat} {f : PFrame} {index : Nat} {img : Option Bytes} {s : State} (h : Keep r s) :
    Keep r (learnExists e t f index img s) := by
  unfold learnExists
  dsimp only
  split
  · exact learnApply_keep (hitEntry_keep (letGo_keep h))
  · exact learnApply_keep (hitEntry_keep (cacheFill_keep (letGo_keep h)))
  · exact askClaim_keep (letGo_keep h)

theorem learnPublish_keep {r : State} {e t : Nat} {f : PFrame} {l : Learn} {s : State} (h : Keep r s) :
    Keep r (learnPublish e t f l s) := by
  unfold learnPublish
  refine learnApply_keep (applyHit_keep (publishClaim_keep ?_).snd)
  split
  · exact (publishClaim_keep h).snd
  · exact h

theorem learnWrite_keep {r : State} {e : Nat} {t : Nat} {f : PFrame} {l : Learn} {second : Bool} {s : State} (h : Keep r s) :
    Keep r (learnWrite e t f l second s) := by
  unfold learnWrite
  with_reducible repeat' (first | assumption | apply Keep.ite | apply learnDrop_keep | apply lines_keep | apply noteCtl_keep | apply retire_keep | apply setBase_keep | apply setThr_keep | apply startXfer_keep | apply violation_keep | intro _ | split | dsimp only)

theorem learnClaimed_keep {r : State} {e : Nat} {t : Nat} {f : PFrame} {claim : Nat} {s : State} (h : Keep r s) :
    Keep r (learnClaimed e t f claim s) := by
  unfold learnClaimed
  with_reducible repeat' (first | assumption | apply Keep.ite | apply askReply_keep | apply learnDrop_keep | apply learnWrite_keep | apply tickNow_keep | simp only [KeepS.pair] | apply KeepS.snd | (refine KeepS.elim (by assumption) ?_) | intro _ | split)

theorem learnReply_keep {r : State} {e : Nat} {t : Nat} {f : PFrame} {l : Learn} {n : Nat} {r5x : FlopRes} {c : Nat} {s : State} (h : Keep r s) :
    Keep r (learnReply e t f l n r5x c s) := by
  unfold learnReply
  with_reducible repeat' (first | assumption | apply Keep.ite | apply askReply_keep | apply learnDrop_keep | apply learnRefused_keep | apply learnWrite_keep | intro _ | split)

theorem learnStart_keep {r : State} {e : Nat} {t : Nat} {f : PFrame} {s : State} (h : Keep r s) :
    Keep r (learnStart e t f s) := by
  unfold learnStart
  with_reducible repeat' (first | assumption | apply askClaim_keep | apply baseEnd_keep | apply learnClaimed_keep | intro _ | split)

theorem icmpHit_keep {r : State} {e t : Nat} {f : PFrame} {index : Nat} {m : Bytes} {s : State} (h : Keep r s) :
    Keep r (icmpHit e t f index m s) := by
  unfold icmpHit
  with_reducible repeat' (first | assumption | apply baseTake_keep | apply baseEnd_keep | split | dsimp only)

theorem icmpStart_keep {r : State} {e t : Nat} {f : PFrame} {s : State} (h : Keep r s) :
    Keep r (icmpStart e t f s) := by
  unfold icmpStart
  with_reducible repeat' (first | assumption | apply Keep.ite | apply askClaim_keep | apply baseEnd_keep | intro _)

theorem icmpFound_keep {r : State} {e : Nat} {t : Nat} {f : PFrame} {index : Nat} {img : Option Bytes} {s : State} (h : Keep r s) :
    Keep r (icmpFound e t f index img s) := by
  unfold icmpFound
  with_reducible repeat' (first | assumption | apply icmpHit_keep | apply icmpStart_keep | intro _ | split | dsimp only)

theorem baseStart_keep {r : State} {e : Nat} {t : Nat} {s : State} (h : Keep r s) :
    Keep r (baseStart e t s) := by
  unfold baseStart
  with_reducible repeat' (first | assumption | apply icmpStart_keep | apply learnStart_keep | apply sctpCsum_keep | apply setBase_keep | apply ttlExpired_keep | apply withFrame_keep | intro _ | split | dsimp only)

theorem baseStarts_keep {r : State} {s : State} (h : Keep r s) :
    Keep r (baseStarts s) := by
  unfold baseStarts
  with_reducible repeat' (first | assumption | apply baseStart_keep | apply Keep.foldl | intro _ | split)

theorem baseFence_keep {r : State} {e : Nat} {t : Nat} {s : State} (h : Keep r s) :
    Keep r (baseFence e t s) := by
  unfold baseFence
  with_reducible repeat' (first | assumption | apply Keep.ite | apply bump_keep | apply setBase_keep | intro _ | split | dsimp only)

theorem baseFlop_keep {r : State} {e : Nat} {t : Nat} {p : Option Flop} {s : State} (h : Keep r s) :
    Keep r (baseFlop e t p s) := by
  unfold baseFlop
  with_reducible repeat' (first | assumption | apply Keep.ite | apply baseEnd_keep | apply baseFence_keep | apply icmpFound_keep | apply learnClaimed_keep | apply learnExists_keep | apply learnRefused_keep | apply learnReply_keep | apply letGo_keep | intro _ | split | dsimp only)

theorem baseWrite_keep {r : State} {e : Nat} {t : Nat} {a2x : Option Xfer} {s : State} (h : Keep r s) :
    Keep r (baseWrite e t a2x s) := by
  unfold baseWrite
  with_reducible repeat' (first | assumption | apply Keep.ite | apply baseFence_keep | apply learnDrop_keep | apply learnPublish_keep | apply learnWrite_keep | intro _ | split | dsimp only)

theorem execEngineDispatch_keep {r : State} {s : State} (h : Keep r s) :
    KeepR r (execEngineDispatch s) := by
  unfold execEngineDispatch
  with_reducible repeat' (first | assumption | apply KeepR.next | apply baseStarts_keep | apply clocked_keep | apply dispatchNext_keep | intro _ | split | dsimp only)

theorem execInqTake_keep {r : State} {e : Nat} {s : State} (h : Keep r s) :
    KeepR r (execInqTake e s) := by
  unfold execInqTake
  with_reducible repeat' (first | assumption | apply KeepR.next | apply baseStarts_keep | apply clocked_keep | apply inqTake_keep | intro _ | split | dsimp only)

theorem execFlopOutcome_keep {r : State} {e : Nat} {t : Nat} {s : State} (h : Keep r s) :
    KeepR r (execFlopOutcome e t s) := by
  unfold execFlopOutcome
  with_reducible repeat' (first | assumption | apply KeepR.next | apply baseFlop_keep | apply clocked_keep | apply flopOutcome_keep | intro _ | split | dsimp only)

theorem execHostAccessDone_keep {r : State} {e : Nat} {t : Nat} {s : State} (h : Keep r s) :
    KeepR r (execHostAccessDone e t s) := by
  unfold execHostAccessDone
  with_reducible repeat' (first | assumption | apply KeepR.next | apply baseWrite_keep | apply clocked_keep | apply hostAccessDone_keep | intro _ | split | dsimp only)

/-! ## EngineCmd -/

theorem hookBindApply_keep {r : State} {p : Bytes} {s : State} (h : Keep r s) :
    Keep r (hookBindApply p s) := by
  unfold hookBindApply
  with_reducible repeat' (first | assumption | refine Keep.updEng' ?_ (fun _ => rfl))

theorem progUnloadCmd_keep {r : State} {q : Req} {s : State} (h : Keep r s) :
    KeepF r (progUnloadCmd q s) := by
  unfold progUnloadCmd
  with_reducible repeat' (first | assumption | apply KeepF.ite | refine Keep.updEng' ?_ (fun _ => rfl) | simp only [KeepF.pair] | intro _ | split)

theorem engConfigCmd_keep {r : State} {q : Req} {s : State} (h : Keep r s) :
    KeepF r (engConfigCmd q s) := by
  unfold engConfigCmd
  with_reducible repeat' (first | assumption | refine setEng_keep' ?_ (fun _ => ⟨rfl, rfl⟩) | apply Keep.foldl | simp only [KeepF.pair] | intro _ | split)

theorem engPolicySet_keep {r : State} {s : State} (h : Keep r s) :
    Keep r (engPolicySet s) := by
  unfold engPolicySet
  with_reducible repeat' (first | assumption | apply KeepF.ite | apply settlePolicy_keep | apply longRunning_keep | simp only [KeepF.pair] | intro _)

theorem engDataCmd_keep {r : State} {q : Req} {s : State} (h : Keep r s) : KeepF r (engDataCmd q s) := by
  unfold engDataCmd
  dsimp only
  split
  · exact h
  · split
    · exact h
    · refine KeepF.ite (fun _ => h) fun _ => ?_
      refine Keep.foldl (fun t e ht => ?_) h
      apply setEng_keep ht
      exact fun g hg => ⟨hg.1, Mem.wrN_wf hg.2⟩

theorem engStatusCmd_keep {r : State} {_q : Req} {s : State} (h : Keep r s) :
    KeepF r (engStatusCmd _q s) := by
  unfold engStatusCmd
  with_reducible repeat' (first | assumption | apply draw_keep | simp only [KeepF.pair] | simp only [KeepS.pair] | apply KeepS.snd | split)

theorem engCountersCmd_keep {r : State} {q : Req} {s : State} (h : Keep r s) :
    KeepF r (engCountersCmd q s) := by
  unfold engCountersCmd
  with_reducible repeat' (first | assumption | apply KeepF.ite | apply readCounters_keep | simp only [KeepF.pair] | apply KeepS.snd | intro _)

theorem engSampleCmd_keep {r : State} {q : Req} {s : State} (h : Keep r s) :
    KeepF r (engSampleCmd q s) := by
  unfold engSampleCmd
  with_reducible repeat' (first | assumption | refine setEng_keep' ?_ (fun _ => ⟨rfl, rfl⟩) | simp only [KeepF.pair] | split)

theorem engBaseCmd_keep {r : State} {q : Req} {s : State} (h : Keep r s) :
    KeepF r (engBaseCmd q s) := by
  unfold engBaseCmd
  with_reducible repeat' (first | assumption | refine Keep.updEng' ?_ (fun _ => rfl) | simp only [KeepF.pair] | split)

theorem execEngProgUnload_keep {r : State} {s : State} (h : Keep r s) :
    KeepR r (execEngProgUnload s) := by
  unfold execEngProgUnload
  with_reducible repeat' (first | assumption | apply progUnloadCmd_keep | apply immediate_keep | apply KeepR.next)

theorem execEngConfigSet_keep {r : State} {s : State} (h : Keep r s) :
    KeepR r (execEngConfigSet s) := by
  unfold execEngConfigSet
  with_reducible repeat' (first | assumption | apply engConfigCmd_keep | apply immediate_keep | apply KeepR.next)

theorem execEngPolicySet_keep {r : State} {s : State} (h : Keep r s) :
    KeepR r (execEngPolicySet s) := by
  unfold execEngPolicySet
  with_reducible repeat' (first | assumption | apply engPolicySet_keep | apply KeepR.next)

theorem execEngDataWrite_keep {r : State} {s : State} (h : Keep r s) :
    KeepR r (execEngDataWrite s) := by
  unfold execEngDataWrite
  with_reducible repeat' (first | assumption | apply immediate_keep | apply engDataCmd_keep | apply KeepR.next)

theorem execEngStatusGet_keep {r : State} {s : State} (h : Keep r s) :
    KeepR r (execEngStatusGet s) := by
  unfold execEngStatusGet
  with_reducible repeat' (first | assumption | apply engStatusCmd_keep | apply immediate_keep | apply KeepR.next)

theorem execEngCountersGet_keep {r : State} {s : State} (h : Keep r s) :
    KeepR r (execEngCountersGet s) := by
  unfold execEngCountersGet
  with_reducible repeat' (first | assumption | apply engCountersCmd_keep | apply immediate_keep | apply KeepR.next)

theorem execEngSampleRead_keep {r : State} {s : State} (h : Keep r s) :
    KeepR r (execEngSampleRead s) := by
  unfold execEngSampleRead
  with_reducible repeat' (first | assumption | apply engSampleCmd_keep | apply immediate_keep | apply KeepR.next)

theorem execEngBaseSet_keep {r : State} {s : State} (h : Keep r s) :
    KeepR r (execEngBaseSet s) := by
  unfold execEngBaseSet
  with_reducible repeat' (first | assumption | apply engBaseCmd_keep | apply immediate_keep | apply KeepR.next)

end Sys2Proof.Machine
end

