-- ==== Sys2Proof/Laws/KeepPorts.lean ====
section
/-! SUPPORT. Each operation of the lanes and the wire ports keeps the build, the queue and the invariant. -/

namespace Sys2Proof.Machine

open Sys2Proof

/-! ## Mac -/

theorem beginWake_keep {r : State} {cause : Nat} {pat : Nat} {port : Nat} {s : State} (h : Keep r s) :
    Keep r (beginWake cause pat port s) := by
  unfold beginWake
  with_reducible repeat' (first | assumption | apply bump_keep | apply driveReqs_keep | apply Keep.updPwr)

theorem wakeCause_keep {r : State} {cause : Nat} {pat : Nat} {port : Nat} {s : State} (h : Keep r s) :
    Keep r (wakeCause cause pat port s) := by
  unfold wakeCause
  with_reducible repeat' (first | assumption | apply Keep.ite | apply beginWake_keep | apply Keep.updPwr | intro _ | split)

theorem watchStore_keep {r : State} {n : Nat} {time : Nat} {d : Bytes} {s : State} (h : Keep r s) :
    Keep r (watchStore n time d s) := by
  unfold watchStore
  with_reducible repeat' (first | assumption | apply Keep.ite | apply bump_keep | apply Keep.updPwr | intro _ | split | dsimp only)

theorem watchWhole_keep {r : State} {n : Nat} {time : Nat} {rx : RxFrame} {s : State} (h : Keep r s) :
    Keep r (watchWhole n time rx s) := by
  unfold watchWhole
  with_reducible repeat' (first | assumption | apply Keep.ite | apply bump_keep | apply wakeCause_keep | apply watchStore_keep | intro _ | split | dsimp only)

theorem watchPacket_keep {r : State} {n : Nat} {rx : RxFrame} {s : State} (h : Keep r s) :
    Keep r (watchPacket n rx s) := by
  unfold watchPacket
  with_reducible repeat' (first | assumption | apply Keep.ite | apply bump_keep | apply setPort_keep | apply watchWhole_keep | intro _ | split | dsimp only)

theorem watchRx_keep {r : State} {n : Nat} {rx : RxFrame} {s : State} (h : Keep r s) :
    Keep r (watchRx n rx s) := by
  unfold watchRx
  with_reducible repeat' (first | assumption | apply Keep.ite | apply watchPacket_keep | intro _)

theorem execWatchRxFrame_keep {r : State} {n : Nat} {rx : RxFrame} {s : State} (h : Keep r s) :
    KeepR r (execWatchRxFrame n rx s) := by
  unfold execWatchRxFrame
  with_reducible repeat' (first | assumption | apply watchRx_keep | apply KeepR.next)

/-! ## Link -/

theorem setLane_keep {r : State} {n : Nat} {f : Lane → Lane} {s : State} (h : Keep r s) :
    Keep r (setLane n f s) := by
  unfold setLane
  with_reducible repeat' (first | assumption | apply Keep.updLanes)

theorem laneCount_keep {r : State} {n : Nat} {k : Nat} {v : Nat} {s : State} (h : Keep r s) :
    Keep r (laneCount n k v s) := by
  unfold laneCount
  with_reducible repeat' (first | assumption | apply setLane_keep)

theorem laneEvent_keep {r : State} {code : Nat} {n : Nat} {d : Bytes} {s : State} (h : Keep r s) :
    Keep r (laneEvent code n d s) := by
  unfold laneEvent
  with_reducible repeat' (first | assumption | apply raise0_keep)

theorem abandonTraining_keep {r : State} {n : Nat} {s : State} (h : Keep r s) :
    Keep r (abandonTraining n s) := by
  unfold abandonTraining
  with_reducible repeat' (first | assumption | apply Keep.ite | apply laneEvent_keep | apply setLane_keep | intro _)

theorem startTraining_keep {r : State} {n : Nat} {s : State} (h : Keep r s) :
    Keep r (startTraining n s) := by
  unfold startTraining
  with_reducible repeat' (first | assumption | apply setLane_keep)

theorem tryTraining_keep {r : State} {n : Nat} {s : State} (h : Keep r s) :
    Keep r (tryTraining n s) := by
  unfold tryTraining
  with_reducible repeat' (first | assumption | apply Keep.ite | apply startTraining_keep | intro _)

theorem setGc_keep {r : State} {n : Nat} {f : GenChk → GenChk} {s : State} (h : Keep r s) :
    Keep r (setGc n f s) := by
  unfold setGc
  with_reducible repeat' (first | assumption | apply Keep.updMt)

theorem genSent_keep {r : State} {n : Nat} {s : State} (h : Keep r s) :
    Keep r (genSent n s) := by
  unfold genSent
  with_reducible repeat' (first | assumption | apply Keep.ite | apply raise0_keep | apply setGc_keep | intro _)

theorem abortTx_keep {r : State} {n : Nat} {t : TxFrame} {s : State} (h : Keep r s) :
    Keep r (abortTx n t s) := by
  unfold abortTx
  with_reducible repeat' (first | assumption | apply Keep.ite | apply bump_keep | apply dropDirect_keep | apply genSent_keep | apply releaseOwner_keep | apply unpinBuf_keep | intro _ | split)

theorem headBack_keep {r : State} {n : Nat} {t : TxFrame} {s : State} (h : Keep r s) :
    Keep r (headBack n t s) := by
  unfold headBack
  with_reducible repeat' (first | assumption | apply dropDirect_keep | apply setWire_keep | apply unpinBuf_keep | intro _ | split | dsimp only)

theorem endSending_keep {r : State} {n : Nat} {t : TxFrame} {s : State} (h : Keep r s) :
    Keep r (endSending n t s) := by
  unfold endSending
  with_reducible repeat' (first | assumption | apply Keep.ite | apply abortTx_keep | apply headBack_keep | intro _ | split | dsimp only)

theorem dropWireQueues_keep {r : State} {n : Nat} {s : State} (h : Keep r s) :
    Keep r (dropWireQueues n s) := by
  unfold dropWireQueues
  with_reducible repeat' (first | assumption | apply bump_keep | apply releaseOwner_keep | apply clearWire_keep | apply Keep.foldl | intro _)

theorem linkEvent_keep {r : State} {n : Nat} {up : Nat} {cause : Nat} {s : State} (h : Keep r s) :
    Keep r (linkEvent n up cause s) := by
  unfold linkEvent
  with_reducible repeat' (first | assumption | apply raise0_keep)

theorem linkWake_keep {r : State} {n : Nat} {s : State} (h : Keep r s) :
    Keep r (linkWake n s) := by
  unfold linkWake
  with_reducible repeat' (first | assumption | apply Keep.ite | apply wakeCause_keep | intro _)

theorem linkFall_keep {r : State} {n : Nat} {s : State} (h : Keep r s) :
    Keep r (linkFall n s) := by
  unfold linkFall
  with_reducible repeat' (first | assumption | apply Keep.ite | apply abortTx_keep | apply bump_keep | apply dropWireQueues_keep | apply endSending_keep | apply setPort_keep | intro _ | split | dsimp only)

theorem linkDown_keep {r : State} {n : Nat} {cause : Nat} {s : State} (h : Keep r s) :
    Keep r (linkDown n cause s) := by
  unfold linkDown
  with_reducible repeat' (first | assumption | apply Keep.ite | apply linkEvent_keep | apply linkFall_keep | apply linkWake_keep | intro _ | split | dsimp only)

theorem checkLink_keep {r : State} {n : Nat} {s : State} (h : Keep r s) :
    Keep r (checkLink n s) := by
  unfold checkLink
  with_reducible repeat' (first | assumption | apply Keep.ite | apply linkDown_keep | intro _ | split)

theorem anEnd_keep {r : State} {n : Nat} {outcome : Nat} {s : State} (h : Keep r s) :
    Keep r (anEnd n outcome s) := by
  unfold anEnd
  with_reducible repeat' (first | assumption | apply raise0_keep | apply setPort_keep)

theorem anRestart_keep {r : State} {n : Nat} {s : State} (h : Keep r s) :
    Keep r (anRestart n s) := by
  unfold anRestart
  with_reducible repeat' (first | assumption | apply abandonTraining_keep | apply bump_keep | apply linkDown_keep | apply setLane_keep | apply setPort_keep | apply tryTraining_keep | intro _ | split)

theorem judgeRetired_keep {r : State} {s : State} (h : Keep r s) :
    Keep r (judgeRetired s) := by
  unfold judgeRetired
  with_reducible repeat' (first | assumption | apply setService_keep)

theorem laneDone_keep {r : State} {n : Nat} {reason : Nat} {s : State} (h : Keep r s) :
    Keep r (laneDone n reason s) := by
  unfold laneDone
  with_reducible repeat' (first | assumption | apply laneEvent_keep)

theorem retireLane_keep {r : State} {n : Nat} {cause : Nat} {s : State} (h : Keep r s) :
    Keep r (retireLane n cause s) := by
  unfold retireLane
  with_reducible repeat' (first | assumption | apply Keep.ite | apply linkDown_keep | apply logFault_keep | apply laneEvent_keep | apply judgeRetired_keep | apply laneDone_keep | apply driveReqs_keep | apply abandonTraining_keep | apply setLane_keep | simp only [KeepF.pair] | intro _)

theorem returnLane_keep {r : State} {n : Nat} {s : State} (h : Keep r s) :
    Keep r (returnLane n s) := by
  unfold returnLane
  with_reducible repeat' (first | assumption | apply laneEvent_keep | apply judgeRetired_keep | apply driveReqs_keep | apply setLane_keep)

/-! ## Line -/

theorem echoRx_keep {r : State} {n : Nat} {rx : RxFrame} {s : State} (h : Keep r s) :
    Keep r (echoRx n rx s) := by
  unfold echoRx
  with_reducible repeat' (first | assumption | apply Keep.ite | apply setLane_keep | intro _ | split | dsimp only)

theorem countWord_keep {r : State} {n : Nat} {o : LineOut} {s : State} (h : Keep r s) :
    Keep r (countWord n o s) := by
  unfold countWord
  with_reducible repeat' (first | assumption | apply Keep.ite | apply setLane_keep | apply setPort_keep | intro _ | split | dsimp only)

theorem sendBlock_keep {r : State} {n : Nat} {data : Bool} {p : List Bool} {s : State} (h : Keep r s) :
    Keep r (sendBlock n data p s) := by
  unfold sendBlock
  with_reducible repeat' (first | assumption | apply Keep.ite | apply setLane_keep | intro _ | split | dsimp only)

theorem sendWord_keep {r : State} {n : Nat} {s : State} (h : Keep r s) :
    Keep r (sendWord n s) := by
  unfold sendWord
  with_reducible repeat' (first | assumption | apply Keep.ite | apply countWord_keep | apply draw_keep | apply sendBlock_keep | apply setLane_keep | simp only [KeepS.pair] | apply KeepS.snd | (refine KeepS.elim (by assumption) ?_) | intro _ | split | dsimp only)

/-! ## Lanes -/

theorem setCoefs_keep {r : State} {n : Nat} {bring : Bool} {s : State} (h : Keep r s) :
    Keep r (setCoefs n bring s) := by
  unfold setCoefs
  with_reducible repeat' (first | assumption | apply Keep.ite | apply draw_keep | apply setLane_keep | simp only [KeepF.pair] | apply KeepS.snd | intro _)

theorem setSwing_keep {r : State} {n : Nat} {s : State} (h : Keep r s) :
    Keep r (setSwing n s) := by
  unfold setSwing
  with_reducible repeat' (first | assumption | apply setLane_keep | intro _ | split)

theorem seedGen_keep {r : State} {n : Nat} {s : State} (h : Keep r s) :
    Keep r (seedGen n s) := by
  unfold seedGen
  with_reducible repeat' (first | assumption | apply Keep.ite | apply draw_keep | apply setLane_keep | simp only [KeepS.pair] | apply KeepS.snd | (refine KeepS.elim (by assumption) ?_) | intro _ | split)

theorem losCounted_keep {r : State} {n : Nat} {s : State} (h : Keep r s) :
    Keep r (losCounted n s) := by
  unfold losCounted
  with_reducible repeat' (first | assumption | apply laneEvent_keep | apply abandonTraining_keep | apply laneCount_keep | apply setLane_keep | apply checkLink_keep)

theorem settleLos_keep {r : State} {n : Nat} {s : State} (h : Keep r s) :
    Keep r (settleLos n s) := by
  unfold settleLos
  with_reducible repeat' (first | assumption | apply Keep.ite | apply checkLink_keep | apply losCounted_keep | intro _ | split)

theorem txLpiEnter_keep {r : State} {n : Nat} {s : State} (h : Keep r s) :
    Keep r (txLpiEnter n s) := by
  unfold txLpiEnter
  with_reducible repeat' (first | assumption | apply Keep.ite | apply laneCount_keep | apply setLane_keep | intro _)

theorem lpiTake_keep {r : State} {n : Nat} {s : State} (h : Keep r s) :
    Keep r (lpiTake n s) := by
  unfold lpiTake
  with_reducible repeat' (first | assumption | apply Keep.ite | apply txLpiEnter_keep | intro _ | split | dsimp only)

theorem applyOne_keep {r : State} {n : Nat} {s : State} (h : Keep r s) :
    Keep r (applyOne n s) := by
  unfold applyOne
  with_reducible repeat' (first | assumption | apply Keep.ite | apply abandonTraining_keep | apply anEnd_keep | apply checkOcc_keep | apply endLpi_keep | apply laneDone_keep | apply linkDown_keep | apply lpiTake_keep | apply seedGen_keep | apply setCoefs_keep | apply setLane_keep | apply setPort_keep | apply setSwing_keep | apply settleLos_keep | apply tryTraining_keep | intro _ | split | dsimp only)

theorem recordApply_keep {r : State} {mask : Nat} {s : State} (h : Keep r s) :
    Keep r (recordApply mask s) := by
  unfold recordApply
  with_reducible repeat' (first | assumption | apply setLane_keep | apply setPort_keep | apply Keep.foldl | intro _)

theorem applyLanes_keep {r : State} {mask : Nat} {s : State} (h : Keep r s) :
    Keep r (applyLanes mask s) := by
  unfold applyLanes
  with_reducible repeat' (first | assumption | apply Keep.ite | apply laneDone_keep | apply applyOne_keep | apply recordApply_keep | apply Keep.updLanes | apply driveReqs_keep | apply Keep.foldl | simp only [KeepF.pair] | intro _)

theorem lnApply_keep {r : State} {mask : Nat} {s : State} (h : Keep r s) :
    Keep r (lnApply mask s) := by
  unfold lnApply
  with_reducible repeat' (first | assumption | apply Keep.ite | apply regWrite_keep | apply applyLanes_keep | intro _)

theorem errInject_keep {r : State} {n : Nat} {s : State} (h : Keep r s) :
    Keep r (errInject n s) := by
  unfold errInject
  with_reducible repeat' (first | assumption | apply Keep.ite | apply regWrite_keep | apply setLane_keep | intro _)

theorem losAssert_keep {r : State} {n : Nat} {s : State} (h : Keep r s) :
    Keep r (losAssert n s) := by
  unfold losAssert
  with_reducible repeat' (first | assumption | apply Keep.ite | apply setLane_keep | apply losCounted_keep | intro _)

theorem losDeassert_keep {r : State} {n : Nat} {s : State} (h : Keep r s) :
    Keep r (losDeassert n s) := by
  unfold losDeassert
  with_reducible repeat' (first | assumption | apply Keep.ite | apply laneCount_keep | apply laneEvent_keep | apply setLane_keep | intro _ | split)

theorem cdrLock_keep {r : State} {n : Nat} {s : State} (h : Keep r s) :
    Keep r (cdrLock n s) := by
  unfold cdrLock
  with_reducible repeat' (first | assumption | apply Keep.ite | apply laneEvent_keep | apply setLane_keep | intro _)

theorem cdrLockLoss_keep {r : State} {n : Nat} {s : State} (h : Keep r s) :
    Keep r (cdrLockLoss n s) := by
  unfold cdrLockLoss
  with_reducible repeat' (first | assumption | apply Keep.ite | apply laneEvent_keep | apply laneCount_keep | apply setLane_keep | apply checkLink_keep | intro _)

theorem pllLock_keep {r : State} {n : Nat} {s : State} (h : Keep r s) :
    Keep r (pllLock n s) := by
  unfold pllLock
  with_reducible repeat' (first | assumption | apply Keep.ite | apply laneDone_keep | apply lpiTake_keep | apply setLane_keep | intro _ | split | dsimp only)

theorem pllStartFail_keep {r : State} {n : Nat} {s : State} (h : Keep r s) :
    Keep r (pllStartFail n s) := by
  unfold pllStartFail
  with_reducible repeat' (first | assumption | apply Keep.ite | apply retireLane_keep | apply setLane_keep | simp only [KeepF.pair] | intro _)

theorem pllRetry_keep {r : State} {n : Nat} {s : State} (h : Keep r s) :
    Keep r (pllRetry n s) := by
  unfold pllRetry
  with_reducible repeat' (first | assumption | apply Keep.ite | apply setLane_keep | intro _)

theorem pllLockLoss_keep {r : State} {n : Nat} {s : State} (h : Keep r s) :
    Keep r (pllLockLoss n s) := by
  unfold pllLockLoss
  with_reducible repeat' (first | assumption | apply Keep.ite | apply laneCount_keep | apply setLane_keep | intro _)

theorem rxReadyRise_keep {r : State} {n : Nat} {ctle : Nat} {dfe : List Int} {s : State} (h : Keep r s) :
    Keep r (rxReadyRise n ctle dfe s) := by
  unfold rxReadyRise
  with_reducible repeat' (first | assumption | apply Keep.ite | apply setLane_keep | apply tryTraining_keep | intro _)

theorem alignGain_keep {r : State} {n : Nat} {s : State} (h : Keep r s) :
    Keep r (alignGain n s) := by
  unfold alignGain
  with_reducible repeat' (first | assumption | apply Keep.ite | apply setLane_keep | apply tryTraining_keep | intro _)

theorem alignLoss_keep {r : State} {n : Nat} {s : State} (h : Keep r s) :
    Keep r (alignLoss n s) := by
  unfold alignLoss
  with_reducible repeat' (first | assumption | apply Keep.ite | apply setLane_keep | apply checkLink_keep | intro _)

theorem blockLock_keep {r : State} {n : Nat} {s : State} (h : Keep r s) :
    Keep r (blockLock n s) := by
  unfold blockLock
  with_reducible repeat' (first | assumption | apply Keep.ite | apply alignGain_keep | intro _)

theorem blockSlip_keep {r : State} {n : Nat} {s : State} (h : Keep r s) :
    Keep r (blockSlip n s) := by
  unfold blockSlip
  with_reducible repeat' (first | assumption | apply Keep.ite | apply alignLoss_keep | intro _)

theorem codeGroupSync_keep {r : State} {n : Nat} {gained : Bool} {s : State} (h : Keep r s) :
    Keep r (codeGroupSync n gained s) := by
  unfold codeGroupSync
  with_reducible repeat' (first | assumption | apply Keep.ite | apply alignGain_keep | apply alignLoss_keep | intro _)

theorem ctcStep_keep {r : State} {n : Nat} {k : Nat} {fill : Nat} {s : State} (h : Keep r s) :
    Keep r (ctcStep n k fill s) := by
  unfold ctcStep
  with_reducible repeat' (first | assumption | apply Keep.ite | apply laneCount_keep | apply setLane_keep | intro _)

theorem ctcInsert_keep {r : State} {n : Nat} {fill : Nat} {s : State} (h : Keep r s) :
    Keep r (ctcInsert n fill s) := by
  unfold ctcInsert
  with_reducible repeat' (first | assumption | apply Keep.ite | apply ctcStep_keep | apply setLane_keep | intro _ | split)

theorem ctcDelete_keep {r : State} {n : Nat} {fill : Nat} {s : State} (h : Keep r s) :
    Keep r (ctcDelete n fill s) := by
  unfold ctcDelete
  with_reducible repeat' (first | assumption | apply Keep.ite | apply ctcStep_keep | apply setLane_keep | intro _ | split)

theorem ctcSlip_keep {r : State} {n : Nat} {s : State} (h : Keep r s) :
    Keep r (ctcSlip n s) := by
  unfold ctcSlip
  with_reducible repeat' (first | assumption | apply Keep.ite | apply ctcStep_keep | apply setPort_keep | intro _)

theorem trainingRequest_keep {r : State} {n : Nat} {req : TrainReq} {s : State} (h : Keep r s) :
    Keep r (trainingRequest n req s) := by
  unfold trainingRequest
  with_reducible repeat' (first | assumption | apply Keep.ite | apply setLane_keep | intro _)

theorem trained_keep {r : State} {n : Nat} {s : State} (h : Keep r s) :
    Keep r (trained n s) := by
  unfold trained
  with_reducible repeat' (first | assumption | apply Keep.ite | apply laneEvent_keep | apply setLane_keep | intro _)

theorem trainingTimeout_keep {r : State} {n : Nat} {s : State} (h : Keep r s) :
    Keep r (trainingTimeout n s) := by
  unfold trainingTimeout
  with_reducible repeat' (first | assumption | apply Keep.ite | apply laneEvent_keep | apply anEnd_keep | apply laneCount_keep | apply setLane_keep | apply setPort_keep | simp only [KeepF.pair] | intro _)

theorem txLpiTimer_keep {r : State} {n : Nat} {s : State} (h : Keep r s) :
    Keep r (txLpiTimer n s) := by
  unfold txLpiTimer
  with_reducible repeat' (first | assumption | apply Keep.ite | apply setLane_keep | intro _)

theorem rxSleep_keep {r : State} {n : Nat} {s : State} (h : Keep r s) :
    Keep r (rxSleep n s) := by
  unfold rxSleep
  with_reducible repeat' (first | assumption | apply laneCount_keep | apply setLane_keep)

theorem rxLpiBlocks_keep {r : State} {n : Nat} {lpi : Bool} {s : State} (h : Keep r s) :
    Keep r (rxLpiBlocks n lpi s) := by
  unfold rxLpiBlocks
  with_reducible repeat' (first | assumption | apply Keep.ite | apply setLane_keep | apply rxSleep_keep | apply checkLink_keep | intro _ | split)

theorem rxLpiFault_keep {r : State} {n : Nat} {cause : Nat} {s : State} (h : Keep r s) :
    Keep r (rxLpiFault n cause s) := by
  unfold rxLpiFault
  with_reducible repeat' (first | assumption | apply Keep.ite | apply laneEvent_keep | apply laneCount_keep | apply setLane_keep | apply checkLink_keep | apply losCounted_keep | simp only [KeepF.pair] | intro _)

theorem prbsCount_keep {r : State} {n : Nat} {errs : Nat} {mbits : Nat} {s : State} (h : Keep r s) :
    Keep r (prbsCount n errs mbits s) := by
  unfold prbsCount
  with_reducible repeat' (first | assumption | apply laneCount_keep | apply setLane_keep)

theorem prbsLock_keep {r : State} {n : Nat} {bs : List Bool} {errs : Nat} {mbits : Nat} {s : State} (h : Keep r s) :
    Keep r (prbsLock n bs errs mbits s) := by
  unfold prbsLock
  with_reducible repeat' (first | assumption | apply Keep.ite | apply prbsCount_keep | apply setLane_keep | intro _ | split)

theorem prbsLockLoss_keep {r : State} {n : Nat} {errs : Nat} {mbits : Nat} {s : State} (h : Keep r s) :
    Keep r (prbsLockLoss n errs mbits s) := by
  unfold prbsLockLoss
  with_reducible repeat' (first | assumption | apply Keep.ite | apply prbsCount_keep | apply laneCount_keep | apply setLane_keep | intro _)

theorem prbsDone_keep {r : State} {n : Nat} {errs : Nat} {s : State} (h : Keep r s) :
    Keep r (prbsDone n errs s) := by
  unfold prbsDone
  with_reducible repeat' (first | assumption | apply Keep.ite | apply prbsCount_keep | apply setLane_keep | intro _)

theorem execLnApply_keep {r : State} {mask : Nat} {s : State} (h : Keep r s) :
    KeepR r (execLnApply mask s) := by
  unfold execLnApply
  with_reducible repeat' (first | assumption | apply lnApply_keep | apply KeepR.next)

theorem execErrInject_keep {r : State} {n : Nat} {s : State} (h : Keep r s) :
    KeepR r (execErrInject n s) := by
  unfold execErrInject
  with_reducible repeat' (first | assumption | apply errInject_keep | apply KeepR.next)

theorem execLosAssert_keep {r : State} {n : Nat} {s : State} (h : Keep r s) :
    KeepR r (execLosAssert n s) := by
  unfold execLosAssert
  with_reducible repeat' (first | assumption | apply losAssert_keep | apply KeepR.next)

theorem execLosDeassert_keep {r : State} {n : Nat} {s : State} (h : Keep r s) :
    KeepR r (execLosDeassert n s) := by
  unfold execLosDeassert
  with_reducible repeat' (first | assumption | apply losDeassert_keep | apply KeepR.next)

theorem execCdrLock_keep {r : State} {n : Nat} {s : State} (h : Keep r s) :
    KeepR r (execCdrLock n s) := by
  unfold execCdrLock
  with_reducible repeat' (first | assumption | apply cdrLock_keep | apply KeepR.next)

theorem execCdrLockLoss_keep {r : State} {n : Nat} {s : State} (h : Keep r s) :
    KeepR r (execCdrLockLoss n s) := by
  unfold execCdrLockLoss
  with_reducible repeat' (first | assumption | apply cdrLockLoss_keep | apply KeepR.next)

theorem execPllLock_keep {r : State} {n : Nat} {s : State} (h : Keep r s) :
    KeepR r (execPllLock n s) := by
  unfold execPllLock
  with_reducible repeat' (first | assumption | apply pllLock_keep | apply KeepR.next)

theorem execPllStartFail_keep {r : State} {n : Nat} {s : State} (h : Keep r s) :
    KeepR r (execPllStartFail n s) := by
  unfold execPllStartFail
  with_reducible repeat' (first | assumption | apply pllStartFail_keep | apply KeepR.next)

theorem execPllRetry_keep {r : State} {n : Nat} {s : State} (h : Keep r s) :
    KeepR r (execPllRetry n s) := by
  unfold execPllRetry
  with_reducible repeat' (first | assumption | apply pllRetry_keep | apply KeepR.next)

theorem execPllLockLoss_keep {r : State} {n : Nat} {s : State} (h : Keep r s) :
    KeepR r (execPllLockLoss n s) := by
  unfold execPllLockLoss
  with_reducible repeat' (first | assumption | apply pllLockLoss_keep | apply KeepR.next)

theorem execRxReady_keep {r : State} {n : Nat} {ctle : Nat} {dfe : List Int} {s : State} (h : Keep r s) :
    KeepR r (execRxReady n ctle dfe s) := by
  unfold execRxReady
  with_reducible repeat' (first | assumption | apply rxReadyRise_keep | apply KeepR.next)

theorem execBlockLock_keep {r : State} {n : Nat} {s : State} (h : Keep r s) :
    KeepR r (execBlockLock n s) := by
  unfold execBlockLock
  with_reducible repeat' (first | assumption | apply blockLock_keep | apply KeepR.next)

theorem execBlockSlip_keep {r : State} {n : Nat} {s : State} (h : Keep r s) :
    KeepR r (execBlockSlip n s) := by
  unfold execBlockSlip
  with_reducible repeat' (first | assumption | apply blockSlip_keep | apply KeepR.next)

theorem execCodeGroupSync_keep {r : State} {n : Nat} {g : Bool} {s : State} (h : Keep r s) :
    KeepR r (execCodeGroupSync n g s) := by
  unfold execCodeGroupSync
  with_reducible repeat' (first | assumption | apply codeGroupSync_keep | apply KeepR.next)

theorem execCtcInsert_keep {r : State} {n : Nat} {fill : Nat} {s : State} (h : Keep r s) :
    KeepR r (execCtcInsert n fill s) := by
  unfold execCtcInsert
  with_reducible repeat' (first | assumption | apply KeepR.next | apply ctcInsert_keep | intro _ | split)

theorem execCtcDelete_keep {r : State} {n : Nat} {fill : Nat} {s : State} (h : Keep r s) :
    KeepR r (execCtcDelete n fill s) := by
  unfold execCtcDelete
  with_reducible repeat' (first | assumption | apply KeepR.next | apply ctcDelete_keep | intro _ | split)

theorem execCtcSlip_keep {r : State} {n : Nat} {s : State} (h : Keep r s) :
    KeepR r (execCtcSlip n s) := by
  unfold execCtcSlip
  with_reducible repeat' (first | assumption | apply ctcSlip_keep | apply KeepR.next)

theorem execTrainingRequest_keep {r : State} {n : Nat} {r1x : TrainReq} {s : State} (h : Keep r s) :
    KeepR r (execTrainingRequest n r1x s) := by
  unfold execTrainingRequest
  with_reducible repeat' (first | assumption | apply trainingRequest_keep | apply KeepR.next)

theorem execTrained_keep {r : State} {n : Nat} {s : State} (h : Keep r s) :
    KeepR r (execTrained n s) := by
  unfold execTrained
  with_reducible repeat' (first | assumption | apply trained_keep | apply KeepR.next)

theorem execTrainingTimeout_keep {r : State} {n : Nat} {s : State} (h : Keep r s) :
    KeepR r (execTrainingTimeout n s) := by
  unfold execTrainingTimeout
  with_reducible repeat' (first | assumption | apply trainingTimeout_keep | apply KeepR.next)

theorem execTxLpiTimer_keep {r : State} {n : Nat} {s : State} (h : Keep r s) :
    KeepR r (execTxLpiTimer n s) := by
  unfold execTxLpiTimer
  with_reducible repeat' (first | assumption | apply txLpiTimer_keep | apply KeepR.next)

theorem execRxLpiBlocks_keep {r : State} {n : Nat} {lpi : Bool} {s : State} (h : Keep r s) :
    KeepR r (execRxLpiBlocks n lpi s) := by
  unfold execRxLpiBlocks
  with_reducible repeat' (first | assumption | apply rxLpiBlocks_keep | apply KeepR.next)

theorem execRxLpiFault_keep {r : State} {n : Nat} {cause : Nat} {s : State} (h : Keep r s) :
    KeepR r (execRxLpiFault n cause s) := by
  unfold execRxLpiFault
  with_reducible repeat' (first | assumption | apply rxLpiFault_keep | apply KeepR.next)

theorem execPrbsLock_keep {r : State} {n : Nat} {bs : List Bool} {errs : Nat} {mbits : Nat} {s : State} (h : Keep r s) :
    KeepR r (execPrbsLock n bs errs mbits s) := by
  unfold execPrbsLock
  with_reducible repeat' (first | assumption | apply KeepR.next | apply prbsLock_keep | intro _ | split)

theorem execPrbsLockLoss_keep {r : State} {n : Nat} {errs : Nat} {mbits : Nat} {s : State} (h : Keep r s) :
    KeepR r (execPrbsLockLoss n errs mbits s) := by
  unfold execPrbsLockLoss
  with_reducible repeat' (first | assumption | apply prbsLockLoss_keep | apply KeepR.next)

theorem execPrbsDone_keep {r : State} {n : Nat} {errs : Nat} {s : State} (h : Keep r s) :
    KeepR r (execPrbsDone n errs s) := by
  unfold execPrbsDone
  with_reducible repeat' (first | assumption | apply prbsDone_keep | apply KeepR.next)

/-! ## Capture -/

theorem setTrg_keep {r : State} {t : Nat} {f : Trg → Trg} {s : State} (h : Keep r s) :
    Keep r (setTrg t f s) := by
  unfold setTrg
  with_reducible repeat' (first | assumption | apply Keep.updTime)

theorem setCap_keep {r : State} {c : Nat} {f : CapCh → CapCh} {s : State} (h : Keep r s) :
    Keep r (setCap c f s) := by
  unfold setCap
  with_reducible repeat' (first | assumption | apply Keep.updTime)

theorem markStep_keep {r : State} {k : Nat} {s : State} (h : Keep r s) :
    Keep r (markStep k s) := by
  unfold markStep
  with_reducible repeat' (first | assumption | apply Keep.ite | apply Keep.updTime | intro _ | split | dsimp only)

theorem capAccept_keep {r : State} {c : Nat} {delay : Nat} {s : State} (h : Keep r s) :
    Keep r (capAccept c delay s) := by
  unfold capAccept
  with_reducible repeat' (first | assumption | apply Keep.ite | apply bump_keep | apply raiseTime1_keep | apply raise0_keep | apply setCap_keep | simp only [KeepF.pair] | intro _)

theorem trgCaptures_keep {r : State} {t : Nat} {s : State} (h : Keep r s) :
    Keep r (trgCaptures t s) := by
  unfold trgCaptures
  with_reducible repeat' (first | assumption | apply Keep.ite | apply capAccept_keep | apply Keep.foldl | simp only [KeepF.pair] | intro _)

/-! ## Ports -/

theorem bwAdd_keep {r : State} {n : Nat} {rx : Bool} {octets : Nat} {s : State} (h : Keep r s) :
    Keep r (bwAdd n rx octets s) := by
  unfold bwAdd
  with_reducible repeat' (first | assumption | apply Keep.updMt)

theorem pauseClass_keep {r : State} {n : Nat} {k : Nat} {q : Nat} {s : State} (h : Keep r s) :
    Keep r (pauseClass n k q s) := by
  unfold pauseClass
  with_reducible repeat' (first | assumption | apply setPort_keep)

theorem rxControl_keep {r : State} {n : Nat} {d : Bytes} {s : State} (h : Keep r s) :
    Keep r (rxControl n d s) := by
  unfold rxControl
  with_reducible repeat' (first | assumption | apply Keep.ite | apply bump_keep | apply pauseClass_keep | apply Keep.foldl | simp only [KeepF.pair] | intro _ | split)

theorem chkFrame_keep {r : State} {n : Nat} {time7 : Nat} {d : Bytes} {s : State} (h : Keep r s) :
    Keep r (chkFrame n time7 d s) := by
  unfold chkFrame
  with_reducible repeat' (first | assumption | apply Keep.ite | apply setGc_keep | intro _ | split | dsimp only)

theorem rxOffer_keep {r : State} {n : Nat} {d : Bytes} {a2x : RxSet} {wlen : Nat} {wake : Bool} {s : State} (h : Keep r s) :
    Keep r (rxOffer n d a2x wlen wake s) := by
  unfold rxOffer
  with_reducible repeat' (first | assumption | apply allocBuf_keep | apply bump_keep | apply countFailed_keep | apply Keep.updPipe | simp only [KeepS.pair] | apply KeepS.snd | (refine KeepS.elim (by assumption) ?_) | intro _ | split)

theorem rxAdmit_keep {r : State} {n : Nat} {d : Bytes} {a2x : RxSet} {s : State} (h : Keep r s) :
    Keep r (rxAdmit n d a2x s) := by
  unfold rxAdmit
  with_reducible repeat' (first | assumption | apply Keep.ite | apply bump_keep | apply rxOffer_keep | intro _ | split)

theorem rxWhole_keep {r : State} {n : Nat} {rx : RxFrame} {a2x : RxSet} {s : State} (h : Keep r s) :
    Keep r (rxWhole n rx a2x s) := by
  unfold rxWhole
  with_reducible repeat' (first | assumption | apply Keep.ite | apply bump_keep | apply bwAdd_keep | apply chkFrame_keep | apply rxAdmit_keep | apply rxControl_keep | intro _ | split | dsimp only)

theorem rxRespond_keep {r : State} {n : Nat} {s : State} (h : Keep r s) :
    Keep r (rxRespond n s) := by
  unfold rxRespond
  with_reducible repeat' (first | assumption | apply Keep.ite | apply raise0_keep | apply setPort_keep | intro _)

theorem rxPacket_keep {r : State} {n : Nat} {rx : RxFrame} {s : State} (h : Keep r s) :
    Keep r (rxPacket n rx s) := by
  unfold rxPacket
  with_reducible repeat' (first | assumption | apply Keep.ite | apply bump_keep | apply rxRespond_keep | apply rxWhole_keep | apply setPort_keep | apply Keep.foldl | apply KeepS.foldl | apply KeepF.foldl | simp only [KeepF.pair] | apply KeepF.fst | (refine KeepF.elim (by assumption) ?_) | intro _ | split)

theorem fecCount_keep {r : State} {n : Nat} {rx : RxFrame} {s : State} (h : Keep r s) :
    Keep r (fecCount n rx s) := by
  unfold fecCount
  with_reducible repeat' (first | assumption | apply bumpN_keep | intro _ | split | dsimp only)

theorem discardRx_keep {r : State} {n : Nat} {rx : RxFrame} {s : State} (h : Keep r s) :
    Keep r (discardRx n rx s) := by
  unfold discardRx
  with_reducible repeat' (first | assumption | apply Keep.ite | apply bump_keep | apply setPort_keep | intro _ | split | dsimp only)

theorem lineRx_keep {r : State} {n : Nat} {rx : RxFrame} {s : State} (h : Keep r s) :
    Keep r (lineRx n rx s) := by
  unfold lineRx
  with_reducible repeat' (first | assumption | apply Keep.ite | apply discardRx_keep | apply fecCount_keep | apply rxPacket_keep | apply watchRx_keep | intro _ | split | dsimp only)

theorem wireRx_keep {r : State} {n : Nat} {rx : RxFrame} {s : State} (h : Keep r s) :
    Keep r (wireRx n rx s) := by
  unfold wireRx
  with_reducible repeat' (first | assumption | apply Keep.ite | apply echoRx_keep | apply lineRx_keep | intro _ | split | dsimp only)

theorem sendBack_keep {r : State} {n : Nat} {rx : RxFrame} {s : State} (h : Keep r s) :
    Keep r (sendBack n rx s) := by
  unfold sendBack
  with_reducible repeat' (first | assumption | apply Keep.ite | apply lineRx_keep | intro _)

theorem ownedFires_keep {r : State} {n : Nat} {next : Nat} {period : Nat} {s : State} (h : Keep r s) :
    Keep r (ownedFires n next period s) := by
  unfold ownedFires
  with_reducible repeat' (first | assumption | apply bump_keep | apply raiseTime0_keep | apply setTrg_keep | apply trgCaptures_keep | intro _ | split)

theorem ownTrigger_keep {r : State} {n : Nat} {g : Gcl} {s : State} (h : Keep r s) :
    Keep r (ownTrigger n g s) := by
  unfold ownTrigger
  with_reducible repeat' (first | assumption | apply Keep.ite | apply setTrg_keep | intro _)

theorem gclReposition_keep {r : State} {n : Nat} {s : State} (h : Keep r s) :
    Keep r (gclReposition n s) := by
  unfold gclReposition
  with_reducible repeat' (first | assumption | apply setPort_keep | simp only [KeepF.pair] | split)

theorem countOverrun_keep {r : State} {n : Nat} {before : Port} {s : State} (h : Keep r s) :
    Keep r (countOverrun n before s) := by
  unfold countOverrun
  with_reducible repeat' (first | assumption | apply Keep.ite | apply bump_keep | intro _ | split)

theorem timeTrigger_keep {r : State} {n : Nat} {s : State} (h : Keep r s) :
    Keep r (timeTrigger n s) := by
  unfold timeTrigger
  with_reducible repeat' (first | assumption | apply setTrg_keep | intro _ | split | dsimp only)

theorem gclStepPort_keep {r : State} {tb : Nat} {n : Nat} {s : State} (h : Keep r s) :
    Keep r (gclStepPort tb n s) := by
  unfold gclStepPort
  with_reducible repeat' (first | assumption | apply Keep.ite | apply countOverrun_keep | apply gclReposition_keep | apply setPort_keep | apply timeTrigger_keep | intro _ | split | dsimp only)

theorem gclStep_keep {r : State} {tb : Nat} {s : State} (h : Keep r s) :
    Keep r (gclStep tb s) := by
  unfold gclStep
  with_reducible repeat' (first | assumption | apply gclStepPort_keep | apply Keep.foldl | intro _)

theorem gclStart_keep {r : State} {n : Nat} {s : State} (h : Keep r s) :
    Keep r (gclStart n s) := by
  unfold gclStart
  with_reducible repeat' (first | assumption | apply ownedFires_keep | apply countOverrun_keep | apply raise0_keep | apply setTrg_keep | apply setPort_keep | simp only [KeepF.pair] | split)

theorem preempt_keep {r : State} {n : Nat} {x : Nat} {t : TxFrame} {s : State} (h : Keep r s) :
    Keep r (preempt n x t s) := by
  unfold preempt
  with_reducible repeat' (first | assumption | apply sendBack_keep | apply bump_keep | apply perf_keep | apply setPort_keep)

theorem gateMove_keep {r : State} {n : Nat} {i : Nat} {wrap : Bool} {g : Gcl} {s : State} (h : Keep r s) :
    Keep r (gateMove n i wrap g s) := by
  unfold gateMove
  with_reducible repeat' (first | assumption | apply Keep.ite | apply ownedFires_keep | apply preempt_keep | apply setPort_keep | intro _ | split | dsimp only)

theorem gateChange_keep {r : State} {n : Nat} {s : State} (h : Keep r s) :
    Keep r (gateChange n s) := by
  unfold gateChange
  with_reducible repeat' (first | assumption | apply Keep.ite | apply gateMove_keep | intro _ | split | dsimp only)

theorem gateCycle_keep {r : State} {n : Nat} {s : State} (h : Keep r s) :
    Keep r (gateCycle n s) := by
  unfold gateCycle
  with_reducible repeat' (first | assumption | apply Keep.ite | apply gateMove_keep | apply gclStart_keep | intro _ | split | dsimp only)

theorem startControl_keep {r : State} {n : Nat} {k : Nat} {q : Nat} {rest : List (Nat × Nat)} {s : State} (h : Keep r s) :
    Keep r (startControl n k q rest s) := by
  unfold startControl
  with_reducible repeat' (first | assumption | apply bump_keep | apply perf_keep | apply setPort_keep)

theorem startGen_keep {r : State} {n : Nat} {s : State} (h : Keep r s) :
    Keep r (startGen n s) := by
  unfold startGen
  with_reducible repeat' (first | assumption | apply perf_keep | apply setPort_keep)

theorem dropHead_keep {r : State} {n : Nat} {tc : Nat} {g : Nat} {i : Nat} {k : Nat} {e : QE} {s : State} (h : Keep r s) :
    Keep r (dropHead n tc g i k e s) := by
  unfold dropHead
  with_reducible repeat' (first | assumption | apply bump_keep | apply releaseOwner_keep | apply clearNom_keep)

theorem prepareHead_keep {r : State} {n : Nat} {tc : Nat} {a : Nat} {s : State} (h : Keep r s) :
    Keep r (prepareHead n tc a s) := by
  induction a generalizing n tc s with
  | zero =>
    simp only [prepareHead]
    exact h
  | succ n ih =>
    simp only [prepareHead]
    with_reducible repeat' (first | assumption | apply ih | apply Keep.ite | apply nominate_keep | apply dropHead_keep | intro _ | split)

theorem headFailed_keep {r : State} {n : Nat} {tc : Nat} {e : QE} {kind : Nat} {s : State} (h : Keep r s) :
    Keep r (headFailed n tc e kind s) := by
  unfold headFailed
  with_reducible repeat' (first | assumption | apply checkFail_keep | apply releaseOwner_keep | apply unpinBuf_keep | intro _ | split)

theorem beginHead_keep {r : State} {n : Nat} {tc : Nat} {e : QE} {s : State} (h : Keep r s) :
    Keep r (beginHead n tc e s) := by
  unfold beginHead
  with_reducible repeat' (first | assumption | apply Keep.ite | apply bump_keep | apply perf_keep | apply setPort_keep | apply setWire_keep | intro _ | split)

theorem startHead_keep {r : State} {n : Nat} {tc : Nat} {a2x : Nom} {s : State} (h : Keep r s) :
    Keep r (startHead n tc a2x s) := by
  unfold startHead
  with_reducible repeat' (first | assumption | apply Keep.ite | apply beginHead_keep | apply clearNom_keep | apply headFailed_keep | apply pinBuf_keep | apply setPort_keep | apply startDirect_keep | simp only [KeepS.pair] | apply KeepS.snd | (refine KeepS.elim (by assumption) ?_) | intro _ | split | dsimp only)

theorem wireRead_keep {r : State} {n : Nat} {h1x : Nat} {a2x : Xfer} {s : State} (h : Keep r s) :
    Keep r (wireRead n h1x a2x s) := by
  unfold wireRead
  with_reducible repeat' (first | assumption | apply Keep.ite | apply beginHead_keep | apply headBack_keep | apply headFailed_keep | apply setPort_keep | intro _ | split | dsimp only)

theorem resumeRem_keep {r : State} {n : Nat} {t : TxFrame} {s : State} (h : Keep r s) :
    Keep r (resumeRem n t s) := by
  unfold resumeRem
  with_reducible repeat' (first | assumption | apply setPort_keep)

theorem selectClass_keep {r : State} {n : Nat} {a : List Nat} {s : State} (h : Keep r s) :
    Keep r (selectClass n a s) := by
  induction a generalizing n s with
  | nil =>
    simp only [selectClass]
    exact h
  | cons x l ih =>
    simp only [selectClass]
    with_reducible repeat' (first | assumption | apply ih | apply Keep.ite | apply resumeRem_keep | apply prepareHead_keep | apply startHead_keep | intro _ | split)

theorem selectNow_keep {r : State} {n : Nat} {s : State} (h : Keep r s) :
    Keep r (selectNow n s) := by
  unfold selectNow
  with_reducible repeat' (first | assumption | apply Keep.ite | apply selectClass_keep | apply resumeRem_keep | apply startControl_keep | apply startGen_keep | intro _ | split)

theorem txSelect_keep {r : State} {n : Nat} {s : State} (h : Keep r s) :
    Keep r (txSelect n s) := by
  unfold txSelect
  with_reducible repeat' (first | assumption | apply Keep.ite | apply preempt_keep | apply prepareHead_keep | apply selectNow_keep | apply Keep.foldl | simp only [KeepF.pair] | intro _ | split)

theorem keepStamp_keep {r : State} {n : Nat} {t : TxFrame} {r2x : Bytes} {s : State} (h : Keep r s) :
    Keep r (keepStamp n t r2x s) := by
  unfold keepStamp
  with_reducible repeat' (first | assumption | apply Keep.ite | apply bump_keep | apply raise0_keep | apply setPort_keep | intro _)

theorem countTx_keep {r : State} {n : Nat} {t : TxFrame} {s : State} (h : Keep r s) :
    Keep r (countTx n t s) := by
  unfold countTx
  with_reducible repeat' (first | assumption | apply Keep.ite | apply bump_keep | apply bwAdd_keep | apply bumpN_keep | simp only [KeepF.pair] | intro _)

theorem txFrameDone_keep {r : State} {n : Nat} {s : State} (h : Keep r s) :
    Keep r (txFrameDone n s) := by
  unfold txFrameDone
  with_reducible repeat' (first | assumption | apply sendBack_keep | apply Keep.ite | apply releaseOwner_keep | apply genSent_keep | apply countTx_keep | apply keepStamp_keep | apply setPort_keep | apply unpinBuf_keep | simp only [KeepF.pair] | intro _ | split)

theorem pauseExpire_keep {r : State} {n : Nat} {tc : Nat} {s : State} (h : Keep r s) :
    Keep r (pauseExpire n tc s) := by
  unfold pauseExpire
  with_reducible repeat' (first | assumption | apply setPort_keep)

theorem pauseRefresh_keep {r : State} {n : Nat} {tc : Nat} {s : State} (h : Keep r s) :
    Keep r (pauseRefresh n tc s) := by
  unfold pauseRefresh
  with_reducible repeat' (first | assumption | apply Keep.ite | apply oweFc_keep | intro _)

theorem linkUp_keep {r : State} {n : Nat} {s : State} (h : Keep r s) :
    Keep r (linkUp n s) := by
  unfold linkUp
  with_reducible repeat' (first | assumption | apply Keep.ite | apply linkWake_keep | apply linkEvent_keep | apply setPort_keep | simp only [KeepF.pair] | intro _)

theorem linkHoldExpire_keep {r : State} {n : Nat} {s : State} (h : Keep r s) :
    Keep r (linkHoldExpire n s) := by
  unfold linkHoldExpire
  with_reducible repeat' (first | assumption | apply Keep.ite | apply dropWireQueues_keep | apply setPort_keep | intro _)

theorem hiBer_keep {r : State} {n : Nat} {on : Bool} {s : State} (h : Keep r s) :
    Keep r (hiBer n on s) := by
  unfold hiBer
  with_reducible repeat' (first | assumption | apply Keep.ite | apply bump_keep | apply checkLink_keep | apply setPort_keep | simp only [KeepF.pair] | intro _)

theorem fecLock_keep {r : State} {n : Nat} {on : Bool} {s : State} (h : Keep r s) :
    Keep r (fecLock n on s) := by
  unfold fecLock
  with_reducible repeat' (first | assumption | apply Keep.ite | apply checkLink_keep | apply setPort_keep | intro _)

theorem rxFault_keep {r : State} {n : Nat} {loc : Bool} {rem : Bool} {s : State} (h : Keep r s) :
    Keep r (rxFault n loc rem s) := by
  unfold rxFault
  with_reducible repeat' (first | assumption | apply Keep.ite | apply checkLink_keep | apply setPort_keep | intro _)

theorem anComplete_keep {r : State} {n : Nat} {outcome : Nat} {a : AnPartner} {s : State} (h : Keep r s) :
    Keep r (anComplete n outcome a s) := by
  unfold anComplete
  with_reducible repeat' (first | assumption | apply Keep.ite | apply anEnd_keep | apply setPort_keep | intro _ | split)

theorem anRestartTimer_keep {r : State} {n : Nat} {s : State} (h : Keep r s) :
    Keep r (anRestartTimer n s) := by
  unfold anRestartTimer
  with_reducible repeat' (first | assumption | apply Keep.ite | apply anRestart_keep | apply tryTraining_keep | apply setPort_keep | intro _)

theorem anLinkFail_keep {r : State} {n : Nat} {s : State} (h : Keep r s) :
    Keep r (anLinkFail n s) := by
  unfold anLinkFail
  with_reducible repeat' (first | assumption | apply Keep.ite | apply anEnd_keep | apply anRestart_keep | intro _)

theorem eeeIdle_keep {r : State} {n : Nat} {s : State} (h : Keep r s) :
    Keep r (eeeIdle n s) := by
  unfold eeeIdle
  with_reducible repeat' (first | assumption | apply Keep.ite | apply txLpiEnter_keep | apply setPort_keep | intro _)

theorem gateOversize_keep {r : State} {n : Nat} {tc : Nat} {s : State} (h : Keep r s) :
    Keep r (gateOversize n tc s) := by
  unfold gateOversize
  with_reducible repeat' (first | assumption | apply Keep.ite | apply prepareHead_keep | apply dropHead_keep | simp only [KeepF.pair] | intro _ | split)

theorem verifyTimer_keep {r : State} {n : Nat} {s : State} (h : Keep r s) :
    Keep r (verifyTimer n s) := by
  unfold verifyTimer
  with_reducible repeat' (first | assumption | apply Keep.ite | apply raise0_keep | apply setPort_keep | intro _)

theorem execWireRxFrame_keep {r : State} {n : Nat} {rx : RxFrame} {s : State} (h : Keep r s) :
    KeepR r (execWireRxFrame n rx s) := by
  unfold execWireRxFrame
  with_reducible repeat' (first | assumption | apply wireRx_keep | apply KeepR.next)

theorem execPauseExpire_keep {r : State} {n : Nat} {tc : Nat} {s : State} (h : Keep r s) :
    KeepR r (execPauseExpire n tc s) := by
  unfold execPauseExpire
  with_reducible repeat' (first | assumption | apply pauseExpire_keep | apply KeepR.next)

theorem execPauseRefresh_keep {r : State} {n : Nat} {tc : Nat} {s : State} (h : Keep r s) :
    KeepR r (execPauseRefresh n tc s) := by
  unfold execPauseRefresh
  with_reducible repeat' (first | assumption | apply pauseRefresh_keep | apply KeepR.next)

theorem execTxSelect_keep {r : State} {n : Nat} {s : State} (h : Keep r s) :
    KeepR r (execTxSelect n s) := by
  unfold execTxSelect
  with_reducible repeat' (first | assumption | apply txSelect_keep | apply KeepR.next)

theorem execTxFrameDone_keep {r : State} {n : Nat} {s : State} (h : Keep r s) :
    KeepR r (execTxFrameDone n s) := by
  unfold execTxFrameDone
  with_reducible repeat' (first | assumption | apply KeepR.next | apply clocked_keep | apply txFrameDone_keep | intro _ | split | dsimp only)

theorem execLinkUp_keep {r : State} {n : Nat} {s : State} (h : Keep r s) :
    KeepR r (execLinkUp n s) := by
  unfold execLinkUp
  with_reducible repeat' (first | assumption | apply linkUp_keep | apply KeepR.next)

theorem execLinkDownHoldExpire_keep {r : State} {n : Nat} {s : State} (h : Keep r s) :
    KeepR r (execLinkDownHoldExpire n s) := by
  unfold execLinkDownHoldExpire
  with_reducible repeat' (first | assumption | apply linkHoldExpire_keep | apply KeepR.next)

theorem execHiBer_keep {r : State} {n : Nat} {on : Bool} {s : State} (h : Keep r s) :
    KeepR r (execHiBer n on s) := by
  unfold execHiBer
  with_reducible repeat' (first | assumption | apply hiBer_keep | apply KeepR.next)

theorem execFecLockChange_keep {r : State} {n : Nat} {on : Bool} {s : State} (h : Keep r s) :
    KeepR r (execFecLockChange n on s) := by
  unfold execFecLockChange
  with_reducible repeat' (first | assumption | apply fecLock_keep | apply KeepR.next)

theorem execRxFaultSignal_keep {r : State} {n : Nat} {l : Bool} {r2x : Bool} {s : State} (h : Keep r s) :
    KeepR r (execRxFaultSignal n l r2x s) := by
  unfold execRxFaultSignal
  with_reducible repeat' (first | assumption | apply rxFault_keep | apply KeepR.next)

theorem execAnComplete_keep {r : State} {n : Nat} {outcome : Nat} {a : AnPartner} {s : State} (h : Keep r s) :
    KeepR r (execAnComplete n outcome a s) := by
  unfold execAnComplete
  with_reducible repeat' (first | assumption | apply anComplete_keep | apply KeepR.next)

theorem execAnRestartTimer_keep {r : State} {n : Nat} {s : State} (h : Keep r s) :
    KeepR r (execAnRestartTimer n s) := by
  unfold execAnRestartTimer
  with_reducible repeat' (first | assumption | apply anRestartTimer_keep | apply KeepR.next)

theorem execAnLinkFail_keep {r : State} {n : Nat} {s : State} (h : Keep r s) :
    KeepR r (execAnLinkFail n s) := by
  unfold execAnLinkFail
  with_reducible repeat' (first | assumption | apply anLinkFail_keep | apply KeepR.next)

theorem execEeeIdleExpire_keep {r : State} {n : Nat} {s : State} (h : Keep r s) :
    KeepR r (execEeeIdleExpire n s) := by
  unfold execEeeIdleExpire
  with_reducible repeat' (first | assumption | apply eeeIdle_keep | apply KeepR.next)

theorem execGclStart_keep {r : State} {n : Nat} {s : State} (h : Keep r s) :
    KeepR r (execGclStart n s) := by
  unfold execGclStart
  with_reducible repeat' (first | assumption | apply KeepR.next | apply clocked_keep | apply gclStart_keep | intro _ | split | dsimp only)

theorem execGateEntryChange_keep {r : State} {n : Nat} {s : State} (h : Keep r s) :
    KeepR r (execGateEntryChange n s) := by
  unfold execGateEntryChange
  with_reducible repeat' (first | assumption | apply KeepR.next | apply clocked_keep | apply gateChange_keep | intro _ | split | dsimp only)

theorem execGateOversize_keep {r : State} {n : Nat} {tc : Nat} {s : State} (h : Keep r s) :
    KeepR r (execGateOversize n tc s) := by
  unfold execGateOversize
  with_reducible repeat' (first | assumption | apply KeepR.next | apply clocked_keep | apply gateOversize_keep | intro _ | split | dsimp only)

theorem execVerifyTimer_keep {r : State} {n : Nat} {s : State} (h : Keep r s) :
    KeepR r (execVerifyTimer n s) := by
  unfold execVerifyTimer
  with_reducible repeat' (first | assumption | apply KeepR.next | apply clocked_keep | apply verifyTimer_keep | intro _ | split | dsimp only)

/-! ## PortCmd -/

theorem lnStageApply_keep {r : State} {p : Bytes} {s : State} (h : Keep r s) :
    Keep r (lnStageApply p s) := by
  unfold lnStageApply
  with_reducible repeat' (first | assumption | apply Keep.ite | apply Keep.updLanes | apply setLane_keep | simp only [KeepF.pair] | intro _)

theorem portStageApply_keep {r : State} {p : Bytes} {s : State} (h : Keep r s) :
    Keep r (portStageApply p s) := by
  unfold portStageApply
  with_reducible repeat' (first | assumption | apply setPort_keep)

theorem portConfigApply_keep {r : State} {p : Bytes} {s : State} (h : Keep r s) :
    Keep r (portConfigApply p s) := by
  unfold portConfigApply
  with_reducible repeat' (first | assumption | apply checkOcc_keep | apply setPort_keep)

theorem portGclApply_keep {r : State} {p : Bytes} {s : State} (h : Keep r s) :
    Keep r (portGclApply p s) := by
  unfold portGclApply
  with_reducible repeat' (first | assumption | apply Keep.ite | apply ownTrigger_keep | apply raise0_keep | apply setTrg_keep | apply setPort_keep | simp only [KeepF.pair] | intro _)

theorem lnStatusCmd_keep {r : State} {q : Req} {s : State} (h : Keep r s) :
    KeepF r (lnStatusCmd q s) := by
  unfold lnStatusCmd
  with_reducible repeat' (first | assumption | apply KeepF.ite | simp only [KeepF.pair] | intro _)

theorem lnRetireCmd_keep {r : State} {q : Req} {s : State} (h : Keep r s) :
    KeepF r (lnRetireCmd q s) := by
  unfold lnRetireCmd
  with_reducible repeat' (first | assumption | apply Keep.ite | apply retireLane_keep | apply returnLane_keep | simp only [KeepF.pair] | intro _ | split)

theorem portStatusCmd_keep {r : State} {q : Req} {s : State} (h : Keep r s) :
    KeepF r (portStatusCmd q s) := by
  unfold portStatusCmd
  with_reducible repeat' (first | assumption | apply KeepF.ite | simp only [KeepF.pair] | intro _)

theorem portTsCmd_keep {r : State} {q : Req} {s : State} (h : Keep r s) :
    KeepF r (portTsCmd q s) := by
  unfold portTsCmd
  with_reducible repeat' (first | assumption | apply setPort_keep | simp only [KeepF.pair] | split)

theorem execLnStatusGet_keep {r : State} {s : State} (h : Keep r s) :
    KeepR r (execLnStatusGet s) := by
  unfold execLnStatusGet
  with_reducible repeat' (first | assumption | apply lnStatusCmd_keep | apply immediate_keep | apply KeepR.next)

theorem execLnRetire_keep {r : State} {s : State} (h : Keep r s) :
    KeepR r (execLnRetire s) := by
  unfold execLnRetire
  with_reducible repeat' (first | assumption | apply lnRetireCmd_keep | apply immediate_keep | apply KeepR.next)

theorem execPortStatusGet_keep {r : State} {s : State} (h : Keep r s) :
    KeepR r (execPortStatusGet s) := by
  unfold execPortStatusGet
  with_reducible repeat' (first | assumption | apply portStatusCmd_keep | apply immediate_keep | apply KeepR.next)

theorem execPortTsRead_keep {r : State} {s : State} (h : Keep r s) :
    KeepR r (execPortTsRead s) := by
  unfold execPortTsRead
  with_reducible repeat' (first | assumption | apply immediate_keep | apply portTsCmd_keep | apply KeepR.next)

/-! ## SchCmd -/

theorem schPortApply_keep {r : State} {p : Bytes} {s : State} (h : Keep r s) :
    Keep r (schPortApply p s) := by
  unfold schPortApply
  with_reducible repeat' (first | assumption | apply setWire_keep)

theorem schShaperApply_keep {r : State} {p : Bytes} {s : State} (h : Keep r s) :
    Keep r (schShaperApply p s) := by
  unfold schShaperApply
  with_reducible repeat' (first | assumption | apply setWire_keep)

theorem schChannelApply_keep {r : State} {p : Bytes} {s : State} (h : Keep r s) :
    Keep r (schChannelApply p s) := by
  unfold schChannelApply
  with_reducible repeat' (first | assumption | apply setChSch_keep)

theorem schStatusCmd_keep {r : State} {q : Req} {s : State} (h : Keep r s) :
    KeepF r (schStatusCmd q s) := by
  unfold schStatusCmd
  with_reducible repeat' (first | assumption | apply KeepF.ite | simp only [KeepF.pair] | intro _ | split)

theorem schCountersCmd_keep {r : State} {q : Req} {s : State} (h : Keep r s) :
    KeepF r (schCountersCmd q s) := by
  unfold schCountersCmd
  with_reducible repeat' (first | assumption | apply KeepS.ite | apply readCounters_keep | simp only [KeepF.pair] | apply KeepS.snd | intro _ | split)

theorem execSchStatusGet_keep {r : State} {s : State} (h : Keep r s) :
    KeepR r (execSchStatusGet s) := by
  unfold execSchStatusGet
  with_reducible repeat' (first | assumption | apply schStatusCmd_keep | apply immediate_keep | apply KeepR.next)

theorem execSchCountersGet_keep {r : State} {s : State} (h : Keep r s) :
    KeepR r (execSchCountersGet s) := by
  unfold execSchCountersGet
  with_reducible repeat' (first | assumption | apply schCountersCmd_keep | apply immediate_keep | apply KeepR.next)

end Sys2Proof.Machine
end

