-- ==== Sys2Proof/Laws/KeepStore.lean ====
section
/-! SUPPORT. Each operation of the spill mover, the commit and the CRC unit keeps the build, the queue and the invariant. -/

namespace Sys2Proof.Machine

open Sys2Proof

/-! ## StoreMove -/

theorem markBad_keep {r : State} {h0x : Nat} {oseq : Nat} {kind : Nat} {s : State} (h : Keep r s) :
    Keep r (markBad h0x oseq kind s) := by
  unfold markBad
  with_reducible repeat' (first | assumption | apply updBuf_keep | apply checkEvent_keep)

theorem spillBuf_keep {r : State} {h0x : Nat} {oseq : Nat} {s : State} (h : Keep r s) :
    Keep r (spillBuf h0x oseq s) := by
  unfold spillBuf
  with_reducible repeat' (first | assumption | apply Keep.ite | apply badHandle_keep | apply markBad_keep | apply poolBump_keep | apply setBuf_keep | apply setPool_keep | apply startMove_keep | apply violation_keep | intro _ | split | dsimp only)

theorem spillStart_keep {r : State} {p : Nat} {s : State} (h : Keep r s) :
    Keep r (spillStart p s) := by
  unfold spillStart
  with_reducible repeat' (first | assumption | apply Keep.ite | apply spillBuf_keep | intro _ | split)

theorem returnStart_keep {r : State} {p : Nat} {s : State} (h : Keep r s) :
    Keep r (returnStart p s) := by
  unfold returnStart
  with_reducible repeat' (first | assumption | apply Keep.ite | apply setBuf_keep | apply violation_keep | apply evalPool_keep | apply startMove_keep | intro _ | split)

theorem retireDone_keep {r : State} {bank : Nat} {cause : Nat} {recipient : Nat} {donor : Nat} {s : State} (h : Keep r s) :
    Keep r (retireDone bank cause recipient donor s) := by
  unfold retireDone
  with_reducible repeat' (first | assumption | apply appendRecord_keep | apply setService_keep | apply logFault_keep | apply finishRunning_keep | apply raise0_keep | simp only [KeepF.pair] | split)

theorem setBank_keep {r : State} {b : Nat} {v : Nat} {s : State} (h : Keep r s) :
    Keep r (setBank b v s) := by
  unfold setBank
  with_reducible repeat' (first | assumption | apply Keep.updStore)

theorem rebalance_keep {r : State} {first : Nat} {cause : Nat} {p : Nat} {s : State} (h : Keep r s) :
    Keep r (rebalance first cause p s) := by
  unfold rebalance
  with_reducible repeat' (first | assumption | apply retireDone_keep | apply Keep.updStore | intro _ | split | dsimp only)

theorem retireEmpty_keep {r : State} {a : Retire} {s : State} (h : Keep r s) :
    Keep r (retireEmpty a s) := by
  unfold retireEmpty
  with_reducible repeat' (first | assumption | apply driveReqs_keep | apply evalPool_keep | apply rebalance_keep | apply retireDone_keep | apply setBank_keep | apply Keep.updStore | intro _ | split | dsimp only)

theorem settleRetire_keep {r : State} {a : Nat} {s : State} (h : Keep r s) :
    Keep r (settleRetire a s) := by
  induction a generalizing s with
  | zero =>
    simp only [settleRetire]
    exact h
  | succ n ih =>
    simp only [settleRetire]
    with_reducible repeat' (first | assumption | apply ih | apply retireEmpty_keep | split)

theorem startRetire_keep {r : State} {bank : Nat} {cause : Nat} {s : State} (h : Keep r s) :
    Keep r (startRetire bank cause s) := by
  unfold startRetire
  with_reducible repeat' (first | assumption | apply Keep.ite | apply rebalance_keep | apply settleRetire_keep | apply Keep.updStore | intro _ | split | dsimp only)

theorem relocate_keep {r : State} {h0x : Nat} {s : State} (h : Keep r s) :
    Keep r (relocate h0x s) := by
  unfold relocate
  with_reducible repeat' (first | assumption | apply Keep.ite | apply markBad_keep | apply poolBump_keep | apply settleRetire_keep | apply spillBuf_keep | apply touchBuf_keep | apply updBuf_keep | intro _ | split | dsimp only)

theorem takeDone_keep {r s t : State} {x : Xfer} {p : Purp → Bool} (e : takeDone s p = some (x, t)) (h : Keep r s) :
    Keep r t := by
  unfold takeDone at e
  obtain ⟨y, _, e⟩ := Option.map_eq_some_iff.mp e
  cases e
  exact dropXfer_keep h

theorem spillComplete_keep {r : State} {h0x : Nat} {s : State} (h : Keep r s) :
    Keep r (spillComplete h0x s) := by
  unfold spillComplete
  with_reducible repeat' (first | assumption | apply landSpill_keep | apply settleRetire_keep | intro _ | split)

theorem orphanDone_keep {r : State} {x : Xfer} {s : State} (h : Keep r s) :
    Keep r (orphanDone x s) := by
  unfold orphanDone
  with_reducible repeat' (first | assumption | apply freeDram_keep | apply Keep.updStore | split)

theorem returnComplete_keep {r : State} {h0x : Nat} {s : State} (h : Keep r s) :
    Keep r (returnComplete h0x s) := by
  unfold returnComplete
  with_reducible repeat' (first | assumption | apply Keep.ite | apply setBuf_keep | apply dropXfer_keep | apply freeDram_keep | apply poolBump_keep | apply evalPool_keep | apply settleRetire_keep | apply markBad_keep | simp only [KeepF.pair] | intro _ | split)

theorem startRefill_keep {r : State} {p : Nat} {s : State} (h : Keep r s) :
    Keep r (startRefill p s) := by
  unfold startRefill
  with_reducible repeat' (first | assumption | apply Keep.ite | apply startXfer_keep | apply setPool_keep | intro _)

theorem refillTake_keep {r : State} {p : Nat} {a1x : Xfer} {s : State} (h : Keep r s) :
    Keep r (refillTake p a1x s) := by
  unfold refillTake
  with_reducible repeat' (first | assumption | apply Keep.ite | apply setPool_keep | intro _ | split)

theorem queueRefill_keep {r : State} {p : Nat} {s : State} (h : Keep r s) :
    Keep r (queueRefill p s) := by
  unfold queueRefill
  with_reducible repeat' (first | assumption | exact takeDone_keep (by assumption) h | apply Keep.ite | apply raiseErr_keep | apply refillTake_keep | apply startRefill_keep | intro _ | split)

theorem refillRetry_keep {r : State} {p : Nat} {s : State} (h : Keep r s) :
    Keep r (refillRetry p s) := by
  unfold refillRetry
  with_reducible repeat' (first | assumption | apply Keep.ite | apply startRefill_keep | intro _)

theorem resetDram_keep {r : State} {p : Nat} {s : State} (h : Keep r s) :
    Keep r (resetDram p s) := by
  unfold resetDram
  with_reducible repeat' (first | assumption | apply setPool_keep)

theorem resetDrams_keep {r : State} {s : State} (h : Keep r s) :
    Keep r (resetDrams s) := by
  unfold resetDrams
  with_reducible repeat' (first | assumption | apply resetDram_keep | apply Keep.foldl | intro _)

theorem execSpillStart_keep {r : State} {p : Nat} {s : State} (h : Keep r s) :
    KeepR r (execSpillStart p s) := by
  unfold execSpillStart
  with_reducible repeat' (first | assumption | apply spillStart_keep | apply KeepR.next)

theorem execSpillComplete_keep {r : State} {h0x : Nat} {s : State} (h : Keep r s) :
    KeepR r (execSpillComplete h0x s) := by
  unfold execSpillComplete
  with_reducible repeat' (first | assumption | apply KeepR.next | apply clocked_keep | apply spillComplete_keep | intro _ | split | dsimp only)

theorem execReturnStart_keep {r : State} {p : Nat} {s : State} (h : Keep r s) :
    KeepR r (execReturnStart p s) := by
  unfold execReturnStart
  with_reducible repeat' (first | assumption | apply returnStart_keep | apply KeepR.next)

theorem execReturnComplete_keep {r : State} {h0x : Nat} {s : State} (h : Keep r s) :
    KeepR r (execReturnComplete h0x s) := by
  unfold execReturnComplete
  with_reducible repeat' (first | assumption | apply KeepR.next | apply clocked_keep | apply returnComplete_keep | intro _ | split | dsimp only)

theorem execFreeQueueRefill_keep {r : State} {p : Nat} {s : State} (h : Keep r s) :
    KeepR r (execFreeQueueRefill p s) := by
  unfold execFreeQueueRefill
  with_reducible repeat' (first | assumption | apply KeepR.next | apply clocked_keep | apply queueRefill_keep | intro _ | split | dsimp only)

theorem execRefillRetry_keep {r : State} {p : Nat} {s : State} (h : Keep r s) :
    KeepR r (execRefillRetry p s) := by
  unfold execRefillRetry
  with_reducible repeat' (first | assumption | apply refillRetry_keep | apply KeepR.next)

theorem execRelocationDone_keep {r : State} {h0x : Nat} {s : State} (h : Keep r s) :
    KeepR r (execRelocationDone h0x s) := by
  unfold execRelocationDone
  with_reducible repeat' (first | assumption | apply relocate_keep | apply KeepR.next)

/-! ## StoreCmd -/

theorem poolSplitCmd_keep {r : State} {q : Req} {s : State} (h : Keep r s) :
    KeepF r (poolSplitCmd q s) := by
  unfold poolSplitCmd
  with_reducible repeat' (first | assumption | apply resetDrams_keep | apply Keep.updStore | simp only [KeepF.pair] | split)

theorem spillSetApply_keep {r : State} {p : Bytes} {s : State} (h : Keep r s) :
    Keep r (spillSetApply p s) := by
  unfold spillSetApply
  with_reducible repeat' (first | assumption | apply evalPool_keep | apply setPool_keep)

theorem storeCountersCmd_keep {r : State} {q : Req} {s : State} (h : Keep r s) :
    KeepF r (storeCountersCmd q s) := by
  unfold storeCountersCmd
  with_reducible repeat' (first | assumption | apply KeepS.ite | apply readCounters_keep | simp only [KeepF.pair] | apply KeepS.snd | intro _ | split)

theorem bankRetireCmd_keep {r : State} {q : Req} {s : State} (h : Keep r s) :
    KeepF r (bankRetireCmd q s) := by
  unfold bankRetireCmd
  with_reducible repeat' (first | assumption | simp only [KeepF.pair] | split)

theorem bankRetireRun_keep {r : State} {s : State} (h : Keep r s) :
    Keep r (bankRetireRun s) := by
  unfold bankRetireRun
  with_reducible repeat' (first | assumption | apply Keep.ite | apply startRetire_keep | apply bankRetireCmd_keep | apply longRunning_keep | simp only [KeepF.pair] | intro _ | split)

theorem execStorePoolSplit_keep {r : State} {s : State} (h : Keep r s) :
    KeepR r (execStorePoolSplit s) := by
  unfold execStorePoolSplit
  with_reducible repeat' (first | assumption | apply immediate_keep | apply poolSplitCmd_keep | apply KeepR.next)

theorem execStoreStatusGet_keep {r : State} {s : State} (h : Keep r s) :
    KeepR r (execStoreStatusGet s) := by
  unfold execStoreStatusGet
  with_reducible repeat' (first | assumption | apply immediate_keep | simp only [KeepF.pair] | apply KeepR.next | intro _)

theorem execStoreCountersGet_keep {r : State} {s : State} (h : Keep r s) :
    KeepR r (execStoreCountersGet s) := by
  unfold execStoreCountersGet
  with_reducible repeat' (first | assumption | apply storeCountersCmd_keep | apply immediate_keep | apply KeepR.next)

theorem execStoreBankRetire_keep {r : State} {s : State} (h : Keep r s) :
    KeepR r (execStoreBankRetire s) := by
  unfold execStoreBankRetire
  with_reducible repeat' (first | assumption | apply bankRetireRun_keep | apply KeepR.next)

/-! ## Commit -/

theorem applyCmd_keep {r : State} {g : Nat} {c : Cmd} {s : State} (h : Keep r s) :
    Keep r (applyCmd g c s) := by
  unfold applyCmd
  with_reducible repeat' (first | assumption | apply Keep.ite | apply schPortApply_keep | apply hookBindApply_keep | apply schShaperApply_keep | apply putVer_keep | apply killVer_keep | apply spillSetApply_keep | apply portGclApply_keep | apply portConfigApply_keep | apply portStageApply_keep | apply lnStageApply_keep | apply schChannelApply_keep | simp only [KeepF.pair] | intro _ | split)

theorem passStep_keep {r : State} {g : Nat} {p : Pass} {c : Cmd} (h : Keep r p.w) : Keep r (passStep g p c).w := by
  unfold passStep
  split
  · exact h
  · exact applyCmd_keep h

theorem judgedBy_keep {r : State} {w s : State} (h : Keep r s) : Keep r (judgedBy w s) :=
  Keep.foldl (fun _ _ ht => setPort_keep (setLane_keep ht)) (Keep.updLanes h)

theorem failedApply_keep {r : State} {mask : Nat} {w s : State} (h : Keep r s) : Keep r (failedApply mask w s) :=
  judgedBy_keep (applyLanes_keep (judgedBy_keep h))

/-- Executing the commands of a group in order keeps what each keeps. -/
theorem passes_keep {r : State} {g : Nat} : ∀ {cmds : List Cmd} {p : Pass}, Keep r p.w → Keep r (cmds.foldl (passStep g) p).w := by
  intro cmds
  induction cmds with
  | nil => intro p h; exact h
  | cons c l ih => intro p h; exact ih (passStep_keep h)

theorem commitCmds_keep {r : State} {apply : Nat} {cmds : List Cmd} {s : State} (h : Keep r s) :
    KeepF r (commitCmds apply cmds s) := by
  unfold commitCmds
  dsimp only
  have hp := passes_keep (g := (s.cls.current + 1) % 65536) (cmds := cmds) (p := { w := s }) h
  generalize cmds.foldl (passStep ((s.cls.current + 1) % 65536)) { w := s } = p at hp
  with_reducible repeat' (first | assumption | apply KeepF.ite | apply Keep.ite | apply applyLanes_keep | apply failedApply_keep | apply newGeneration_keep | simp only [KeepF.pair] | intro _ | split | dsimp only)

theorem sysCommit_keep {r : State} {apply : Nat} {s : State} (h : Keep r s) :
    Keep r (sysCommit apply s) := by
  unfold sysCommit
  with_reducible repeat' (first | assumption | apply Keep.ite | apply commitCmds_keep | apply dropGroup_keep | apply finishTaken_keep | apply lnApply_keep | simp only [KeepF.pair] | apply KeepF.fst | (refine KeepF.elim (by assumption) ?_) | intro _ | split)

theorem stageRunWith_keep {r : State} {apply : Nat} {code : Nat} {s : State} (h : Keep r s) :
    Keep r (stageRunWith apply code s) := by
  unfold stageRunWith
  with_reducible repeat' (first | assumption | apply Keep.ite | apply addStaged_keep | apply commitCmds_keep | apply finishTaken_keep | apply lnApply_keep | simp only [KeepF.pair] | apply KeepF.fst | (refine KeepF.elim (by assumption) ?_) | intro _ | split | dsimp only)

theorem stageRun_keep {r : State} {code : Nat} {s : State} (h : Keep r s) :
    Keep r (stageRun code s) := by
  unfold stageRun
  with_reducible repeat' (first | assumption | apply stageRunWith_keep | intro _ | split | dsimp only)

theorem execSysCommit_keep {r : State} {apply : Nat} {s : State} (h : Keep r s) :
    KeepR r (execSysCommit apply s) := by
  unfold execSysCommit
  with_reducible repeat' (first | assumption | apply KeepR.next | apply sysCommit_keep | intro _ | split)

theorem execPortStage_keep {r : State} {apply : Nat} {s : State} (h : Keep r s) :
    KeepR r (execPortStage apply s) := by
  unfold execPortStage
  with_reducible repeat' (first | assumption | apply KeepR.next | apply stageRunWith_keep | intro _ | split | dsimp only)

theorem execPortConfig_keep {r : State} {s : State} (h : Keep r s) :
    KeepR r (execPortConfig s) := by
  unfold execPortConfig
  with_reducible repeat' (first | assumption | apply stageRun_keep | apply KeepR.next)

theorem execPortGclSet_keep {r : State} {s : State} (h : Keep r s) :
    KeepR r (execPortGclSet s) := by
  unfold execPortGclSet
  with_reducible repeat' (first | assumption | apply stageRun_keep | apply KeepR.next)

theorem execLnStage_keep {r : State} {apply : Nat} {s : State} (h : Keep r s) :
    KeepR r (execLnStage apply s) := by
  unfold execLnStage
  with_reducible repeat' (first | assumption | apply KeepR.next | apply stageRunWith_keep | intro _ | split | dsimp only)

theorem execStoreSpillSet_keep {r : State} {s : State} (h : Keep r s) :
    KeepR r (execStoreSpillSet s) := by
  unfold execStoreSpillSet
  with_reducible repeat' (first | assumption | apply stageRun_keep | apply KeepR.next)

theorem execClsParseNodeSet_keep {r : State} {s : State} (h : Keep r s) :
    KeepR r (execClsParseNodeSet s) := by
  unfold execClsParseNodeSet
  with_reducible repeat' (first | assumption | apply stageRun_keep | apply KeepR.next)

theorem execClsParseStartSet_keep {r : State} {s : State} (h : Keep r s) :
    KeepR r (execClsParseStartSet s) := by
  unfold execClsParseStartSet
  with_reducible repeat' (first | assumption | apply stageRun_keep | apply KeepR.next)

theorem execClsExceptionSet_keep {r : State} {s : State} (h : Keep r s) :
    KeepR r (execClsExceptionSet s) := by
  unfold execClsExceptionSet
  with_reducible repeat' (first | assumption | apply stageRun_keep | apply KeepR.next)

theorem execClsRuleAdd_keep {r : State} {s : State} (h : Keep r s) :
    KeepR r (execClsRuleAdd s) := by
  unfold execClsRuleAdd
  with_reducible repeat' (first | assumption | apply stageRun_keep | apply KeepR.next)

theorem execClsRuleDelete_keep {r : State} {s : State} (h : Keep r s) :
    KeepR r (execClsRuleDelete s) := by
  unfold execClsRuleDelete
  with_reducible repeat' (first | assumption | apply stageRun_keep | apply KeepR.next)

theorem execClsMcastSet_keep {r : State} {s : State} (h : Keep r s) :
    KeepR r (execClsMcastSet s) := by
  unfold execClsMcastSet
  with_reducible repeat' (first | assumption | apply stageRun_keep | apply KeepR.next)

theorem execClsDefaultSet_keep {r : State} {s : State} (h : Keep r s) :
    KeepR r (execClsDefaultSet s) := by
  unfold execClsDefaultSet
  with_reducible repeat' (first | assumption | apply stageRun_keep | apply KeepR.next)

theorem execClsTableSet_keep {r : State} {s : State} (h : Keep r s) :
    KeepR r (execClsTableSet s) := by
  unfold execClsTableSet
  with_reducible repeat' (first | assumption | apply stageRun_keep | apply KeepR.next)

theorem execFlowProfileSet_keep {r : State} {s : State} (h : Keep r s) :
    KeepR r (execFlowProfileSet s) := by
  unfold execFlowProfileSet
  with_reducible repeat' (first | assumption | apply stageRun_keep | apply KeepR.next)

theorem execFlowActionSet_keep {r : State} {s : State} (h : Keep r s) :
    KeepR r (execFlowActionSet s) := by
  unfold execFlowActionSet
  with_reducible repeat' (first | assumption | apply stageRun_keep | apply KeepR.next)

theorem execFlowRewriteSet_keep {r : State} {s : State} (h : Keep r s) :
    KeepR r (execFlowRewriteSet s) := by
  unfold execFlowRewriteSet
  with_reducible repeat' (first | assumption | apply stageRun_keep | apply KeepR.next)

theorem execEngHookBind_keep {r : State} {s : State} (h : Keep r s) :
    KeepR r (execEngHookBind s) := by
  unfold execEngHookBind
  with_reducible repeat' (first | assumption | apply stageRun_keep | apply KeepR.next)

theorem execSchPortSet_keep {r : State} {s : State} (h : Keep r s) :
    KeepR r (execSchPortSet s) := by
  unfold execSchPortSet
  with_reducible repeat' (first | assumption | apply stageRun_keep | apply KeepR.next)

theorem execSchShaperSet_keep {r : State} {s : State} (h : Keep r s) :
    KeepR r (execSchShaperSet s) := by
  unfold execSchShaperSet
  with_reducible repeat' (first | assumption | apply stageRun_keep | apply KeepR.next)

theorem execSchChannelSet_keep {r : State} {s : State} (h : Keep r s) :
    KeepR r (execSchChannelSet s) := by
  unfold execSchChannelSet
  with_reducible repeat' (first | assumption | apply stageRun_keep | apply KeepR.next)

/-! ## CrcUnit -/

theorem setJob_keep {r : State} {j : Nat} {f : CrcSlot → CrcSlot} {s : State} (h : Keep r s) :
    Keep r (setJob j f s) := by
  unfold setJob
  with_reducible repeat' (first | assumption | apply Keep.updCrc)

theorem crcCause_keep {r : State} {b : Nat} {s : State} (h : Keep r s) :
    Keep r (crcCause b s) := by
  unfold crcCause
  with_reducible repeat' (first | assumption | apply Keep.ite | apply lines_keep | apply sendMsg_keep | apply Keep.updCrc | apply KeepF.fst | intro _)

theorem jobDone_keep {r : State} {j : Nat} {s : State} (h : Keep r s) :
    Keep r (jobDone j s) := by
  unfold jobDone
  with_reducible repeat' (first | assumption | apply Keep.ite | apply setJob_keep | apply Keep.updCrc | apply crcCause_keep | intro _)

theorem tryRing_keep {r : State} {j : Nat} {s : State} (h : Keep r s) :
    Keep r (tryRing j s) := by
  unfold tryRing
  with_reducible repeat' (first | assumption | apply Keep.ite | apply errBit_keep | apply lines_keep | apply setJob_keep | apply startXfer_keep | apply violation_keep | intro _ | split | dsimp only)

theorem tryRings_keep {r : State} {s : State} (h : Keep r s) :
    Keep r (tryRings s) := by
  unfold tryRings
  with_reducible repeat' (first | assumption | apply tryRing_keep | apply Keep.foldl | intro _)

theorem crcEndJob_keep {r : State} {j : Nat} {s : State} (h : Keep r s) :
    Keep r (crcEndJob j s) := by
  unfold crcEndJob
  with_reducible repeat' (first | assumption | apply Keep.ite | apply jobDone_keep | apply setJob_keep | apply tryRing_keep | intro _)

theorem jobRead_keep {r : State} {j : Nat} {s : State} (h : Keep r s) :
    Keep r (jobRead j s) := by
  unfold jobRead
  with_reducible repeat' (first | assumption | apply Keep.ite | apply setJob_keep | apply startXfer_keep | intro _)

theorem crcStart_keep {r : State} {j : Nat} {value : Nat} {s : State} (h : Keep r s) :
    Keep r (crcStart j value s) := by
  unfold crcStart
  with_reducible repeat' (first | assumption | apply Keep.ite | apply lines_keep | apply violation_keep | apply setJob_keep | apply jobRead_keep | apply crcEndJob_keep | simp only [KeepF.pair] | intro _)

theorem crcAbort_keep {r : State} {j : Nat} {s : State} (h : Keep r s) :
    Keep r (crcAbort j s) := by
  unfold crcAbort
  with_reducible repeat' (first | assumption | apply Keep.ite | apply setJob_keep | apply crcEndJob_keep | apply dropXfers_keep | intro _)

theorem crcCtrl_keep {r : State} {j : Nat} {value : Nat} {s : State} (h : Keep r s) :
    Keep r (crcCtrl j value s) := by
  unfold crcCtrl
  with_reducible repeat' (first | assumption | apply Keep.ite | apply regWrite_keep | apply crcStart_keep | apply crcAbort_keep | intro _)

theorem crcReadDone_keep {r : State} {j : Nat} {good : Nat} {a2x : Xfer} {s : State} (h : Keep r s) :
    Keep r (crcReadDone j good a2x s) := by
  unfold crcReadDone
  with_reducible repeat' (first | assumption | apply Keep.ite | apply jobRead_keep | apply raiseErr_keep | apply setJob_keep | intro _ | split | dsimp only)

theorem crcJobEnd_keep {r : State} {j : Nat} {s : State} (h : Keep r s) :
    Keep r (crcJobEnd j s) := by
  unfold crcJobEnd
  with_reducible repeat' (first | assumption | apply Keep.ite | apply crcEndJob_keep | intro _)

theorem crcRingDone_keep {r : State} {j : Nat} {a1x : Xfer} {s : State} (h : Keep r s) :
    Keep r (crcRingDone j a1x s) := by
  unfold crcRingDone
  with_reducible repeat' (first | assumption | apply Keep.ite | apply crcCause_keep | apply jobDone_keep | apply raiseErr_keep | apply setJob_keep | apply tryRings_keep | apply Keep.updCrc | intro _ | split | dsimp only)

theorem crcRingRetry_keep {r : State} {s : State} (h : Keep r s) :
    Keep r (crcRingRetry s) := by
  unfold crcRingRetry
  with_reducible repeat' (first | assumption | apply Keep.ite | apply tryRings_keep | apply Keep.updCrc | intro _ | split)

theorem crcRingCons_keep {r : State} {value : Nat} {s : State} (h : Keep r s) :
    Keep r (crcRingCons value s) := by
  unfold crcRingCons
  with_reducible repeat' (first | assumption | apply Keep.ite | apply tryRings_keep | apply regWrite_keep | apply Keep.updCrc | intro _)

theorem execCrcStart_keep {r : State} {j : Nat} {v : Nat} {s : State} (h : Keep r s) :
    KeepR r (execCrcStart j v s) := by
  unfold execCrcStart
  with_reducible repeat' (first | assumption | apply crcCtrl_keep | apply KeepR.next)

theorem execCrcAbort_keep {r : State} {j : Nat} {v : Nat} {s : State} (h : Keep r s) :
    KeepR r (execCrcAbort j v s) := by
  unfold execCrcAbort
  with_reducible repeat' (first | assumption | apply crcCtrl_keep | apply KeepR.next)

theorem execCrcJobEnd_keep {r : State} {j : Nat} {s : State} (h : Keep r s) :
    KeepR r (execCrcJobEnd j s) := by
  unfold execCrcJobEnd
  with_reducible repeat' (first | assumption | apply crcJobEnd_keep | apply KeepR.next)

theorem execCrcRingRetry_keep {r : State} {s : State} (h : Keep r s) :
    KeepR r (execCrcRingRetry s) := by
  unfold execCrcRingRetry
  with_reducible repeat' (first | assumption | apply crcRingRetry_keep | apply KeepR.next)

theorem execCrcRingConsWrite_keep {r : State} {v : Nat} {s : State} (h : Keep r s) :
    KeepR r (execCrcRingConsWrite v s) := by
  unfold execCrcRingConsWrite
  with_reducible repeat' (first | assumption | apply crcRingCons_keep | apply KeepR.next)

end Sys2Proof.Machine
end

