-- ==== Sys2Proof/Laws/KeepResilience.lean ====
section
/-! SUPPORT. Each operation of the management cores, repair and images keeps the build, the queue and the invariant. -/

namespace Sys2Proof.Machine

open Sys2Proof

/-! ## Mgmt -/

theorem judgeMgmt_keep {r : State} {s : State} (h : Keep r s) :
    Keep r (judgeMgmt s) := by
  unfold judgeMgmt
  with_reducible repeat' (first | assumption | apply Keep.ite | apply setService_keep | intro _)

theorem revokeEpoch_keep {r : State} {s : State} (h : Keep r s) :
    Keep r (revokeEpoch s) := by
  unfold revokeEpoch
  with_reducible repeat' (first | assumption | apply bumpN_keep | apply draw_keep | refine Keep.updRes ?_ (fun _ => rfl) | simp only [KeepS.pair] | apply KeepS.snd | (refine KeepS.elim (by assumption) ?_) | intro _ | split | dsimp only)

theorem swapCores_keep {r : State} {old : Standby} {s : State} (h : Keep r s) :
    Keep r (swapCores old s) := by
  unfold swapCores
  with_reducible repeat' (first | assumption | apply Keep.ite | apply bump_keep | apply logFault_keep | apply revokeEpoch_keep | apply setService_keep | refine Keep.updRes ?_ (fun _ => rfl) | intro _ | split | dsimp only)

theorem finishTakeover_keep {r : State} {s : State} (h : Keep r s) :
    Keep r (finishTakeover s) := by
  unfold finishTakeover
  with_reducible repeat' (first | assumption | apply Keep.ite | refine Keep.updRes ?_ (fun _ => rfl) | apply raiseAll_keep | intro _)

theorem imageDone_keep {r : State} {kind : Nat} {st : Nat} {build : Nat} {s : State} (h : Keep r s) :
    Keep r (imageDone kind st build s) := by
  unfold imageDone
  with_reducible repeat' (first | assumption | apply raise0_keep)

theorem endLoad_keep {r : State} {st : Nat} {detail : Nat} {s : State} (h : Keep r s) :
    Keep r (endLoad st detail s) := by
  unfold endLoad
  with_reducible repeat' (first | assumption | apply Keep.ite | apply bump_keep | apply imageDone_keep | refine Keep.updRes ?_ (fun _ => rfl) | apply finishRunning_keep | simp only [KeepF.pair] | intro _ | split)

theorem endAborted_keep {r : State} {s : State} (h : Keep r s) :
    Keep r (endAborted s) := by
  unfold endAborted
  with_reducible repeat' (first | assumption | apply Keep.ite | apply endLoad_keep | intro _ | split)

theorem requeue_keep {r : State} {s : State} (h : Keep r s) :
    Keep r (requeue s) := by
  unfold requeue
  with_reducible repeat' (first | assumption | apply dropXfers_keep | apply endAborted_keep | apply Keep.updGv | refine Keep.updRes ?_ (fun _ => rfl) | intro _ | split)

theorem stopCores_keep {r : State} {s : State} (h : Keep r s) :
    Keep r (stopCores s) := by
  unfold stopCores
  with_reducible repeat' (first | assumption | apply Keep.updSys | intro _ | split | dsimp only)

theorem coldRestart_keep {r : State} {cause : Nat} {s : State} (h : Keep r s) :
    Keep r (coldRestart cause s) := by
  unfold coldRestart
  with_reducible repeat' (first | assumption | apply Keep.ite | apply bump_keep | apply dropInq_keep | apply logFault_keep | apply requeue_keep | apply revokeEpoch_keep | apply setMb_keep | apply stopCores_keep | refine Keep.updRes ?_ (fun _ => rfl) | intro _ | split | dsimp only)

theorem tryCold_keep {r : State} {cause : Nat} {s : State} (h : Keep r s) :
    Keep r (tryCold cause s) := by
  unfold tryCold
  with_reducible repeat' (first | assumption | apply Keep.ite | apply coldRestart_keep | apply setService_keep | refine Keep.updRes ?_ (fun _ => rfl) | intro _ | split | dsimp only)

theorem onyxFail_keep {r : State} {cause : Nat} {s : State} (h : Keep r s) :
    Keep r (onyxFail cause s) := by
  unfold onyxFail
  with_reducible repeat' (first | assumption | apply Keep.ite | apply logFault_keep | apply requeue_keep | apply stopCores_keep | apply swapCores_keep | apply tryCold_keep | refine Keep.updRes ?_ (fun _ => rfl) | intro _ | split | dsimp only)

theorem coldDone_keep {r : State} {s : State} (h : Keep r s) :
    Keep r (coldDone s) := by
  unfold coldDone
  with_reducible repeat' (first | assumption | apply Keep.ite | apply onyxRuns_keep | apply raiseAll_keep | apply setService_keep | refine Keep.updRes ?_ (fun _ => rfl) | apply Keep.updSys | intro _ | split | dsimp only)

theorem standbyFails_keep {r : State} {f : Nat → State → State} {s : State} (hf : ∀ n s, Keep r s → Keep r (f n s))
    (h : Keep r s) : Keep r (standbyFails f s) := by
  unfold standbyFails
  dsimp only
  split
  · exact h
  · split
    · exact coldRestart_keep h
    · split
      · exact h
      · exact hf _ _ (Keep.updRes h fun _ => rfl)

theorem standbyDown_keep {r : State} {s : State} (h : Keep r s) :
    Keep r (standbyDown s) := by
  unfold standbyDown
  with_reducible repeat' (first | assumption | apply setService_keep | refine Keep.updRes ?_ (fun _ => rfl) | intro _ | split | dsimp only)

theorem standbyFail_keep {r : State} {s : State} (h : Keep r s) :
    Keep r (standbyFail s) := by
  unfold standbyFail
  with_reducible repeat' (first | assumption | apply draw_keep | apply logFault_keep | apply standbyDown_keep | apply standbyFails_keep | simp only [KeepS.pair] | apply KeepS.snd | (refine KeepS.elim (by assumption) ?_) | intro _ | split | dsimp only)

theorem standbyCrash_keep {r : State} {s : State} (h : Keep r s) :
    Keep r (standbyCrash s) := by
  unfold standbyCrash
  with_reducible repeat' (first | assumption | apply Keep.ite | apply logFault_keep | apply standbyDown_keep | apply standbyFails_keep | refine Keep.updRes ?_ (fun _ => rfl) | intro _ | split | dsimp only)

theorem mgmtSwitch_keep {r : State} {_q : Req} {s : State} (h : Keep r s) :
    KeepF r (mgmtSwitch _q s) := by
  unfold mgmtSwitch
  with_reducible repeat' (first | assumption | apply KeepF.ite | apply logFault_keep | apply swapCores_keep | apply finishTakeover_keep | simp only [KeepF.pair] | intro _)

theorem requestTake_keep {r : State} {s : State} (h : Keep r s) :
    Keep r (requestTake s) := by
  unfold requestTake
  with_reducible repeat' (first | assumption | apply takeNext_keep | apply finishTakeover_keep)

theorem execOnyxTrap_keep {r : State} {s : State} (h : Keep r s) :
    KeepR r (execOnyxTrap s) := by
  unfold execOnyxTrap
  with_reducible repeat' (first | assumption | apply onyxFail_keep | apply KeepR.next)

theorem execOnyxHang_keep {r : State} {s : State} (h : Keep r s) :
    KeepR r (execOnyxHang s) := by
  unfold execOnyxHang
  with_reducible repeat' (first | assumption | apply onyxFail_keep | apply KeepR.next)

theorem execColdRestartDone_keep {r : State} {s : State} (h : Keep r s) :
    KeepR r (execColdRestartDone s) := by
  unfold execColdRestartDone
  with_reducible repeat' (first | assumption | apply coldDone_keep | apply KeepR.next)

theorem execStandbyCoreFail_keep {r : State} {s : State} (h : Keep r s) :
    KeepR r (execStandbyCoreFail s) := by
  unfold execStandbyCoreFail
  with_reducible repeat' (first | assumption | apply KeepR.next | apply standbyFail_keep | intro _ | split | dsimp only)

theorem execResMgmtSwitch_keep {r : State} {s : State} (h : Keep r s) :
    KeepR r (execResMgmtSwitch s) := by
  unfold execResMgmtSwitch
  with_reducible repeat' (first | assumption | apply mgmtSwitch_keep | apply immediate_keep | apply KeepR.next)

theorem execRequestTake_keep {r : State} {s : State} (h : Keep r s) :
    KeepR r (execRequestTake s) := by
  unfold execRequestTake
  with_reducible repeat' (first | assumption | apply requestTake_keep | apply KeepR.next)

/-! ## Repair -/

theorem setMacro_keep {r : State} {p : Place} {f : Macro → Macro} {s : State} (h : Keep r s) :
    Keep r (setMacro p f s) := by
  unfold setMacro
  with_reducible repeat' (first | assumption | refine Keep.updRes ?_ (fun _ => rfl))

theorem failBank_keep {r : State} {b : Nat} {s : State} (h : Keep r s) :
    Keep r (failBank b s) := by
  unfold failBank
  with_reducible repeat' (first | assumption | apply Keep.ite | refine Keep.updRes ?_ (fun _ => rfl) | apply startRetire_keep | intro _)

theorem nextRetire_keep {r : State} {s : State} (h : Keep r s) :
    Keep r (nextRetire s) := by
  unfold nextRetire
  with_reducible repeat' (first | assumption | apply Keep.ite | refine Keep.updRes ?_ (fun _ => rfl) | apply startRetire_keep | intro _ | split)

theorem onyxMemory_keep {r : State} {core : Nat} {s : State} (h : Keep r s) :
    Keep r (onyxMemory core s) := by
  unfold onyxMemory
  with_reducible repeat' (first | assumption | apply Keep.ite | apply onyxFail_keep | apply standbyCrash_keep | intro _ | split | dsimp only)

theorem condemnIf_keep {r : State} {e : Nat} {cause : Nat} {s : State} (h : Keep r s) :
    Keep r (condemnIf e cause s) := by
  unfold condemnIf
  with_reducible repeat' (first | assumption | apply Keep.ite | apply condemn_keep | refine setEng_keep' ?_ (fun _ => ⟨rfl, rfl⟩) | intro _ | split | dsimp only)

theorem exhausted_keep {r : State} {p : Place} {s : State} (h : Keep r s) :
    Keep r (exhausted p s) := by
  unfold exhausted
  with_reducible repeat' (first | assumption | apply condemnIf_keep | apply failBank_keep | apply setService_keep | apply logFault_keep | refine setEng_keep' ?_ (fun _ => ⟨rfl, rfl⟩) | refine Keep.updRes ?_ (fun _ => rfl) | apply setMacro_keep | apply onyxMemory_keep | simp only [KeepF.pair] | split)

theorem beginRepair_keep {r : State} {column : Bool} {p : Place} {s : State} (h : Keep r s) :
    Keep r (beginRepair column p s) := by
  unfold beginRepair
  with_reducible repeat' (first | assumption | apply Keep.ite | apply exhausted_keep | apply setMacro_keep | refine Keep.updRes ?_ (fun _ => rfl) | intro _ | split)

theorem startRepair_keep {r : State} {column : Bool} {p : Place} {s : State} (h : Keep r s) :
    Keep r (startRepair column p s) := by
  unfold startRepair
  with_reducible repeat' (first | assumption | apply Keep.ite | apply beginRepair_keep | refine Keep.updRes ?_ (fun _ => rfl) | intro _ | split)

theorem nextRepair_keep {r : State} {p : Place} : ∀ {n : Nat} {s : State}, Keep r s → Keep r (nextRepair p n s) := by
  intro n
  induction n with
  | zero => intro s h; exact h
  | succ n ih =>
    intro s h
    simp only [nextRepair]
    with_reducible repeat' (first | assumption | apply ih | apply Keep.ite | apply beginRepair_keep | refine Keep.updRes ?_ (fun _ => rfl) | intro _ | split)

theorem judgeRow_keep {r : State} {p : Place} {s : State} (h : Keep r s) :
    Keep r (judgeRow p s) := by
  unfold judgeRow
  with_reducible repeat' (first | assumption | apply Keep.ite | apply startRepair_keep | refine Keep.updRes ?_ (fun _ => rfl) | intro _ | split | dsimp only)

theorem judgeColumn_keep {r : State} {p : Place} {s : State} (h : Keep r s) :
    Keep r (judgeColumn p s) := by
  unfold judgeColumn
  with_reducible repeat' (first | assumption | apply Keep.ite | apply startRepair_keep | refine Keep.updRes ?_ (fun _ => rfl) | intro _ | split | dsimp only)

theorem corrected_keep {r : State} {p : Place} {s : State} (h : Keep r s) :
    Keep r (corrected p s) := by
  unfold corrected
  with_reducible repeat' (first | assumption | apply bump_keep | apply judgeColumn_keep | apply judgeRow_keep | apply logFault_keep | refine Keep.updRes ?_ (fun _ => rfl) | intro _ | split | dsimp only)

theorem loseSlot_keep {r : State} {bank : Nat} {slot : Nat} {s : State} (h : Keep r s) :
    Keep r (loseSlot bank slot s) := by
  unfold loseSlot
  with_reducible repeat' (first | assumption | apply updBuf_keep | simp only [KeepF.pair] | split)

theorem loseWatch_keep {r : State} {i : Nat} {s : State} (h : Keep r s) :
    Keep r (loseWatch i s) := by
  unfold loseWatch
  with_reducible repeat' (first | assumption | apply bump_keep | apply Keep.updPwr | split)

theorem corruptEntry_keep {r : State} {sub : Nat} {s : State} (h : Keep r s) :
    Keep r (corruptEntry sub s) := by
  unfold corruptEntry
  with_reducible repeat' (first | assumption | apply draw_keep | apply Keep.updCh | apply Keep.updCls | apply Keep.updFlow | apply Keep.updPipe | apply Keep.updSch | apply Keep.updSta | apply Keep.updStore | apply Keep.updTime | simp only [KeepS.pair] | apply KeepS.snd | (refine KeepS.elim (by assumption) ?_) | intro _ | split | dsimp only)

theorem loseWord_keep {r : State} {h0x : ScrubHit} {s : State} (h : Keep r s) :
    Keep r (loseWord h0x s) := by
  unfold loseWord
  with_reducible repeat' (first | assumption | apply Keep.ite | apply condemnIf_keep | apply corruptEntry_keep | apply draw_keep | apply logFault_keep | apply loseSlot_keep | apply loseWatch_keep | apply onyxMemory_keep | apply setService_keep | apply startRepair_keep | refine Keep.updRes ?_ (fun _ => rfl) | simp only [KeepS.pair] | apply KeepS.snd | (refine KeepS.elim (by assumption) ?_) | intro _ | split | dsimp only)

theorem uncorrected_keep {r : State} {h0x : ScrubHit} {s : State} (h : Keep r s) :
    Keep r (uncorrected h0x s) := by
  unfold uncorrected
  with_reducible repeat' (first | assumption | apply bump_keep | apply judgeColumn_keep | apply logFault_keep | apply loseWord_keep | apply raiseErr_keep | apply startRepair_keep | refine Keep.updRes ?_ (fun _ => rfl) | intro _ | split | dsimp only)

theorem endPass_keep {r : State} {s : State} (h : Keep r s) :
    Keep r (endPass s) := by
  unfold endPass
  with_reducible repeat' (first | assumption | apply bump_keep | refine Keep.updRes ?_ (fun _ => rfl))

theorem scrubRead_keep {r : State} {h0x : ScrubHit} {s : State} (h : Keep r s) :
    Keep r (scrubRead h0x s) := by
  unfold scrubRead
  with_reducible repeat' (first | assumption | apply Keep.ite | refine Keep.updRes ?_ (fun _ => rfl) | apply endPass_keep | apply corrected_keep | apply nextRetire_keep | apply uncorrected_keep | simp only [KeepF.pair] | intro _)

theorem repairDone_keep {r : State} {column : Bool} {loc : Place} {s : State} (h : Keep r s) :
    Keep r (repairDone column loc s) := by
  unfold repairDone
  with_reducible repeat' (first | assumption | apply Keep.ite | apply appendRecord_keep | apply bump_keep | apply logFault_keep | apply nextRepair_keep | refine Keep.updRes ?_ (fun _ => rfl) | intro _ | split | dsimp only)

theorem bistRepair_keep {r : State} {column : Bool} {p : Place} {a2x : Nat × Nat} {s : State} (h : Keep r s) :
    Keep r (bistRepair column p a2x s) := by
  unfold bistRepair
  with_reducible repeat' (first | assumption | apply Keep.ite | apply appendRecord_keep | apply bump_keep | apply logFault_keep | apply setMacro_keep | intro _ | split | dsimp only)

theorem engineTest_keep {r : State} {e : Nat} {fails : List (Nat × List Cell)} {s : State} (h : Keep r s) :
    KeepS r (engineTest e fails s) := by
  unfold engineTest
  with_reducible repeat' (first | assumption | apply KeepS.ite | apply Keep.ite | apply bistRepair_keep | apply logFault_keep | apply setService_keep | apply Keep.foldl | apply KeepS.foldl | apply KeepF.foldl | simp only [KeepF.pair] | apply KeepF.fst | (refine KeepF.elim (by assumption) ?_) | simp only [KeepS.pair] | apply KeepS.snd | (refine KeepS.elim (by assumption) ?_) | intro _ | split | dsimp only)

theorem freeListDone_keep {r : State} {p : Nat} {s : State} (h : Keep r s) :
    Keep r (freeListDone p s) := by
  unfold freeListDone
  with_reducible repeat' (first | assumption | refine Keep.updRes ?_ (fun _ => rfl))

theorem imemRefill_keep {r : State} {e : Nat} {s : State} (h : Keep r s) :
    Keep r (imemRefill e s) := by
  unfold imemRefill
  repeat' (first | with_reducible assumption | with_reducible apply Keep.ite | refine setEng_keep ?_ (fun g hg => ⟨imemImage_wf, hg.2⟩) | with_reducible intro _)

theorem resCondemn_keep {r : State} {q : Req} {s : State} (h : Keep r s) :
    KeepF r (resCondemn q s) := by
  unfold resCondemn
  with_reducible repeat' (first | assumption | apply KeepF.ite | apply condemn_keep | simp only [KeepF.pair] | intro _)

theorem resConfig_keep {r : State} {q : Req} {s : State} (h : Keep r s) :
    KeepF r (resConfig q s) := by
  unfold resConfig
  with_reducible repeat' (first | assumption | apply KeepF.ite | refine Keep.updRes ?_ (fun _ => rfl) | simp only [KeepF.pair] | intro _)

theorem resFaultRead_keep {r : State} {q : Req} {s : State} (h : Keep r s) :
    KeepF r (resFaultRead q s) := by
  unfold resFaultRead
  with_reducible repeat' (first | assumption | apply KeepF.ite | refine Keep.updRes ?_ (fun _ => rfl) | simp only [KeepF.pair] | intro _)

theorem resCountersCmd_keep {r : State} {q : Req} {s : State} (h : Keep r s) :
    KeepF r (resCountersCmd q s) := by
  unfold resCountersCmd
  with_reducible repeat' (first | assumption | apply KeepS.ite | apply readCounters_keep | simp only [KeepF.pair] | apply KeepS.snd | intro _ | split)

theorem execScrubRead_keep {r : State} {h0x : ScrubHit} {s : State} (h : Keep r s) :
    KeepR r (execScrubRead h0x s) := by
  unfold execScrubRead
  with_reducible repeat' (first | assumption | apply scrubRead_keep | apply KeepR.next)

theorem repairEvent_keep {r : State} {column : Bool} {loc : Place} {s : State} (h : Keep r s) :
    Keep r (repairEvent column loc s) := by
  unfold repairEvent
  with_reducible repeat' (first | assumption | apply Keep.ite | apply clocked_keep | apply repairDone_keep | intro _ | split | dsimp only)

theorem execRowRepairDone_keep {r : State} {loc : Place} {s : State} (h : Keep r s) :
    KeepR r (execRowRepairDone loc s) := by
  unfold execRowRepairDone
  with_reducible repeat' (first | assumption | apply KeepR.next | apply repairEvent_keep | intro _ | split | dsimp only)

theorem execColumnRepairDone_keep {r : State} {loc : Place} {s : State} (h : Keep r s) :
    KeepR r (execColumnRepairDone loc s) := by
  unfold execColumnRepairDone
  with_reducible repeat' (first | assumption | apply KeepR.next | apply repairEvent_keep | intro _ | split | dsimp only)

theorem execFreeListRebuildDone_keep {r : State} {p : Nat} {s : State} (h : Keep r s) :
    KeepR r (execFreeListRebuildDone p s) := by
  unfold execFreeListRebuildDone
  with_reducible repeat' (first | assumption | apply KeepR.next | apply clocked_keep | apply freeListDone_keep | intro _ | split | dsimp only)

theorem execImemRefillDone_keep {r : State} {e : Nat} {s : State} (h : Keep r s) :
    KeepR r (execImemRefillDone e s) := by
  unfold execImemRefillDone
  with_reducible repeat' (first | assumption | apply KeepR.next | apply clocked_keep | apply imemRefill_keep | intro _ | split | dsimp only)

theorem execResEngineCondemn_keep {r : State} {s : State} (h : Keep r s) :
    KeepR r (execResEngineCondemn s) := by
  unfold execResEngineCondemn
  with_reducible repeat' (first | assumption | apply resCondemn_keep | apply immediate_keep | apply KeepR.next)

theorem execResConfig_keep {r : State} {s : State} (h : Keep r s) :
    KeepR r (execResConfig s) := by
  unfold execResConfig
  with_reducible repeat' (first | assumption | apply resConfig_keep | apply immediate_keep | apply KeepR.next)

theorem execResStatusGet_keep {r : State} {s : State} (h : Keep r s) :
    KeepR r (execResStatusGet s) := by
  unfold execResStatusGet
  with_reducible repeat' (first | assumption | apply immediate_keep | simp only [KeepF.pair] | apply KeepR.next | intro _)

theorem execResFaultRead_keep {r : State} {s : State} (h : Keep r s) :
    KeepR r (execResFaultRead s) := by
  unfold execResFaultRead
  with_reducible repeat' (first | assumption | apply resFaultRead_keep | apply immediate_keep | apply KeepR.next)

theorem execResCountersGet_keep {r : State} {s : State} (h : Keep r s) :
    KeepR r (execResCountersGet s) := by
  unfold execResCountersGet
  with_reducible repeat' (first | assumption | apply resCountersCmd_keep | apply immediate_keep | apply KeepR.next)

/-! ## Images -/

theorem updLoad_keep {r : State} {f : LoadSt → LoadSt} {s : State} (h : Keep r s) :
    Keep r (updLoad f s) := by
  unfold updLoad
  with_reducible repeat' (first | assumption | refine Keep.updRes ?_ (fun _ => rfl))

theorem updAct_keep {r : State} {f : ActSt → ActSt} {s : State} (h : Keep r s) :
    Keep r (updAct f s) := by
  unfold updAct
  with_reducible repeat' (first | assumption | refine Keep.updRes ?_ (fun _ => rfl))

theorem feedZeros_keep {r : State} {l : LoadSt} {s : State} (h : Keep r s) :
    Keep r (feedZeros l s) := by
  unfold feedZeros
  with_reducible repeat' (first | assumption | apply updLoad_keep)

theorem readCipher_keep {r : State} {l : LoadSt} {s : State} (h : Keep r s) :
    Keep r (readCipher l s) := by
  unfold readCipher
  show Keep r (if _ then _ else _)
  with_reducible repeat' (first | assumption | apply Keep.ite | apply startXfer_keep | apply feedZeros_keep | apply lines_keep | apply violation_keep | intro _)

theorem startCipher_keep {r : State} {s : State} (h : Keep r s) :
    Keep r (startCipher s) := by
  unfold startCipher
  with_reducible repeat' (first | assumption | apply Keep.ite | refine Keep.updRes ?_ (fun _ => rfl) | apply updLoad_keep | apply readCipher_keep | simp only [KeepF.pair] | intro _ | split)

theorem scrubAt_keep {r : State} {a : Nat} {n : Nat} {s : State} (h : Keep r s) :
    Keep r (scrubAt a n s) := by
  unfold scrubAt
  with_reducible repeat' (first | assumption | apply Keep.ite | apply startXfer_keep | refine Keep.updRes ?_ (fun _ => rfl) | apply lines_keep | apply violation_keep | intro _)

theorem scrubRange_keep {r : State} {off : Nat} {n : Nat} {s : State} (h : Keep r s) :
    Keep r (scrubRange off n s) := by
  unfold scrubRange
  with_reducible repeat' (first | assumption | apply scrubAt_keep)

theorem afterScrub_keep {r : State} {l : LoadSt} {s : State} (h : Keep r s) :
    Keep r (afterScrub l s) := by
  unfold afterScrub
  with_reducible repeat' (first | assumption | apply Keep.ite | apply endLoad_keep | apply startCipher_keep | simp only [KeepF.pair] | intro _ | split)

theorem scrubLoad_keep {r : State} {restart : Bool} {s : State} (h : Keep r s) :
    Keep r (scrubLoad restart s) := by
  unfold scrubLoad
  with_reducible repeat' (first | assumption | apply Keep.ite | refine Keep.updRes ?_ (fun _ => rfl) | apply scrubRange_keep | apply afterScrub_keep | simp only [KeepF.pair] | intro _ | split)

theorem failLoad_keep {r : State} {st : Nat} {detail : Nat} {s : State} (h : Keep r s) :
    Keep r (failLoad st detail s) := by
  unfold failLoad
  with_reducible repeat' (first | assumption | apply updLoad_keep | apply scrubLoad_keep)

theorem loadProgram_keep {r : State} {h0x : Bytes} {body : Bytes} {s : State} (h : Keep r s) :
    KeepL r (loadProgram h0x body s) := by
  unfold loadProgram
  repeat' (first | with_reducible assumption | with_reducible apply KeepL.ite | with_reducible refine Keep.updEng' ?_ (fun _ => rfl) | refine setEng_keep ?_ (fun g hg => ⟨Mem.wrN_wf hg.1, Mem.wrN_wf hg.2⟩) | with_reducible apply Keep.foldl | with_reducible simp only [KeepF.pair] | with_reducible apply KeepL.inl | with_reducible apply KeepL.inr | with_reducible intro _ | with_reducible split)

theorem stageRules_keep {r : State} {q : Req} {id : Nat} {a : Nat} {a3x : Bytes} {s : State} (h : Keep r s) :
    KeepL r (stageRules q id a a3x s) := by
  induction a generalizing q id a3x s with
  | zero =>
    simp only [stageRules]
    exact KeepL.inl h
  | succ n ih =>
    simp only [stageRules]
    with_reducible repeat' (first | assumption | apply ih | apply KeepL.ite | apply addStaged_keep | apply KeepL.inl | apply KeepL.inr | apply KeepF.fst | intro _ | split)

theorem useImage_keep {r : State} {l : LoadSt} {s : State} (h : Keep r s) :
    Keep r (useImage l s) := by
  unfold useImage
  with_reducible repeat' (first | assumption | apply Keep.ite | apply loadProgram_keep | refine Keep.updRes ?_ (fun _ => rfl) | apply stageRules_keep | apply failLoad_keep | apply endLoad_keep | apply updLoad_keep | simp only [KeepF.pair] | intro _ | refine KeepL.elim (by assumption) ?_ | split)

theorem verifyImage_keep {r : State} {s : State} (h : Keep r s) :
    Keep r (verifyImage s) := by
  unfold verifyImage
  with_reducible repeat' (first | assumption | apply Keep.ite | refine Keep.updRes ?_ (fun _ => rfl) | apply failLoad_keep | apply useImage_keep | simp only [KeepF.pair] | intro _ | split)

theorem settleLoad_keep {r : State} {s : State} (h : Keep r s) :
    Keep r (settleLoad s) := by
  unfold settleLoad
  with_reducible repeat' (first | assumption | apply Keep.ite | apply bump_keep | apply verifyImage_keep | apply failLoad_keep | apply updLoad_keep | apply scrubLoad_keep | intro _ | split)

theorem freeCipher_keep {r : State} {s : State} (h : Keep r s) :
    Keep r (freeCipher s) := by
  unfold freeCipher
  with_reducible repeat' (first | assumption | apply Keep.ite | apply endLoad_keep | apply startCipher_keep | intro _ | split)

theorem ciphDone_keep {r : State} {status : Nat} {s : State} (h : Keep r s) :
    Keep r (ciphDone status s) := by
  unfold ciphDone
  with_reducible repeat' (first | assumption | apply Keep.ite | refine Keep.updRes ?_ (fun _ => rfl) | apply updLoad_keep | apply dropXfers_keep | apply settleLoad_keep | apply freeCipher_keep | simp only [KeepF.pair] | intro _ | split)

theorem ciphTimeout_keep {r : State} {s : State} (h : Keep r s) :
    Keep r (ciphTimeout s) := by
  unfold ciphTimeout
  with_reducible repeat' (first | assumption | apply Keep.ite | refine Keep.updRes ?_ (fun _ => rfl) | apply updLoad_keep | apply settleLoad_keep | simp only [KeepF.pair] | intro _ | split)

theorem plaintextByte_keep {r : State} {b : Byte} {s : State} (h : Keep r s) :
    Keep r (plaintextByte b s) := by
  unfold plaintextByte
  with_reducible repeat' (first | assumption | apply Keep.ite | apply updLoad_keep | apply startXfer_keep | simp only [KeepF.pair] | intro _ | split)

theorem prefixDone_keep {r : State} {x : Xfer} {l : LoadSt} {s : State} (h : Keep r s) :
    Keep r (prefixDone x l s) := by
  unfold prefixDone
  with_reducible repeat' (first | assumption | apply Keep.ite | refine Keep.updRes ?_ (fun _ => rfl) | apply endLoad_keep | apply scrubRange_keep | apply startCipher_keep | simp only [KeepF.pair] | intro _ | split)

theorem cipherReadDone_keep {r : State} {x : Xfer} {l : LoadSt} {s : State} (h : Keep r s) :
    Keep r (cipherReadDone x l s) := by
  unfold cipherReadDone
  with_reducible repeat' (first | assumption | apply Keep.ite | refine Keep.updRes ?_ (fun _ => rfl) | apply updLoad_keep | apply readCipher_keep | apply feedZeros_keep | simp only [KeepF.pair] | intro _)

theorem imageReadDone_keep {r : State} {x : Xfer} {s : State} (h : Keep r s) :
    Keep r (imageReadDone x s) := by
  unfold imageReadDone
  with_reducible repeat' (first | assumption | apply cipherReadDone_keep | apply prefixDone_keep | apply settleLoad_keep | split)

theorem stageWriteDone_keep {r : State} {x : Xfer} {s : State} (h : Keep r s) :
    Keep r (stageWriteDone x s) := by
  unfold stageWriteDone
  with_reducible repeat' (first | assumption | apply Keep.ite | apply updLoad_keep | apply settleLoad_keep | intro _)

theorem endAct_keep {r : State} {st : Nat} {s : State} (h : Keep r s) :
    Keep r (endAct st s) := by
  unfold endAct
  with_reducible repeat' (first | assumption | apply imageDone_keep | refine Keep.updRes ?_ (fun _ => rfl) | apply finishRunning_keep | simp only [KeepF.pair] | split)

theorem takeFirmware_keep {r : State} {s : State} (h : Keep r s) :
    Keep r (takeFirmware s) := by
  unfold takeFirmware
  with_reducible repeat' (first | assumption | refine Keep.updRes ?_ (fun _ => rfl) | apply Keep.updSys | split)

theorem retainFirmware_keep {r : State} {s : State} (h : Keep r s) :
    Keep r (retainFirmware s) := by
  unfold retainFirmware
  with_reducible repeat' (first | assumption | refine Keep.updRes ?_ (fun _ => rfl) | intro _ | split | dsimp only)

theorem tryImageSwitch_keep {r : State} {s : State} (h : Keep r s) :
    Keep r (tryImageSwitch s) := by
  unfold tryImageSwitch
  with_reducible repeat' (first | assumption | apply Keep.ite | apply endAct_keep | apply swapCores_keep | apply takeFirmware_keep | apply finishTakeover_keep | intro _ | split)

theorem reloadSteps_keep {r : State} {a : Nat} {s : State} (h : Keep r s) :
    Keep r (reloadSteps a s) := by
  induction a generalizing s with
  | zero =>
    simp only [reloadSteps]
    exact h
  | succ n ih =>
    simp only [reloadSteps]
    with_reducible repeat' (first | assumption | apply ih | apply Keep.ite | apply endAct_keep | apply reloadBase_keep | refine setEng_keep' ?_ (fun _ => ⟨rfl, rfl⟩) | apply setMode_keep | apply updAct_keep | intro _ | split | dsimp only)

theorem firstStates_keep {r : State} {s : State} (h : Keep r s) :
    Keep r (firstStates s) := by
  unfold firstStates
  with_reducible repeat' (first | assumption | apply Keep.ite | apply endAct_keep | apply freshEpochs_keep | apply judgeFailed_keep | apply loadImages_keep | refine setEng_keep' ?_ (fun _ => ⟨rfl, rfl⟩) | apply setMode_keep | refine Keep.updEng' ?_ (fun _ => rfl) | apply Keep.updSys | apply Keep.foldl | intro _ | split | dsimp only)

theorem activate_keep {r : State} {a : ActSt} {data : Bytes} {s : State} (h : Keep r s) :
    Keep r (activate a data s) := by
  unfold activate
  with_reducible repeat' (first | assumption | apply Keep.ite | apply reloadSteps_keep | refine setEng_keep' ?_ (fun _ => ⟨rfl, rfl⟩) | refine Keep.updRes ?_ (fun _ => rfl) | apply updAct_keep | apply driveReqs_keep | apply Keep.updSys | refine Keep.updEng' ?_ (fun _ => rfl) | apply Keep.foldl | simp only [KeepF.pair] | intro _)

theorem readBackDone_keep {r : State} {x : Xfer} {s : State} (h : Keep r s) :
    Keep r (readBackDone x s) := by
  unfold readBackDone
  with_reducible repeat' (first | assumption | apply Keep.ite | apply endAct_keep | apply activate_keep | refine Keep.updRes ?_ (fun _ => rfl) | apply updAct_keep | apply scrubRange_keep | intro _ | split)

theorem scrubDone_keep {r : State} {x : Xfer} {s : State} (h : Keep r s) :
    Keep r (scrubDone x s) := by
  unfold scrubDone
  with_reducible repeat' (first | assumption | apply Keep.ite | apply endAct_keep | refine Keep.updRes ?_ (fun _ => rfl) | apply afterScrub_keep | intro _ | split)

theorem scrubRetry_keep {r : State} {s : State} (h : Keep r s) :
    Keep r (scrubRetry s) := by
  unfold scrubRetry
  with_reducible repeat' (first | assumption | refine Keep.updRes ?_ (fun _ => rfl) | apply scrubAt_keep | apply Keep.foldl | intro _)

theorem standbyReady_keep {r : State} {s : State} (h : Keep r s) :
    Keep r (standbyReady s) := by
  unfold standbyReady
  with_reducible repeat' (first | assumption | apply Keep.ite | apply endAct_keep | apply finishTakeover_keep | apply judgeMgmt_keep | apply onyxRuns_keep | apply retainFirmware_keep | apply takeFirmware_keep | apply tryImageSwitch_keep | apply updAct_keep | refine Keep.updRes ?_ (fun _ => rfl) | apply Keep.updSys | intro _ | split | dsimp only)

theorem standbyLate_keep {r : State} {s : State} (h : Keep r s) :
    Keep r (standbyLate s) := by
  unfold standbyLate
  with_reducible repeat' (first | assumption | apply Keep.ite | apply endAct_keep | intro _ | split)

theorem endCondemned_keep {r : State} {e : Nat} {pass : Bool} {s : State} (h : Keep r s) :
    Keep r (endCondemned e pass s) := by
  unfold endCondemned
  with_reducible repeat' (first | assumption | apply Keep.ite | apply condemn_keep | apply engFail_keep | apply engReturn_keep | intro _ | split | dsimp only)

theorem engineBistDone_keep {r : State} {e : Nat} {fails : List (Nat × List Cell)} {s : State} (h : Keep r s) :
    Keep r (engineBistDone e fails s) := by
  unfold engineBistDone
  with_reducible repeat' (first | assumption | apply Keep.ite | apply driveReqs_keep | apply endCondemned_keep | apply engFail_keep | apply engReturn_keep | apply engineTest_keep | apply finishRunning_keep | apply firstStates_keep | refine setEng_keep' ?_ (fun _ => ⟨rfl, rfl⟩) | apply settlePolicy_keep | apply updAct_keep | simp only [KeepS.pair] | apply KeepS.snd | (refine KeepS.elim (by assumption) ?_) | intro _ | split | dsimp only)

theorem imageLoadCmd_keep {r : State} {q : Req} {s : State} (h : Keep r s) :
    KeepF r (imageLoadCmd q s) := by
  unfold imageLoadCmd
  with_reducible repeat' (first | assumption | refine Keep.updRes ?_ (fun _ => rfl) | apply startXfer_keep | simp only [KeepF.pair] | split)

theorem imageActivateCmd_keep {r : State} {q : Req} {s : State} (h : Keep r s) :
    KeepF r (imageActivateCmd q s) := by
  unfold imageActivateCmd
  with_reducible repeat' (first | assumption | apply KeepF.ite | refine Keep.updRes ?_ (fun _ => rfl) | apply startXfer_keep | simp only [KeepF.pair] | intro _ | split)

theorem engineReturnCmd_keep {r : State} {q : Req} {s : State} (h : Keep r s) :
    KeepF r (engineReturnCmd q s) := by
  unfold engineReturnCmd
  with_reducible repeat' (first | assumption | apply KeepF.ite | refine setEng_keep' ?_ (fun _ => ⟨rfl, rfl⟩) | apply driveReqs_keep | simp only [KeepF.pair] | intro _)

theorem abortLoad_keep {r : State} {s : State} (h : Keep r s) :
    Keep r (abortLoad s) := by
  unfold abortLoad
  with_reducible repeat' (first | assumption | apply endLoad_keep | apply updLoad_keep | apply dropXfers_keep | simp only [KeepF.pair] | split)

theorem execCiphDone_keep {r : State} {st : Nat} {s : State} (h : Keep r s) :
    KeepR r (execCiphDone st s) := by
  unfold execCiphDone
  with_reducible repeat' (first | assumption | apply KeepR.next | apply ciphDone_keep | apply clocked_keep | intro _ | split | dsimp only)

theorem execCiphTimeout_keep {r : State} {s : State} (h : Keep r s) :
    KeepR r (execCiphTimeout s) := by
  unfold execCiphTimeout
  with_reducible repeat' (first | assumption | apply KeepR.next | apply ciphTimeout_keep | apply clocked_keep | intro _ | split | dsimp only)

theorem execCiphPlaintextByte_keep {r : State} {b : Byte} {s : State} (h : Keep r s) :
    KeepR r (execCiphPlaintextByte b s) := by
  unfold execCiphPlaintextByte
  with_reducible repeat' (first | assumption | apply KeepR.next | apply clocked_keep | apply plaintextByte_keep | intro _ | split | dsimp only)

theorem execScrubWriteRetry_keep {r : State} {s : State} (h : Keep r s) :
    KeepR r (execScrubWriteRetry s) := by
  unfold execScrubWriteRetry
  with_reducible repeat' (first | assumption | apply KeepR.next | apply clocked_keep | apply scrubRetry_keep | intro _ | split | dsimp only)

theorem execStandbyReady_keep {r : State} {s : State} (h : Keep r s) :
    KeepR r (execStandbyReady s) := by
  unfold execStandbyReady
  with_reducible repeat' (first | assumption | apply standbyReady_keep | apply KeepR.next)

theorem execStandbySyncTimeout_keep {r : State} {s : State} (h : Keep r s) :
    KeepR r (execStandbySyncTimeout s) := by
  unfold execStandbySyncTimeout
  with_reducible repeat' (first | assumption | apply standbyLate_keep | apply KeepR.next)

theorem execEngineBistDone_keep {r : State} {e : Nat} {fails : List (Nat × List Cell)} {s : State} (h : Keep r s) :
    KeepR r (execEngineBistDone e fails s) := by
  unfold execEngineBistDone
  with_reducible repeat' (first | assumption | apply KeepR.next | apply clocked_keep | apply engineBistDone_keep | intro _ | split | dsimp only)

theorem execResImageLoad_keep {r : State} {s : State} (h : Keep r s) :
    KeepR r (execResImageLoad s) := by
  unfold execResImageLoad
  with_reducible repeat' (first | assumption | apply imageLoadCmd_keep | apply longRunning_keep | apply KeepR.next)

theorem execResImageActivate_keep {r : State} {s : State} (h : Keep r s) :
    KeepR r (execResImageActivate s) := by
  unfold execResImageActivate
  with_reducible repeat' (first | assumption | apply imageActivateCmd_keep | apply longRunning_keep | apply KeepR.next)

theorem execResEngineReturn_keep {r : State} {s : State} (h : Keep r s) :
    KeepR r (execResEngineReturn s) := by
  unfold execResEngineReturn
  with_reducible repeat' (first | assumption | apply engineReturnCmd_keep | apply longRunning_keep | apply KeepR.next)

end Sys2Proof.Machine
end

