-- ==== Sys2Proof/Laws/KeepPower.lean ====
section
/-! SUPPORT. Each operation of the time unit, the power unit and the host port's returns keeps the build, the queue and the invariant. -/

namespace Sys2Proof.Machine

open Sys2Proof

/-! ## TimeUnit -/

theorem baseEvent_keep {r : State} {k : Nat} {cause : Nat} {s : State} (h : Keep r s) :
    Keep r (baseEvent k cause s) := by
  unfold baseEvent
  with_reducible repeat' (first | assumption | apply raiseTime1_keep | apply raise0_keep)

theorem capEdge_keep {r : State} {c : Nat} {s : State} (h : Keep r s) :
    Keep r (capEdge c s) := by
  unfold capEdge
  with_reducible repeat' (first | assumption | apply Keep.ite | apply capAccept_keep | intro _)

theorem captureStuck_keep {r : State} {c : Nat} {s : State} (h : Keep r s) :
    Keep r (captureStuck c s) := by
  unfold captureStuck
  with_reducible repeat' (first | assumption | apply Keep.ite | apply bump_keep | apply raiseTime1_keep | apply raise0_keep | apply setCap_keep | intro _)

theorem capPop_keep {r : State} {c : Nat} {s : State} (h : Keep r s) :
    Keep r (capPop c s) := by
  unfold capPop
  with_reducible repeat' (first | assumption | apply regWrite_keep | apply setCap_keep)

theorem trgTarget_keep {r : State} {t : Nat} {a1x : TrgSet} {s : State} (h : Keep r s) :
    Keep r (trgTarget t a1x s) := by
  unfold trgTarget
  with_reducible repeat' (first | assumption | apply Keep.ite | apply bump_keep | apply psEffect_keep | apply Keep.updTime | intro _ | split | dsimp only)

theorem trgEvent_keep {r : State} {t : Nat} {result : Nat} {missed : Nat} {x : TrgSet} {s : State} (h : Keep r s) :
    Keep r (trgEvent t result missed x s) := by
  unfold trgEvent
  with_reducible repeat' (first | assumption | apply raise0_keep)

theorem trgAdvance_keep {r : State} {t : Nat} {n : Nat} {s : State} (h : Keep r s) :
    Keep r (trgAdvance t n s) := by
  unfold trgAdvance
  with_reducible repeat' (first | assumption | apply setTrg_keep)

theorem trgFire_keep {r : State} {t : Nat} {missed : Nat} {late : Bool} {x : TrgSet} {s : State} (h : Keep r s) :
    Keep r (trgFire t missed late x s) := by
  unfold trgFire
  with_reducible repeat' (first | assumption | apply Keep.ite | apply raiseTime0_keep | apply bump_keep | apply trgEvent_keep | apply trgCaptures_keep | apply trgTarget_keep | apply setTrg_keep | intro _)

theorem trgCatchUp_keep {r : State} {t : Nat} {s : State} (h : Keep r s) :
    Keep r (trgCatchUp t s) := by
  unfold trgCatchUp
  with_reducible repeat' (first | assumption | apply Keep.ite | apply bump_keep | apply trgEvent_keep | apply trgFire_keep | apply trgAdvance_keep | apply bumpN_keep | simp only [KeepF.pair] | intro _)

theorem triggerFire_keep {r : State} {t : Nat} {s : State} (h : Keep r s) :
    Keep r (triggerFire t s) := by
  unfold triggerFire
  with_reducible repeat' (first | assumption | apply Keep.ite | apply gateCycle_keep | apply gclStart_keep | apply trgAdvance_keep | apply trgCatchUp_keep | apply trgFire_keep | intro _ | split | dsimp only)

theorem trigPulseEnd_keep {r : State} {t : Nat} {s : State} (h : Keep r s) :
    Keep r (trigPulseEnd t s) := by
  unfold trigPulseEnd
  with_reducible repeat' (first | assumption | apply Keep.ite | apply setTrg_keep | intro _)

theorem trgIdle_keep {r : State} {t : Nat} {s : State} (h : Keep r s) :
    Keep r (trgIdle t s) := by
  unfold trgIdle
  with_reducible repeat' (first | assumption | apply setTrg_keep | apply Keep.updTime | intro _ | split | dsimp only)

theorem trgJudge_keep {r : State} {t : Nat} {s : State} (h : Keep r s) :
    Keep r (trgJudge t s) := by
  unfold trgJudge
  with_reducible repeat' (first | assumption | apply Keep.ite | apply trgCatchUp_keep | apply trgEvent_keep | apply trgIdle_keep | intro _ | split | dsimp only)

theorem trgJudgeBase_keep {r : State} {k : Nat} {s : State} (h : Keep r s) :
    Keep r (trgJudgeBase k s) := by
  unfold trgJudgeBase
  with_reducible repeat' (first | assumption | apply Keep.ite | apply trgJudge_keep | apply Keep.foldl | intro _)

theorem trgArm_keep {r : State} {t : Nat} {x : TrgSet} {s : State} (h : Keep r s) :
    KeepS r (trgArm t x s) := by
  unfold trgArm
  with_reducible repeat' (first | assumption | apply KeepS.ite | apply bump_keep | apply trgFire_keep | apply trgCatchUp_keep | apply trgAdvance_keep | apply setTrg_keep | simp only [KeepF.pair] | simp only [KeepS.pair] | intro _)

theorem trgCancel_keep {r : State} {t : Nat} {s : State} (h : Keep r s) :
    Keep r (trgCancel t s) := by
  unfold trgCancel
  with_reducible repeat' (first | assumption | apply Keep.ite | apply trgIdle_keep | intro _ | split | dsimp only)

theorem trgCtrl_keep {r : State} {t : Nat} {value : Nat} {s : State} (h : Keep r s) :
    Keep r (trgCtrl t value s) := by
  unfold trgCtrl
  with_reducible repeat' (first | assumption | apply Keep.ite | apply trgArm_keep | apply trgCancel_keep | apply setTrg_keep | simp only [KeepF.pair] | apply KeepS.snd | intro _)

theorem trgWrite_keep {r : State} {t : Nat} {value : Nat} {s : State} (h : Keep r s) :
    Keep r (trgWrite t value s) := by
  unfold trgWrite
  with_reducible repeat' (first | assumption | apply Keep.ite | apply trgCtrl_keep | apply regWrite_keep | intro _)

theorem stepBase_keep {r : State} {k : Nat} {v : Nat} {locked : Bool} {cause : Nat} {s : State} (h : Keep r s) :
    Keep r (stepBase k v locked cause s) := by
  unfold stepBase
  with_reducible repeat' (first | assumption | apply baseEvent_keep | apply bump_keep | apply gclStep_keep | apply markStep_keep | apply setTb_keep | apply trgJudgeBase_keep | intro _ | split | dsimp only)

theorem setRateAdj_keep {r : State} {k : Nat} {r1x : Int} {s : State} (h : Keep r s) :
    Keep r (setRateAdj k r1x s) := by
  unfold setRateAdj
  with_reducible repeat' (first | assumption | apply setTb_keep)

theorem tbRateWrite_keep {r : State} {k : Nat} {value : Nat} {s : State} (h : Keep r s) :
    Keep r (tbRateWrite k value s) := by
  unfold tbRateWrite
  with_reducible repeat' (first | assumption | apply Keep.ite | apply bump_keep | apply regWrite_keep | apply setRateAdj_keep | intro _)

theorem tbNsRead_keep {r : State} {k : Nat} {s : State} (h : Keep r s) :
    Keep r (tbNsRead k s) := by
  unfold tbNsRead
  with_reducible repeat' (first | assumption | apply Keep.ite | apply regWrite_keep | apply Keep.updReg | apply setTb_keep | intro _)

theorem timeSnap_keep {r : State} {value : Nat} {s : State} (h : Keep r s) :
    Keep r (timeSnap value s) := by
  unfold timeSnap
  with_reducible repeat' (first | assumption | apply Keep.ite | apply regWrite_keep | apply setTb_keep | apply Keep.foldl | intro _)

theorem tsfSample_keep {r : State} {k : Nat} {tsf : Nat} {s : State} (h : Keep r s) :
    Keep r (tsfSample k tsf s) := by
  unfold tsfSample
  with_reducible repeat' (first | assumption | apply Keep.ite | apply bump_keep | apply setTb_keep | apply baseEvent_keep | apply stepBase_keep | simp only [KeepF.pair] | intro _ | split)

theorem fbTsfMsg_keep {r : State} {m : Bytes} {s : State} (h : Keep r s) :
    Keep r (fbTsfMsg m s) := by
  unfold fbTsfMsg
  with_reducible repeat' (first | assumption | apply Keep.ite | apply fbAccept_keep | apply fbError_keep | apply tsfSample_keep | simp only [KeepF.pair] | intro _)

theorem tsfStale_keep {r : State} {k : Nat} {s : State} (h : Keep r s) :
    Keep r (tsfStale k s) := by
  unfold tsfStale
  with_reducible repeat' (first | assumption | apply Keep.ite | apply setTb_keep | apply baseEvent_keep | intro _)

theorem setRingS_keep {r : State} {l : Nat} {f : StrobeRing → StrobeRing} {s : State} (h : Keep r s) :
    Keep r (setRingS l f s) := by
  unfold setRingS
  with_reducible repeat' (first | assumption | apply Keep.updTime)

theorem closeRec_keep {r : State} {l : Nat} {state : Nat} {s : State} (h : Keep r s) :
    Keep r (closeRec l state s) := by
  unfold closeRec
  with_reducible repeat' (first | assumption | apply Keep.ite | apply raiseTime1_keep | apply setRingS_keep | intro _)

theorem openRec_keep {r : State} {l : Nat} {kind : Nat} {orphan : Bool} {s : State} (h : Keep r s) :
    Keep r (openRec l kind orphan s) := by
  unfold openRec
  with_reducible repeat' (first | assumption | apply Keep.ite | apply bump_keep | apply setRingS_keep | intro _)

theorem strobe_keep {r : State} {l : Nat} {kind : Nat} {s : State} (h : Keep r s) :
    Keep r (strobe l kind s) := by
  unfold strobe
  with_reducible repeat' (first | assumption | apply Keep.ite | apply bump_keep | apply openRec_keep | apply closeRec_keep | simp only [KeepF.pair] | intro _ | split)

theorem pairRec_keep {r : State} {l : Nat} {kind : Nat} {id : Nat} {tsf : Nat} {s : State} (h : Keep r s) :
    Keep r (pairRec l kind id tsf s) := by
  unfold pairRec
  with_reducible repeat' (first | assumption | apply Keep.ite | apply bump_keep | apply setRingS_keep | intro _)

theorem fbRxEventMsg_keep {r : State} {m : Bytes} {s : State} (h : Keep r s) :
    Keep r (fbRxEventMsg m s) := by
  unfold fbRxEventMsg
  with_reducible repeat' (first | assumption | apply Keep.ite | apply pairRec_keep | apply fbAccept_keep | apply fbError_keep | intro _)

theorem execFbRxEvent_keep {r : State} {m : Bytes} {s : State} (h : Keep r s) :
    KeepR r (execFbRxEvent m s) := by
  unfold execFbRxEvent
  with_reducible repeat' (first | assumption | apply fbRxEventMsg_keep | apply KeepR.next)

theorem execFbTsf_keep {r : State} {m : Bytes} {s : State} (h : Keep r s) :
    KeepR r (execFbTsf m s) := by
  unfold execFbTsf
  with_reducible repeat' (first | assumption | apply fbTsfMsg_keep | apply KeepR.next)

theorem execStbPd_keep {r : State} {l : Nat} {s : State} (h : Keep r s) :
    KeepR r (execStbPd l s) := by
  unfold execStbPd
  with_reducible repeat' (first | assumption | apply strobe_keep | apply KeepR.next)

theorem execStbRestart_keep {r : State} {l : Nat} {s : State} (h : Keep r s) :
    KeepR r (execStbRestart l s) := by
  unfold execStbRestart
  with_reducible repeat' (first | assumption | apply strobe_keep | apply KeepR.next)

theorem execStbAbort_keep {r : State} {l : Nat} {s : State} (h : Keep r s) :
    KeepR r (execStbAbort l s) := by
  unfold execStbAbort
  with_reducible repeat' (first | assumption | apply strobe_keep | apply KeepR.next)

theorem execCapEdge_keep {r : State} {c : Nat} {s : State} (h : Keep r s) :
    KeepR r (execCapEdge c s) := by
  unfold execCapEdge
  with_reducible repeat' (first | assumption | apply capEdge_keep | apply KeepR.next)

theorem execCaptureStuck_keep {r : State} {c : Nat} {s : State} (h : Keep r s) :
    KeepR r (execCaptureStuck c s) := by
  unfold execCaptureStuck
  with_reducible repeat' (first | assumption | apply captureStuck_keep | apply KeepR.next)

theorem execTriggerFire_keep {r : State} {t : Nat} {s : State} (h : Keep r s) :
    KeepR r (execTriggerFire t s) := by
  unfold execTriggerFire
  with_reducible repeat' (first | assumption | apply triggerFire_keep | apply KeepR.next)

theorem execTrigPulseEnd_keep {r : State} {t : Nat} {s : State} (h : Keep r s) :
    KeepR r (execTrigPulseEnd t s) := by
  unfold execTrigPulseEnd
  with_reducible repeat' (first | assumption | apply KeepR.next | apply clocked_keep | apply trigPulseEnd_keep | intro _ | split | dsimp only)

theorem execTsfStale_keep {r : State} {k : Nat} {s : State} (h : Keep r s) :
    KeepR r (execTsfStale k s) := by
  unfold execTsfStale
  with_reducible repeat' (first | assumption | apply tsfStale_keep | apply KeepR.next)

theorem execTbNsRead_keep {r : State} {k : Nat} {s : State} (h : Keep r s) :
    KeepR r (execTbNsRead k s) := by
  unfold execTbNsRead
  with_reducible repeat' (first | assumption | apply tbNsRead_keep | apply KeepR.next)

theorem execTimeSnap_keep {r : State} {v : Nat} {s : State} (h : Keep r s) :
    KeepR r (execTimeSnap v s) := by
  unfold execTimeSnap
  with_reducible repeat' (first | assumption | apply timeSnap_keep | apply KeepR.next)

theorem execTbRateWrite_keep {r : State} {k : Nat} {v : Nat} {s : State} (h : Keep r s) :
    KeepR r (execTbRateWrite k v s) := by
  unfold execTbRateWrite
  with_reducible repeat' (first | assumption | apply tbRateWrite_keep | apply KeepR.next)

theorem execCapPop_keep {r : State} {c : Nat} {s : State} (h : Keep r s) :
    KeepR r (execCapPop c s) := by
  unfold execCapPop
  with_reducible repeat' (first | assumption | apply capPop_keep | apply KeepR.next)

theorem execTrgArm_keep {r : State} {t : Nat} {v : Nat} {s : State} (h : Keep r s) :
    KeepR r (execTrgArm t v s) := by
  unfold execTrgArm
  with_reducible repeat' (first | assumption | apply trgWrite_keep | apply KeepR.next)

theorem execTrgCancel_keep {r : State} {t : Nat} {v : Nat} {s : State} (h : Keep r s) :
    KeepR r (execTrgCancel t v s) := by
  unfold execTrgCancel
  with_reducible repeat' (first | assumption | apply trgWrite_keep | apply KeepR.next)

/-! ## Power -/

theorem resumeUnits_keep {r : State} {s : State} (h : Keep r s) :
    Keep r (resumeUnits s) := by
  unfold resumeUnits
  with_reducible repeat' (first | assumption | apply svcPump_keep | apply giveCredit_keep | apply fetchPump_keep | apply Keep.foldl | intro _)

theorem drainWatch_keep {r : State} {wake : Bool} {s : State} (h : Keep r s) :
    Keep r (drainWatch wake s) := by
  unfold drainWatch
  with_reducible repeat' (first | assumption | apply Keep.ite | apply bump_keep | apply rxOffer_keep | apply Keep.updPwr | apply Keep.foldl | apply KeepS.foldl | apply KeepF.foldl | simp only [KeepF.pair] | apply KeepF.fst | (refine KeepF.elim (by assumption) ?_) | intro _ | split)

theorem pwrResume_keep {r : State} {s : State} (h : Keep r s) :
    Keep r (pwrResume s) := by
  unfold pwrResume
  with_reducible repeat' (first | assumption | apply resumeUnits_keep | apply drainWatch_keep | apply Keep.updPwr)

theorem laneOff_keep {r : State} {n : Nat} {s : State} (h : Keep r s) :
    Keep r (laneOff n s) := by
  unfold laneOff
  with_reducible repeat' (first | assumption | apply setLane_keep | apply setPort_keep)

theorem restartLanes_keep {r : State} {kept : Nat → Bool} {s : State} (h : Keep r s) :
    Keep r (restartLanes kept s) := by
  unfold restartLanes
  with_reducible repeat' (first | assumption | apply Keep.ite | apply setLane_keep | apply Keep.foldl | intro _)

theorem resumePort_keep {r : State} {n : Nat} {s : State} (h : Keep r s) :
    Keep r (resumePort n s) := by
  unfold resumePort
  with_reducible repeat' (first | assumption | apply Keep.ite | apply endLpi_keep | apply dropWireQueues_keep | apply setPort_keep | intro _)

theorem loseRates_keep {r : State} {s : State} (h : Keep r s) :
    Keep r (loseRates s) := by
  unfold loseRates
  with_reducible repeat' (first | assumption | apply Keep.updSta | apply Keep.updRl)

theorem goActive_keep {r : State} {s : State} (h : Keep r s) :
    Keep r (goActive s) := by
  unfold goActive
  with_reducible repeat' (first | assumption | apply Keep.ite | apply drainWatch_keep | apply lines_keep | apply loseRates_keep | apply onyxRuns_keep | apply raise0_keep | apply restartLanes_keep | apply resumePort_keep | apply resumeUnits_keep | apply rlEnable_keep | apply Keep.updFlow | apply Keep.updIntr | apply Keep.updPwr | apply Keep.foldl | intro _ | split | dsimp only)

theorem enterLow_keep {r : State} {s : State} (h : Keep r s) :
    Keep r (enterLow s) := by
  unfold enterLow
  with_reducible repeat' (first | assumption | apply Keep.ite | apply beginWake_keep | apply txLpiEnter_keep | apply Keep.updPwr | apply setPort_keep | apply Keep.foldl | simp only [KeepF.pair] | intro _ | split)

theorem settlePower_keep {r : State} {s : State} (h : Keep r s) :
    Keep r (settlePower s) := by
  unfold settlePower
  with_reducible repeat' (first | assumption | apply Keep.ite | apply enterLow_keep | apply goActive_keep | apply driveReqs_keep | apply Keep.updPwr | simp only [KeepF.pair] | intro _ | split)

theorem commitPoint_keep {r : State} {q : Req} {s : State} (h : Keep r s) :
    Keep r (commitPoint q s) := by
  unfold commitPoint
  with_reducible repeat' (first | assumption | apply Keep.ite | apply abandonTraining_keep | apply bump_keep | apply finishRunning_keep | apply laneOff_keep | apply lines_keep | apply linkEvent_keep | apply linkFall_keep | apply raise0_keep | apply settlePower_keep | apply Keep.updPwr | apply Keep.foldl | intro _ | split | dsimp only)

theorem powerCommit_keep {r : State} {s : State} (h : Keep r s) :
    Keep r (powerCommit s) := by
  unfold powerCommit
  with_reducible repeat' (first | assumption | apply Keep.ite | apply commitPoint_keep | intro _ | split)

theorem hsError_keep {r : State} {s : State} (h : Keep r s) :
    Keep r (hsError s) := by
  unfold hsError
  with_reducible repeat' (first | assumption | apply Keep.updPwr)

theorem ackIn_keep {r : State} {kind : Nat} {i : Nat} {s : State} (h : Keep r s) :
    Keep r (ackIn kind i s) := by
  unfold ackIn
  with_reducible repeat' (first | assumption | apply judgeHs_keep | apply onyxRuns_keep | apply settlePower_keep | apply Keep.updPwr | intro _ | split | dsimp only)

theorem pwrAck_keep {r : State} {k : Nat} {level : Bool} {s : State} (h : Keep r s) :
    Keep r (pwrAck k level s) := by
  unfold pwrAck
  with_reducible repeat' (first | assumption | apply Keep.ite | apply hsError_keep | apply ackIn_keep | apply Keep.updPwr | intro _)

theorem retAck_keep {r : State} {t : Nat} {level : Bool} {s : State} (h : Keep r s) :
    Keep r (retAck t level s) := by
  unfold retAck
  with_reducible repeat' (first | assumption | apply Keep.ite | apply hsError_keep | apply ackIn_keep | apply Keep.updPwr | intro _)

theorem resumeBase_keep {r : State} {d : Nat} {k : Nat} {s : State} (h : Keep r s) :
    Keep r (resumeBase d k s) := by
  unfold resumeBase
  with_reducible repeat' (first | assumption | apply setTb_keep)

theorem clkRise_keep {r : State} {s : State} (h : Keep r s) :
    Keep r (clkRise s) := by
  unfold clkRise
  with_reducible repeat' (first | assumption | apply Keep.ite | apply ackIn_keep | apply gclStep_keep | apply hsError_keep | apply lines_keep | apply resumeBase_keep | apply trgJudgeBase_keep | apply Keep.updPwr | apply Keep.updTime | apply Keep.foldl | intro _ | split | dsimp only)

theorem clkFall_keep {r : State} {s : State} (h : Keep r s) :
    Keep r (clkFall s) := by
  unfold clkFall
  with_reducible repeat' (first | assumption | apply Keep.ite | apply hsError_keep | apply Keep.updTime | apply ackIn_keep | apply Keep.updPwr | simp only [KeepF.pair] | intro _)

theorem hsTimeout_keep {r : State} {kind : Nat} {i : Nat} {s : State} (h : Keep r s) :
    Keep r (hsTimeout kind i s) := by
  unfold hsTimeout
  with_reducible repeat' (first | assumption | apply Keep.ite | apply settlePower_keep | apply raise0_keep | apply Keep.updPwr | apply judgeHs_keep | simp only [KeepF.pair] | intro _)

theorem hostWake_keep {r : State} {s : State} (h : Keep r s) :
    Keep r (hostWake s) := by
  unfold hostWake
  with_reducible repeat' (first | assumption | apply Keep.ite | apply wakeCause_keep | apply answer_keep | intro _)

theorem wakeTimer_keep {r : State} {s : State} (h : Keep r s) :
    Keep r (wakeTimer s) := by
  unfold wakeTimer
  with_reducible repeat' (first | assumption | apply Keep.ite | apply wakeCause_keep | intro _)

theorem execPowerCommitPoint_keep {r : State} {s : State} (h : Keep r s) :
    KeepR r (execPowerCommitPoint s) := by
  unfold execPowerCommitPoint
  with_reducible repeat' (first | assumption | apply powerCommit_keep | apply KeepR.next)

theorem execPwrAckChange_keep {r : State} {k : Nat} {level : Bool} {s : State} (h : Keep r s) :
    KeepR r (execPwrAckChange k level s) := by
  unfold execPwrAckChange
  with_reducible repeat' (first | assumption | apply pwrAck_keep | apply KeepR.next)

theorem execRetAckChange_keep {r : State} {t : Nat} {level : Bool} {s : State} (h : Keep r s) :
    KeepR r (execRetAckChange t level s) := by
  unfold execRetAckChange
  with_reducible repeat' (first | assumption | apply retAck_keep | apply KeepR.next)

theorem execClkAckRise_keep {r : State} {s : State} (h : Keep r s) :
    KeepR r (execClkAckRise s) := by
  unfold execClkAckRise
  with_reducible repeat' (first | assumption | apply clkRise_keep | apply KeepR.next)

theorem execClkAckFall_keep {r : State} {s : State} (h : Keep r s) :
    KeepR r (execClkAckFall s) := by
  unfold execClkAckFall
  with_reducible repeat' (first | assumption | apply clkFall_keep | apply KeepR.next)

theorem execHandshakeTimeout_keep {r : State} {kind : Nat} {i : Nat} {s : State} (h : Keep r s) :
    KeepR r (execHandshakeTimeout kind i s) := by
  unfold execHandshakeTimeout
  with_reducible repeat' (first | assumption | apply hsTimeout_keep | apply KeepR.next)

theorem execPwrWake_keep {r : State} {s : State} (h : Keep r s) :
    KeepR r (execPwrWake s) := by
  unfold execPwrWake
  with_reducible repeat' (first | assumption | apply hostWake_keep | apply KeepR.next)

theorem execWakeTimer_keep {r : State} {s : State} (h : Keep r s) :
    KeepR r (execWakeTimer s) := by
  unfold execWakeTimer
  with_reducible repeat' (first | assumption | apply wakeTimer_keep | apply KeepR.next)

theorem lightSleep_keep {r : State} {bank : Nat} {s : State} (h : Keep r s) :
    Keep r (lightSleep bank s) := by
  unfold lightSleep
  with_reducible repeat' (first | assumption | apply Keep.ite | apply Keep.updStore | intro _)

theorem execLightSleep_keep {r : State} {bank : Nat} {s : State} (h : Keep r s) :
    KeepR r (execLightSleep bank s) := by
  unfold execLightSleep
  with_reducible repeat' (first | assumption | apply lightSleep_keep | apply KeepR.next)

/-! ## HostDispatch -/

theorem settleQuiesce_keep {r : State} {s : State} (h : Keep r s) :
    Keep r (settleQuiesce s) := by
  unfold settleQuiesce
  with_reducible repeat' (first | assumption | apply Keep.ite | apply finishRunning_keep | apply Keep.updSys | intro _ | split)

theorem eventDone_keep {r : State} {m : Nat} {err : Bool} {s : State} (h : Keep r s) :
    Keep r (eventDone m err s) := by
  unfold eventDone
  with_reducible repeat' (first | assumption | apply Keep.ite | apply evPassed_keep | apply evPump_keep | apply lines_keep | apply sendMsg_keep | apply setMb_keep | apply Keep.updIntr | simp only [KeepF.pair] | apply KeepF.fst | (refine KeepF.elim (by assumption) ?_) | intro _ | split | dsimp only)

theorem oldEventDone_keep {r : State} {m : Nat} {err : Bool} {s : State} (h : Keep r s) :
    Keep r (oldEventDone m err s) := by
  unfold oldEventDone
  with_reducible repeat' (first | assumption | apply Keep.ite | apply evPassed_keep | apply setMb_keep | intro _ | split)

theorem msgDone_keep {r : State} {src : MsgSrc} {err : Bool} {s : State} (h : Keep r s) :
    Keep r (msgDone src err s) := by
  unfold msgDone
  with_reducible repeat' (first | assumption | apply Keep.ite | apply vecMsgDone_keep | apply Keep.updIntr | apply raiseErr_keep | intro _ | split)

theorem xferDone_keep {r : State} {a : Xfer} {good : Nat} {s : State} (h : Keep r s) :
    Keep r (xferDone a good s) := by
  unfold xferDone
  with_reducible repeat' (first | assumption | apply Keep.ite | apply baseStart_keep | apply crcReadDone_keep | apply crcRingDone_keep | apply descDone_keep | apply doneRead_keep | apply dramWritten_keep | apply dropXfer_keep | apply eventDone_keep | apply flopDone_keep | apply flowReadDone_keep | apply imageReadDone_keep | apply lookDone_keep | apply msgDone_keep | apply oldEventDone_keep | apply orphanDone_keep | apply payloadDone_keep | apply readBackDone_keep | apply rxDataDone_keep | apply rxReadDone_keep | apply scrubDone_keep | apply stageWriteDone_keep | apply tableWriteDone_keep | apply txDataDone_keep | apply wireRead_keep | apply writeBackDone_keep | intro _ | split | dsimp only)

theorem afterHost_keep {r : State} {s : State} (h : Keep r s) :
    Keep r (afterHost s) := by
  unfold afterHost
  with_reducible repeat' (first | assumption | apply hostPerf_keep | apply pump_keep | apply releaseAwaited_keep | apply settlePower_keep | apply settleQuiesce_keep | apply settleResets_keep | apply svcPump_keep | intro _ | split)

theorem endWith_keep {r : State} {good : Nat} {r1x : State × Option Xfer} (h : KeepF r r1x) :
    Keep r (endWith good r1x) := by
  unfold endWith
  with_reducible repeat' (first | assumption | apply xferDone_keep | apply afterHost_keep | apply KeepF.fst | split)

theorem hostRead_keep {r : State} {tag : Nat} {beats : List Beat} {s : State} (h : Keep r s) :
    Keep r (hostRead tag beats s) := by
  unfold hostRead
  with_reducible repeat' (first | assumption | apply readReturn_keep | apply endWith_keep)

theorem hostWrite_keep {r : State} {tag : Nat} {resp : Nat} {s : State} (h : Keep r s) :
    Keep r (hostWrite tag resp s) := by
  unfold hostWrite
  with_reducible repeat' (first | assumption | apply endWith_keep | apply writeReturn_keep)

theorem hostTimeout_keep {r : State} {write : Bool} {tag : Nat} {s : State} (h : Keep r s) :
    Keep r (hostTimeout write tag s) := by
  unfold hostTimeout
  with_reducible repeat' (first | assumption | apply Keep.ite | apply endWith_keep | apply timeoutTxn_keep | apply Keep.updSys | intro _)

theorem hostGiveUp_keep {r : State} {write : Bool} {tag : Nat} {s : State} (h : Keep r s) :
    Keep r (hostGiveUp write tag s) := by
  unfold hostGiveUp
  with_reducible repeat' (first | assumption | apply endWith_keep | apply giveUpTxn_keep)

theorem eventWrite_keep {r : State} {tag : Nat} {resp : Nat} {s : State} (h : Keep r s) :
    Keep r (eventWrite tag resp s) := by
  unfold eventWrite
  with_reducible repeat' (first | assumption | apply hostWrite_keep | split)

theorem execHostReadReturn_keep {r : State} {tag : Nat} {beats : List Beat} {s : State} (h : Keep r s) :
    KeepR r (execHostReadReturn tag beats s) := by
  unfold execHostReadReturn
  with_reducible repeat' (first | assumption | apply hostRead_keep | apply KeepR.next)

theorem execHostWriteResponse_keep {r : State} {tag : Nat} {resp : Nat} {s : State} (h : Keep r s) :
    KeepR r (execHostWriteResponse tag resp s) := by
  unfold execHostWriteResponse
  with_reducible repeat' (first | assumption | apply hostWrite_keep | apply KeepR.next)

theorem execHostTimeout_keep {r : State} {write : Bool} {tag : Nat} {s : State} (h : Keep r s) :
    KeepR r (execHostTimeout write tag s) := by
  unfold execHostTimeout
  with_reducible repeat' (first | assumption | apply hostTimeout_keep | apply KeepR.next)

theorem execEventWriteResponse_keep {r : State} {tag : Nat} {resp : Nat} {s : State} (h : Keep r s) :
    KeepR r (execEventWriteResponse tag resp s) := by
  unfold execEventWriteResponse
  with_reducible repeat' (first | assumption | apply eventWrite_keep | apply KeepR.next)

/-! ## PowerCmd -/

theorem forcedDrops_keep {r : State} {port : Nat} {s : State} (h : Keep r s) :
    Keep r (forcedDrops port s) := by
  unfold forcedDrops
  with_reducible repeat' (first | assumption | apply bump_keep)

theorem forceFrame_keep {r : State} {f : PFrame} {s : State} (h : Keep r s) :
    Keep r (forceFrame f s) := by
  unfold forceFrame
  with_reducible repeat' (first | assumption | apply releaseOwner_keep | apply abandonAll_keep | apply forcedDrops_keep)

theorem forceThread_keep {r : State} {e : Nat} {t : Nat} {s : State} (h : Keep r s) :
    Keep r (forceThread e t s) := by
  unfold forceThread
  with_reducible repeat' (first | assumption | apply releaseOwner_keep | apply abandonAll_keep | apply forcedDrops_keep | apply unpinBuf_keep | split)

theorem dropReads_keep {r : State} {s : State} (h : Keep r s) :
    Keep r (dropReads s) := by
  unfold dropReads
  with_reducible repeat' (first | assumption | apply dropDirect_keep | apply forgetRead_keep | apply Keep.foldl | intro _ | split | dsimp only)

theorem dropEntered_keep {r : State} {s : State} (h : Keep r s) :
    Keep r (dropEntered s) := by
  unfold dropEntered
  with_reducible repeat' (first | assumption | apply dropReads_keep | apply dropXfers_keep | apply forceFrame_keep | apply forceThread_keep | apply freeStaged_keep | apply idleThreads_keep | apply Keep.updFlow | apply Keep.updPipe | apply Keep.foldl | intro _ | split | dsimp only)

theorem refuse_keep {r : State} {q : Req} {why : Nat} {s : State} (h : Keep r s) :
    Keep r (refuse q why s) := by
  unfold refuse
  with_reducible repeat' (first | assumption | apply bump_keep | apply pwrResume_keep | apply finishRunning_keep | apply raise0_keep)

theorem forceRadio_keep {r : State} {l : Nat} {s : State} (h : Keep r s) :
    Keep r (forceRadio l s) := by
  unfold forceRadio
  with_reducible repeat' (first | assumption | apply forgetLink_keep | apply leaveLaunch_keep | apply rlDrop_keep | apply setRl_keep | apply settleSta_keep | apply Keep.foldl | intro _ | split | dsimp only)

theorem force_keep {r : State} {s : State} (h : Keep r s) :
    Keep r (force s) := by
  unfold force
  with_reducible repeat' (first | assumption | apply forceRadio_keep | apply bump_keep | apply dropEntered_keep | apply chEndDeliv_keep | apply hostGiveUp_keep | apply settlePower_keep | apply Keep.updPwr | apply Keep.foldl | intro _)

theorem deferTimeout_keep {r : State} {s : State} (h : Keep r s) :
    Keep r (deferTimeout s) := by
  unfold deferTimeout
  with_reducible repeat' (first | assumption | apply Keep.ite | apply force_keep | apply refuse_keep | intro _ | split)

theorem forceLate_keep {r : State} {s : State} (h : Keep r s) :
    Keep r (forceLate s) := by
  unfold forceLate
  with_reducible repeat' (first | assumption | apply Keep.ite | apply refuse_keep | intro _ | split)

theorem abortEntry_keep {r : State} {q : Req} {s : State} (h : Keep r s) :
    Keep r (abortEntry q s) := by
  unfold abortEntry
  with_reducible repeat' (first | assumption | apply pwrResume_keep | apply finishRunning_keep)

theorem pwrStateCmd_keep {r : State} {q : Req} {s : State} (h : Keep r s) :
    KeepF r (pwrStateCmd q s) := by
  unfold pwrStateCmd
  with_reducible repeat' (first | assumption | apply entryWash_keep | apply Keep.updPwr | apply Keep.foldl | simp only [KeepF.pair] | intro _ | split)

theorem pwrWatchCmd_keep {r : State} {q : Req} {s : State} (h : Keep r s) :
    KeepF r (pwrWatchCmd q s) := by
  unfold pwrWatchCmd
  with_reducible repeat' (first | assumption | apply Keep.updPwr | simp only [KeepF.pair] | split)

theorem pwrPatternCmd_keep {r : State} {q : Req} {s : State} (h : Keep r s) :
    KeepF r (pwrPatternCmd q s) := by
  unfold pwrPatternCmd
  with_reducible repeat' (first | assumption | apply KeepF.ite | apply Keep.updPwr | simp only [KeepF.pair] | intro _ | split)

theorem pwrCountersCmd_keep {r : State} {q : Req} {s : State} (h : Keep r s) :
    KeepF r (pwrCountersCmd q s) := by
  unfold pwrCountersCmd
  with_reducible repeat' (first | assumption | apply KeepS.ite | apply readCounters_keep | simp only [KeepF.pair] | apply KeepS.snd | intro _ | split)

theorem quiesceTimeout_keep {r : State} {s : State} (h : Keep r s) :
    Keep r (quiesceTimeout s) := by
  unfold quiesceTimeout
  with_reducible repeat' (first | assumption | apply Keep.ite | apply dropEntered_keep | apply Keep.updSys | apply settleQuiesce_keep | simp only [KeepF.pair] | intro _)

theorem execPwrStateSet_keep {r : State} {s : State} (h : Keep r s) :
    KeepR r (execPwrStateSet s) := by
  unfold execPwrStateSet
  with_reducible repeat' (first | assumption | apply pwrStateCmd_keep | apply longRunning_keep | apply KeepR.next)

theorem execPowerDeferTimeout_keep {r : State} {s : State} (h : Keep r s) :
    KeepR r (execPowerDeferTimeout s) := by
  unfold execPowerDeferTimeout
  with_reducible repeat' (first | assumption | apply deferTimeout_keep | apply KeepR.next)

theorem execForceLateTimeout_keep {r : State} {s : State} (h : Keep r s) :
    KeepR r (execForceLateTimeout s) := by
  unfold execForceLateTimeout
  with_reducible repeat' (first | assumption | apply forceLate_keep | apply KeepR.next)

theorem execPwrWatchSet_keep {r : State} {s : State} (h : Keep r s) :
    KeepR r (execPwrWatchSet s) := by
  unfold execPwrWatchSet
  with_reducible repeat' (first | assumption | apply pwrWatchCmd_keep | apply immediate_keep | apply KeepR.next)

theorem execPwrPatternSet_keep {r : State} {s : State} (h : Keep r s) :
    KeepR r (execPwrPatternSet s) := by
  unfold execPwrPatternSet
  with_reducible repeat' (first | assumption | apply pwrPatternCmd_keep | apply immediate_keep | apply KeepR.next)

theorem execPwrStatusGet_keep {r : State} {s : State} (h : Keep r s) :
    KeepR r (execPwrStatusGet s) := by
  unfold execPwrStatusGet
  with_reducible repeat' (first | assumption | apply immediate_keep | simp only [KeepF.pair] | apply KeepR.next | intro _)

theorem execPwrCountersGet_keep {r : State} {s : State} (h : Keep r s) :
    KeepR r (execPwrCountersGet s) := by
  unfold execPwrCountersGet
  with_reducible repeat' (first | assumption | apply pwrCountersCmd_keep | apply immediate_keep | apply KeepR.next)

theorem execQuiesceDrainTimeout_keep {r : State} {s : State} (h : Keep r s) :
    KeepR r (execQuiesceDrainTimeout s) := by
  unfold execQuiesceDrainTimeout
  with_reducible repeat' (first | assumption | apply quiesceTimeout_keep | apply KeepR.next)

end Sys2Proof.Machine
end

