-- ==== Sys2Proof/Laws/KeepSystem.lean ====
section
/-! SUPPORT. Each operation of the system commands, reset, measurement, the register port and the tick keeps the build, the queue and the invariant. -/

namespace Sys2Proof.Machine

open Sys2Proof

/-! ## Sys -/

theorem putRegion_keep {r : State} {kind index : Nat} {g : Region} {s : State} (h : Keep r s) : Keep r (putRegion kind index g s) := by
  unfold putRegion
  split
  · exact Keep.updHost h fun _ hx => hx
  · exact Keep.updHost h fun _ hx => hx
  · exact resetDrams_keep (Keep.updStore (f := fun t => { t with units := defaultUnits g.size })
      (Keep.updHost (f := fun x => { x with dram := g }) h fun _ hx => hx))
  · exact Keep.updHost h fun _ hx => hx
  · exact Keep.updHost h fun _ hx => hx

theorem regionSetCmd_keep {r : State} {q : Req} {s : State} (h : Keep r s) :
    KeepF r (regionSetCmd q s) := by
  unfold regionSetCmd
  with_reducible repeat' (first | assumption | apply KeepF.ite | apply putRegion_keep | simp only [KeepF.pair] | intro _ | split)

theorem groupOpenCmd_keep {r : State} {q : Req} {s : State} (h : Keep r s) :
    KeepF r (groupOpenCmd q s) := by
  unfold groupOpenCmd
  with_reducible repeat' (first | assumption | apply KeepF.ite | apply Keep.updGv | simp only [KeepF.pair] | intro _)

theorem discardGroup_keep {r : State} {g : Group} {why : Nat} {s : State} (h : Keep r s) :
    Keep r (discardGroup g why s) := by
  unfold discardGroup
  with_reducible repeat' (first | assumption | apply dropGroup_keep | apply raiseTo_keep)

theorem abortCmd_keep {r : State} {q : Req} {s : State} (h : Keep r s) :
    KeepF r (abortCmd q s) := by
  unfold abortCmd
  with_reducible repeat' (first | assumption | apply KeepF.ite | apply Keep.ite | apply discardGroup_keep | apply dropGroup_keep | apply abortEntry_keep | apply abortLoad_keep | simp only [KeepF.pair] | intro _ | split)

theorem loseQueued_keep {r : State} {m : Nat} {s : State} (h : Keep r s) :
    Keep r (loseQueued m s) := by
  unfold loseQueued
  with_reducible repeat' (first | assumption | apply evLose_keep | apply evPassed_keep | apply setMb_keep | apply Keep.foldl | intro _ | split)

theorem leaveRing_keep {r : State} {m : Nat} {s : State} (h : Keep r s) :
    Keep r (leaveRing m s) := by
  unfold leaveRing
  dsimp only
  split
  · exact dropXfers_keep (evPassed_keep (setMb_keep (setMb_keep h)))
  · refine Keep.updHost (setMb_keep h) fun x hx => ⟨hx.1, hx.2.1, ?_⟩
    intro y hy
    obtain ⟨z, hz, rfl⟩ := List.mem_map.mp hy
    split <;> exact hx.2.2 z hz

theorem eventRingCmd_keep {r : State} {q : Req} {s : State} (h : Keep r s) :
    KeepF r (eventRingCmd q s) := by
  unfold eventRingCmd
  with_reducible repeat' (first | assumption | apply leaveRing_keep | apply setMb_keep | simp only [KeepF.pair] | apply KeepF.fst | (refine KeepF.elim (by assumption) ?_) | intro _ | split)

theorem eventRingSet_keep {r : State} {s : State} (h : Keep r s) :
    Keep r (eventRingSet s) := by
  unfold eventRingSet
  with_reducible repeat' (first | assumption | apply Keep.ite | apply eventRingCmd_keep | apply immediate_keep | intro _ | split)

theorem eventMaskCmd_keep {r : State} {q : Req} {s : State} (h : Keep r s) :
    KeepF r (eventMaskCmd q s) := by
  unfold eventMaskCmd
  with_reducible repeat' (first | assumption | apply setMb_keep | simp only [KeepF.pair])

theorem grantCmd_keep {r : State} {q : Req} {s : State} (h : Keep r s) :
    KeepF r (grantCmd q s) := by
  unfold grantCmd
  with_reducible repeat' (first | assumption | apply discardGroup_keep | apply leaveRing_keep | apply loseQueued_keep | apply setMb_keep | apply Keep.foldl | apply KeepF.foldl | simp only [KeepF.pair] | apply KeepF.fst | (refine KeepF.elim (by assumption) ?_) | intro _ | split)

theorem bindOne_keep {r : State} {kind agent i : Nat} {s : State} (h : Keep r s) : Keep r (bindOne kind agent i s) := by
  unfold bindOne
  split
  · exact setCh_keep h
  · exact setSta_keep h
  · exact Keep.updHost h fun _ hx => hx

theorem bindCmd_keep {r : State} {q : Req} {s : State} (h : Keep r s) :
    KeepF r (bindCmd q s) := by
  unfold bindCmd
  with_reducible repeat' (first | assumption | apply KeepF.ite | apply bindOne_keep | apply Keep.foldl | simp only [KeepF.pair] | intro _ | split)

theorem puntCmd_keep {r : State} {q : Req} {s : State} (h : Keep r s) :
    KeepF r (puntCmd q s) := by
  unfold puntCmd
  with_reducible repeat' (first | assumption | apply Keep.updGv | simp only [KeepF.pair] | split)

theorem quiesceCmd_keep {r : State} {_q : Req} {s : State} (h : Keep r s) :
    KeepF r (quiesceCmd _q s) := by
  unfold quiesceCmd
  with_reducible repeat' (first | assumption | apply KeepF.ite | apply Keep.updSys | simp only [KeepF.pair] | intro _)

theorem startCmd_keep {r : State} {_q : Req} {s : State} (h : Keep r s) :
    KeepF r (startCmd _q s) := by
  unfold startCmd
  with_reducible repeat' (first | assumption | apply resumeSends_keep | apply resumeUnits_keep | apply Keep.updSys | simp only [KeepF.pair] | apply KeepF.fst | (refine KeepF.elim (by assumption) ?_) | intro _ | split | dsimp only)

theorem execSysIdentify_keep {r : State} {s : State} (h : Keep r s) :
    KeepR r (execSysIdentify s) := by
  unfold execSysIdentify
  with_reducible repeat' (first | assumption | apply immediate_keep | simp only [KeepF.pair] | apply KeepR.next | intro _)

theorem execSysRegionSet_keep {r : State} {s : State} (h : Keep r s) :
    KeepR r (execSysRegionSet s) := by
  unfold execSysRegionSet
  with_reducible repeat' (first | assumption | apply regionSetCmd_keep | apply immediate_keep | apply KeepR.next)

theorem execSysGroupOpen_keep {r : State} {s : State} (h : Keep r s) :
    KeepR r (execSysGroupOpen s) := by
  unfold execSysGroupOpen
  with_reducible repeat' (first | assumption | apply groupOpenCmd_keep | apply immediate_keep | apply KeepR.next)

theorem execSysAbort_keep {r : State} {s : State} (h : Keep r s) :
    KeepR r (execSysAbort s) := by
  unfold execSysAbort
  with_reducible repeat' (first | assumption | apply immediate_keep | apply abortCmd_keep | apply KeepR.next)

theorem execSysEventRingSet_keep {r : State} {s : State} (h : Keep r s) :
    KeepR r (execSysEventRingSet s) := by
  unfold execSysEventRingSet
  with_reducible repeat' (first | assumption | apply eventRingSet_keep | apply KeepR.next)

theorem execSysEventMask_keep {r : State} {s : State} (h : Keep r s) :
    KeepR r (execSysEventMask s) := by
  unfold execSysEventMask
  with_reducible repeat' (first | assumption | apply eventMaskCmd_keep | apply immediate_keep | apply KeepR.next)

theorem execSysMailboxGrant_keep {r : State} {s : State} (h : Keep r s) :
    KeepR r (execSysMailboxGrant s) := by
  unfold execSysMailboxGrant
  with_reducible repeat' (first | assumption | apply immediate_keep | apply grantCmd_keep | apply KeepR.next)

theorem execSysResourceBind_keep {r : State} {s : State} (h : Keep r s) :
    KeepR r (execSysResourceBind s) := by
  unfold execSysResourceBind
  with_reducible repeat' (first | assumption | apply bindCmd_keep | apply immediate_keep | apply KeepR.next)

theorem execSysQuiesce_keep {r : State} {s : State} (h : Keep r s) :
    KeepR r (execSysQuiesce s) := by
  unfold execSysQuiesce
  with_reducible repeat' (first | assumption | apply settleQuiesce_keep | apply quiesceCmd_keep | apply longRunning_keep | apply KeepR.next)

theorem execSysStart_keep {r : State} {s : State} (h : Keep r s) :
    KeepR r (execSysStart s) := by
  unfold execSysStart
  with_reducible repeat' (first | assumption | apply startCmd_keep | apply immediate_keep | apply KeepR.next)

theorem execSysPuntSet_keep {r : State} {s : State} (h : Keep r s) :
    KeepR r (execSysPuntSet s) := by
  unfold execSysPuntSet
  with_reducible repeat' (first | assumption | apply puntCmd_keep | apply immediate_keep | apply KeepR.next)

/-! ## Reset -/

theorem applyEntry_keep {r : State} {s : State} {e : Nat} (h : Keep r s) :
    Keep r (applyEntry s e) := by
  unfold applyEntry
  with_reducible repeat' (first | assumption | apply Keep.ite | refine Keep.updRes ?_ (fun _ => rfl) | apply setMacro_keep | apply Keep.updStore | simp only [KeepF.pair] | intro _)

theorem putReason_keep {r : State} {b : Nat} {on : Bool} {s : State} (h : Keep r s) :
    Keep r (putReason b on s) := by
  unfold putReason
  with_reducible repeat' (first | assumption | apply Keep.updSys)

theorem applyRecord_keep {r : State} {s : State} (h : Keep r s) :
    Keep r (applyRecord s) := by
  unfold applyRecord
  with_reducible repeat' (first | assumption | apply lines_keep | apply putReason_keep | apply applyEntry_keep | apply Keep.foldl)

theorem coldReset_keep {r s : State} (h : Keep r s) : Keep r (coldReset s) :=
  h.trans ⟨rfl, rfl, fun i => ⟨reset_hostOk, fun _ hp => absurd hp List.not_mem_nil, i.2.2⟩⟩

theorem warmReset_keep {r s : State} (h : Keep r s) : Keep r (warmReset s) := by
  unfold warmReset
  split
  · exact h
  · refine applyRecord_keep (h.trans ⟨rfl, rfl, fun i => ⟨reset_hostOk, ?_, i.2.2⟩⟩)
    intro p hp
    simp only [List.mem_map] at hp
    obtain ⟨_, _, rfl⟩ := hp
    exact ⟨rfl, rfl⟩

theorem aoRelease_keep {r : State} {s : State} (h : Keep r s) :
    Keep r (aoRelease s) := by
  unfold aoRelease
  with_reducible repeat' (first | assumption | apply Keep.ite | apply Keep.updSys | apply applyRecord_keep | intro _)

theorem dealDefault_keep {r : State} {s : State} (h : Keep r s) :
    Keep r (dealDefault s) := by
  unfold dealDefault
  with_reducible repeat' (first | assumption | apply Keep.updStore)

theorem endSession_keep {r : State} {s : State} (h : Keep r s) :
    Keep r (endSession s) := by
  unfold endSession
  with_reducible repeat' (first | assumption | apply Keep.updMt | intro _ | split)

theorem coreRelease_keep {r : State} {s : State} (h : Keep r s) :
    Keep r (coreRelease s) := by
  unfold coreRelease
  with_reducible repeat' (first | assumption | apply Keep.ite | apply applyRecord_keep | apply dealDefault_keep | apply driveReqs_keep | apply endSession_keep | apply Keep.updSys | intro _ | split | dsimp only)

theorem bootReady_keep {r : State} {s : State} (h : Keep r s) :
    Keep r (bootReady s) := by
  unfold bootReady
  with_reducible repeat' (first | assumption | apply Keep.ite | apply Keep.updSys | intro _)

theorem testMode_keep {r : State} {level : Bool} {s : State} (h : Keep r s) :
    Keep r (testMode level s) := by
  unfold testMode
  with_reducible repeat' (first | assumption | apply Keep.updMt)

theorem execRstNAssert_keep {r : State} {s : State} (h : Keep r s) :
    KeepR r (execRstNAssert s) := by
  unfold execRstNAssert
  with_reducible repeat' (first | assumption | apply warmReset_keep | apply KeepR.next)

theorem execRstAoNAssert_keep {r : State} {s : State} (h : Keep r s) :
    KeepR r (execRstAoNAssert s) := by
  unfold execRstAoNAssert
  with_reducible repeat' (first | assumption | apply coldReset_keep | apply KeepR.next)

theorem execRstAoNDeassert_keep {r : State} {s : State} (h : Keep r s) :
    KeepR r (execRstAoNDeassert s) := by
  unfold execRstAoNDeassert
  with_reducible repeat' (first | assumption | apply aoRelease_keep | apply KeepR.next)

theorem execCoreResetRelease_keep {r : State} {s : State} (h : Keep r s) :
    KeepR r (execCoreResetRelease s) := by
  unfold execCoreResetRelease
  with_reducible repeat' (first | assumption | apply coreRelease_keep | apply KeepR.next)

theorem execBootReady_keep {r : State} {s : State} (h : Keep r s) :
    KeepR r (execBootReady s) := by
  unfold execBootReady
  with_reducible repeat' (first | assumption | apply bootReady_keep | apply KeepR.next)

theorem execTestModeChange_keep {r : State} {level : Bool} {s : State} (h : Keep r s) :
    KeepR r (execTestModeChange level s) := by
  unfold execTestModeChange
  with_reducible repeat' (first | assumption | apply testMode_keep | apply KeepR.next)

/-! ## Measure -/

theorem pmuLoadUnit_keep {r : State} {u : Nat} {s : State} (h : Keep r s) :
    Keep r (pmuLoadUnit u s) := by
  unfold pmuLoadUnit
  with_reducible repeat' (first | assumption | apply setPmu_keep)

theorem pmuCtrlWrite_keep {r : State} {u : Nat} {value : Nat} {s : State} (h : Keep r s) :
    Keep r (pmuCtrlWrite u value s) := by
  unfold pmuCtrlWrite
  with_reducible repeat' (first | assumption | apply Keep.ite | apply hostPerf_keep | apply pmuLoadUnit_keep | apply setPmu_keep | intro _)

theorem pmuLoad_keep {r : State} {u : Nat} {s : State} (h : Keep r s) :
    Keep r (pmuLoad u s) := by
  unfold pmuLoad
  with_reducible repeat' (first | assumption | apply hostPerf_keep | apply regWrite_keep | apply pmuLoadUnit_keep | intro _)

theorem pmuRunWrite_keep {r : State} {u : Nat} {value : Nat} {s : State} (h : Keep r s) :
    Keep r (pmuRunWrite u value s) := by
  unfold pmuRunWrite
  with_reducible repeat' (first | assumption | apply regWrite_keep | apply pmuCtrlWrite_keep)

theorem pmuControlCmd_keep {r : State} {q : Req} {s : State} (h : Keep r s) :
    KeepF r (pmuControlCmd q s) := by
  unfold pmuControlCmd
  with_reducible repeat' (first | assumption | apply Keep.ite | apply hostPerf_keep | apply pmuLoadUnit_keep | apply setPmu_keep | apply Keep.foldl | simp only [KeepF.pair] | intro _ | split)

theorem setBw_keep {r : State} {n : Nat} {f : Bw → Bw} {s : State} (h : Keep r s) :
    Keep r (setBw n f s) := by
  unfold setBw
  with_reducible repeat' (first | assumption | apply Keep.updMt)

theorem bwCfg_keep {r : State} {n : Nat} {value : Nat} {s : State} (h : Keep r s) :
    Keep r (bwCfg n value s) := by
  unfold bwCfg
  with_reducible repeat' (first | assumption | apply setBw_keep)

theorem bwCfgWrite_keep {r : State} {n : Nat} {value : Nat} {s : State} (h : Keep r s) :
    Keep r (bwCfgWrite n value s) := by
  unfold bwCfgWrite
  with_reducible repeat' (first | assumption | apply regWrite_keep | apply bwCfg_keep)

theorem bwWindowEnd_keep {r : State} {n : Nat} {s : State} (h : Keep r s) :
    Keep r (bwWindowEnd n s) := by
  unfold bwWindowEnd
  with_reducible repeat' (first | assumption | apply Keep.ite | apply setBw_keep | intro _)

theorem genSetCmd_keep {r : State} {q : Req} {s : State} (h : Keep r s) :
    KeepF r (genSetCmd q s) := by
  unfold genSetCmd
  with_reducible repeat' (first | assumption | apply KeepF.ite | apply Keep.ite | apply endLpi_keep | apply setGc_keep | simp only [KeepF.pair] | apply KeepF.fst | (refine KeepF.elim (by assumption) ?_) | intro _ | split | dsimp only)

theorem chkSetCmd_keep {r : State} {q : Req} {s : State} (h : Keep r s) :
    KeepF r (chkSetCmd q s) := by
  unfold chkSetCmd
  with_reducible repeat' (first | assumption | apply setGc_keep | simp only [KeepF.pair] | split)

theorem resultCmd_keep {r : State} {q : Req} {s : State} (h : Keep r s) :
    KeepF r (resultCmd q s) := by
  unfold resultCmd
  with_reducible repeat' (first | assumption | apply Keep.ite | apply setGc_keep | simp only [KeepF.pair] | intro _ | split)

theorem updTest_keep {r : State} {f : TestSt → TestSt} {s : State} (h : Keep r s) :
    Keep r (updTest f s) := by
  unfold updTest
  with_reducible repeat' (first | assumption | apply Keep.updMt)

theorem loadWir_keep {r : State} {code : Nat} {s : State} (h : Keep r s) :
    Keep r (loadWir code s) := by
  unfold loadWir
  with_reducible repeat' (first | assumption | apply updTest_keep)

theorem intrusive_keep {r : State} {code : Nat} {f : State → State} {s : State} (hf : ∀ t, Keep r t → Keep r (f t)) (h : Keep r s) :
    Keep r (intrusive code f s) := by
  unfold intrusive
  with_reducible repeat' (first | assumption | apply hf | apply Keep.ite | apply updTest_keep | intro _)

theorem bistDone_keep {r : State} {fails : List (Option (List Cell))} {s : State} (h : Keep r s) :
    Keep r (bistDone fails s) := by
  unfold bistDone
  with_reducible repeat' (first | assumption | apply Keep.ite | apply updTest_keep | simp only [KeepF.pair] | intro _)

theorem programRecord_keep {r : State} {entry : Nat} {s : State} (h : Keep r s) : Keep r (programRecord entry s) := by
  unfold programRecord
  split
  · exact h
  · rename_i hl
    exact record_append_keep h fun hc => hl (by simp [hc])

theorem execPmuLoad_keep {r : State} {u : Nat} {s : State} (h : Keep r s) :
    KeepR r (execPmuLoad u s) := by
  unfold execPmuLoad
  with_reducible repeat' (first | assumption | apply pmuLoad_keep | apply KeepR.next)

theorem execPmuRunWrite_keep {r : State} {u : Nat} {value : Nat} {s : State} (h : Keep r s) :
    KeepR r (execPmuRunWrite u value s) := by
  unfold execPmuRunWrite
  with_reducible repeat' (first | assumption | apply pmuRunWrite_keep | apply KeepR.next)

theorem execBwCfgWrite_keep {r : State} {p : Nat} {value : Nat} {s : State} (h : Keep r s) :
    KeepR r (execBwCfgWrite p value s) := by
  unfold execBwCfgWrite
  with_reducible repeat' (first | assumption | apply bwCfgWrite_keep | apply KeepR.next)

theorem execBwWindowEnd_keep {r : State} {p : Nat} {s : State} (h : Keep r s) :
    KeepR r (execBwWindowEnd p s) := by
  unfold execBwWindowEnd
  with_reducible repeat' (first | assumption | apply KeepR.next | apply bwWindowEnd_keep | apply clocked_keep | intro _ | split | dsimp only)

theorem execMtGenSet_keep {r : State} {s : State} (h : Keep r s) :
    KeepR r (execMtGenSet s) := by
  unfold execMtGenSet
  with_reducible repeat' (first | assumption | apply genSetCmd_keep | apply immediate_keep | apply KeepR.next)

theorem execMtChkSet_keep {r : State} {s : State} (h : Keep r s) :
    KeepR r (execMtChkSet s) := by
  unfold execMtChkSet
  with_reducible repeat' (first | assumption | apply chkSetCmd_keep | apply immediate_keep | apply KeepR.next)

theorem execMtResultGet_keep {r : State} {s : State} (h : Keep r s) :
    KeepR r (execMtResultGet s) := by
  unfold execMtResultGet
  with_reducible repeat' (first | assumption | apply resultCmd_keep | apply immediate_keep | apply KeepR.next)

theorem execMtPmuControl_keep {r : State} {s : State} (h : Keep r s) :
    KeepR r (execMtPmuControl s) := by
  unfold execMtPmuControl
  with_reducible repeat' (first | assumption | apply pmuControlCmd_keep | apply immediate_keep | apply KeepR.next)

theorem execWsBypass_keep {r : State} {code : Nat} {s : State} (h : Keep r s) :
    KeepR r (execWsBypass code s) := by
  unfold execWsBypass
  with_reducible repeat' (first | assumption | apply KeepR.ite | apply Keep.ite | apply KeepR.next | apply loadWir_keep | intro _ | split)

theorem shiftCells_keep {r : State} {cells : List Bool} {s : State} (h : Keep r s) :
    Keep r (shiftCells cells s) := by
  unfold shiftCells
  with_reducible repeat' (first | assumption | apply updTest_keep | intro _ | split)

theorem execWsExtest_keep {r : State} {cells : List Bool} {s : State} (h : Keep r s) :
    KeepR r (execWsExtest cells s) := by
  unfold execWsExtest
  with_reducible repeat' (first | assumption | apply KeepR.next | apply intrusive_keep | apply shiftCells_keep | intro _ | split)

theorem execWsIntest_keep {r : State} {cells : List Bool} {s : State} (h : Keep r s) :
    KeepR r (execWsIntest cells s) := by
  unfold execWsIntest
  with_reducible repeat' (first | assumption | apply KeepR.next | apply intrusive_keep | apply shiftCells_keep | intro _ | split)

theorem execWsPreload_keep {r : State} {cells : List Bool} {s : State} (h : Keep r s) :
    KeepR r (execWsPreload cells s) := by
  unfold execWsPreload
  with_reducible repeat' (first | assumption | apply KeepR.next | apply loadWir_keep | apply shiftCells_keep | intro _ | split)

theorem execInternalScan_keep {r : State} {chains : List (List Bool)} {s : State} (h : Keep r s) :
    KeepR r (execInternalScan chains s) := by
  unfold execInternalScan
  with_reducible repeat' (first | assumption | apply KeepR.next | apply intrusive_keep | apply updTest_keep | intro _ | split)

theorem execMemoryBistRun_keep {r : State} {s : State} (h : Keep r s) :
    KeepR r (execMemoryBistRun s) := by
  unfold execMemoryBistRun
  with_reducible repeat' (first | assumption | apply intrusive_keep | apply updTest_keep | apply KeepR.next)

theorem execBistDone_keep {r : State} {fails : List (Option (List Cell))} {s : State} (h : Keep r s) :
    KeepR r (execBistDone fails s) := by
  unfold execBistDone
  with_reducible repeat' (first | assumption | apply bistDone_keep | apply KeepR.next)

theorem execMemoryBistStatusRead_keep {r : State} {s : State} (h : Keep r s) :
    KeepR r (execMemoryBistStatusRead s) := by
  unfold execMemoryBistStatusRead
  with_reducible repeat' (first | assumption | apply loadWir_keep | apply updTest_keep | apply KeepR.next)

theorem execRepairRecordRead_keep {r : State} {s : State} (h : Keep r s) :
    KeepR r (execRepairRecordRead s) := by
  unfold execRepairRecordRead
  with_reducible repeat' (first | assumption | apply loadWir_keep | apply updTest_keep | apply KeepR.next)

theorem execRepairRecordProgram_keep {r : State} {entry : Nat} {s : State} (h : Keep r s) :
    KeepR r (execRepairRecordProgram entry s) := by
  unfold execRepairRecordProgram
  with_reducible repeat' (first | assumption | apply programRecord_keep | apply intrusive_keep | apply KeepR.next)

/-! ## TimeCmd -/

theorem timeStepCmd_keep {r : State} {q : Req} {s : State} (h : Keep r s) :
    KeepF r (timeStepCmd q s) := by
  unfold timeStepCmd
  with_reducible repeat' (first | assumption | apply stepBase_keep | simp only [KeepF.pair] | split)

theorem timeRateCmd_keep {r : State} {q : Req} {s : State} (h : Keep r s) :
    KeepF r (timeRateCmd q s) := by
  unfold timeRateCmd
  with_reducible repeat' (first | assumption | apply setRateAdj_keep | simp only [KeepF.pair] | split)

theorem timeUnlockCmd_keep {r : State} {q : Req} {s : State} (h : Keep r s) :
    KeepF r (timeUnlockCmd q s) := by
  unfold timeUnlockCmd
  with_reducible repeat' (first | assumption | apply setTb_keep | apply baseEvent_keep | simp only [KeepF.pair] | split)

theorem timeTrackCmd_keep {r : State} {q : Req} {s : State} (h : Keep r s) :
    KeepF r (timeTrackCmd q s) := by
  unfold timeTrackCmd
  with_reducible repeat' (first | assumption | apply KeepF.ite | apply setTb_keep | apply baseEvent_keep | simp only [KeepF.pair] | intro _ | split)

theorem timeCaptureCmd_keep {r : State} {q : Req} {s : State} (h : Keep r s) :
    KeepF r (timeCaptureCmd q s) := by
  unfold timeCaptureCmd
  with_reducible repeat' (first | assumption | apply KeepF.ite | apply Keep.ite | apply raiseTime1_keep | apply setCap_keep | simp only [KeepF.pair] | apply KeepF.fst | (refine KeepF.elim (by assumption) ?_) | intro _ | split)

theorem timeArmCmd_keep {r : State} {q : Req} {s : State} (h : Keep r s) :
    KeepF r (timeArmCmd q s) := by
  unfold timeArmCmd
  with_reducible repeat' (first | assumption | apply KeepF.ite | apply trgArm_keep | simp only [KeepF.pair] | apply KeepS.snd | intro _ | split)

theorem timeCancelCmd_keep {r : State} {q : Req} {s : State} (h : Keep r s) :
    KeepF r (timeCancelCmd q s) := by
  unfold timeCancelCmd
  with_reducible repeat' (first | assumption | apply trgCancel_keep | simp only [KeepF.pair] | split)

theorem timeStrobeCmd_keep {r : State} {q : Req} {s : State} (h : Keep r s) :
    KeepF r (timeStrobeCmd q s) := by
  unfold timeStrobeCmd
  with_reducible repeat' (first | assumption | apply setRingS_keep | simp only [KeepF.pair] | split)

theorem timeCountersCmd_keep {r : State} {q : Req} {s : State} (h : Keep r s) :
    KeepF r (timeCountersCmd q s) := by
  unfold timeCountersCmd
  with_reducible repeat' (first | assumption | apply readCounters_keep | simp only [KeepF.pair] | apply KeepS.snd | split)

theorem execTimeStep_keep {r : State} {s : State} (h : Keep r s) :
    KeepR r (execTimeStep s) := by
  unfold execTimeStep
  with_reducible repeat' (first | assumption | apply timeStepCmd_keep | apply immediate_keep | apply KeepR.next)

theorem execTimeRate_keep {r : State} {s : State} (h : Keep r s) :
    KeepR r (execTimeRate s) := by
  unfold execTimeRate
  with_reducible repeat' (first | assumption | apply timeRateCmd_keep | apply immediate_keep | apply KeepR.next)

theorem execTimeUnlock_keep {r : State} {s : State} (h : Keep r s) :
    KeepR r (execTimeUnlock s) := by
  unfold execTimeUnlock
  with_reducible repeat' (first | assumption | apply timeUnlockCmd_keep | apply immediate_keep | apply KeepR.next)

theorem execTimeTrackSet_keep {r : State} {s : State} (h : Keep r s) :
    KeepR r (execTimeTrackSet s) := by
  unfold execTimeTrackSet
  with_reducible repeat' (first | assumption | apply immediate_keep | apply timeTrackCmd_keep | apply KeepR.next)

theorem execTimeCaptureSet_keep {r : State} {s : State} (h : Keep r s) :
    KeepR r (execTimeCaptureSet s) := by
  unfold execTimeCaptureSet
  with_reducible repeat' (first | assumption | apply timeCaptureCmd_keep | apply immediate_keep | apply KeepR.next)

theorem execTimeTriggerArm_keep {r : State} {s : State} (h : Keep r s) :
    KeepR r (execTimeTriggerArm s) := by
  unfold execTimeTriggerArm
  with_reducible repeat' (first | assumption | apply timeArmCmd_keep | apply immediate_keep | apply KeepR.next)

theorem execTimeTriggerCancel_keep {r : State} {s : State} (h : Keep r s) :
    KeepR r (execTimeTriggerCancel s) := by
  unfold execTimeTriggerCancel
  with_reducible repeat' (first | assumption | apply timeCancelCmd_keep | apply immediate_keep | apply KeepR.next)

theorem execTimeStrobeRead_keep {r : State} {s : State} (h : Keep r s) :
    KeepR r (execTimeStrobeRead s) := by
  unfold execTimeStrobeRead
  with_reducible repeat' (first | assumption | apply timeStrobeCmd_keep | apply immediate_keep | apply KeepR.next)

theorem execTimeStatusGet_keep {r : State} {s : State} (h : Keep r s) :
    KeepR r (execTimeStatusGet s) := by
  unfold execTimeStatusGet
  with_reducible repeat' (first | assumption | apply immediate_keep | simp only [KeepF.pair] | apply KeepR.next | intro _)

theorem execTimeCountersGet_keep {r : State} {s : State} (h : Keep r s) :
    KeepR r (execTimeCountersGet s) := by
  unfold execTimeCountersGet
  with_reducible repeat' (first | assumption | apply timeCountersCmd_keep | apply immediate_keep | apply KeepR.next)

/-! ## Registers -/

theorem rdMailbox_keep {r : State} {m : Nat} {o : Nat} {s : State} (h : Keep r s) :
    KeepS r (rdMailbox m o s) := by
  unfold rdMailbox
  with_reducible repeat' (first | assumption | apply KeepS.ite | apply setMb_keep | simp only [KeepS.pair] | intro _)

theorem mbStatusWrite_keep {r : State} {m : Nat} {v : Nat} {s : State} (h : Keep r s) :
    Keep r (mbStatusWrite m v s) := by
  unfold mbStatusWrite
  with_reducible repeat' (first | assumption | apply lines_keep | apply setMb_keep)

theorem wrMailbox_keep {r : State} {m : Nat} {o : Nat} {v : Nat} {s : State} (h : Keep r s) :
    KeepO r (wrMailbox m o v s) := by
  unfold wrMailbox
  with_reducible repeat' (first | assumption | apply KeepO.ite | apply lines_keep | apply mbStatusWrite_keep | apply ringDoorbell_keep | apply setMb_keep | apply KeepO.some | apply KeepO.none | intro _)

theorem rdIntr_keep {r : State} {o : Nat} {s : State} (h : Keep r s) :
    KeepS r (rdIntr o s) := by
  unfold rdIntr
  with_reducible repeat' (first | assumption | apply KeepS.ite | apply Keep.updIntr | simp only [KeepF.pair] | simp only [KeepS.pair] | intro _)

theorem intMsgCtrl_keep {r : State} {l : Nat} {v : Nat} {s : State} (h : Keep r s) :
    Keep r (intMsgCtrl l v s) := by
  unfold intMsgCtrl
  with_reducible repeat' (first | assumption | apply setMsg_keep)

theorem wrIntr_keep {r : State} {o : Nat} {v : Nat} {s : State} (h : Keep r s) :
    KeepO r (wrIntr o v s) := by
  unfold wrIntr
  with_reducible repeat' (first | assumption | apply KeepO.ite | apply lines_keep | apply intMsgCtrl_keep | apply Keep.updIntr | apply setMsg_keep | simp only [KeepF.pair] | apply KeepO.some | apply KeepO.none | intro _ | split)

theorem rdBase_keep {r : State} {k : Nat} {o : Nat} {s : State} (h : Keep r s) :
    KeepS r (rdBase k o s) := by
  unfold rdBase
  with_reducible repeat' (first | assumption | apply tbNsRead_keep | simp only [KeepF.pair] | simp only [KeepS.pair] | split)

theorem rdSnap_keep {r : State} {k : Nat} {o : Nat} {s : State} (h : Keep r s) :
    KeepS r (rdSnap k o s) := by
  unfold rdSnap
  with_reducible repeat' (first | assumption | simp only [KeepF.pair] | simp only [KeepS.pair])

theorem rdCap_keep {r : State} {c : Nat} {o : Nat} {s : State} (h : Keep r s) :
    KeepS r (rdCap c o s) := by
  unfold rdCap
  with_reducible repeat' (first | assumption | simp only [KeepF.pair] | simp only [KeepS.pair])

theorem rdTrg_keep {r : State} {t : Nat} {o : Nat} {s : State} (h : Keep r s) :
    KeepS r (rdTrg t o s) := by
  unfold rdTrg
  with_reducible repeat' (first | assumption | simp only [KeepF.pair] | simp only [KeepS.pair])

theorem rdTime_keep {r : State} {o : Nat} {s : State} (h : Keep r s) :
    KeepS r (rdTime o s) := by
  unfold rdTime
  with_reducible repeat' (first | assumption | apply KeepS.ite | apply rdSnap_keep | apply rdCap_keep | apply rdBase_keep | apply rdTrg_keep | simp only [KeepS.pair] | intro _)

theorem wrTrg_keep {r : State} {t : Nat} {o : Nat} {v : Nat} {s : State} (h : Keep r s) :
    KeepO r (wrTrg t o v s) := by
  unfold wrTrg
  with_reducible repeat' (first | assumption | apply trgWrite_keep | apply setTrg_keep | apply KeepO.some | apply KeepO.none | split)

theorem wrTime_keep {r : State} {o : Nat} {v : Nat} {s : State} (h : Keep r s) :
    KeepO r (wrTime o v s) := by
  unfold wrTime
  with_reducible repeat' (first | assumption | apply KeepO.ite | apply lines_keep | apply tbRateWrite_keep | apply capPop_keep | apply Keep.updTime | apply wrTrg_keep | apply timeSnap_keep | apply KeepO.some | apply KeepO.none | intro _)

theorem rdSlot_keep {r : State} {j : Nat} {o : Nat} {s : State} (h : Keep r s) :
    KeepS r (rdSlot j o s) := by
  unfold rdSlot
  with_reducible repeat' (first | assumption | simp only [KeepF.pair] | simp only [KeepS.pair])

theorem rdCrc_keep {r : State} {o : Nat} {s : State} (h : Keep r s) :
    KeepS r (rdCrc o s) := by
  unfold rdCrc
  with_reducible repeat' (first | assumption | apply KeepS.ite | apply rdSlot_keep | apply Keep.updCrc | simp only [KeepF.pair] | simp only [KeepS.pair] | intro _ | split)

theorem wrSlot_keep {r : State} {j : Nat} {o : Nat} {v : Nat} {s : State} (h : Keep r s) :
    KeepO r (wrSlot j o v s) := by
  unfold wrSlot
  with_reducible repeat' (first | assumption | apply KeepO.ite | apply Keep.ite | apply setJob_keep | apply crcCtrl_keep | apply KeepO.some | apply KeepO.none | intro _)

theorem wrCrc_keep {r : State} {o : Nat} {v : Nat} {s : State} (h : Keep r s) :
    KeepO r (wrCrc o v s) := by
  unfold wrCrc
  with_reducible repeat' (first | assumption | apply KeepO.ite | apply Keep.ite | apply wrSlot_keep | apply crcRingCons_keep | apply Keep.updCrc | apply KeepO.some | apply KeepO.none | intro _ | split)

theorem pmuRead_keep {r : State} {u : Nat} {o : Nat} {s : State} (h : Keep r s) :
    KeepS r (pmuRead u o s) := by
  unfold pmuRead
  with_reducible repeat' (first | assumption | apply KeepS.ite | apply hostPerf_keep | apply setPmu_keep | simp only [KeepF.pair] | simp only [KeepS.pair] | intro _ | split)

theorem pmuWrite_keep {r : State} {u : Nat} {o : Nat} {v : Nat} {s : State} (h : Keep r s) :
    KeepO r (pmuWrite u o v s) := by
  unfold pmuWrite
  with_reducible repeat' (first | assumption | apply KeepO.ite | apply hostPerf_keep | apply pmuCtrlWrite_keep | apply setPmu_keep | simp only [KeepF.pair] | apply KeepO.some | apply KeepO.none | intro _ | split)

theorem rdBw_keep {r : State} {n : Nat} {o : Nat} {s : State} (h : Keep r s) :
    KeepS r (rdBw n o s) := by
  unfold rdBw
  with_reducible repeat' (first | assumption | apply setBw_keep | simp only [KeepF.pair] | simp only [KeepS.pair] | split)

theorem rdStat_keep {r : State} {n : Nat} {o : Nat} {s : State} (h : Keep r s) :
    KeepS r (rdStat n o s) := by
  unfold rdStat
  with_reducible repeat' (first | assumption | apply KeepS.ite | apply Keep.updCnt | apply setPort_keep | simp only [KeepF.pair] | simp only [KeepS.pair] | intro _)

theorem rdPerf_keep {r : State} {o : Nat} {s : State} (h : Keep r s) :
    KeepS r (rdPerf o s) := by
  unfold rdPerf
  with_reducible repeat' (first | assumption | apply KeepS.ite | apply rdStat_keep | apply pmuRead_keep | apply rdBw_keep | simp only [KeepS.pair] | intro _)

theorem wrPerf_keep {r : State} {o : Nat} {v : Nat} {s : State} (h : Keep r s) :
    KeepO r (wrPerf o v s) := by
  unfold wrPerf
  with_reducible repeat' (first | assumption | apply KeepO.ite | apply pmuWrite_keep | apply bwCfg_keep | apply KeepO.some | apply KeepO.none | intro _)

theorem rdLane_keep {r : State} {n : Nat} {o : Nat} {s : State} (h : Keep r s) :
    KeepS r (rdLane n o s) := by
  unfold rdLane
  with_reducible repeat' (first | assumption | apply KeepS.ite | apply Keep.updLanes | apply setLane_keep | simp only [KeepF.pair] | simp only [KeepS.pair] | intro _)

theorem stageLane_keep {r : State} {n : Nat} {f : LaneCfg → LaneCfg} {s : State} (h : Keep r s) :
    KeepO r (stageLane n f s) := by
  unfold stageLane
  with_reducible repeat' (first | assumption | apply setLane_keep | apply KeepO.some)

theorem stagePort_keep {r : State} {n : Nat} {f : PtCfg → PtCfg} {s : State} (h : Keep r s) :
    KeepO r (stagePort n f s) := by
  unfold stagePort
  with_reducible repeat' (first | assumption | apply setPort_keep | apply KeepO.some)

theorem lnEventsWrite_keep {r : State} {n : Nat} {v : Nat} {s : State} (h : Keep r s) :
    Keep r (lnEventsWrite n v s) := by
  unfold lnEventsWrite
  with_reducible repeat' (first | assumption | apply Keep.ite | apply setLane_keep | apply errInject_keep | intro _)

theorem wrLane_keep {r : State} {n : Nat} {o : Nat} {v : Nat} {s : State} (h : Keep r s) :
    KeepO r (wrLane n o v s) := by
  unfold wrLane
  with_reducible repeat' (first | assumption | apply KeepO.ite | apply stageLane_keep | apply stagePort_keep | apply lnEventsWrite_keep | apply KeepO.some | apply KeepO.none | intro _ | split)

theorem rdQuad_keep {r : State} {o : Nat} {s : State} (h : Keep r s) :
    KeepS r (rdQuad o s) := by
  unfold rdQuad
  with_reducible repeat' (first | assumption | simp only [KeepS.pair])

theorem wrQuad_keep {r : State} {o : Nat} {v : Nat} {s : State} (h : Keep r s) :
    KeepO r (wrQuad o v s) := by
  unfold wrQuad
  with_reducible repeat' (first | assumption | apply lnApply_keep | apply Keep.updLanes | apply KeepO.some | apply KeepO.none | split)

theorem rdPower_keep {r : State} {o : Nat} {s : State} (h : Keep r s) :
    KeepS r (rdPower o s) := by
  unfold rdPower
  with_reducible repeat' (first | assumption | apply Keep.updPwr | simp only [KeepF.pair] | simp only [KeepS.pair] | split)

theorem rdRes_keep {r : State} {o : Nat} {s : State} (h : Keep r s) :
    KeepS r (rdRes o s) := by
  unfold rdRes
  with_reducible repeat' (first | assumption | refine Keep.updRes ?_ (fun _ => rfl) | simp only [KeepS.pair] | split)

theorem rdTest_keep {r : State} {o : Nat} {s : State} (h : Keep r s) :
    KeepS r (rdTest o s) := by
  unfold rdTest
  with_reducible repeat' (first | assumption | refine Keep.updRes ?_ (fun _ => rfl) | apply Keep.updSys | apply updTest_keep | simp only [KeepS.pair] | split)

theorem wrNone_keep {r : State} {l : List Nat} {o : Nat} {s : State} (h : Keep r s) :
    KeepO r (wrNone l o s) := by
  unfold wrNone
  with_reducible repeat' (first | assumption | apply KeepO.ite | apply KeepO.some | apply KeepO.none | intro _)

theorem aoTb7_keep {r : State} {s : State} (h : Keep r s) :
    KeepS r (aoTb7 s) := by
  unfold aoTb7
  with_reducible repeat' (first | assumption | apply Keep.updPwr | simp only [KeepS.pair])

theorem rdAlways_keep {r : State} {o : Nat} {s : State} (h : Keep r s) :
    KeepS r (rdAlways o s) := by
  unfold rdAlways
  with_reducible repeat' (first | assumption | apply aoTb7_keep | simp only [KeepS.pair] | split)

theorem wrAlways_keep {r : State} {o : Nat} {v : Nat} {s : State} (h : Keep r s) :
    KeepO r (wrAlways o v s) := by
  unfold wrAlways
  with_reducible repeat' (first | assumption | apply Keep.ite | apply lines_keep | apply wrNone_keep | apply Keep.updSys | apply Keep.updPwr | apply hostWake_keep | apply KeepO.some | intro _ | split)

theorem rdChannel_keep {r : State} {c : Nat} {o : Nat} {s : State} (h : Keep r s) :
    KeepS r (rdChannel c o s) := by
  unfold rdChannel
  with_reducible repeat' (first | assumption | simp only [KeepF.pair] | simp only [KeepS.pair])

theorem wrChannel_keep {r : State} {c : Nat} {o : Nat} {v : Nat} {s : State} (h : Keep r s) :
    KeepO r (wrChannel c o v s) := by
  unfold wrChannel
  with_reducible repeat' (first | assumption | apply KeepO.ite | apply intRearm_keep | apply doorbellWrite_keep | apply chEventsClear_keep | apply cqConsWrite_keep | apply intMaskWrite_keep | apply KeepO.some | apply KeepO.none | intro _ | split)

theorem rdCore_keep {r : State} {a : Nat} {s : State} (h : Keep r s) :
    KeepS r (rdCore a s) := by
  unfold rdCore
  with_reducible repeat' (first | assumption | apply KeepS.ite | apply rdPerf_keep | apply rdLane_keep | apply rdQuad_keep | apply rdTime_keep | apply rdMailbox_keep | apply rdChannel_keep | apply rdCrc_keep | apply rdRes_keep | apply rdPower_keep | apply rdTest_keep | apply rdIntr_keep | simp only [KeepS.pair] | intro _ | split)

theorem wrCore_keep {r : State} {a : Nat} {v : Nat} {s : State} (h : Keep r s) :
    KeepO r (wrCore a v s) := by
  unfold wrCore
  with_reducible repeat' (first | assumption | apply KeepO.ite | apply wrIntr_keep | apply wrLane_keep | apply wrNone_keep | apply wrQuad_keep | apply wrPerf_keep | apply wrChannel_keep | apply wrMailbox_keep | apply wrTime_keep | apply wrCrc_keep | apply KeepO.none | intro _ | split)

theorem countDecode_keep {r : State} {a : Nat} {s : State} (h : Keep r s) :
    Keep r (countDecode a s) := by
  unfold countDecode
  with_reducible repeat' (first | assumption | apply Keep.ite | apply decodeError_keep | intro _)

theorem readReg_keep {r : State} {addr : Nat} {s : State} (h : Keep r s) :
    Keep r (readReg addr s) := by
  unfold readReg
  with_reducible repeat' (first | assumption | apply Keep.ite | apply KeepS.ite | apply rdAlways_keep | apply countDecode_keep | apply answer_keep | apply targetErr_keep | apply rdCore_keep | simp only [KeepF.pair] | apply KeepS.snd | intro _)

theorem writeReg_keep {r : State} {addr : Nat} {value : Nat} {strobe : Nat} {s : State} (h : Keep r s) :
    Keep r (writeReg addr value strobe s) := by
  unfold writeReg
  with_reducible repeat' (first | assumption | apply Keep.ite | apply KeepO.ite | apply countDecode_keep | apply answer_keep | apply targetErr_keep | apply wrAlways_keep | apply wrCore_keep | simp only [KeepF.pair] | apply KeepO.none | intro _ | refine KeepO.elim (by assumption) ?_ | split)

theorem execRegisterWrite_keep {r : State} {addr : Nat} {value : Nat} {strobe : Nat} {s : State} (h : Keep r s) :
    KeepR r (execRegisterWrite addr value strobe s) := by
  unfold execRegisterWrite
  with_reducible repeat' (first | assumption | apply writeReg_keep | apply KeepR.next)

theorem execRcRead_keep {r : State} {addr : Nat} {s : State} (h : Keep r s) :
    KeepR r (execRcRead addr s) := by
  unfold execRcRead
  with_reducible repeat' (first | assumption | apply readReg_keep | apply KeepR.next)

theorem execCounterLowRead_keep {r : State} {addr : Nat} {s : State} (h : Keep r s) :
    KeepR r (execCounterLowRead addr s) := by
  unfold execCounterLowRead
  with_reducible repeat' (first | assumption | apply readReg_keep | apply KeepR.next)

theorem execIntMsgCtrlWrite_keep {r : State} {l : Nat} {v : Nat} {s : State} (h : Keep r s) :
    KeepR r (execIntMsgCtrlWrite l v s) := by
  unfold execIntMsgCtrlWrite
  with_reducible repeat' (first | assumption | apply Keep.ite | apply regWrite_keep | apply intMsgCtrl_keep | apply KeepR.next | intro _)

theorem execMbDoorbell_keep {r : State} {m : Nat} {v : Nat} {s : State} (h : Keep r s) :
    KeepR r (execMbDoorbell m v s) := by
  unfold execMbDoorbell
  with_reducible repeat' (first | assumption | apply Keep.ite | apply regWrite_keep | apply ringDoorbell_keep | apply KeepR.next | intro _)

theorem execMbDoneClear_keep {r : State} {m : Nat} {s : State} (h : Keep r s) :
    KeepR r (execMbDoneClear m s) := by
  unfold execMbDoneClear
  with_reducible repeat' (first | assumption | apply Keep.ite | apply regWrite_keep | apply mbStatusWrite_keep | apply KeepR.next | intro _)

theorem execAoTb7Read_keep {r : State} {s : State} (h : Keep r s) :
    KeepR r (execAoTb7Read s) := by
  unfold execAoTb7Read
  with_reducible repeat' (first | assumption | apply readReg_keep | apply KeepR.next)

/-! ## Tick -/

theorem baseCycle_keep {r : State} {k : Nat} {s : State} (h : Keep r s) :
    Keep r (baseCycle k s) := by
  unfold baseCycle
  with_reducible repeat' (first | assumption | apply setTb_keep)

theorem basesCycle_keep {r : State} {s : State} (h : Keep r s) :
    Keep r (basesCycle s) := by
  unfold basesCycle
  with_reducible repeat' (first | assumption | apply Keep.updTime | apply baseCycle_keep | apply Keep.foldl | intro _)

theorem trigEdge_keep {r : State} {t : Nat} {pulse : Bool} {s : State} (h : Keep r s) :
    Keep r (trigEdge t pulse s) := by
  unfold trigEdge
  with_reducible repeat' (first | assumption | apply setTrg_keep | intro _ | split | dsimp only)

theorem edgesCycle_keep {r : State} {s : State} (h : Keep r s) :
    Keep r (edgesCycle s) := by
  unfold edgesCycle
  with_reducible repeat' (first | assumption | apply trigEdge_keep | apply Keep.updTime | apply Keep.foldl | apply KeepS.foldl | apply KeepF.foldl | simp only [KeepF.pair] | apply KeepF.fst | (refine KeepF.elim (by assumption) ?_) | intro _ | split | dsimp only)

theorem heldNs_keep {r : State} {n : Nat} {w : WireSch} {s : State} (h : Keep r s) :
    Keep r (heldNs n w s) := by
  unfold heldNs
  with_reducible repeat' (first | assumption | apply Keep.ite | apply bump_keep | apply Keep.foldl | intro _)

theorem wireCycle_keep {r : State} {s : State} (h : Keep r s) :
    Keep r (wireCycle s) := by
  unfold wireCycle
  with_reducible repeat' (first | assumption | apply Keep.updSch | apply heldNs_keep | apply Keep.foldl | intro _)

theorem pausedCycle_keep {r : State} {s : State} (h : Keep r s) :
    Keep r (pausedCycle s) := by
  unfold pausedCycle
  with_reducible repeat' (first | assumption | apply bump_keep | apply Keep.foldl | intro _)

theorem lpiCycle_keep {r : State} {d : Nat} {n : Nat} {s : State} (h : Keep r s) :
    Keep r (lpiCycle d n s) := by
  unfold lpiCycle
  with_reducible repeat' (first | assumption | apply laneCount_keep | apply setLane_keep | intro _ | split | dsimp only)

theorem laneCycle_keep {r : State} {n : Nat} {s : State} (h : Keep r s) :
    Keep r (laneCycle n s) := by
  unfold laneCycle
  with_reducible repeat' (first | assumption | apply lpiCycle_keep | apply sendWord_keep | intro _ | split | dsimp only)

theorem endCycle_keep {r : State} {s : State} (h : Keep r s) :
    Keep r (endCycle s) := by
  unfold endCycle
  with_reducible repeat' (first | assumption | apply dropLines_keep | refine Keep.updHost' ?_ (fun _ => ⟨rfl, rfl, rfl, rfl, rfl⟩) | intro _ | split | dsimp only)

theorem aoCycle_keep {r : State} {s : State} (h : Keep r s) :
    Keep r (aoCycle s) := by
  unfold aoCycle
  with_reducible repeat' (first | assumption | apply Keep.ite | apply endCycle_keep | apply lpiCycle_keep | apply setTb_keep | apply Keep.foldl | intro _ | split | dsimp only)

theorem pmuLevel_keep {r : State} {u : Nat} {k : Nat} {s : State} (h : Keep r s) :
    Keep r (pmuLevel u k s) := by
  unfold pmuLevel
  with_reducible repeat' (first | assumption | apply Keep.ite | apply setPmu_keep | apply pmuAdd_keep | simp only [KeepF.pair] | intro _ | split)

theorem pmuCycle_keep {r : State} {u : Nat} {s : State} (h : Keep r s) :
    Keep r (pmuCycle u s) := by
  unfold pmuCycle
  with_reducible repeat' (first | assumption | apply Keep.ite | apply pmuLevel_keep | apply setPmu_keep | apply Keep.foldl | simp only [KeepF.pair] | intro _)

theorem pmuCycles_keep {r : State} {s : State} (h : Keep r s) :
    Keep r (pmuCycles s) := by
  unfold pmuCycles
  with_reducible repeat' (first | assumption | apply Keep.ite | apply hostPerf_keep | apply pmuCycle_keep | apply Keep.foldl | intro _)

theorem engineCycle_keep {r : State} {s : State} (h : Keep r s) :
    Keep r (engineCycle s) := by
  unfold engineCycle
  with_reducible repeat' (first | assumption | apply Keep.ite | apply bump_keep | apply holdReset_keep | intro _ | split)

theorem evalPools_keep {r : State} {s : State} (h : Keep r s) :
    Keep r (evalPools s) := by
  unfold evalPools
  with_reducible repeat' (first | assumption | apply evalPool_keep | apply Keep.foldl | intro _ | split)

theorem settleAll_keep {r : State} {s : State} (h : Keep r s) :
    Keep r (settleAll s) := by
  unfold settleAll
  with_reducible repeat' (first | assumption | apply evalPools_keep | apply finishTakeover_keep | apply nextRetire_keep | apply pump_keep | apply releaseAwaited_keep | apply reloadSteps_keep | apply settlePower_keep | apply settleQuiesce_keep | apply settleResets_keep | apply settleRetire_keep | apply tryImageSwitch_keep | intro _ | split)

theorem coreCycle_keep {r : State} {s : State} (h : Keep r s) :
    Keep r (coreCycle s) := by
  unfold coreCycle
  with_reducible repeat' (first | assumption | apply basesCycle_keep | apply edgesCycle_keep | apply endCycle_keep | apply engineCycle_keep | apply laneCycle_keep | apply pausedCycle_keep | apply pmuCycles_keep | apply settleAll_keep | apply svcPump_keep | apply wireCycle_keep | apply Keep.foldl | intro _ | split | dsimp only)

theorem tick_keep {r : State} {s : State} (h : Keep r s) :
    Keep r (tick s) := by
  unfold tick
  with_reducible repeat' (first | assumption | apply Keep.ite | apply coreCycle_keep | apply aoCycle_keep | intro _)

end Sys2Proof.Machine
end

