-- ==== Sys2Proof/Laws/Quiet.lean ====
section
/-! SUPPORT. What an operation that finishes a command, or raises an event, leaves as it was (`Quiet`); and what one leaves that
counts an event of a monitored unit (`Counted`). -/

namespace Sys2Proof.Machine

open Sys2Proof

def QuietF {α : Type} (r : State) (p : State × α) : Prop := Quiet r p.1

theorem Quiet.refl (s : State) : Quiet s s :=
  ⟨⟨rfl, rfl, rfl, rfl, rfl, rfl, rfl, rfl, rfl, rfl, rfl, rfl, rfl, rfl, rfl, rfl, rfl, rfl, rfl⟩, rfl, rfl⟩

theorem QuietF.pair {α : Type} {r s : State} {x : α} : QuietF r (s, x) = Quiet r s := rfl
theorem QuietF.fst {α : Type} {r : State} {p : State × α} (h : QuietF r p) : Quiet r p.1 := h

theorem Quiet.ite {r a b : State} {c : Prop} [Decidable c] (h : c → Quiet r a) (g : ¬ c → Quiet r b) :
    Quiet r (if c then a else b) := by split <;> simp_all
theorem QuietF.ite {α : Type} {r : State} {a b : State × α} {c : Prop} [Decidable c] (h : c → QuietF r a)
    (g : ¬ c → QuietF r b) : QuietF r (if c then a else b) := by split <;> simp_all

theorem Quiet.foldl {α : Type} {r : State} {f : State → α → State} (h : ∀ s x, Quiet r s → Quiet r (f s x)) :
    ∀ {l : List α} {s : State}, Quiet r s → Quiet r (l.foldl f s) := by
  intro l
  induction l with
  | nil => intro s hs; exact hs
  | cons a l ih => intro s hs; exact ih (h s a hs)

variable {r s : State}

theorem Quiet.updHost (h : Quiet r s) {f : HostSt → HostSt} : Quiet r (s.updHost f) := h
theorem Quiet.updIntr (h : Quiet r s) {f : IntrSt → IntrSt} : Quiet r (s.updIntr f) := h
theorem Quiet.updGv (h : Quiet r s) {f : GelvorSt → GelvorSt} : Quiet r (s.updGv f) := h
theorem Quiet.updCnt (h : Quiet r s) {f : Tbl2 → Tbl2} : Quiet r (s.updCnt f) := h

theorem Tbl.getD_set {α : Type} {i j : Nat} {v d : α} : ∀ {t : Tbl α}, (t.set i v).getD j d = if i = j then v else t.getD j d := by
  intro t
  unfold Tbl.getD
  induction t with
  | nil => simp only [Tbl.set, Tbl.get?]; split <;> rfl
  | cons p t ih =>
    simp only [Tbl.set]
    split
    · simp only [Tbl.get?]; split <;> rfl
    · split
      · rename_i e; simp only [Tbl.get?]
        by_cases h : i = j
        · rw [if_pos h, if_pos h]; rfl
        · rw [if_neg h, if_neg h, if_neg (by omega)]
      · rename_i e1 e2
        simp only [Tbl.get?]
        by_cases h : p.1 = j
        · rw [if_pos h, if_neg (by omega), if_pos h]
        · rw [if_neg h, if_neg h]; exact ih

/-- An engine reads as last set, and the setting of one leaves the others. -/
theorem getEng_setEng {e e' : Nat} {f : Engine → Engine} :
    getEng (setEng e f s) e' = if e = e' then f (getEng s e) else getEng s e' := by
  simp only [getEng, setEng, State.updEng_eng, Tbl.upd, Tbl.getD_set]

/-- A thread reads as last set. -/
theorem getThr_setThr {e t : Nat} {f : Thread → Thread} : getThr (setThr e t f s) e t = f (getThr s e t) := by
  simp only [getThr, setThr, getEng_setEng, if_true, Tbl.upd, Tbl.getD_set]

/-- The setting of an engine that leaves its threads leaves each as it was. -/
theorem getThr_setEng {e t : Nat} {f : Engine → Engine} (hf : ∀ g, (f g).threads = g.threads) :
    getThr (setEng e f s) e t = getThr s e t := by
  simp only [getThr, getEng_setEng, if_true, hf]

theorem pump_quiet (h : Quiet r s) : Quiet r (pump s) := by
  unfold pump
  exact Quiet.updHost h

theorem startXfer_quiet {purp : Purp} {write : Bool} {sid addr len : Nat} {data : Bytes} (h : Quiet r s) :
    Quiet r (startXfer purp write sid addr len data s) := pump_quiet h

theorem bumpN_quiet {r : State} {g : Nat} {i : Nat} {k : Nat} {n : Nat} {s : State} (h : Quiet r s) :
    Quiet r (bumpN g i k n s) := by
  unfold bumpN
  with_reducible repeat' (first | assumption | apply Quiet.updCnt)

theorem bump_quiet {r : State} {g : Nat} {i : Nat} {k : Nat} {s : State} (h : Quiet r s) :
    Quiet r (bump g i k s) := by
  unfold bump
  with_reducible repeat' (first | assumption | apply bumpN_quiet)

theorem setMb_quiet {r : State} {m : Nat} {f : Mb → Mb} {s : State} (h : Quiet r s) :
    Quiet r (setMb m f s) := by
  unfold setMb
  with_reducible repeat' (first | assumption | apply Quiet.updGv)

theorem evLose_quiet {r : State} {m : Nat} {s : State} (h : Quiet r s) :
    Quiet r (evLose m s) := by
  unfold evLose
  with_reducible repeat' (first | assumption | apply setMb_quiet)

theorem errBit_quiet {r : State} {b : Nat} {s : State} (h : Quiet r s) :
    Quiet r (errBit b s) := by
  unfold errBit
  with_reducible repeat' (first | assumption | apply Quiet.updIntr)

theorem violation_quiet {r : State} {s : State} (h : Quiet r s) :
    Quiet r (violation s) := by
  unfold violation
  with_reducible repeat' (first | assumption | apply errBit_quiet | refine Quiet.updHost ?_)

theorem evPassed_quiet {r : State} {m : Nat} {s : State} (h : Quiet r s) : Quiet r (evPassed m s) := Quiet.updGv h

theorem awaitEvents_quiet {r : State} {rsp : Option (Nat × Bytes × Bytes)} {s : State} (h : Quiet r s) :
    Quiet r (awaitEvents rsp s) := Quiet.updGv h

theorem evPump_quiet {r : State} {a : Nat} {a1x : Nat} {s : State} (h : Quiet r s) :
    Quiet r (evPump a a1x s) := by
  induction a generalizing a1x s with
  | zero =>
    simp only [evPump]
    exact h
  | succ n ih =>
    simp only [evPump]
    with_reducible repeat' (first | assumption | apply ih | apply Quiet.ite | apply startXfer_quiet | apply evLose_quiet | apply evPassed_quiet | apply setMb_quiet | apply violation_quiet | intro _ | split)

theorem deliver_quiet {r : State} {e : Ev} {a : Aud} {s : State} (h : Quiet r s) :
    Quiet r (deliver e a s) := by
  unfold deliver
  with_reducible repeat' (first | assumption | apply Quiet.ite | apply evPump_quiet | apply setMb_quiet | apply Quiet.foldl | intro _)

theorem raiseTo_quiet {r : State} {a : Aud} {code : Nat} {subject : Nat} {detail : Bytes} {s : State} (h : Quiet r s) :
    Quiet r (raiseTo a code subject detail s) := by
  unfold raiseTo
  with_reducible repeat' (first | assumption | apply Quiet.ite | apply Quiet.updGv | apply evLose_quiet | apply deliver_quiet | apply Quiet.foldl | intro _)

theorem raise0_quiet {r : State} {code : Nat} {subject : Nat} {detail : Bytes} {s : State} (h : Quiet r s) :
    Quiet r (raise0 code subject detail s) := by
  unfold raise0
  with_reducible repeat' (first | assumption | apply raiseTo_quiet)

theorem sendMsg_quiet {r : State} {src : MsgSrc} {sid : Nat} {addr : Nat} {data : Nat} {s : State} (h : Quiet r s) :
    QuietF r (sendMsg src sid addr data s) := by
  unfold sendMsg
  with_reducible repeat' (first | assumption | apply QuietF.ite | apply violation_quiet | apply startXfer_quiet | apply errBit_quiet | simp only [QuietF.pair] | intro _)

theorem setMsg_quiet {r : State} {l : Nat} {f : LineMsg → LineMsg} {s : State} (h : Quiet r s) :
    Quiet r (setMsg l f s) := by
  unfold setMsg
  with_reducible repeat' (first | assumption | apply Quiet.updIntr)

theorem driveLine_quiet {r : State} {l : Nat} {s : State} (h : Quiet r s) :
    Quiet r (driveLine l s) := by
  unfold driveLine
  with_reducible repeat' (first | assumption | apply Quiet.ite | apply sendMsg_quiet | apply Quiet.updIntr | apply setMsg_quiet | apply QuietF.fst | intro _)

theorem lines_quiet {r : State} {s : State} (h : Quiet r s) :
    Quiet r (lines s) := by
  unfold lines
  with_reducible repeat' (first | assumption | apply driveLine_quiet)

theorem putResponse_quiet {r : State} {m : Nat} {hdr : Bytes} {data : Bytes} {s : State} (h : Quiet r s) :
    Quiet r (putResponse m hdr data s) := by
  unfold putResponse
  with_reducible repeat' (first | assumption | apply Quiet.ite | apply lines_quiet | apply sendMsg_quiet | apply setMb_quiet | apply QuietF.fst | intro _)

theorem keepToken_quiet {r : State} {m : Nat} {t : Token} {s : State} (h : Quiet r s) :
    Quiet r (keepToken m t s) := by
  unfold keepToken
  with_reducible repeat' (first | assumption | apply setMb_quiet)

theorem respond_quiet {r : State} {q : Req} {r1x : Reply} {record : Bool} {s : State} (h : Quiet r s) :
    Quiet r (respond q r1x record s) := by
  unfold respond
  with_reducible repeat' (first | assumption | apply Quiet.ite | apply putResponse_quiet | apply awaitEvents_quiet | apply keepToken_quiet | intro _)

theorem finishTaken_quiet {r : State} {q : Req} {r1x : Reply} {s : State} (h : Quiet r s) :
    Quiet r (finishTaken q r1x s) := by
  unfold finishTaken
  with_reducible repeat' (first | assumption | apply respond_quiet | apply Quiet.updGv)

/-! ## Events of a monitored unit -/

theorem Counted.refl (s : State) : Counted s s := ⟨(Quiet.refl s).1, rfl, rfl, fun _ => rfl⟩

theorem SameUnits.trans {a b c : State} (h : SameUnits a b) (g : SameUnits b c) : SameUnits a c := by
  simp only [SameUnits] at h g ⊢
  simp only [g, h, and_self]

theorem Counted.foldl {α : Type} {f : State → α → State} (h : ∀ s x, Counted r s → Counted r (f s x)) :
    ∀ {l : List α} {s : State}, Counted r s → Counted r (l.foldl f s) := by
  intro l
  induction l with
  | nil => intro s hs; exact hs
  | cons a l ih => intro s hs; exact ih (h s a hs)

/-- What is quiet counts nothing. -/
theorem Counted.quiet {a b c : State} (h : Counted a b) (g : Quiet b c) : Counted a c := by
  obtain ⟨h1, h2, h3, h4⟩ := h
  obtain ⟨g1, g2, g3⟩ := g
  refine ⟨h1.trans g1, by rw [g3]; exact h2, by rw [g2]; exact h3, fun e => ?_⟩
  have : getEng c e = getEng b e := by simp only [getEng, g2]
  rw [this]; exact h4 e

theorem Counted.bump {g i k : Nat} (h : Counted r s) : Counted r (bump g i k s) := h
theorem Counted.raise0 {code subject : Nat} {detail : Bytes} (h : Counted r s) : Counted r (raise0 code subject detail s) :=
  h.quiet (raise0_quiet (Quiet.refl s))

theorem setPmu_counted {u : Nat} {f : Pmu → Pmu} (h : Counted r s) : Counted r (setPmu u f s) := by
  obtain ⟨h1, h2, h3, h4⟩ := h
  refine ⟨h1, ?_, h3, h4⟩
  simp only [setPmu, State.updMt_mt]
  rw [h2]

theorem samples_counted {e : Nat} {l : List Sample} (h : Counted r s) :
    Counted r (setEng e (fun g => { g with samples := l }) s) := by
  obtain ⟨h1, h2, h3, h4⟩ := h
  refine ⟨h1, h2, ?_, fun k => ?_⟩
  · simp only [setEng, State.updEng_eng]; rw [h3]
  · rw [getEng_setEng]
    split
    · rename_i q; subst q; rw [h4 e]
    · exact h4 k

theorem takeSample_counted {e t k : Nat} (h : Counted r s) : Counted r (takeSample e t k s) := by
  unfold takeSample
  dsimp only
  split
  · exact Counted.bump (samples_counted h)
  · split
    · exact Counted.raise0 (samples_counted h)
    · exact samples_counted h

theorem overflowEvent_counted {u : Nat} (h : Counted r s) : Counted r (overflowEvent u s) := by
  unfold overflowEvent
  split
  · exact h
  · exact Counted.raise0 (setPmu_counted h)

theorem pmuAdd_counted {n u k m t : Nat} (h : Counted r s) : Counted r (pmuAdd n u k m t s) := by
  induction n generalizing k m s with
  | zero => exact h
  | succ n ih =>
    simp only [pmuAdd]
    repeat' split
    all_goals first
      | exact setPmu_counted h
      | exact ih (takeSample_counted (setPmu_counted h))
      | exact takeSample_counted (setPmu_counted h)
      | exact ih (overflowEvent_counted (setPmu_counted h))
      | exact overflowEvent_counted (setPmu_counted h)

/-- An event of a monitored unit counts, and touches nothing else but what an overflow raises. -/
theorem pmuEvent_counted {u code n t : Nat} (h : Counted r s) : Counted r (pmuEvent u code n t s) := by
  unfold pmuEvent
  dsimp only
  split
  · exact h
  · refine Counted.foldl (fun u k hu => ?_) h
    split
    · exact pmuAdd_counted hu
    · exact hu

end Sys2Proof.Machine
end

