-- ==== Sys2Proof/WellFormed.lean ====
section
/-! DEFINITION. Which commands are well formed: every operand within the range that the largest build configuration gives
it, or the width of the field that carries it.  A meaning is total and does not ask for it. -/

namespace Sys2Proof

/-- An integer fits a signed field of `n` bits. -/
def intFits (n : Nat) (i : Int) : Bool := -(2 ^ (n - 1) : Nat) ≤ i && i < (2 ^ (n - 1) : Nat)

/-- The second source of an integer operation: an immediate is 16-bit signed (R299). -/
def srcOk : Src → Bool
  | .reg _ => true
  | .imm v => intFits 16 v

/-- A read beat: 64 bytes and a 2-bit response (R37). -/
def beatOk (b : Beat) : Bool := b.data.length = 64 && b.resp < 4

def Instr.wf : Instr → Bool
  | .frameEnters => true
  | .pipelineEntry => true
  | .parse => true
  | .flowLookup => true
  | .flowReadReturn tag beats => tag < 256 && beats.all beatOk && beats.length ≤ 64
  | .engineDispatch => true
  | .release => true
  | .genSweepEnd => true
  | .clsGenSlow g => g < 65536
  | .hostReadReturn tag beats => tag < 256 && beats.all beatOk && beats.length ≤ 64
  | .hostWriteResponse tag resp => tag < 256 && resp < 4
  | .hostTimeout _ tag => tag < 256
  | .registerWrite addr value strobe => addr < 2 ^ 22 && value < 2 ^ 32 && strobe < 16
  | .rcRead addr => addr < 2 ^ 22
  | .counterLowRead addr => addr < 2 ^ 22
  | .dnDone link tag status => link < 3 && tag < 4096 && status < 4
  | .dnDoneTimeout link tag => link < 3 && tag < 4096
  | .dnStageDone link => link < 3
  | .dnFrameStart link => link < 3
  | .upFrame link md _ _ => link < 3 && md.length = 16
  | .fbRate msg => msg.length = 16
  | .fbCredit msg => msg.length = 16
  | .fbPs msg => msg.length = 16
  | .fbRxEvent msg => msg.length = 16
  | .fbTsf msg => msg.length = 16
  | .stbPd link => link < 3
  | .stbAbort link => link < 3
  | .stbRestart link => link < 3
  | .rateStale sta link => sta < 1024 && link < 3
  | .stationDecision => true
  | .ciphDone status => status < 16
  | .ciphTimeout => true
  | .capEdge c => c < 16
  | .captureStuck c => c < 16
  | .triggerFire t => t < 32
  | .trigPulseEnd t => t < 32
  | .tsfStale k => k < 8
  | .tbNsRead k => k < 8
  | .timeSnap value => value < 2 ^ 32
  | .tbRateWrite k value => k < 8 && value < 2 ^ 32
  | .capPop c => c < 16
  | .trgArm t value => t < 32 && value < 2 ^ 32
  | .trgCancel t value => t < 32 && value < 2 ^ 32
  | .intRearm ch value => ch < 512 && value < 2 ^ 32
  | .intMaskWrite ch value => ch < 512 && value < 2 ^ 32
  | .vectorDelay ch v => ch < 512 && v < 8
  | .intMsgCtrlWrite line value => line < 4 && value < 2 ^ 32
  | .mbDoorbell mb value => mb < 16 && value < 2 ^ 32
  | .mbDoneClear mb => mb < 16
  | .requestTake => true
  | .eventWriteResponse tag resp => tag < 256 && resp < 4
  | .sysIdentify => true
  | .sysRegionSet => true
  | .sysGroupOpen => true
  | .sysCommit apply => apply < 2 ^ 32
  | .sysAbort => true
  | .sysEventRingSet => true
  | .sysEventMask => true
  | .sysMailboxGrant => true
  | .sysResourceBind => true
  | .sysPuntSet => true
  | .sysQuiesce => true
  | .sysStart => true
  | .lnStage apply => apply < 2 ^ 32
  | .lnStatusGet => true
  | .lnRetire => true
  | .lnApply mask => mask < 2 ^ 32
  | .errInject n => n < 4
  | .losAssert n => n < 4
  | .losDeassert n => n < 4
  | .cdrLock n => n < 4
  | .cdrLockLoss n => n < 4
  | .pllLock n => n < 4
  | .pllStartFail n => n < 4
  | .pllRetry n => n < 4
  | .pllLockLoss n => n < 4
  | .rxReady n ctle dfe => n < 4 && ctle < 16 && dfe.length = 5
  | .blockLock n => n < 4
  | .blockSlip n => n < 4
  | .ctcInsert n fill => n < 4 && fill ≤ 32
  | .ctcDelete n fill => n < 4 && fill ≤ 32
  | .ctcSlip n => n < 4
  | .trainingRequest n _ => n < 4
  | .trained n => n < 4
  | .trainingTimeout n => n < 4
  | .txLpiTimer n => n < 4
  | .rxLpiBlocks n _ => n < 4
  | .rxLpiFault n _ => n < 4
  | .prbsLock n _ errs mbits => n < 4 && errs < 2 ^ 48 && mbits < 2 ^ 32
  | .prbsLockLoss n errs mbits => n < 4 && errs < 2 ^ 48 && mbits < 2 ^ 32
  | .prbsDone n errs => n < 4 && errs < 2 ^ 48
  | .portStage apply => apply < 2 ^ 32
  | .portConfig => true
  | .portGclSet => true
  | .portStatusGet => true
  | .portTsRead => true
  | .wireRxFrame port rx => port < 4 && rx.data.length < 16384
  | .pauseExpire port tc => port < 4 && tc < 8
  | .pauseRefresh port tc => port < 4 && tc < 8
  | .txSelect port => port < 4
  | .txFrameDone port => port < 4
  | .linkUp port => port < 4
  | .linkDownHoldExpire port => port < 4
  | .hiBer port _ => port < 4
  | .anComplete port outcome _ => port < 4 && outcome < 8
  | .anRestartTimer port => port < 4
  | .anLinkFail port => port < 4
  | .eeeIdleExpire port => port < 4
  | .gclStart port => port < 4
  | .gateEntryChange port => port < 4
  | .gateOversize port tc => port < 4 && tc < 8
  | .verifyTimer port => port < 4
  | .spillStart pool => pool < 4
  | .spillComplete handle => handle < 2 ^ 32
  | .returnStart pool => pool < 4
  | .returnComplete handle => handle < 2 ^ 32
  | .freeQueueRefill pool => pool < 4
  | .refillRetry pool => pool < 4
  | .relocationDone handle => handle < 2 ^ 32
  | .storePoolSplit => true
  | .storeSpillSet => true
  | .storeStatusGet => true
  | .storeCountersGet => true
  | .storeBankRetire => true
  | .clsParseNodeSet => true
  | .clsParseStartSet => true
  | .clsExceptionSet => true
  | .clsRuleAdd => true
  | .clsRuleDelete => true
  | .clsMcastSet => true
  | .clsDefaultSet => true
  | .clsTableSet => true
  | .clsGenStatus => true
  | .clsGenRetire => true
  | .clsRuleRead => true
  | .clsCountersGet => true
  | .flowProfileSet => true
  | .flowActionSet => true
  | .flowRewriteSet => true
  | .flowPolicerSet => true
  | .flowInstall => true
  | .flowDelete => true
  | .flowRead => true
  | .flowAgeSet => true
  | .flowTableSet => true
  | .flowFlush => true
  | .flowCountersGet => true
  | .claimNew e t key => e < 8 && t < 4 && key.length = 40
  | .claimEntry e t index expected => e < 8 && t < 4 && index < 2 ^ 32 && (expected.length = 0 || expected.length = 2)
  | .publish e t claim image => e < 8 && t < 4 && claim < 2 ^ 32 && (image.length = 32 || image.length = 64)
  | .abandon e t claim => e < 8 && t < 4 && claim < 2 ^ 32
  | .flopOutcome e t => e < 8 && t < 4
  | .agingPair => true
  | .plus e t _ _ b => e < 8 && t < 4 && srcOk b
  | .minus e t _ _ b => e < 8 && t < 4 && srcOk b
  | .band e t _ _ b => e < 8 && t < 4 && srcOk b
  | .bor e t _ _ b => e < 8 && t < 4 && srcOk b
  | .bxor e t _ _ b => e < 8 && t < 4 && srcOk b
  | .shl e t _ _ b => e < 8 && t < 4 && srcOk b
  | .shr e t _ _ b => e < 8 && t < 4 && srcOk b
  | .shra e t _ _ b => e < 8 && t < 4 && srcOk b
  | .cmplt e t _ _ b => e < 8 && t < 4 && srcOk b
  | .cmpltu e t _ _ b => e < 8 && t < 4 && srcOk b
  | .immh e t _ _ => e < 8 && t < 4
  | .imml e t _ _ => e < 8 && t < 4
  | .mpy e t _ _ _ => e < 8 && t < 4
  | .mpyhs e t _ _ _ => e < 8 && t < 4
  | .mpyhu e t _ _ _ => e < 8 && t < 4
  | .ld8 e t _ _ off => e < 8 && t < 4 && intFits 16 off
  | .ld8s e t _ _ off => e < 8 && t < 4 && intFits 16 off
  | .ld16 e t _ _ off => e < 8 && t < 4 && intFits 16 off
  | .ld16s e t _ _ off => e < 8 && t < 4 && intFits 16 off
  | .ld32 e t _ _ off => e < 8 && t < 4 && intFits 16 off
  | .st8 e t _ _ off => e < 8 && t < 4 && intFits 16 off
  | .st16 e t _ _ off => e < 8 && t < 4 && intFits 16 off
  | .st32 e t _ _ off => e < 8 && t < 4 && intFits 16 off
  | .jeq e t _ _ off => e < 8 && t < 4 && intFits 16 off
  | .jne e t _ _ off => e < 8 && t < 4 && intFits 16 off
  | .jlt e t _ _ off => e < 8 && t < 4 && intFits 16 off
  | .jge e t _ _ off => e < 8 && t < 4 && intFits 16 off
  | .jltu e t _ _ off => e < 8 && t < 4 && intFits 16 off
  | .jgeu e t _ _ off => e < 8 && t < 4 && intFits 16 off
  | .call e t off => e < 8 && t < 4 && intFits 26 off
  | .jumpr e t _ off => e < 8 && t < 4 && intFits 16 off
  | .crd e t _ _ => e < 8 && t < 4
  | .cwr e t _ _ => e < 8 && t < 4
  | .fld8 e t _ _ off => e < 8 && t < 4 && intFits 16 off
  | .fld16 e t _ _ off => e < 8 && t < 4 && intFits 16 off
  | .fld32 e t _ _ off => e < 8 && t < 4 && intFits 16 off
  | .windowLoadReturn e t _ => e < 8 && t < 4
  | .bxt e t _ _ pos _ => e < 8 && t < 4 && pos < 32
  | .bins e t _ _ pos _ => e < 8 && t < 4 && pos < 32
  | .brev8 e t _ _ => e < 8 && t < 4
  | .ocadd e t _ => e < 8 && t < 4
  | .crc8 e t _ => e < 8 && t < 4
  | .crc16 e t _ => e < 8 && t < 4
  | .crc32 e t _ => e < 8 && t < 4
  | .hrd e t haddr daddr len => e < 8 && t < 4 && haddr < 2 ^ 64 && daddr < 2 ^ 32 && len < 2 ^ 32
  | .hwr e t haddr daddr len => e < 8 && t < 4 && haddr < 2 ^ 64 && daddr < 2 ^ 32 && len < 2 ^ 32
  | .hostAccessDone e t => e < 8 && t < 4
  | .done e t _ => e < 8 && t < 4
  | .send e t src len tail tag tc => e < 8 && t < 4 && src < 2 ^ 32 && len < 2 ^ 32 && tail.all (· < 2 ^ 32) && tag < 2 ^ 32 && tc < 2 ^ 32
  | .wait e t untl => e < 8 && t < 4 && untl < 2 ^ 64
  | .waitWake e t => e < 8 && t < 4
  | .frameBudgetExpire e t => e < 8 && t < 4
  | .inqTake e => e < 8
  | .onyxInqServe => true
  | .engineWatchdog e _ => e < 8
  | .redispatch e => e < 8
  | .engineBistDone e _ => e < 8
  | .engHookBind => true
  | .engProgUnload => true
  | .engConfigSet => true
  | .engPolicySet => true
  | .engDataWrite => true
  | .engStatusGet => true
  | .engCountersGet => true
  | .engSampleRead => true
  | .engBaseSet => true
  | .txDb ch r value => ch < 512 && r < 8 && value < 2 ^ 32
  | .rxDb ch r value => ch < 512 && r < 8 && value < 2 ^ 32
  | .chEventsClear ch value => ch < 512 && value < 2 ^ 32
  | .hostRxDecision => true
  | .chConfig => true
  | .chRingSet => true
  | .chVectorSet => true
  | .chFilterSet => true
  | .chHashSet => true
  | .chRateSet => true
  | .chEnable => true
  | .chReset => true
  | .chStatusGet => true
  | .chCountersGet => true
  | .staSet => true
  | .staRemove => true
  | .staFlush => true
  | .staStatusGet => true
  | .staCountersGet => true
  | .rlConfig => true
  | .rlStatusGet => true
  | .schPortSet => true
  | .schShaperSet => true
  | .schChannelSet => true
  | .schStatusGet => true
  | .schCountersGet => true
  | .timeStep => true
  | .timeRate => true
  | .timeUnlock => true
  | .timeTrackSet => true
  | .timeCaptureSet => true
  | .timeTriggerArm => true
  | .timeTriggerCancel => true
  | .timeStrobeRead => true
  | .timeStatusGet => true
  | .timeCountersGet => true
  | .crcStart j value => j < 4 && value < 2 ^ 32
  | .crcAbort j value => j < 4 && value < 2 ^ 32
  | .crcJobEnd j => j < 4
  | .crcRingRetry => true
  | .pwrStateSet => true
  | .powerCommitPoint => true
  | .powerDeferTimeout => true
  | .forceLateTimeout => true
  | .pwrWatchSet => true
  | .pwrPatternSet => true
  | .pwrStatusGet => true
  | .pwrCountersGet => true
  | .pwrAckChange k _ => k < 18
  | .retAckChange t _ => t < 4
  | .clkAckRise => true
  | .clkAckFall => true
  | .handshakeTimeout kind idx => kind < 3 && idx < 18
  | .watchRxFrame port rx => port < 4 && rx.data.length < 16384
  | .pwrWake => true
  | .wakeTimer => true
  | .lightSleep bank => bank < 32
  | .rstNAssert => true
  | .rstAoNAssert => true
  | .coreResetRelease => true
  | .bootReady => true
  | .testModeChange _ => true
  | .scrubRead hit => hit.wrong < 73
  | .rowRepairDone _ => true
  | .columnRepairDone _ => true
  | .freeListRebuildDone pool => pool < 4
  | .imemRefillDone e => e < 8
  | .onyxTrap => true
  | .onyxHang => true
  | .standbyReady => true
  | .coldRestartDone => true
  | .scrubWriteRetry => true
  | .resImageLoad => true
  | .resImageActivate => true
  | .resEngineCondemn => true
  | .resEngineReturn => true
  | .resMgmtSwitch => true
  | .resConfig => true
  | .resStatusGet => true
  | .resFaultRead => true
  | .resCountersGet => true
  | .wsBypass code => code < 256
  | .wsExtest _ => true
  | .wsIntest _ => true
  | .wsPreload _ => true
  | .internalScan chains => chains.length ≤ 32
  | .memoryBistRun => true
  | .bistDone fails => fails.length < 65536
  | .memoryBistStatusRead => true
  | .repairRecordRead => true
  | .repairRecordProgram entry => entry < 2 ^ 64
  | .pmuLoad u => u < 16
  | .pmuRunWrite u value => u < 16 && value < 2 ^ 32
  | .bwCfgWrite p value => p < 4 && value < 2 ^ 32
  | .bwWindowEnd p => p < 4
  | .mtGenSet => true
  | .mtChkSet => true
  | .mtResultGet => true
  | .mtPmuControl => true
  | .codeGroupSync n _ => n < 4
  | .fecLockChange port _ => port < 4
  | .rxFaultSignal port _ _ => port < 4
  | .cqConsWrite ch _ r value => ch < 512 && r < 8 && value < 2 ^ 32
  | .crcRingConsWrite value => value < 2 ^ 32
  | .aoTb7Read => true
  | .standbyCoreFail => true
  | .standbySyncTimeout => true
  | .quiesceDrainTimeout => true
  | .rstAoNDeassert => true
  | .ciphPlaintextByte _ => true

end Sys2Proof
end

