-- ==== Sys2Proof/Tests/Slice0.lean ====
section
/-! SUPPORT. Tests: which commands are well formed, single commands with results worked out by hand from the spec, and
for every statement a state and operands that meet its hypotheses. -/

namespace Sys2Proof.Tests

open Sys2Proof Sys2Proof.Machine

/-- The block in operation, firmware running. -/
def up : State := State.reset.updSys fun y => { y with fw := true, phase := 2 }

/-- A request of a command with its payload. -/
def req (code : Nat) (pl : Bytes) : Req := { mb := 0, hdr := toLe 2 code ++ zeros 62, payload := pl }

/-- Onyx has taken that request, in the state that `f` makes. -/
def hand (code : Nat) (pl : Bytes) (f : State → State := id) : State :=
  (f up).updGv fun g => { g with taken := some (req code pl) }

/-- Thread 0 of engine 0 runs. -/
def thr (f : Thread → Thread) (g : State → State := id) : State :=
  setThr 0 0 f (setThr 0 0 (fun x => { x with busy := true }) (setEng 0 (fun g => { g with mode := .active }) (g up)))

/-- A stored buffer of 64 bytes that verifies: its check is the CRC-32C of 136 zeros. -/
def buf0 : Buf := { oseq := 0, data := zeros 64, check := 2616640892, loc := .sram 0 0 }

def stored (s : State) : State := setBuf 0 buf0 s

/-- Its frame. -/
def fr : PFrame := { h := 0, oseq := 0, port := 0, seq := 0, gen := 0, tc := 0, len := 64 }

def slot0 (x : ReState) (f : PFrame) (s : State) : State := s.updPipe fun p => { p with slots := p.slots.set 0 { frame := f, first := f, state := x } }

/-- A request header. -/
def hdrOf (code flags len seq token group addr : Nat) : Bytes :=
  toLe 2 code ++ toLe 2 flags ++ toLe 2 len ++ toLe 2 seq ++ toLe 8 token ++ toLe 4 group ++ zeros 4 ++ toLe 8 addr ++ zeros 32

/-- A window of 1 MiB from address 0. -/
def windowed (s : State) : State := s.updHost fun h => { h with windows := [(0, { base := 0, size := 0x100000, agent := 0xFF, set := true })] }

def xfer0 : Xfer := { id := 0, purp := .lookup, write := false, sid := 0, addr := 0, len := 0, data := [], todo := [] }

/-- Lane 3 is powered and enabled. -/
def lane3 (f : Lane → Lane) (s : State := up) : State :=
  setLane 3 f (setLane 3 (fun l => { l with applied := { mode := 7 } }) (s.updPwr fun p => { p with ack := 0x3FFFF }))

/-- And its link is up. -/
def link3 (f : Port → Port) (s : State := up) : State := setPort 3 f (setPort 3 (fun p => { p with link := true }) (lane3 id s))

/-- The record of the stored frame, and its buffer as host memory returns it. -/
def rec0 : Bytes := zeros 4 ++ [64#8] ++ zeros 59

def back0 : Bytes := rec0 ++ zeros 64 ++ zeros 120 ++ toLe 4 4257939217 ++ toLe 4 0

/-- A parse result with a link header of 14 bytes, an IP header of kind `k` at 14 and a transport header at 34. -/
def presIp (k : Byte) : Bytes := [0xFF#8, 0xFF, 14, 0, 34, 0] ++ List.replicate 26 0xFF ++ [k] ++ zeros 31

/-- A UDP packet from 10.0.0.2 whose TTL has run out. -/
def ipv4Frame : Bytes :=
  zeros 12 ++ [8#8, 0, 0x45, 0, 0, 46, 0, 0, 0, 0, 0, 17, 0, 0, 10, 0, 0, 2, 10, 0, 0, 3] ++ zeros 30

/-- A reader of buffer 0 waits for its read out of host memory. -/
def fetching (who : Reader) (s : State) : State :=
  s.updHost fun h => { h with xfers := [{ id := 0, purp := .direct 0 who, write := false, sid := 0x200, addr := 0, len := 1, data := [], todo := [], out := 1 }] }

/-- Ring 2 of channel 3 has a frame and a descriptor for it. -/
def ring32 : State :=
  (setQ (.ring 3 2) [{ h := 0, oseq := 0 }] (stored (windowed (setChSch 3 (fun x => { x with round := { active := [2] }, ringQ := List.replicate 8 5000 })
    (setCh 3 (fun x => { x with state := .enabled, agent := 0xFF, rx := [(2, { mode := 1, entries := 16, prod := 1, next := 1, fetched := [⟨0, zeros 8 ++ [0#8, 8] ++ zeros 22⟩] })] }) up))))).updSch
    fun t => { t with upper := { active := [3] } }

/-- Buffer 0 lies in host memory. -/
def lodged (s : State) : State :=
  (setBuf 0 { buf0 with loc := .lodged 5 } s).updHost fun h => { h with dram := { base := 0x100000, size := 0x200000, set := true } }

/-! ## Well-formedness: an ill-formed command for each check -/

set_option maxRecDepth 100000 in
theorem test_wf_refuses_1 : ([
    .flowReadReturn (256) [], .flowReadReturn 0 [⟨zeros 63, 0, false⟩], .flowReadReturn 0 [⟨zeros 64, 4, false⟩],
    .flowReadReturn 0 (List.replicate 65 ⟨zeros 64, 0, false⟩), .clsGenSlow (65536), .hostReadReturn (256) [],
    .hostReadReturn 0 [⟨zeros 63, 0, false⟩], .hostReadReturn 0 [⟨zeros 64, 4, false⟩],
    .hostReadReturn 0 (List.replicate 65 ⟨zeros 64, 0, false⟩), .hostWriteResponse (256) 0,
    .hostWriteResponse 0 (4), .hostTimeout false (256), .registerWrite (2 ^ 22) 0 0, .registerWrite 0 (2 ^ 32) 0,
    .registerWrite 0 0 (16), .rcRead (2 ^ 22), .counterLowRead (2 ^ 22), .dnDone (3) 0 0, .dnDone 0 (4096) 0,
    .dnDone 0 0 (4), .dnDoneTimeout (3) 0, .dnDoneTimeout 0 (4096), .dnStageDone (3), .dnFrameStart (3),
    .upFrame (3) (zeros 16) [] false, .upFrame 0 (zeros 17) [] false, .fbRate (zeros 17), .fbCredit (zeros 17),
    .fbPs (zeros 17), .fbRxEvent (zeros 17), .fbTsf (zeros 17), .stbPd (3), .stbAbort (3), .stbRestart (3),
    .rateStale (1024) 0, .rateStale 0 (3), .ciphDone (16), .capEdge (16), .captureStuck (16), .triggerFire (32)] : List Instr).all (fun i => !i.wf) = true := by decide

set_option maxRecDepth 100000 in
theorem test_wf_refuses_2 : ([
    .trigPulseEnd (32), .tsfStale (8), .tbNsRead (8), .timeSnap (2 ^ 32), .tbRateWrite (8) 0,
    .tbRateWrite 0 (2 ^ 32), .capPop (16), .trgArm (32) 0, .trgArm 0 (2 ^ 32), .trgCancel (32) 0,
    .trgCancel 0 (2 ^ 32), .intRearm (512) 0, .intRearm 0 (2 ^ 32), .intMaskWrite (512) 0,
    .intMaskWrite 0 (2 ^ 32), .vectorDelay (512) 0, .vectorDelay 0 (8), .intMsgCtrlWrite (4) 0,
    .intMsgCtrlWrite 0 (2 ^ 32), .mbDoorbell (16) 0, .mbDoorbell 0 (2 ^ 32), .mbDoneClear (16),
    .eventWriteResponse (256) 0, .eventWriteResponse 0 (4), .sysCommit (2 ^ 32), .portStage (2 ^ 32), .lnStage (2 ^ 32), .lnApply (2 ^ 32), .errInject (4),
    .losAssert (4), .losDeassert (4), .cdrLock (4), .cdrLockLoss (4), .pllLock (4), .pllStartFail (4),
    .pllRetry (4), .pllLockLoss (4), .rxReady (4) 0 (List.replicate 5 0), .rxReady 0 (16) (List.replicate 5 0),
    .rxReady 0 0 (List.replicate 6 0), .blockLock (4), .blockSlip (4)] : List Instr).all (fun i => !i.wf) = true := by decide

set_option maxRecDepth 100000 in
theorem test_wf_refuses_3 : ([
    .ctcInsert (4) 0, .ctcInsert 0 33, .ctcDelete (4) 0, .ctcDelete 0 33, .ctcSlip (4),
    .trainingRequest (4) .preset, .trained (4), .trainingTimeout (4), .txLpiTimer (4), .rxLpiBlocks (4) false,
    .rxLpiFault (4) 0, .prbsLock (4) [] 0 0, .prbsLock 0 [] (2 ^ 48) 0, .prbsLock 0 [] 0 (2 ^ 32),
    .prbsLockLoss (4) 0 0, .prbsLockLoss 0 (2 ^ 48) 0, .prbsLockLoss 0 0 (2 ^ 32), .prbsDone (4) 0,
    .prbsDone 0 (2 ^ 48), .wireRxFrame (4) { data := [] }, .pauseExpire (4) 0, .pauseExpire 0 (8),
    .pauseRefresh (4) 0, .pauseRefresh 0 (8), .txSelect (4), .txFrameDone (4), .linkUp (4),
    .linkDownHoldExpire (4), .hiBer (4) false, .anComplete (4) 0 ⟨0, false, false, false, false, false⟩,
    .anComplete 0 (8) ⟨0, false, false, false, false, false⟩, .anRestartTimer (4), .anLinkFail (4),
    .eeeIdleExpire (4), .gclStart (4), .gateEntryChange (4), .gateOversize (4) 0, .gateOversize 0 (8),
    .verifyTimer (4), .spillStart (4)] : List Instr).all (fun i => !i.wf) = true := by decide

set_option maxRecDepth 100000 in
theorem test_wf_refuses_4 : ([
    .spillComplete (2 ^ 32), .returnStart (4), .returnComplete (2 ^ 32), .freeQueueRefill (4), .refillRetry (4),
    .relocationDone (2 ^ 32), .claimNew (8) 0 (zeros 40), .claimNew 0 (4) (zeros 40), .claimNew 0 0 (zeros 41),
    .claimEntry (8) 0 0 (zeros 0), .claimEntry 0 (4) 0 (zeros 0), .claimEntry 0 0 (2 ^ 32) (zeros 0),
    .claimEntry 0 0 0 (zeros 1), .publish (8) 0 0 (zeros 32), .publish 0 (4) 0 (zeros 32),
    .publish 0 0 (2 ^ 32) (zeros 32), .publish 0 0 0 (zeros 1), .abandon (8) 0 0, .abandon 0 (4) 0,
    .abandon 0 0 (2 ^ 32), .flopOutcome (8) 0, .flopOutcome 0 (4), .plus (8) 0 0 0 (.reg 0),
    .plus 0 (4) 0 0 (.reg 0), .plus 0 0 0 0 (.imm (-32769)), .minus (8) 0 0 0 (.reg 0), .minus 0 (4) 0 0 (.reg 0),
    .minus 0 0 0 0 (.imm (-32769)), .band (8) 0 0 0 (.reg 0), .band 0 (4) 0 0 (.reg 0),
    .band 0 0 0 0 (.imm (-32769)), .bor (8) 0 0 0 (.reg 0), .bor 0 (4) 0 0 (.reg 0), .bor 0 0 0 0 (.imm (-32769)),
    .bxor (8) 0 0 0 (.reg 0), .bxor 0 (4) 0 0 (.reg 0), .bxor 0 0 0 0 (.imm (-32769)), .shl (8) 0 0 0 (.reg 0),
    .shl 0 (4) 0 0 (.reg 0), .shl 0 0 0 0 (.imm (-32769))] : List Instr).all (fun i => !i.wf) = true := by decide

set_option maxRecDepth 100000 in
theorem test_wf_refuses_5 : ([
    .shr (8) 0 0 0 (.reg 0), .shr 0 (4) 0 0 (.reg 0), .shr 0 0 0 0 (.imm (-32769)), .shra (8) 0 0 0 (.reg 0),
    .shra 0 (4) 0 0 (.reg 0), .shra 0 0 0 0 (.imm (-32769)), .cmplt (8) 0 0 0 (.reg 0), .cmplt 0 (4) 0 0 (.reg 0),
    .cmplt 0 0 0 0 (.imm (-32769)), .cmpltu (8) 0 0 0 (.reg 0), .cmpltu 0 (4) 0 0 (.reg 0),
    .cmpltu 0 0 0 0 (.imm (-32769)), .immh (8) 0 0 0, .immh 0 (4) 0 0, .imml (8) 0 0 0, .imml 0 (4) 0 0,
    .mpy (8) 0 0 0 0, .mpy 0 (4) 0 0 0, .mpyhs (8) 0 0 0 0, .mpyhs 0 (4) 0 0 0, .mpyhu (8) 0 0 0 0,
    .mpyhu 0 (4) 0 0 0, .ld8 (8) 0 0 0 0, .ld8 0 (4) 0 0 0, .ld8 0 0 0 0 32768, .ld8s (8) 0 0 0 0,
    .ld8s 0 (4) 0 0 0, .ld8s 0 0 0 0 32768, .ld16 (8) 0 0 0 0, .ld16 0 (4) 0 0 0, .ld16 0 0 0 0 32768,
    .ld16s (8) 0 0 0 0, .ld16s 0 (4) 0 0 0, .ld16s 0 0 0 0 32768, .ld32 (8) 0 0 0 0, .ld32 0 (4) 0 0 0,
    .ld32 0 0 0 0 32768, .st8 (8) 0 0 0 0, .st8 0 (4) 0 0 0, .st8 0 0 0 0 32768] : List Instr).all (fun i => !i.wf) = true := by decide

set_option maxRecDepth 100000 in
theorem test_wf_refuses_6 : ([
    .st16 (8) 0 0 0 0, .st16 0 (4) 0 0 0, .st16 0 0 0 0 32768, .st32 (8) 0 0 0 0, .st32 0 (4) 0 0 0,
    .st32 0 0 0 0 32768, .jeq (8) 0 0 0 0, .jeq 0 (4) 0 0 0, .jeq 0 0 0 0 32768, .jne (8) 0 0 0 0,
    .jne 0 (4) 0 0 0, .jne 0 0 0 0 32768, .jlt (8) 0 0 0 0, .jlt 0 (4) 0 0 0, .jlt 0 0 0 0 32768, .jge (8) 0 0 0 0,
    .jge 0 (4) 0 0 0, .jge 0 0 0 0 32768, .jltu (8) 0 0 0 0, .jltu 0 (4) 0 0 0, .jltu 0 0 0 0 32768,
    .jgeu (8) 0 0 0 0, .jgeu 0 (4) 0 0 0, .jgeu 0 0 0 0 32768, .call (8) 0 0, .call 0 (4) 0, .call 0 0 33554432,
    .jumpr (8) 0 0 0, .jumpr 0 (4) 0 0, .jumpr 0 0 0 32768, .crd (8) 0 0 .cycle, .crd 0 (4) 0 .cycle,
    .cwr (8) 0 0 .cycle, .cwr 0 (4) 0 .cycle, .fld8 (8) 0 0 0 0, .fld8 0 (4) 0 0 0, .fld8 0 0 0 0 32768,
    .fld16 (8) 0 0 0 0, .fld16 0 (4) 0 0 0, .fld16 0 0 0 0 32768] : List Instr).all (fun i => !i.wf) = true := by decide

set_option maxRecDepth 100000 in
theorem test_wf_refuses_7 : ([
    .fld32 (8) 0 0 0 0, .fld32 0 (4) 0 0 0, .fld32 0 0 0 0 32768, .windowLoadReturn (8) 0 false,
    .windowLoadReturn 0 (4) false, .bxt (8) 0 0 0 0 0, .bxt 0 (4) 0 0 0 0, .bxt 0 0 0 0 (32) 0,
    .bins (8) 0 0 0 0 0, .bins 0 (4) 0 0 0 0, .bins 0 0 0 0 (32) 0, .brev8 (8) 0 0 0, .brev8 0 (4) 0 0,
    .ocadd (8) 0 0, .ocadd 0 (4) 0, .crc8 (8) 0 0, .crc8 0 (4) 0, .crc16 (8) 0 0, .crc16 0 (4) 0, .crc32 (8) 0 0,
    .crc32 0 (4) 0, .hrd (8) 0 0 0 0, .hrd 0 (4) 0 0 0, .hrd 0 0 (2 ^ 64) 0 0, .hrd 0 0 0 (2 ^ 32) 0,
    .hrd 0 0 0 0 (2 ^ 32), .hwr (8) 0 0 0 0, .hwr 0 (4) 0 0 0, .hwr 0 0 (2 ^ 64) 0 0, .hwr 0 0 0 (2 ^ 32) 0,
    .hwr 0 0 0 0 (2 ^ 32), .hostAccessDone (8) 0, .hostAccessDone 0 (4), .done (8) 0 false, .done 0 (4) false,
    .send (8) 0 0 0 none 0 0, .send 0 (4) 0 0 none 0 0, .send 0 0 (2 ^ 32) 0 none 0 0,
    .send 0 0 0 (2 ^ 32) none 0 0, .send 0 0 0 0 (some (2 ^ 32)) 0 0] : List Instr).all (fun i => !i.wf) = true := by decide

set_option maxRecDepth 100000 in
theorem test_wf_refuses_8 : ([
    .send 0 0 0 0 none (2 ^ 32) 0, .send 0 0 0 0 none 0 (2 ^ 32), .wait (8) 0 0, .wait 0 (4) 0, .wait 0 0 (2 ^ 64),
    .waitWake (8) 0, .waitWake 0 (4), .frameBudgetExpire (8) 0, .frameBudgetExpire 0 (4), .inqTake (8),
    .engineWatchdog (8) 0, .redispatch (8), .engineBistDone (8) [], .txDb (512) 0 0, .txDb 0 (8) 0,
    .txDb 0 0 (2 ^ 32), .rxDb (512) 0 0, .rxDb 0 (8) 0, .rxDb 0 0 (2 ^ 32), .chEventsClear (512) 0,
    .chEventsClear 0 (2 ^ 32), .crcStart (4) 0, .crcStart 0 (2 ^ 32), .crcAbort (4) 0, .crcAbort 0 (2 ^ 32),
    .crcJobEnd (4), .pwrAckChange (18) false, .retAckChange (4) false, .handshakeTimeout (3) 0,
    .handshakeTimeout 0 (18), .watchRxFrame (4) { data := [] }, .lightSleep (32),
    .scrubRead { place := { sub := 0 }, wrong := 73 }, .freeListRebuildDone (4), .imemRefillDone (8),
    .wsBypass (256), .internalScan (List.replicate 33 []), .repairRecordProgram (2 ^ 64), .pmuLoad (16),
    .pmuRunWrite (16) 0] : List Instr).all (fun i => !i.wf) = true := by decide

set_option maxRecDepth 100000 in
theorem test_wf_refuses_9 : ([
    .pmuRunWrite 0 (2 ^ 32), .bwCfgWrite (4) 0, .bwCfgWrite 0 (2 ^ 32), .bwWindowEnd (4), .codeGroupSync (4) false,
    .fecLockChange (4) false, .rxFaultSignal (4) false false, .cqConsWrite (512) false 0 0,
    .cqConsWrite 0 false (8) 0, .cqConsWrite 0 false 0 (2 ^ 32), .crcRingConsWrite (2 ^ 32)] : List Instr).all (fun i => !i.wf) = true := by decide

set_option maxRecDepth 100000 in
theorem test_wf_accepts_1 : ([
    .flowReadReturn 0 [], .clsGenSlow 0, .hostReadReturn 0 [], .hostWriteResponse 0 0, .hostTimeout false 0,
    .registerWrite 0 0 0, .rcRead 0, .counterLowRead 0, .dnDone 0 0 0, .dnDoneTimeout 0 0, .dnStageDone 0,
    .dnFrameStart 0, .upFrame 0 (zeros 16) [] false, .fbRate (zeros 16), .fbCredit (zeros 16), .fbPs (zeros 16),
    .fbRxEvent (zeros 16), .fbTsf (zeros 16), .stbPd 0, .stbAbort 0, .stbRestart 0, .rateStale 0 0, .ciphDone 0,
    .capEdge 0, .captureStuck 0, .triggerFire 0, .trigPulseEnd 0, .tsfStale 0, .tbNsRead 0, .timeSnap 0,
    .tbRateWrite 0 0, .capPop 0, .trgArm 0 0, .trgCancel 0 0, .intRearm 0 0, .intMaskWrite 0 0, .vectorDelay 0 0,
    .intMsgCtrlWrite 0 0, .mbDoorbell 0 0, .mbDoneClear 0, .eventWriteResponse 0 0, .sysCommit 0, .portStage 0, .lnStage 0, .lnApply 0,
    .errInject 0, .losAssert 0, .losDeassert 0, .cdrLock 0, .cdrLockLoss 0, .pllLock 0, .pllStartFail 0,
    .pllRetry 0, .pllLockLoss 0, .rxReady 0 0 (List.replicate 5 0), .blockLock 0, .blockSlip 0, .ctcInsert 0 0,
    .ctcDelete 0 0, .ctcSlip 0, .trainingRequest 0 .preset, .trained 0] : List Instr).all Instr.wf = true := by decide

set_option maxRecDepth 100000 in
theorem test_wf_accepts_2 : ([
    .trainingTimeout 0, .txLpiTimer 0, .rxLpiBlocks 0 false, .rxLpiFault 0 0, .prbsLock 0 [] 0 0,
    .prbsLockLoss 0 0 0, .prbsDone 0 0, .wireRxFrame 0 { data := [] }, .pauseExpire 0 0, .pauseRefresh 0 0,
    .txSelect 0, .txFrameDone 0, .linkUp 0, .linkDownHoldExpire 0, .hiBer 0 false,
    .anComplete 0 0 ⟨0, false, false, false, false, false⟩, .anRestartTimer 0, .anLinkFail 0, .eeeIdleExpire 0,
    .gclStart 0, .gateEntryChange 0, .gateOversize 0 0, .verifyTimer 0, .spillStart 0, .spillComplete 0,
    .returnStart 0, .returnComplete 0, .freeQueueRefill 0, .refillRetry 0, .relocationDone 0,
    .claimNew 0 0 (zeros 40), .claimEntry 0 0 0 (zeros 0), .publish 0 0 0 (zeros 32), .abandon 0 0 0,
    .flopOutcome 0 0, .plus 0 0 0 0 (.reg 0), .minus 0 0 0 0 (.reg 0), .band 0 0 0 0 (.reg 0),
    .bor 0 0 0 0 (.reg 0), .bxor 0 0 0 0 (.reg 0), .shl 0 0 0 0 (.reg 0), .shr 0 0 0 0 (.reg 0),
    .shra 0 0 0 0 (.reg 0), .cmplt 0 0 0 0 (.reg 0), .cmpltu 0 0 0 0 (.reg 0), .immh 0 0 0 0, .imml 0 0 0 0,
    .mpy 0 0 0 0 0, .mpyhs 0 0 0 0 0, .mpyhu 0 0 0 0 0, .ld8 0 0 0 0 0, .ld8s 0 0 0 0 0, .ld16 0 0 0 0 0,
    .ld16s 0 0 0 0 0, .ld32 0 0 0 0 0, .st8 0 0 0 0 0, .st16 0 0 0 0 0, .st32 0 0 0 0 0, .jeq 0 0 0 0 0,
    .jne 0 0 0 0 0] : List Instr).all Instr.wf = true := by decide

set_option maxRecDepth 100000 in
theorem test_wf_accepts_3 : ([
    .jlt 0 0 0 0 0, .jge 0 0 0 0 0, .jltu 0 0 0 0 0, .jgeu 0 0 0 0 0, .call 0 0 0, .jumpr 0 0 0 0,
    .crd 0 0 0 .cycle, .cwr 0 0 0 .cycle, .fld8 0 0 0 0 0, .fld16 0 0 0 0 0, .fld32 0 0 0 0 0,
    .windowLoadReturn 0 0 false, .bxt 0 0 0 0 0 0, .bins 0 0 0 0 0 0, .brev8 0 0 0 0, .ocadd 0 0 0, .crc8 0 0 0,
    .crc16 0 0 0, .crc32 0 0 0, .hrd 0 0 0 0 0, .hwr 0 0 0 0 0, .hostAccessDone 0 0, .done 0 0 false,
    .send 0 0 0 0 none 0 0, .wait 0 0 0, .waitWake 0 0, .frameBudgetExpire 0 0, .inqTake 0, .engineWatchdog 0 0,
    .redispatch 0, .engineBistDone 0 [], .txDb 0 0 0, .rxDb 0 0 0, .chEventsClear 0 0, .crcStart 0 0,
    .crcAbort 0 0, .crcJobEnd 0, .pwrAckChange 0 false, .retAckChange 0 false, .handshakeTimeout 0 0,
    .watchRxFrame 0 { data := [] }, .lightSleep 0, .scrubRead { place := { sub := 0 }, wrong := 0 },
    .freeListRebuildDone 0, .imemRefillDone 0, .wsBypass 0, .internalScan [], .bistDone [], .repairRecordProgram 0,
    .pmuLoad 0, .pmuRunWrite 0 0, .bwCfgWrite 0 0, .bwWindowEnd 0, .codeGroupSync 0 false, .fecLockChange 0 false,
    .rxFaultSignal 0 false false, .cqConsWrite 0 false 0 0, .crcRingConsWrite 0] : List Instr).all Instr.wf = true := by decide

theorem test_wf_refuses_lengths (d : Bytes) (l : List (Option (List Cell))) (h : d.length = 16384) (k : l.length = 65536) :
    Instr.wf (.wireRxFrame 0 { data := d }) = false ∧ Instr.wf (.watchRxFrame 0 { data := d }) = false ∧
    Instr.wf (.bistDone l) = false := by
  refine ⟨?_, ?_, ?_⟩
  · show (decide (0 < 4) && decide (d.length < 16384)) = false
    simp [h]
  · show (decide (0 < 4) && decide (d.length < 16384)) = false
    simp [h]
  · show decide (l.length < 65536) = false
    simp [k]

/-! ## Single commands -/

/-- The running thread holds a frame of `len` bytes, and its r1 holds an address. -/
def at_ (a len : Nat) : State :=
  thr (fun x => { x with regs := x.regs.set 1 (BitVec.ofNat 32 a), hold := .inq fr })
    fun s => setBuf 0 { buf0 with data := zeros len } s

/-- The same at the frame window, with the descriptor of a frame of 512 bytes at handle `h`, and an epoch. -/
def win (h ep : Nat) : State :=
  setThr 0 0 (fun x => { x with hold := .inq { fr with h := h }, desc := overlay x.desc 12 (toLe 2 512), epoch := ep }) (at_ 0x50000 512)

/-- The state that a command leaves. -/
def after (c : Instr) (s : State) : State :=
  match exec c s with
  | .next t => t
  | _ => s

/-- The running thread with w1 = `a` and w2 = `b`. -/
def with2 (a b : Word) : State := thr fun x => { x with regs := (x.regs.set 1 a).set 2 b }

/-- What a command of the thread leaves in w3. -/
def w3 (c : Instr) (s : State) : Word := wreg (after c s) 0 0 3

/-- The data of the answer at the register port. -/
def answered (c : Instr) (s : State) : Nat × Nat := ((after c s).reg.rdata, (after c s).reg.resp)
set_option maxRecDepth 100000 in
theorem test_plus_wraps :
    w3 (.plus 0 0 3 1 (.reg 2)) (with2 0xFFFFFFFF 2) = 1 := by decide

set_option maxRecDepth 100000 in
theorem test_minus_imm :
    w3 (.minus 0 0 3 1 (.imm (-1))) (with2 5 0) = 6 := by decide

set_option maxRecDepth 100000 in
theorem test_w0_is_writable :
    wreg (after (.plus 0 0 0 1 (.imm 1)) (with2 5 0)) 0 0 0 = 6 := by decide

set_option maxRecDepth 100000 in
theorem test_cmplt_signed :
    w3 (.cmplt 0 0 3 1 (.reg 2)) (with2 0x80000000 1) = 1 ∧
    w3 (.cmpltu 0 0 3 1 (.reg 2)) (with2 0x80000000 1) = 0 := by decide

set_option maxRecDepth 100000 in
theorem test_shra :
    w3 (.shra 0 0 3 1 (.imm 31)) (with2 0x80000000 0) = 0xFFFFFFFF ∧
    w3 (.shr 0 0 3 1 (.imm 31)) (with2 0x80000000 0) = 1 := by decide

set_option maxRecDepth 100000 in
theorem test_immh_clears :
    w3 (.immh 0 0 1 0x8001) (with2 0xFFFFFFFF 0) = 0 ∧
    wreg (after (.immh 0 0 1 0x8001) (with2 0xFFFFFFFF 0)) 0 0 1 = 0x80010000 := by decide

set_option maxRecDepth 100000 in
theorem test_imml_ors :
    wreg (after (.imml 0 0 1 0xFFFF) (with2 0x80010000 0)) 0 0 1 = 0x8001FFFF := by decide

set_option maxRecDepth 100000 in
theorem test_mpy_halves :
    w3 (.mpy 0 0 3 1 2) (with2 0xFFFFFFFF 2) = 0xFFFFFFFE ∧
    w3 (.mpyhs 0 0 3 1 2) (with2 0xFFFFFFFF 2) = 0xFFFFFFFF ∧
    w3 (.mpyhu 0 0 3 1 2) (with2 0xFFFFFFFF 2) = 1 := by decide

set_option maxRecDepth 100000 in
theorem test_ld8s_st8 :
    w3 (.ld8s 0 0 3 1 0) (after (.st8 0 0 2 1 0) (with2 0x10003 0x1FF)) = 0xFFFFFFFF ∧
    w3 (.ld8 0 0 3 1 0) (after (.st8 0 0 2 1 0) (with2 0x10003 0x1FF)) = 0xFF := by decide

set_option maxRecDepth 100000 in
theorem test_st32_little_endian :
    w3 (.ld8 0 0 3 1 1) (after (.st32 0 0 2 1 0) (with2 0x10000 0x11223344)) = 0x33 := by decide

set_option maxRecDepth 100000 in
theorem test_fld16_network_order :
    w3 (.fld16 0 0 3 1 12) (setBuf 0 { buf0 with data := overlay (zeros 64) 12 [8#8, 6] } (at_ 0x50000 64)) = 0x0806 := by decide

set_option maxRecDepth 100000 in
theorem test_misaligned_ends_thread :
    (getThr (after (.ld32 0 0 3 1 2) (at_ 0x10000 64)) 0 0).busy = false := by decide

set_option maxRecDepth 100000 in
theorem test_jlt_taken :
    (getThr (after (.jlt 0 0 1 2 (-2)) (setThr 0 0 (fun x => { x with pc := 100 }) (with2 0xFFFFFFFF 0))) 0 0).pc = 92 ∧
    (getThr (after (.jltu 0 0 1 2 (-2)) (setThr 0 0 (fun x => { x with pc := 100 }) (with2 0xFFFFFFFF 0))) 0 0).pc = 104 := by decide

set_option maxRecDepth 100000 in
theorem test_call_links :
    wreg (after (.call 0 0 3) (setThr 0 0 (fun x => { x with pc := 100 }) (with2 0 0))) 0 0 31 = 104 ∧
    (getThr (after (.call 0 0 3) (setThr 0 0 (fun x => { x with pc := 100 }) (with2 0 0))) 0 0).pc = 112 := by decide

set_option maxRecDepth 100000 in
theorem test_bxt :
    w3 (.bxt 0 0 3 1 8 16) (with2 0x12345678 0) = 0x3456 := by decide

set_option maxRecDepth 100000 in
theorem test_bins :
    w3 (.bins 0 0 3 1 8 4) (thr fun x => { x with regs := (x.regs.set 1 5).set 3 0xFFFFFFFF }) = 0xFFFFF5FF := by decide

set_option maxRecDepth 100000 in
theorem test_brev8 :
    w3 (.brev8 0 0 3 1) (with2 0x12345678 0) = 0x78563412 := by decide

set_option maxRecDepth 100000 in
theorem test_ocadd_end_around :
    (getThr (after (.ocadd 0 0 1) (setThr 0 0 (fun x => { x with csum := 0xFFFF }) (with2 0x00010000 0))) 0 0).csum = 1 := by decide

set_option maxRecDepth 100000 in
theorem test_csr_time_hi_read_only :
    (getThr (after (.cwr 0 0 1 .engineId) (with2 0 0)) 0 0).busy = false := by decide

set_option maxRecDepth 100000 in
theorem test_crc32_check_value :
    crcOf 0 [0x31#8, 0x32, 0x33, 0x34, 0x35, 0x36, 0x37, 0x38, 0x39] = 0xCBF43926 := by decide

set_option maxRecDepth 100000 in
theorem test_crc32c_check_value :
    crcOf 1 [0x31#8, 0x32, 0x33, 0x34, 0x35, 0x36, 0x37, 0x38, 0x39] = 0xE3069283 := by decide

set_option maxRecDepth 100000 in
theorem test_crc16_check_value :
    crcOf 2 [0x31#8, 0x32, 0x33, 0x34, 0x35, 0x36, 0x37, 0x38, 0x39] = 0x29B1 := by decide

set_option maxRecDepth 100000 in
theorem test_ip_version :
    answered (.rcRead 0) up = (0x00030200, 0) := by decide

set_option maxRecDepth 100000 in
theorem test_misaligned_read_is_counted :
    answered (.rcRead 2) up = (0, 0) ∧
    (after (.rcRead 2) up).sys.decodeErr = 1 := by decide

set_option maxRecDepth 100000 in
theorem test_bist_column :
    bistAllocate 0 0 [(0, 7), (1, 7), (2, 7)] = (1, [(7, 0)], []) := by decide

set_option maxRecDepth 100000 in
theorem test_bist_row :
    bistAllocate 0 0 [(5, 7), (5, 8)] = (1, [], [(5, 0)]) := by decide

set_option maxRecDepth 100000 in
theorem test_bist_too_many :
    (bistAllocate 0 0 [(0, 1), (2, 3), (4, 5), (6, 7), (8, 9)]).1 = 2 := by decide

set_option maxRecDepth 100000 in
theorem test_bist_failing_spare :
    (bistAllocate 0 0 [(0, 7), (1, 7), (2, 7), (9, 576), (9, 577)]).1 = 2 := by decide

set_option maxRecDepth 100000 in
theorem test_bist_pass :
    bistAllocate 0 0 [] = (0, [], []) := by decide

set_option maxRecDepth 100000 in
theorem test_pool_edges :
    poolFor 184 = some 0 ∧
    poolFor 185 = some 1 ∧
    poolFor 10237 = none := by decide

set_option maxRecDepth 100000 in
theorem test_tick_one_ns :
    nowNs (tick up) = nowNs up + 1 := by decide

set_option maxRecDepth 100000 in
theorem test_ack_without_req :
    (after (.pwrAckChange 23 true) up).pwr.hsErrors = 1 := by decide

set_option maxRecDepth 100000 in
theorem test_doorbell_takes_the_mailbox :
    (getMb (after (.mbDoorbell 15 7) up) 15).busy = true ∧
    (after (.mbDoorbell 15 7) up).gv.queue = [15] := by decide

set_option maxRecDepth 100000 in
theorem test_trigger_bad_time :
    (getTrg (after (.trgArm 31 1) (setTrg 31 (fun x => { x with rNs := 1000000000 }) up)) 31).mode = .idle := by decide

set_option maxRecDepth 100000 in
theorem test_trigger_arm :
    (getTrg (after (.trgArm 31 1) (setTrg 31 (fun x => { x with rNs := 999999999 }) up)) 31).mode = .armed := by decide

set_option maxRecDepth 100000 in
theorem test_los_clears_lock :
    (getLane (after (.losAssert 3) (lane3 fun l => { l with los := false, cdr := true, rxReady := true })) 3).rxReady = false := by decide

set_option maxRecDepth 100000 in
theorem test_wake_pattern_mask :
    patHit (up.updPwr fun p => { p with pats := [(2, { ports := 2, value := zeros 64, mask := zeros 64 })] }) 0 (zeros 64) = none := by decide

/-! ## Witnesses of the hypotheses of the statements -/

set_option maxRecDepth 100000 in
theorem test_witness_LoadAndStoreRows :
    (canRun (at_ 0x10002 0) 0 0 = true ∧ memAddr (at_ 0x10002 0) 0 0 1 0 % 4 ≠ 0) ∧
    (memAddr (at_ 0x30000 0) 0 0 1 0 % 4 = 0 ∧ areaOf (memAddr (at_ 0x30000 0) 0 0 1 0) = none) ∧
    (areaOf (memAddr (win 0 0) 0 0 1 252) = some (.window, 252)) ∧
    (areaOf (memAddr (win 0 0) 0 0 1 512) = some (.window, 512) ∧ windowLen (win 0 0) 0 0 ≤ 512) ∧
    (areaOf (memAddr (win 0 1) 0 0 1 256) = some (.window, 256) ∧ 256 < windowLen (win 0 1) 0 0 ∧ fenced (win 0 1) 0 0 = true) ∧
    (areaOf (memAddr (win 0x20000000 0) 0 0 1 256) = some (.window, 256) ∧ 256 < windowLen (win 0x20000000 0) 0 0 ∧
      fenced (win 0x20000000 0) 0 0 = false ∧ ((heldFrame (win 0x20000000 0) 0 0).map fun f => hPool f.h) = some 1 ∧
      64 + (256 + 4) ≤ bufSize 1 - 8) ∧
    (areaOf (memAddr (win 0 0) 0 0 1 256) = some (.window, 256) ∧ 256 < windowLen (win 0 0) 0 0 ∧ fenced (win 0 0) 0 0 = false ∧
      ((heldFrame (win 0 0) 0 0).map fun f => hPool f.h) = some 0 ∧ bufSize 0 - 8 < 64 + (256 + 4)) ∧
    (canRun (win 0 1) 0 0 = true ∧ canRun (win 0x20000000 0) 0 0 = true) ∧
    (areaOf (memAddr (at_ 0 0) 0 0 1 0xFFFC) = some (.imem, 0xFFFC)) ∧
    (areaOf (memAddr (at_ 0x10000 0) 0 0 1 0x1FFFC) = some (.dmem, 0x1FFFC)) ∧
    (areaOf (memAddr (at_ 0x40000 0) 0 0 1 192) = some (.desc, 192)) ∧
    (areaOf (memAddr (at_ 0x40000 0) 0 0 1 224) = some (.desc, 224)) ∧
    (areaOf (memAddr (at_ 0x40100 0) 0 0 1 252) = some (.shadow, 252)) := by
  refine ⟨?_, ?_, ?_, ?_, ?_, ?_, ?_, ?_, ?_, ?_, ?_, ?_⟩ <;> decide

theorem test_witness_IntegerRowsLeaveTheRest :
    (∃ u, exec (.plus 0 0 3 0 (.imm 7)) (thr id) = .next u) ∧ (0, 1) ≠ (0, 0) ∧ (4 : Reg) ≠ 3 ∧
    (getPmu (thr id) 8).run = false :=
  ⟨⟨_, rfl⟩, by decide, by decide, rfl⟩

/-- Onyx has a deletion of a rule in hand, staged into group `g`; a group 5 with `cmds` is open. -/
def staging (g : Nat) (pl : Bytes) (cmds : List Cmd) : State :=
  up.updGv fun v => { v with groups := [{ id := 5, mb := 0, agent := 0, cmds := cmds }]
                             taken := some { mb := 0, hdr := hdrOf 0x0505 0 8 0 1 g 0, payload := pl } }

set_option maxRecDepth 100000 in
theorem test_witness_StagedRows :
    (0x0505, Instr.clsRuleDelete) ∈ stagedRows ∧
    (∃ q, takenFor 0x0505 (staging 0 (zeros 8) []) = some q ∧ turnedAway q (staging 0 (zeros 8) []) = false ∧ rqGroup q.hdr = 0 ∧
      stageJudge (staging 0 (zeros 8) []) 0 0x0505 q.payload = none ∧ commitWaits (staging 0 (zeros 8) []) = false) ∧
    (∃ r, stageJudge (staging 0 [15#8] []) 0 0x0505 [15#8] = some r) ∧
    (∃ q, takenFor 0x0505 (staging 4 (zeros 8) []) = some q ∧ rqGroup q.hdr ≠ 0 ∧ findGroup (rqGroup q.hdr) q.mb (staging 4 (zeros 8) []) = none) ∧
    (∃ q g, takenFor 0x0505 (staging 5 (zeros 8) []) = some q ∧ rqGroup q.hdr ≠ 0 ∧
      findGroup (rqGroup q.hdr) q.mb (staging 5 (zeros 8) []) = some g ∧
      stageJudge (staging 5 (zeros 8) []) 0 0x0505 q.payload = none ∧ g.cmds.length < 4096 ∧
      (g.cmds.map (·.payload.length)).sum + q.payload.length ≤ 2 * 1024 * 1024) := by
  refine ⟨by decide, ⟨_, rfl, by decide, by decide, by decide, by decide⟩, ⟨_, rfl⟩, ⟨_, rfl, by decide, by decide⟩,
    ⟨_, _, rfl, by decide, rfl, by decide, by decide, by decide⟩⟩

/-- A full group is found too. -/
theorem test_witness_StagedRowsFull (l : List Cmd) (h : l.length = 4096) :
    ∃ g, findGroup 5 0 (staging 5 (zeros 8) l) = some g ∧ 4096 ≤ g.cmds.length :=
  ⟨_, rfl, by simp [h]⟩

theorem test_witness_FullList : (List.replicate 4096 (⟨0x0505, zeros 8, 0⟩ : Cmd)).length = 4096 := List.length_replicate

theorem test_witness_EveryStepKeepsTheInvariant :
    Inv State.reset ∧ ∃ t, step { State.reset with pending := [.sysIdentify] } = .next t := by
  refine ⟨⟨⟨⟨List.nodup_nil, ?_, ?_⟩, ⟨List.nodup_nil, ?_, ?_⟩, ?_⟩, ?_, ?_⟩, ⟨_, rfl⟩⟩
  all_goals first | (intro x h; cases h) | exact Nat.zero_le _

theorem test_witness_OutstandingTransactions :
    ∃ t, core.run 1 { State.reset with pending := [.registerWrite 0 0 15] } = .next t := ⟨_, rfl⟩

set_option maxRecDepth 100000 in
theorem test_witness_WakePatterns :
    (∃ p, (State.reset.updPwr fun p => { p with pats := [(15, {})] }).pwr.pats.get? 15 = some p ∧ p.ports = 0) ∧
    patHit (State.reset.updPwr fun p => { p with pats := p.pats.set 3 { ports := 1, mask := zeros 64, value := zeros 64 } }) 0 (zeros 64) = some 3 :=
  ⟨⟨_, rfl, rfl⟩, by decide⟩

set_option maxRecDepth 100000 in
theorem test_witness_StepRunsTheFrontCommand :
    (let s : State := up
    s.pending = []) := by
  decide

set_option maxRecDepth 100000 in
theorem test_witness_VersionRegister :
    (let s : State := up
    Serving s) := by
  decide

set_option maxRecDepth 100000 in
theorem test_witness_ConfigRegister :
    (let s : State := up
    Serving s) ∧
    (let s : State := up
    Serving s ∧ s.build = .bm512) ∧
    (let s : State := { up with build := .bm256 }
    Serving s ∧ s.build = .bm256) ∧
    (let s : State := { up with build := .bm128 }
    Serving s ∧ s.build = .bm128) := by
  refine ⟨?_, ?_, ?_, ?_⟩ <;> decide

set_option maxRecDepth 100000 in
theorem test_witness_AllocationsAreNumbered :
    (let s : State := up
    let t : State := (allocBuf 3 up).2
    let p : Nat := 3
    let h : Nat := ((allocBuf 3 up).1.getD 9)
    allocBuf p s = (some h, t)) ∧
    (let s : State := (up.updStore fun t => { t with banks := List.replicate 32 4 })
    let t : State := (allocBuf 3 s).2
    let p : Nat := 3
    allocBuf p s = (none, t)) := by
  refine ⟨Prod.ext (by decide) rfl, Prod.ext (by decide) rfl⟩

set_option maxRecDepth 100000 in
theorem test_witness_SmallestPool :
    (poolFor 10236 = some 3) := by
  decide

set_option maxRecDepth 100000 in
theorem test_witness_GroupsBelongToTheirMailbox :
    (let s : State := ((fun (s : State) => s.updGv fun g => { g with groups := [{ id := 5, mb := 0, agent := 0, cmds := [] }] }) up).updGv fun g => { g with taken := some { mb := 3, hdr := hdrOf 0x0201 0 0 0 1 5 0, payload := zeros 4 } }
    let q : Req := ({ mb := 3, hdr := hdrOf 0x0201 0 0 0 1 5 0, payload := zeros 4 } : Req)
    let p := (0x0201, Instr.portStage 0)
    p ∈ stagedRows ∧ takenFor p.1 s = some q ∧ turnedAway q s = false ∧ rqGroup q.hdr ≠ 0 ∧
    (∀ g ∈ s.gv.groups, g.id = rqGroup q.hdr → g.mb ≠ q.mb)) ∧
    (let s : State := ((fun (s : State) => s.updGv fun g => { g with groups := [{ id := 5, mb := 0, agent := 0, cmds := [] }] }) up).updGv fun g => { g with taken := some { mb := 3, hdr := hdrOf 0x0201 0 0 0 1 5 0, payload := zeros 4 } }
    let q : Req := ({ mb := 3, hdr := hdrOf 0x0201 0 0 0 1 5 0, payload := zeros 4 } : Req)
    let a := 3
    let p := (0x0201, Instr.portStage 3)
    p ∈ [(0x0201, Instr.portStage a), (0x0301, .lnStage a)] ∧ takenFor p.1 s = some q ∧ turnedAway q s = false ∧ rqGroup q.hdr ≠ 0 ∧
    (∀ g ∈ s.gv.groups, g.id = rqGroup q.hdr → g.mb ≠ q.mb)) ∧
    (let s : State := ((fun (s : State) => s.updGv fun g => { g with groups := [{ id := 5, mb := 0, agent := 0, cmds := [] }] }) up).updGv fun g => { g with taken := some { mb := 3, hdr := hdrOf 0x0103 0 0 0 1 0 0, payload := toLe 4 5 ++ zeros 4 } }
    let q : Req := ({ mb := 3, hdr := hdrOf 0x0103 0 0 0 1 0 0, payload := toLe 4 5 ++ zeros 4 } : Req)
    InHand 0x0103 q s ∧ (∀ g ∈ s.gv.groups, g.id = u32 q.payload 0 → g.mb ≠ q.mb)) ∧
    (let s : State := ((fun (s : State) => s.updGv fun g => { g with groups := [{ id := 5, mb := 0, agent := 0, cmds := [] }] }) up).updGv fun g => { g with taken := some { mb := 3, hdr := hdrOf 0x0104 0 0 0 1 0 0, payload := zeros 4 ++ toLe 4 5 } }
    let q : Req := ({ mb := 3, hdr := hdrOf 0x0104 0 0 0 1 0 0, payload := zeros 4 ++ toLe 4 5 } : Req)
    InHand 0x0104 q s ∧ u8 q.payload 0 = 0 ∧ q.mb ≠ 0 ∧ (∀ g ∈ s.gv.groups, g.id = u32 q.payload 4 → g.mb ≠ q.mb)) ∧
    (let s : State := ((fun (s : State) => s.updGv fun g => { g with groups := [{ id := 5, mb := 0, agent := 0, cmds := [] }] }) up).updGv fun g => { g with taken := some { mb := 0, hdr := hdrOf 0x0104 0 0 0 1 0 0, payload := zeros 4 ++ toLe 4 5 } }
    let q : Req := ({ mb := 0, hdr := hdrOf 0x0104 0 0 0 1 0 0, payload := zeros 4 ++ toLe 4 5 } : Req)
    InHand 0x0104 q s ∧ u8 q.payload 0 = 0 ∧ q.mb = 0 ∧ (∃ g ∈ s.gv.groups, g.id = u32 q.payload 4)) ∧
    (let s : State := ((fun (s : State) => s.updGv fun g => { g with groups := [{ id := 5, mb := 0, agent := 0, cmds := [] }] }) up).updGv fun g => { g with taken := some { mb := 3, hdr := hdrOf 0x0E01 0 0 0 1 0 0, payload := [3#8, 0, 0, 0] ++ toLe 4 5 ++ zeros 16 } }
    let q : Req := ({ mb := 3, hdr := hdrOf 0x0E01 0 0 0 1 0 0, payload := [3#8, 0, 0, 0] ++ toLe 4 5 ++ zeros 16 } : Req)
    InHand 0x0E01 q s ∧ u8 q.payload 0 = 3 ∧ u64 q.payload 8 % 64 = 0 ∧ (∀ g ∈ s.gv.groups, g.id = u32 q.payload 4 → g.mb ≠ q.mb)) := by
  refine ⟨?_, ?_, ?_, ?_, ?_, ?_⟩ <;> decide

set_option maxRecDepth 100000 in
theorem test_witness_HandshakeErrors :
    (let s : State := up
    let k : Nat := 23
    let b : Bool := true
    k < 24 ∧ s.pwr.ack.testBit k ≠ b ∧ s.pwr.req.testBit k ≠ b) ∧
    (let s : State := up
    let k : Nat := 3
    let b : Bool := true
    k < 4 ∧ s.pwr.retAck.testBit k ≠ b ∧ s.pwr.retReq.testBit k ≠ b) ∧
    (let s : State := up.updPwr fun p => { p with clkAck := false, clkReq := false }
    s.pwr.clkAck = false ∧ s.pwr.clkReq = false) ∧
    (let s : State := up
    s.pwr.clkAck = true ∧ s.pwr.clkReq = true) := by
  refine ⟨?_, ?_, ?_, ?_⟩ <;> decide

set_option maxRecDepth 100000 in
theorem test_witness_ShapersAccrueExactly :
    (let x : Shaper := ({ rate := 1000, burst := 100, credit := -1, rest := 7999999 } : Shaper)
    let n : Nat := 3
    x.rate ≠ 0 ∧ x.rest < 8000000 ∧ 8000000 * x.credit + x.rest + n * x.rate * 65536 < 8000000 * (x.burst * 65536)) := by
  decide

set_option maxRecDepth 100000 in
theorem test_witness_IntegerRows :
    (let s : State := thr id
    let e : Nat := 0
    let t : Nat := 0
    canRun s e t = true) ∧
    (let s : State := thr id
    let e : Nat := 0
    let t : Nat := 0
    let b : Src := .imm 31
    let n := (srcVal s e t b).toNat
    canRun s e t = true ∧ n < 32) ∧
    (let s : State := thr id
    let e : Nat := 0
    let t : Nat := 0
    let b : Src := .imm 32
    let n := (srcVal s e t b).toNat
    canRun s e t = true ∧ 32 ≤ n) := by
  refine ⟨?_, ?_, ?_⟩ <;> decide

set_option maxRecDepth 100000 in
theorem test_witness_JumpRows :
    (let s : State := thr id
    let e : Nat := 0
    let t : Nat := 0
    canRun s e t = true) := by
  decide

set_option maxRecDepth 100000 in
theorem test_witness_FieldRows :
    (let s : State := thr id
    let e : Nat := 0
    let t : Nat := 0
    let pos : Nat := 31
    let width : Nat := 1
    canRun s e t = true ∧ 1 ≤ width ∧ pos + width ≤ 32) ∧
    (let s : State := thr id
    let e : Nat := 0
    let t : Nat := 0
    let pos : Nat := 31
    let width : Nat := 2
    canRun s e t = true ∧ (width = 0 ∨ 32 < pos + width)) ∧
    (let s : State := thr id
    let e : Nat := 0
    let t : Nat := 0
    canRun s e t = true) := by
  refine ⟨?_, ?_, ?_⟩ <;> decide

set_option maxRecDepth 100000 in
theorem test_witness_ControlRegisterRows :
    (let s : State := thr id
    let e : Nat := 0
    let t : Nat := 0
    let c := Csr.hdrNew
    canRun s e t = true ∧ c ≠ .timeLo) ∧
    (let s : State := thr id
    let e : Nat := 0
    let t : Nat := 0
    canRun s e t = true) ∧
    (let s : State := thr id
    let e : Nat := 0
    let t : Nat := 0
    let r : Reg := 0
    let x := getThr s e t
    let v := (wreg s e t r).toNat
    let c := Csr.hdrNew
    let y := (getThr s 0 0)
    canRun s e t = true ∧ csrWrite x c v = some y) ∧
    (let s : State := thr (fun x => { x with regs := x.regs.set 5 257#32 })
    let e : Nat := 0
    let t : Nat := 0
    let r : Reg := 5
    let x := getThr s e t
    let v := (wreg s e t r).toNat
    let c := Csr.hdrNew
    canRun s e t = true ∧ csrWrite x c v = none) := by
  refine ⟨?_, ?_, ?_, ?_⟩ <;> decide

set_option maxRecDepth 100000 in
theorem test_witness_HostAccessAndWaitRows :
    (let s : State := thr id (fun s => s.updHost fun h => { h with windows := [(0, { base := 0, size := 8192, set := true })], flow := { base := 0x100000, size := 0x100000, set := true } })
    let e : Nat := 0
    let t : Nat := 0
    let a : Nat := 0
    let d : Nat := 0x10000
    let n : Nat := 4096
    canRun s e t = true ∧ fenced s e t = false ∧ 1 ≤ n ∧ n ≤ 4096 ∧ inDmem d n = true ∧ inWindow s a n = true ∧
    s.host.flow.covers a n = false) ∧
    (let s : State := thr id (fun s => s.updHost fun h => { h with windows := [(0, { base := 0, size := 8192, set := true })], flow := { base := 0x100000, size := 0x100000, set := true } })
    let e : Nat := 0
    let t : Nat := 0
    let a : Nat := 0x100000
    let d : Nat := 0x10000
    let n : Nat := 32
    canRun s e t = true ∧ fenced s e t = false ∧ 1 ≤ n ∧ n ≤ 4096 ∧ inDmem d n = true ∧ s.host.flow.covers a n = true) ∧
    (let s : State := thr id (fun s => s.updHost fun h => { h with windows := [(0, { base := 0, size := 8192, set := true })], flow := { base := 0x100000, size := 0x100000, set := true } })
    let e : Nat := 0
    let t : Nat := 0
    let n : Nat := 4097
    canRun s e t = true ∧ fenced s e t = false ∧ (n = 0 ∨ 4096 < n)) ∧
    (let s : State := thr id (fun s => s.updHost fun h => { h with windows := [(0, { base := 0, size := 8192, set := true })], flow := { base := 0x100000, size := 0x100000, set := true } })
    let e : Nat := 0
    let t : Nat := 0
    let d : Nat := 0x2FFFF
    let n : Nat := 2
    canRun s e t = true ∧ fenced s e t = false ∧ 1 ≤ n ∧ n ≤ 4096 ∧ inDmem d n = false) ∧
    (let s : State := thr id (fun s => s.updHost fun h => { h with windows := [(0, { base := 0, size := 8192, set := true })], flow := { base := 0x100000, size := 0x100000, set := true } })
    let e : Nat := 0
    let t : Nat := 0
    let a : Nat := 8191
    let d : Nat := 0x10000
    let n : Nat := 2
    canRun s e t = true ∧ fenced s e t = false ∧ 1 ≤ n ∧ n ≤ 4096 ∧ inDmem d n = true ∧ inWindow s a n = false ∧
    s.host.flow.covers a n = false) ∧
    (let s : State := thr (fun x => { x with park := .host 0x10000 }) (fun s => s.updHost fun h => { h with xfers := [{ id := 0, purp := .thread 0 0, write := false, sid := 0, addr := 0, len := 1, data := [7#8], todo := [] }] })
    let e : Nat := 0
    let t : Nat := 0
    let x := ({ id := 0, purp := .thread 0 0, write := false, sid := 0, addr := 0, len := 1, data := [7#8], todo := [] } : Xfer)
    let d := 0x10000
    coreOff s = false ∧ doneXfer s (· = .thread e t) = some x ∧ (getThr s e t).park = .host d) ∧
    (let s : State := thr (fun x => { x with park := .host 0x10000 }) (fun s => s.updHost fun h => { h with xfers := [{ id := 0, purp := .thread 0 0, write := false, sid := 0, addr := 0, len := 1, data := [7#8], todo := [] }] })
    let e : Nat := 0
    let t : Nat := 0
    let x := ({ id := 0, purp := .thread 0 0, write := false, sid := 0, addr := 0, len := 1, data := [7#8], todo := [] } : Xfer)
    let d := 0x10000
    coreOff s = false ∧ doneXfer s (· = .thread e t) = some x ∧ (getThr s e t).park = .host d ∧ (getThr s e t).base = .none) ∧
    (let s : State := thr id
    let e : Nat := 0
    let t : Nat := 0
    coreOff s = false ∧ canRun s e t = true) ∧
    (let s : State := thr (fun x => { x with park := .wait 9 })
    let e : Nat := 0
    let t : Nat := 0
    let n := 9
    coreOff s = false ∧ (getThr s e t).park = .wait n) ∧
    (let s : State := thr (fun x => { x with hold := .inq fr, park := .window 3 4 256 }) (fun s => fetching (.thread 0 0) (stored s))
    let e : Nat := 0
    let t : Nat := 0
    let rd := 3
    let n := 4
    let off := 256
    let h := ((heldFrame s e t).map (·.h)).getD 0
    coreOff s = false ∧ (getThr s e t).park = .window rd n off ∧ reading s (.thread e t) h = true) ∧
    (let s : State := thr (fun x => { x with hold := .inq fr, park := .window 3 4 256 }) (fun s => id (stored s))
    let e : Nat := 0
    let t : Nat := 0
    let rd := 3
    let n := 4
    let off := 256
    let h := ((heldFrame s e t).map (·.h)).getD 0
    let r := readOf s (.thread e t) h
    coreOff s = false ∧ (getThr s e t).park = .window rd n off ∧ reading s (.thread e t) h = false ∧ windowLost s h r = false) ∧
    (let s : State := thr (fun x => { x with hold := .inq fr, park := .window 3 4 256 }) (fun s => id (stored s))
    let e : Nat := 0
    let t : Nat := 0
    let rd := 3
    let n := 4
    let off := 256
    let h := ((heldFrame s e t).map (·.h)).getD 0
    let r := readOf s (.thread e t) h
    let k := true
    coreOff s = false ∧ (getThr s e t).park = .window rd n off ∧ reading s (.thread e t) h = false ∧ (k || windowLost s h r) = true) := by
  refine ⟨?_, ?_, ?_, ?_, ?_, ?_, ?_, ?_, ?_, ?_, ?_, ?_⟩ <;> decide

set_option maxRecDepth 100000 in
theorem test_witness_SendAndDoneRows :
    (let s : State := thr id
    let e : Nat := 0
    let t : Nat := 0
    let len : Nat := 13
    let tail : Option Nat := (none : Option Nat)
    canRun s e t = true ∧ fenced s e t = false ∧ badSend s e t len tail = true) ∧
    (let s : State := thr (fun x => { x with hold := .slot 0 }) (slot0 (.held 0 0) { fr with staged := List.replicate 4 { port := 0, data := [] } })
    let e : Nat := 0
    let t : Nat := 0
    let len : Nat := 14
    let tail : Option Nat := (none : Option Nat)
    canRun s e t = true ∧ fenced s e t = false ∧ badSend s e t len tail = false ∧ 4 ≤ stagedCount s e t) ∧
    (let s : State := thr id
    let e : Nat := 0
    let t : Nat := 0
    let src : Nat := 0x2FFF8
    let len : Nat := 14
    let tail : Option Nat := (none : Option Nat)
    canRun s e t = true ∧ fenced s e t = false ∧ badSend s e t len tail = false ∧ stagedCount s e t < 4 ∧ inDmem src len = false) ∧
    (let s : State := thr (fun x => { x with hold := .inq fr, desc := x.desc.set 12 64#8 }) (fun s => fetching (.thread 0 0) (stored s))
    let e : Nat := 0
    let t : Nat := 0
    let src : Nat := 0x10000
    let len : Nat := 14
    let tail : Option Nat := (some 0 : Option Nat)
    let o := 0
    let f := fr
    let u := s
    canRun s e t = true ∧ fenced s e t = false ∧ badSend s e t len tail = false ∧ stagedCount s e t < 4 ∧ inDmem src len = true ∧
    tail = some o ∧ heldFrame s e t = some f ∧ fetchBuf (.thread e t) f.h s = (none, u)) ∧
    (let s : State := (thr id).updSys (fun y => { y with phase := 1 })
    let e : Nat := 0
    let t : Nat := 0
    let src : Nat := 0x10000
    let len : Nat := 14
    let tail : Option Nat := (none : Option Nat)
    let m := Mem.rdN (getEng s e).dmem (src - 0x10000) len
    let d := (m : Bytes)
    let v := s
    let p := 0
    canRun s e t = true ∧ fenced s e t = false ∧ badSend s e t len tail = false ∧ stagedCount s e t < 4 ∧ inDmem src len = true ∧
    tail = none ∧ d = m ∧ v = s ∧ poolFor d.length = some p ∧ v.sys.phase ≠ 2) ∧
    (let s : State := thr id
    let e : Nat := 0
    let t : Nat := 0
    let src : Nat := 0x10000
    let len : Nat := 14
    let tail : Option Nat := (none : Option Nat)
    let m := Mem.rdN (getEng s e).dmem (src - 0x10000) len
    let d := (m : Bytes)
    let v := s
    let p := 0
    let h := ((allocBuf p s).1.getD 9)
    let u := (allocBuf p s).2
    canRun s e t = true ∧ fenced s e t = false ∧ badSend s e t len tail = false ∧ stagedCount s e t < 4 ∧ inDmem src len = true ∧
    tail = none ∧ d = m ∧ v = s ∧ poolFor d.length = some p ∧ v.sys.phase = 2 ∧ allocBuf p v = (some h, u)) ∧
    (let s : State := thr id (fun s => s.updStore fun t => { t with banks := List.replicate 32 4 })
    let e : Nat := 0
    let t : Nat := 0
    let src : Nat := 0x10000
    let len : Nat := 14
    let tail : Option Nat := (none : Option Nat)
    let m := Mem.rdN (getEng s e).dmem (src - 0x10000) len
    let d := (m : Bytes)
    let v := s
    let p := 0
    let u := (allocBuf p s).2
    canRun s e t = true ∧ fenced s e t = false ∧ badSend s e t len tail = false ∧ stagedCount s e t < 4 ∧ inDmem src len = true ∧
    tail = none ∧ d = m ∧ v = s ∧ poolFor d.length = some p ∧ v.sys.phase = 2 ∧ allocBuf p v = (none, u)) ∧
    (let s : State := thr (fun x => { x with hold := .slot 0 }) (fun s => slot0 (.held 0 0) fr (stored s))
    let e : Nat := 0
    let t : Nat := 0
    let f : PFrame := fr
    let fw : Bool := true
    let x := getThr s e t
    let c := cBadResult
    canRun s e t = true ∧ fenced s e t = false ∧ heldFrame s e t = some f ∧ ((x.base = .none ∧
    fw = true) ∨ x.base = .ended .forward) ∧ doneRefused s x f = some c) ∧
    (let s : State := thr (fun x => { x with hold := .slot 0, desc := x.desc.set 200 1#8 }) (fun s => slot0 (.held 0 0) fr (stored s))
    let e : Nat := 0
    let t : Nat := 0
    let f : PFrame := fr
    let fw : Bool := true
    let x := getThr s e t
    let judged := fun (v : State) => if f.policer = 0xFFFFFFFF then (true, v) else judgePolicer f.policer f.len v
    let j := judged s
    let i := 0
    canRun s e t = true ∧ fenced s e t = false ∧ heldFrame s e t = some f ∧ ((x.base = .none ∧
    fw = true) ∨ x.base = .ended .forward) ∧ doneRefused s x f = none ∧ x.hold = .slot i ∧ j.1 = true) ∧
    (let s : State := thr (fun x => { x with hold := .slot 0, hook := 1, desc := x.desc.set 200 1#8 }) (fun s => (slot0 (.held 0 0) { fr with policer := 7, hook := 1 } (stored s)).updFlow fun x => { x with policers := [(7, { mode := 1, rate := 1000, burst := 100 })] })
    let e : Nat := 0
    let t : Nat := 0
    let f : PFrame := { fr with policer := 7, hook := 1 }
    let fw : Bool := true
    let x := getThr s e t
    let judged := fun (v : State) => if f.policer = 0xFFFFFFFF then (true, v) else judgePolicer f.policer f.len v
    let j := judged s
    let i := 0
    canRun s e t = true ∧ fenced s e t = false ∧ heldFrame s e t = some f ∧ ((x.base = .none ∧
    fw = true) ∨ x.base = .ended .forward) ∧ doneRefused s x f = none ∧ x.hold = .slot i ∧ j.1 = false) ∧
    (let s : State := thr (fun x => { x with hold := .inq fr, desc := x.desc.set 200 1#8 }) (fun s => fetching (.thread 0 0) (stored s))
    let e : Nat := 0
    let t : Nat := 0
    let f : PFrame := fr
    let fw : Bool := true
    let x := getThr s e t
    let u := s
    canRun s e t = true ∧ fenced s e t = false ∧ heldFrame s e t = some f ∧ ((x.base = .none ∧
    fw = true) ∨ x.base = .ended .forward) ∧ doneRefused s x f = none ∧ x.hold = .inq f ∧ fetchBuf (.thread e t) f.h s = (none, u)) ∧
    (let s : State := thr (fun x => { x with hold := .inq fr, desc := x.desc.set 200 1#8 }) (fun s => id (stored s))
    let e : Nat := 0
    let t : Nat := 0
    let f : PFrame := fr
    let fw : Bool := true
    let x := getThr s e t
    let y := (none : Option Xfer)
    let u := (fetchBuf (.thread e t) f.h s).2
    canRun s e t = true ∧ fenced s e t = false ∧ heldFrame s e t = some f ∧ ((x.base = .none ∧
    fw = true) ∨ x.base = .ended .forward) ∧ doneRefused s x f = none ∧ x.hold = .inq f ∧ fetchBuf (.thread e t) f.h s = (some y, u)) ∧
    (let s : State := thr (fun x => { x with hold := .inq fr, desc := x.desc.set 200 1#8 }) (fun s => id (stored s))
    let e : Nat := 0
    let t : Nat := 0
    let f : PFrame := fr
    let v := s
    canRun s e t = true ∧ fenced s e t = false ∧ heldFrame s e t = some f ∧ (getThr v e t).hold = .inq f) ∧
    (let s : State := thr (fun x => { x with hold := .slot 0 }) (fun s => slot0 (.held 0 0) fr (stored s))
    let e : Nat := 0
    let t : Nat := 0
    let f : PFrame := fr
    let fw : Bool := false
    let x := getThr s e t
    let g := cEngPort
    let k := 1
    let i := 0
    canRun s e t = true ∧ fenced s e t = false ∧ heldFrame s e t = some f ∧ ((x.base = .none ∧ fw = false ∧ g = cEngPort ∧
    k = 1) ∨ x.base = .ended (.drop g k)) ∧ (f.bad || x.bad) = false ∧ x.hold = .slot i) ∧
    (let s : State := thr (fun x => { x with hold := .inq fr, base := .ended (.drop 0x60 14) }) stored
    let e : Nat := 0
    let t : Nat := 0
    let f : PFrame := fr
    let fw : Bool := true
    let x := getThr s e t
    let g := 0x60
    let k := 14
    canRun s e t = true ∧ fenced s e t = false ∧ heldFrame s e t = some f ∧ ((x.base = .none ∧ fw = false ∧ g = cEngPort ∧
    k = 1) ∨ x.base = .ended (.drop g k)) ∧ (f.bad || x.bad) = false ∧ x.hold = .inq f) ∧
    (let s : State := thr (fun x => { x with hold := .slot 0, base := .ended (.drop 0x60 14) }) (fun s => slot0 (.held 0 0) { fr with bad := true } (stored s))
    let e : Nat := 0
    let t : Nat := 0
    let f : PFrame := ({ fr with bad := true } : PFrame)
    let fw : Bool := true
    let x := getThr s e t
    let g := 0x60
    let k := 14
    let i := 0
    canRun s e t = true ∧ fenced s e t = false ∧ heldFrame s e t = some f ∧ ((x.base = .none ∧ fw = false ∧ g = cEngPort ∧
    k = 1) ∨ x.base = .ended (.drop g k)) ∧ (f.bad || x.bad) = true ∧ x.hold = .slot i) ∧
    (let s : State := thr (fun x => { x with hold := .inq { fr with bad := true }, base := .ended (.drop 0x60 14) }) stored
    let e : Nat := 0
    let t : Nat := 0
    let f : PFrame := ({ fr with bad := true } : PFrame)
    let fw : Bool := true
    let x := getThr s e t
    let g := 0x60
    let k := 14
    canRun s e t = true ∧ fenced s e t = false ∧ heldFrame s e t = some f ∧ ((x.base = .none ∧ fw = false ∧ g = cEngPort ∧
    k = 1) ∨ x.base = .ended (.drop g k)) ∧ (f.bad || x.bad) = true ∧ x.hold = .inq f) ∧
    (let s : State := thr (fun x => { x with hold := .slot 0, base := .ended (.again 6 3) }) (fun s => slot0 (.held 0 0) fr (stored s))
    let e : Nat := 0
    let t : Nat := 0
    let f : PFrame := fr
    let x := getThr s e t
    let i := 0
    let r := 6
    let h := 3
    canRun s e t = true ∧ fenced s e t = false ∧ heldFrame s e t = some f ∧ x.base = .ended (.again r h) ∧ x.hold = .slot i) ∧
    ((let s := thr (fun x => { x with hold := .inq fr, desc := x.desc.set 12 64#8 }) stored
    let u := (fetchBuf (.thread 0 0) fr.h s).2
    canRun s 0 0 = true ∧ fenced s 0 0 = false ∧ badSend s 0 0 14 (some 63) = false ∧ stagedCount s 0 0 < 4 ∧
    heldFrame s 0 0 = some fr ∧ (fetchBuf (.thread 0 0) fr.h s).1 = some none ∧ windowLost u fr.h none = false ∧
    poolFor (zeros 14 ++ (readData u fr.h none).drop 63).length = some 0)) := by
  refine ⟨?_, ?_, ?_, ⟨by decide, by decide, by decide, by decide, by decide, by decide, by decide, rfl⟩, ⟨by decide, by decide,
    by decide, by decide, by decide, rfl, rfl, rfl, by decide, by decide⟩, ⟨by decide, by decide, by decide, by decide, by decide,
    rfl, rfl, rfl, by decide, by decide, Prod.ext (by decide) rfl⟩, ⟨by decide, by decide, by decide, by decide, by decide, rfl,
    rfl, rfl, by decide, by decide, Prod.ext (by decide) rfl⟩, ?_, ?_, ?_, ⟨by decide, by decide, by decide, by decide, by decide,
    by decide, rfl⟩, ⟨by decide, by decide, by decide, by decide, by decide, by decide, rfl⟩, ?_, ?_, ?_, ?_, ?_, ?_,
    ?_⟩ <;> decide

set_option maxRecDepth 100000 in
theorem test_witness_FlowOperationRows :
    (let s : State := thr (fun x => { x with hold := .inq fr }) stored
    let e : Nat := 0
    let t : Nat := 0
    let o : Claimer := Claimer.frame 0 0
    canRun s e t = true ∧ fenced s e t = false ∧ claimerOf s e t = some o) ∧
    (let s : State := thr (fun x => { x with park := .flop, stop := false }) (fun s => s.updFlow fun f => { f with flops := [{ by_ := .thread 0 0, owner := .svc, entry := false, result := some (.granted, 5) }] })
    let e : Nat := 0
    let t : Nat := 0
    let i : Nat := 5
    let p : Flop := ({ by_ := .thread 0 0, owner := .svc, entry := false, result := some (.granted, 5) } : Flop)
    let r : FlopRes := FlopRes.granted
    coreOff s = false ∧ flopOf s (.thread e t) = some p ∧ p.result = some (r, i) ∧ (getThr s e t).park = .flop) ∧
    (let s : State := thr (fun x => { x with park := .flop, stop := false }) (fun s => s.updFlow fun f => { f with flops := [{ by_ := .thread 0 0, owner := .svc, entry := false, result := some (.granted, 5) }] })
    let e : Nat := 0
    let t : Nat := 0
    let i : Nat := 5
    let p : Flop := ({ by_ := .thread 0 0, owner := .svc, entry := false, result := some (.granted, 5) } : Flop)
    let r : FlopRes := FlopRes.granted
    coreOff s = false ∧ flopOf s (.thread e t) = some p ∧ p.result = some (r, i) ∧ (getThr s e t).park = .flop ∧
    (getThr s e t).stop = false ∧ (getThr s e t).base = .none) := by
  refine ⟨?_, ?_, ?_⟩ <;> decide

set_option maxRecDepth 100000 in
theorem test_witness_EngineEventRows :
    (let s : State := thr (fun x => { x with hold := .slot 0 })
    let e : Nat := 0
    let t : Nat := 0
    let i := 0
    coreOff s = false ∧ (getThr s e t).hold = .slot i ∧ (getThr s e t).busy = true ∧ (getThr s e t).park ≠ .flop) ∧
    (let s : State := thr (fun x => { x with hold := .slot 0, park := .flop })
    let e : Nat := 0
    let t : Nat := 0
    let i := 0
    coreOff s = false ∧ (getThr s e t).hold = .slot i ∧ (getThr s e t).busy = true ∧ (getThr s e t).park = .flop) ∧
    (let s : State := (slot0 .queued { fr with hook := 1 } (stored (thr (fun x => { x with busy := false }) (fun s => s.updEng fun g => { g with baseImg := some [] })))).updPipe fun p => { p with disp := [0] }
    let e : Nat := 0
    let t : Nat := 0
    let i := 0
    let rest := ([] : List Nat)
    let x := ({ frame := { fr with hook := 1 }, first := { fr with hook := 1 }, state := .queued } : ReEnt)
    let prog := 0
    let entry := (none : Option Nat)
    coreOff s = false ∧ s.pipe.disp = i :: rest ∧ getSlot s i = some x ∧ hookEntry s x.frame.hook = some (prog, entry) ∧
    (dispatchOrder s).findSome? (fun e => (freeThread s e).map fun t => (e, t)) = some (e, t)) ∧
    (let s : State := (slot0 .queued { fr with hook := 1 } (stored up)).updPipe fun p => { p with disp := [0] }
    let i := 0
    let rest := ([] : List Nat)
    let x := ({ frame := { fr with hook := 1 }, first := { fr with hook := 1 }, state := .queued } : ReEnt)
    coreOff s = false ∧ s.pipe.disp = i :: rest ∧ getSlot s i = some x ∧ hookEntry s x.frame.hook = none) ∧
    (let s : State := setQ (.eng 0) [{ h := 0, oseq := 0 }] (fetching (.inq 0) (stored (thr (fun x => { x with busy := false }) (fun s => setEng 0 (fun g => { g with destHook := 1 }) (s.updEng fun g => { g with baseImg := some [] })))))
    let e : Nat := 0
    let t : Nat := 0
    let q := ({ h := 0, oseq := 0 } : QE)
    let rest := ([] : List QE)
    let b := buf0
    let prog := 0
    let entry := (none : Option Nat)
    let u := s
    coreOff s = false ∧ (getEng s e).mode = .active ∧ s.pipe.disp = [] ∧ freeThread s e = some t ∧ getQ s (.eng e) = q :: rest ∧
    getBuf s q.h = some b ∧ isRetiring s (recGen b.record) = false ∧ hookEntry s (getEng s e).destHook = some (prog, entry) ∧
    fetchPinned (.inq e) q.h s = (none, u)) ∧
    (let s : State := setQ (.eng 0) [{ h := 0, oseq := 0 }] (id (stored (thr (fun x => { x with busy := false }) (fun s => setEng 0 (fun g => { g with destHook := 1 }) (s.updEng fun g => { g with baseImg := some [] })))))
    let e : Nat := 0
    let t : Nat := 0
    let q := ({ h := 0, oseq := 0 } : QE)
    let rest := ([] : List QE)
    let b := buf0
    let prog := 0
    let entry := (none : Option Nat)
    let x := (none : Option Xfer)
    let v := (fetchPinned (.inq e) q.h s).2
    let u := popInq (.eng e) v
    coreOff s = false ∧ (getEng s e).mode = .active ∧ s.pipe.disp = [] ∧ freeThread s e = some t ∧ getQ s (.eng e) = q :: rest ∧
    getBuf s q.h = some b ∧ isRetiring s (recGen b.record) = false ∧ hookEntry s (getEng s e).destHook = some (prog, entry) ∧
    fetchPinned (.inq e) q.h s = (some x, v) ∧ readGood u q.h q.oseq x = true) ∧
    (let s : State := setQ (.eng 0) [{ h := 0, oseq := 1 }] (id (stored (thr (fun x => { x with busy := false }) (fun s => setEng 0 (fun g => { g with destHook := 1 }) (s.updEng fun g => { g with baseImg := some [] })))))
    let e : Nat := 0
    let t : Nat := 0
    let q := ({ h := 0, oseq := 1 } : QE)
    let rest := ([] : List QE)
    let b := buf0
    let prog := 0
    let entry := (none : Option Nat)
    let x := (none : Option Xfer)
    let v := (fetchPinned (.inq e) q.h s).2
    let u := popInq (.eng e) v
    coreOff s = false ∧ (getEng s e).mode = .active ∧ s.pipe.disp = [] ∧ freeThread s e = some t ∧ getQ s (.eng e) = q :: rest ∧
    getBuf s q.h = some b ∧ isRetiring s (recGen b.record) = false ∧ hookEntry s (getEng s e).destHook = some (prog, entry) ∧
    fetchPinned (.inq e) q.h s = (some x, v) ∧ readGood u q.h q.oseq x = false) ∧
    (let s : State := thr (fun x => { x with hold := .slot 0, hook := 1, base := .fresh }) (fun s => slot0 (.held 0 0) { fr with hook := 1 } (stored s))
    let e : Nat := 0
    let t : Nat := 0
    let f : PFrame := ({ fr with hook := 1 } : PFrame)
    heldFrame s e t = some f ∧ (getThr s e t).base = .fresh ∧ (getThr s e t).hook = 1 ∧ u8 (getThr s e t).desc 41 ≠ 3 ∧
    u8 (getThr s e t).desc 41 ≠ 4) ∧
    (let s : State := thr (fun x => { x with hold := .slot 0, hook := 1, base := .fresh, desc := x.desc.set 41 4#8 }) (fun s => slot0 (.held 0 0) { fr with hook := 1 } (stored s))
    let e : Nat := 0
    let t : Nat := 0
    let f : PFrame := ({ fr with hook := 1 } : PFrame)
    heldFrame s e t = some f ∧ (getThr s e t).base = .fresh ∧ (getThr s e t).hook = 1 ∧ u8 (getThr s e t).desc 41 = 4) ∧
    (let s : State := thr (fun x => { x with hold := .slot 0, hook := 2, base := .fresh }) (fun s => slot0 (.held 0 0) { fr with hook := 2 } (fetching (.thread 0 0) (stored s)))
    let e : Nat := 0
    let t : Nat := 0
    let f : PFrame := ({ fr with hook := 2 } : PFrame)
    let u := s
    heldFrame s e t = some f ∧ (getThr s e t).base = .fresh ∧ (getThr s e t).hook = 2 ∧ fetchBuf (.thread e t) f.h s = (none, u)) ∧
    (let s : State := thr (fun x => { x with hold := .slot 0, hook := 2, base := .fresh }) (fun s => slot0 (.held 0 0) { fr with hook := 2 } (setBuf 0 { buf0 with lost := true } s))
    let e : Nat := 0
    let t : Nat := 0
    let f : PFrame := ({ fr with hook := 2 } : PFrame)
    let x := (none : Option Xfer)
    let u := (fetchBuf (.thread e t) f.h s).2
    heldFrame s e t = some f ∧ (getThr s e t).base = .fresh ∧ (getThr s e t).hook = 2 ∧ fetchBuf (.thread e t) f.h s = (some x, u) ∧
    windowLost u f.h x = true) ∧
    (let s : State := thr (fun x => { x with hold := .slot 0, hook := 2, base := .fresh }) (fun s => slot0 (.held 0 0) { fr with hook := 2 } (id (stored s)))
    let e : Nat := 0
    let t : Nat := 0
    let f : PFrame := ({ fr with hook := 2 } : PFrame)
    let x := (none : Option Xfer)
    let u := (fetchBuf (.thread e t) f.h s).2
    heldFrame s e t = some f ∧ (getThr s e t).base = .fresh ∧ (getThr s e t).hook = 2 ∧ fetchBuf (.thread e t) f.h s = (some x, u) ∧
    windowLost u f.h x = false ∧ (u.eng.icmp = false ∨ rateLeft u e = false ∨ exceededFrame u f (readData u f.h x) = none)) ∧
    (let s : State := thr (fun x => { x with hold := .slot 0, hook := 2, base := .fresh }) (fun s => slot0 (.held 0 0) { fr with hook := 2, pres := presIp 0 } (setBuf 0 { buf0 with data := ipv4Frame } (s.updEng fun g => { g with icmp := true, icmpRate := 1, ipv4Src := [10#8, 0, 0, 1] })))
    let e : Nat := 0
    let t : Nat := 0
    let f : PFrame := ({ fr with hook := 2, pres := presIp 0 } : PFrame)
    let x := (none : Option Xfer)
    let u := (fetchBuf (.thread e t) f.h s).2
    let m := ((exceededFrame u f (readData u f.h x)).getD [])
    let p := ((poolFor m.length).getD 9)
    let h := ((allocBuf p (noteIcmp e (baseEnd e t (.drop 0x60 10) u))).1.getD 9)
    let v := (allocBuf p (noteIcmp e (baseEnd e t (.drop 0x60 10) u))).2
    heldFrame s e t = some f ∧ (getThr s e t).base = .fresh ∧ (getThr s e t).hook = 2 ∧ fetchBuf (.thread e t) f.h s = (some x, u) ∧
    windowLost u f.h x = false ∧ u.eng.icmp = true ∧ rateLeft u e = true ∧ exceededFrame u f (readData u f.h x) = some m ∧
    poolFor m.length = some p ∧ allocBuf p (noteIcmp e (baseEnd e t (.drop 0x60 10) u)) = (some h, v)) ∧
    (let f : PFrame := ({ fr with pres := presIp 0 } : PFrame)
    let d : Bytes := (ipv4Frame.set 26 224#8 : Bytes)
    let o := slotOf f.pres 0 2
    l3Kind f.pres 0 = 0 ∧ ((u8 d 6).testBit 0 = true ∨ (224 ≤ u8 d (o + 12) ∧ u8 d (o + 12) < 240) ∨ errorMessage d o false = true)) ∧
    (let s : State := up
    let f : PFrame := ({ fr with pres := presIp 1 } : PFrame)
    let d : Bytes := ipv4Frame
    let o := slotOf f.pres 0 2
    l3Kind f.pres 0 = 1 ∧
    ((u8 d 6).testBit 0 = true ∨ u8 d (o + 8) = 255 ∨ errorMessage d o true = true ∨ allZero s.eng.ipv6Src = true)) := by
  refine ⟨?_, ?_, ?_, ?_, ⟨by decide, by decide, by decide, by decide, by decide, rfl, by decide, by decide, rfl⟩, ⟨by decide,
    by decide, by decide, by decide, by decide, rfl, by decide, by decide, rfl, by decide +kernel⟩, ⟨by decide, by decide,
    by decide, by decide, by decide, rfl, by decide, by decide, rfl, by decide +kernel⟩, ?_, ?_, ⟨by decide, by decide, by decide,
    rfl⟩, ⟨by decide, by decide, by decide, rfl, by decide⟩, ⟨by decide, by decide, by decide, rfl, by decide, by decide⟩,
    ⟨by decide, by decide, by decide, rfl, by decide, by decide, by decide, by decide, by decide, Prod.ext (by decide) rfl⟩, ?_,
    ?_⟩ <;> decide

set_option maxRecDepth 100000 in
theorem test_witness_RadioDownstreamRows :
    (let s : State := setRl 2 (fun r => { r with enabled := true, launch := [{ h := 0, oseq := 0, sta := 5, ac := 0, rewrite := 0xFFFFFFFF, d := 100, cost := 1, more := false, sojourn := 0 }], unfin := [], win := { limit := 1000, reserved := 100 } }) (stored (setSta 5 (fun x => { x with state := .active, per := [(2, { win := { limit := 1000, reserved := 100 } })] }) up))
    let l : Nat := 2
    let r := getRl s l
    let x := ({ h := 0, oseq := 0, sta := 5, ac := 0, rewrite := 0xFFFFFFFF, d := 100, cost := 1, more := false, sojourn := 0 } : Launch)
    let b := buf0
    coreOff s = false ∧ r.launch.find? (fun y => !y.staged) = some x ∧ getBuf s x.h = some b ∧ stagedBytes r + x.d ≤ 32768 ∧
    readsDram s x.h = false ∧ verifies s x.h x.oseq = true) ∧
    (let s : State := setRl 2 (fun r => { r with enabled := true, launch := [{ h := 0, oseq := 1, sta := 5, ac := 0, rewrite := 0xFFFFFFFF, d := 100, cost := 1, more := false, sojourn := 0 }], unfin := [], win := { limit := 1000, reserved := 100 } }) (stored (setSta 5 (fun x => { x with state := .active, per := [(2, { win := { limit := 1000, reserved := 100 } })] }) up))
    let l : Nat := 2
    let r := getRl s l
    let x := ({ h := 0, oseq := 1, sta := 5, ac := 0, rewrite := 0xFFFFFFFF, d := 100, cost := 1, more := false, sojourn := 0 } : Launch)
    let b := buf0
    coreOff s = false ∧ r.launch.find? (fun y => !y.staged) = some x ∧ getBuf s x.h = some b ∧ stagedBytes r + x.d ≤ 32768 ∧
    readsDram s x.h = false ∧ verifies s x.h x.oseq = false) ∧
    (let s : State := setRl 2 (fun r => { r with enabled := true, launch := [{ h := 0, oseq := 0, sta := 5, ac := 0, rewrite := 0xFFFFFFFF, d := 100, cost := 1, more := false, sojourn := 0 }], unfin := [], win := { limit := 1000, reserved := 100 } }) ((fun (s : State) => s.updHost fun h => { h with xfers := [{ xfer0 with purp := .direct 0 (.stage 2 5), data := back0 }] }) (setBuf 0 { buf0 with loc := .lodged 5 } (setSta 5 (fun x => { x with state := .active, per := [(2, { win := { limit := 1000, reserved := 100 } })] }) up)))
    let l : Nat := 2
    let r := getRl s l
    let x := ({ h := 0, oseq := 0, sta := 5, ac := 0, rewrite := 0xFFFFFFFF, d := 100, cost := 1, more := false, sojourn := 0 } : Launch)
    let b := ({ buf0 with loc := .lodged 5 } : Buf)
    let y := ({ xfer0 with purp := .direct 0 (.stage 2 5), data := back0 } : Xfer)
    coreOff s = false ∧ r.launch.find? (fun y => !y.staged) = some x ∧ getBuf s x.h = some b ∧ stagedBytes r + x.d ≤ 32768 ∧
    readsDram s x.h = true ∧ y.finished = true ∧
    s.host.xfers.find? (fun y => y.purp = .direct x.h (.stage l x.sta) && !y.gone) = some y ∧ directOk s x.h x.oseq y = true) ∧
    (let s : State := setRl 2 (fun r => { r with enabled := true, launch := [{ h := 0, oseq := 0, sta := 5, ac := 0, rewrite := 0xFFFFFFFF, d := 100, cost := 1, more := false, sojourn := 0 }], unfin := [], win := { limit := 1000, reserved := 100 } }) ((fun (s : State) => s.updHost fun h => { h with xfers := [{ xfer0 with purp := .direct 0 (.stage 2 5), data := [], err := true }] }) (setBuf 0 { buf0 with loc := .lodged 5 } (setSta 5 (fun x => { x with state := .active, per := [(2, { win := { limit := 1000, reserved := 100 } })] }) up)))
    let l : Nat := 2
    let r := getRl s l
    let x := ({ h := 0, oseq := 0, sta := 5, ac := 0, rewrite := 0xFFFFFFFF, d := 100, cost := 1, more := false, sojourn := 0 } : Launch)
    let b := ({ buf0 with loc := .lodged 5 } : Buf)
    let y := ({ xfer0 with purp := .direct 0 (.stage 2 5), data := [], err := true } : Xfer)
    coreOff s = false ∧ r.launch.find? (fun y => !y.staged) = some x ∧ getBuf s x.h = some b ∧ stagedBytes r + x.d ≤ 32768 ∧
    readsDram s x.h = true ∧ y.finished = true ∧
    s.host.xfers.find? (fun y => y.purp = .direct x.h (.stage l x.sta) && !y.gone) = some y ∧ directOk s x.h x.oseq y = false ∧
    y.err = true) ∧
    (let s : State := setRl 2 (fun r => { r with enabled := true, launch := [{ h := 0, oseq := 0, sta := 5, ac := 0, rewrite := 0xFFFFFFFF, d := 100, cost := 1, more := false, sojourn := 0 }], unfin := [], win := { limit := 1000, reserved := 100 } }) ((fun (s : State) => s.updHost fun h => { h with xfers := [{ xfer0 with purp := .direct 0 (.stage 2 5), data := zeros 256 }] }) (setBuf 0 { buf0 with loc := .lodged 5 } (setSta 5 (fun x => { x with state := .active, per := [(2, { win := { limit := 1000, reserved := 100 } })] }) up)))
    let l : Nat := 2
    let r := getRl s l
    let x := ({ h := 0, oseq := 0, sta := 5, ac := 0, rewrite := 0xFFFFFFFF, d := 100, cost := 1, more := false, sojourn := 0 } : Launch)
    let b := ({ buf0 with loc := .lodged 5 } : Buf)
    let y := ({ xfer0 with purp := .direct 0 (.stage 2 5), data := zeros 256 } : Xfer)
    coreOff s = false ∧ r.launch.find? (fun y => !y.staged) = some x ∧ getBuf s x.h = some b ∧ stagedBytes r + x.d ≤ 32768 ∧
    readsDram s x.h = true ∧ y.finished = true ∧
    s.host.xfers.find? (fun y => y.purp = .direct x.h (.stage l x.sta) && !y.gone) = some y ∧ directOk s x.h x.oseq y = false ∧
    y.err = false) ∧
    (let s : State := setRl 2 (fun r => { r with enabled := true, launch := [{ h := 0, oseq := 0, sta := 5, ac := 0, rewrite := 0xFFFFFFFF, d := 40000, cost := 1, more := false, sojourn := 0 }], unfin := [], win := { limit := 1000, reserved := 100 } }) (stored (setSta 5 (fun x => { x with state := .active, per := [(2, { win := { limit := 1000, reserved := 100 } })] }) up))
    let l : Nat := 2
    let r := getRl s l
    let x := ({ h := 0, oseq := 0, sta := 5, ac := 0, rewrite := 0xFFFFFFFF, d := 40000, cost := 1, more := false, sojourn := 0 } : Launch)
    coreOff s = false ∧ r.launch.find? (fun y => !y.staged) = some x ∧ 32768 < stagedBytes r + x.d) ∧
    (let s : State := setRl 2 (fun r => { r with enabled := true, launch := [{ h := 0, oseq := 0, sta := 5, ac := 0, rewrite := 0xFFFFFFFF, d := 100, cost := 1, more := false, sojourn := 0, staged := true }], unfin := [], win := { limit := 1000, reserved := 100 } }) (stored (setSta 5 (fun x => { x with state := .active, per := [(2, { win := { limit := 1000, reserved := 100 } })] }) up))
    let l : Nat := 2
    let r := getRl s l
    let x := ({ h := 0, oseq := 0, sta := 5, ac := 0, rewrite := 0xFFFFFFFF, d := 100, cost := 1, more := false, sojourn := 0, staged := true } : Launch)
    let rest := ([] : List Launch)
    let tag := 0
    coreOff s = false ∧ r.launch = x :: rest ∧ r.enabled = true ∧ x.staged = true ∧ r.unfin.length < 4096 ∧
    stillCredit (staLink (getSta s x.sta) l).win x.d = true ∧ stillCredit r.win x.d = true ∧
    lowestFree 4096 (r.unfin.map (·.tag)) = some tag) ∧
    (let s : State := setRl 2 (fun r => { r with enabled := true, launch := [], unfin := [{ tag := 7, h := 0, oseq := 0, sta := 5, ac := 0, md := [] }], win := { limit := 1000, reserved := 100 } }) (stored (setSta 5 (fun x => { x with state := .active, per := [(2, { win := { limit := 1000, reserved := 100 } })] }) up))
    let l : Nat := 2
    let r := getRl s l
    let tag := 7
    let u := ({ tag := 7, h := 0, oseq := 0, sta := 5, ac := 0, md := [] } : Unfin)
    coreOff s = false ∧ r.enabled = true ∧ r.unfin.find? (·.tag = tag) = some u) ∧
    (let s : State := setRl 2 (fun r => { r with enabled := true, launch := [], unfin := [{ tag := 7, h := 0, oseq := 0, sta := 5, ac := 0, md := [] }], win := { limit := 1000, reserved := 100 } }) (stored (setSta 5 (fun x => { x with state := .active, per := [(2, { win := { limit := 1000, reserved := 100 } })] }) up))
    let l : Nat := 2
    let r := getRl s l
    let tag := 7
    let u := ({ tag := 7, h := 0, oseq := 0, sta := 5, ac := 0, md := [] } : Unfin)
    let k := 3
    coreOff s = false ∧ r.enabled = true ∧ r.unfin.find? (·.tag = tag) = some u ∧ 2 ≤ k) ∧
    (let s : State := setRl 2 (fun r => { r with enabled := true, launch := [], unfin := [{ tag := 7, h := 0, oseq := 0, sta := 5, ac := 0, md := [] }], win := { limit := 1000, reserved := 100 } }) (stored (setSta 5 (fun x => { x with state := .active, per := [(2, { win := { limit := 1000, reserved := 100 } })] }) up))
    let l : Nat := 2
    let r := getRl s l
    let tag := 6
    coreOff s = false ∧ r.enabled = true ∧ r.unfin.find? (·.tag = tag) = none) ∧
    (let s : State := up
    let l : Nat := 2
    let r := getRl s l
    coreOff s = false ∧ r.enabled = false) ∧
    (let s : State := setRl 2 (fun r => { r with enabled := true, launch := [], unfin := [{ tag := 7, h := 0, oseq := 0, sta := 5, ac := 0, md := [] }], win := { limit := 1000, reserved := 100 } }) (stored (setSta 5 (fun x => { x with state := .active, per := [(2, { win := { limit := 1000, reserved := 100 } })] }) up))
    let l : Nat := 2
    let r := getRl s l
    let tag := 7
    let u := ({ tag := 7, h := 0, oseq := 0, sta := 5, ac := 0, md := [] } : Unfin)
    coreOff s = false ∧ r.doneTo ≠ 0 ∧ r.unfin.find? (·.tag = tag) = some u) ∧
    (let s : State := setRl 2 (fun r => { r with enabled := true }) up
    (List.range 3).any (fun l => (getRl s l).enabled && decide ((getRl s l).launch.length < 8)) = true ∧ s.pwr.mode = .active ∧
    s.sys.quiesced = false) := by
  refine ⟨⟨by decide, by decide, rfl, by decide, by decide, by decide +kernel⟩, ⟨by decide, by decide, rfl, by decide, by decide,
    by decide +kernel⟩, ⟨by decide, by decide, rfl, by decide, by decide, by decide, by decide, by decide +kernel⟩, ⟨by decide,
    by decide, rfl, by decide, by decide, by decide, by decide, by decide +kernel, by decide⟩, ⟨by decide, by decide, rfl,
    by decide, by decide, by decide, by decide, by decide +kernel, by decide⟩, ?_, ?_, ?_, ?_, ?_, ?_, ?_, ?_⟩ <;> decide

set_option maxRecDepth 100000 in
theorem test_witness_RadioFeedbackRows :
    (let s : State := setRl 2 (fun r => { r with enabled := true, rateTo := 1000 }) (setSta 5 (fun x => { x with state := .active, links := 4 }) up)
    let m : Bytes := ([0x21#8, 0, 5, 0, 1, 0, 0, 1] ++ zeros 8 : Bytes)
    let l : Nat := 2
    let st : Nat := 5
    let member := st < nStations s ∧ (getSta s st).state = .active ∧ (getSta s st).links.testBit l = true
    m.length = 16 ∧ l < 3 ∧ u8 m 1 = 0 ∧ u16 m 2 = st ∧ (getRl s l).enabled = true ∧ coreOff s = false ∧ u8 m 0 = 1 + 16 * l ∧
    member ∧ le m 4 3 ≠ 0 ∧ u8 m 7 ≠ 0 ∧ allZero (slice m 10 6) = true) ∧
    (let s : State := setRl 2 (fun r => { r with enabled := true, rateTo := 1000 }) (setSta 5 (fun x => { x with state := .active, links := 4 }) up)
    let m : Bytes := ([0x22#8, 0, 5, 0] ++ toLe 4 1000 ++ zeros 8 : Bytes)
    let l : Nat := 2
    let st : Nat := 5
    let member := st < nStations s ∧ (getSta s st).state = .active ∧ (getSta s st).links.testBit l = true
    m.length = 16 ∧ l < 3 ∧ u8 m 1 = 0 ∧ u16 m 2 = st ∧ (getRl s l).enabled = true ∧ coreOff s = false ∧ u8 m 0 = 2 + 16 * l ∧
    member ∧ st ≠ 0xFFF ∧ allZero (slice m 10 6) = true) ∧
    (let s : State := setRl 2 (fun r => { r with enabled := true, rateTo := 1000 }) (setSta 5 (fun x => { x with state := .active, links := 4 }) up)
    let m : Bytes := ([0x22#8, 0, 255, 15] ++ toLe 4 1000 ++ zeros 8 : Bytes)
    let l : Nat := 2
    let st : Nat := 0xFFF
    m.length = 16 ∧ l < 3 ∧ u8 m 1 = 0 ∧ u16 m 2 = st ∧ (getRl s l).enabled = true ∧ coreOff s = false ∧ u8 m 0 = 2 + 16 * l ∧
    st = 0xFFF ∧ allZero (slice m 10 6) = true) ∧
    (let s : State := setRl 2 (fun r => { r with enabled := true, rateTo := 1000 }) (setSta 5 (fun x => { x with state := .active, links := 4 }) up)
    let m : Bytes := ([0x23#8, 0, 5, 0, 1] ++ zeros 11 : Bytes)
    let l : Nat := 2
    let st : Nat := 5
    let member := st < nStations s ∧ (getSta s st).state = .active ∧ (getSta s st).links.testBit l = true
    m.length = 16 ∧ l < 3 ∧ u8 m 1 = 0 ∧ u16 m 2 = st ∧ (getRl s l).enabled = true ∧ coreOff s = false ∧ u8 m 0 = 3 + 16 * l ∧
    member ∧ st ≠ 0xFFF ∧ u8 m 4 < 2 ∧ u8 m 5 = 0 ∧ u16 m 6 = 0 ∧ allZero (slice m 8 8) = true) ∧
    (let s : State := setQ (.sta 5 0) [{ h := 0, oseq := 0 }] (setRl 2 (fun r => { r with enabled := true, rateTo := 1000 }) (setSta 5 (fun x => { x with state := .active, links := 4 }) up))
    let m : Bytes := ([0x23#8, 0, 5, 0, 2, 15, 3, 0] ++ zeros 8 : Bytes)
    let l : Nat := 2
    let st : Nat := 5
    let accepted := perf 6 5 (bump cRadio 0 0 s)
    let member := st < nStations s ∧ (getSta s st).state = .active ∧ (getSta s st).links.testBit l = true
    m.length = 16 ∧ l < 3 ∧ u8 m 1 = 0 ∧ u16 m 2 = st ∧ (getRl s l).enabled = true ∧ coreOff s = false ∧ u8 m 0 = 3 + 16 * l ∧
    member ∧ st ≠ 0xFFF ∧ u8 m 4 = 2 ∧ u8 m 5 ≠ 0 ∧ u8 m 5 < 16 ∧ allZero (slice m 8 8) = true ∧
    (∃ a ∈ List.range 4, (u8 m 5).testBit a = true ∧ getQ accepted (.sta st a) ≠ [])) ∧
    (let s : State := setRl 2 (fun r => { r with enabled := true, rateTo := 1000 }) (setSta 5 (fun x => { x with state := .active, links := 4 }) up)
    let m : Bytes := ([0x23#8, 0, 5, 0, 2, 15, 3, 0] ++ zeros 8 : Bytes)
    let l : Nat := 2
    let st : Nat := 5
    let accepted := perf 6 5 (bump cRadio 0 0 s)
    let member := st < nStations s ∧ (getSta s st).state = .active ∧ (getSta s st).links.testBit l = true
    m.length = 16 ∧ l < 3 ∧ u8 m 1 = 0 ∧ u16 m 2 = st ∧ (getRl s l).enabled = true ∧ coreOff s = false ∧ u8 m 0 = 3 + 16 * l ∧
    member ∧ st ≠ 0xFFF ∧ u8 m 4 = 2 ∧ u8 m 5 ≠ 0 ∧ u8 m 5 < 16 ∧ allZero (slice m 8 8) = true ∧
    (∀ a ∈ List.range 4, (u8 m 5).testBit a = true → getQ accepted (.sta st a) = [])) ∧
    (let s : State := setRl 2 (fun r => { r with enabled := true, rateTo := 1000 }) (setSta 5 (fun x => { x with state := .active, links := 4 }) up)
    let m : Bytes := ([0x21#8, 0, 6, 0, 1, 0, 0, 1] ++ zeros 8 : Bytes)
    let l : Nat := 2
    let st : Nat := 6
    m.length = 16 ∧ l < 3 ∧ u8 m 1 = 0 ∧ u16 m 2 = st ∧ (getRl s l).enabled = true ∧ coreOff s = false ∧ u8 m 0 = 1 + 16 * l ∧
    (st = 0xFFF ∨ (getSta s st).state ≠ .active ∨ le m 4 3 = 0 ∨ u8 m 7 = 0 ∨ allZero (slice m 10 6) = false)) ∧
    (let s : State := setRl 2 (fun r => { r with enabled := true, rateTo := 1000 }) (setSta 5 (fun x => { x with state := .active, links := 4 }) up)
    let m : Bytes := ([0x22#8, 0, 6, 0] ++ toLe 4 1000 ++ zeros 8 : Bytes)
    let l : Nat := 2
    let st : Nat := 6
    m.length = 16 ∧ l < 3 ∧ u8 m 1 = 0 ∧ u16 m 2 = st ∧ (getRl s l).enabled = true ∧ coreOff s = false ∧ u8 m 0 = 2 + 16 * l ∧
    ((st ≠ 0xFFF ∧ (getSta s st).state ≠ .active) ∨ allZero (slice m 10 6) = false)) ∧
    (let s : State := setRl 2 (fun r => { r with enabled := true, rateTo := 1000 }) (setSta 5 (fun x => { x with state := .active, links := 4 }) up)
    let m : Bytes := ([0x23#8, 0, 5, 0, 3] ++ zeros 11 : Bytes)
    let l : Nat := 2
    let st : Nat := 5
    m.length = 16 ∧ l < 3 ∧ u8 m 1 = 0 ∧ u16 m 2 = st ∧ (getRl s l).enabled = true ∧ coreOff s = false ∧ u8 m 0 = 3 + 16 * l ∧
    (st = 0xFFF ∨ (getSta s st).state ≠ .active ∨ 2 < u8 m 4 ∨ (u8 m 4 < 2 ∧ (u8 m 5 ≠ 0 ∨ u16 m 6 ≠ 0)) ∨ (u8 m 4 = 2 ∧
    (u8 m 5 = 0 ∨ 15 < u8 m 5)) ∨ allZero (slice m 8 8) = false)) ∧
    (let s : State := up
    let m : Bytes := ([0x21#8] ++ zeros 15 : Bytes)
    fbLink m < 3 ∧ (getRl s (fbLink m)).enabled = false ∧ (getRl s (fbLink m)).offAt ≠ some s.time.cycle) ∧
    (let s : State := (setRl 2 (fun r => { r with enabled := true, rateTo := 1000 }) (setSta 5 (fun x => { x with state := .active, links := 4, per := [(2, { rate := some ⟨1, 1, 1⟩ })] }) (setTb 7 (fun b => { b with v := 2000000000 * nsUnit }) up)))
    let st : Nat := 5
    let l : Nat := 2
    let y := staLink (getSta s st) l
    coreOff s = false ∧ (getSta s st).state = .active ∧ y.rate.isSome = true ∧ y.stale = false ∧ (getRl s l).rateTo ≠ 0 ∧
    y.rateNs + (getRl s l).rateTo * 1000000 ≤ nowNs s) := by
  refine ⟨?_, ?_, ?_, ?_, ?_, ?_, ?_, ?_, ?_, ?_, ?_⟩ <;> decide

set_option maxRecDepth 100000 in
theorem test_witness_UpstreamFrameRow :
    (let s : State := up
    let l : Nat := 2
    (getRl s l).enabled = false ∧ (getRl s l).offAt ≠ some s.time.cycle) ∧
    (let s : State := setRl 2 (fun r => { r with offAt := some 0 }) up
    let l : Nat := 2
    (getRl s l).enabled = false ∧ (getRl s l).offAt = some s.time.cycle ∧ Serving s) ∧
    (let s : State := setRl 2 (fun r => { r with enabled := true, upCredit := 4 }) (setSta 5 (fun x => { x with state := .active }) up)
    let l : Nat := 2
    let md : Bytes := toLe 2 5 ++ toLe 2 64 ++ [8#8] ++ zeros 11
    let data : Bytes := zeros 64
    let beats := max 1 ((data.length + 15) / 16)
    (getRl s l).enabled = true ∧ Serving s ∧ upMetaBad md = true ∧ beats ≤ (getRl s l).upCredit) ∧
    (let s : State := setRl 2 (fun r => { r with enabled := true, upCredit := 4 }) (setSta 5 (fun x => { x with state := .active }) up)
    let l : Nat := 2
    let md : Bytes := toLe 2 6 ++ toLe 2 64 ++ zeros 12
    let data : Bytes := zeros 64
    let st := u16 md 0 % 4096
    let beats := max 1 ((data.length + 15) / 16)
    (getRl s l).enabled = true ∧ Serving s ∧ upMetaBad md = false ∧ beats ≤ (getRl s l).upCredit ∧ st ≠ 0xFFF ∧
    (getSta s st).state ≠ .active ∧ data.length = u16 md 2) ∧
    (let s : State := setRl 2 (fun r => { r with enabled := true, upCredit := 4 }) (setSta 5 (fun x => { x with state := .active }) up)
    let l : Nat := 2
    let md : Bytes := toLe 2 5 ++ toLe 2 64 ++ zeros 12
    let data : Bytes := zeros 64
    let st := u16 md 0 % 4096
    let beats := max 1 ((data.length + 15) / 16)
    let s1 := setRl l (fun r => { r with upCredit := r.upCredit - beats }) s
    let p := 0
    let h := ((allocBuf p s1).1.getD 9)
    let u := (allocBuf p s1).2
    (getRl s l).enabled = true ∧ Serving s ∧ upMetaBad md = false ∧ beats ≤ (getRl s l).upCredit ∧ (st = 0xFFF ∨ (st < nStations s ∧
    (getSta s st).state = .active)) ∧ data.length = u16 md 2 ∧ s.sys.phase = 2 ∧ poolFor (u16 md 2) = some p ∧
    allocBuf p s1 = (some h, u)) ∧
    (let s : State := setRl 2 (fun r => { r with enabled := true, upCredit := 4 }) (setSta 5 (fun x => { x with state := .active }) (up.updStore fun t => { t with banks := List.replicate 32 4 }))
    let l : Nat := 2
    let md : Bytes := toLe 2 0xFFF ++ toLe 2 64 ++ zeros 12
    let data : Bytes := zeros 64
    let st := u16 md 0 % 4096
    let beats := max 1 ((data.length + 15) / 16)
    let s1 := setRl l (fun r => { r with upCredit := r.upCredit - beats }) s
    let p := 0
    let u := (allocBuf p s1).2
    (getRl s l).enabled = true ∧ Serving s ∧ upMetaBad md = false ∧ beats ≤ (getRl s l).upCredit ∧ (st = 0xFFF ∨ (st < nStations s ∧
    (getSta s st).state = .active)) ∧ data.length = u16 md 2 ∧ s.sys.phase = 2 ∧ poolFor (u16 md 2) = some p ∧
    allocBuf p s1 = (none, u)) := by
  refine ⟨?_, ?_, ?_, ?_, ⟨by decide, by decide, by decide, by decide, by decide, by decide, by decide, by decide,
    Prod.ext (by decide) rfl⟩, ⟨by decide, by decide, by decide, by decide, by decide, by decide, by decide, by decide,
    Prod.ext (by decide) rfl⟩⟩ <;> decide

set_option maxRecDepth 100000 in
theorem test_witness_HostReturnRows :
    (let s : State := up.updHost fun h => { h with reads := [{ tag := 9, sid := 0, addr := 0, beats := 2, xfer := 3 }], xfers := [{ id := 3, purp := .lookup, write := false, sid := 0, addr := 0, len := 64, data := [], todo := [], out := 1 }] }
    let tag : Nat := 9
    let t := ({ tag := 9, sid := 0, addr := 0, beats := 2, xfer := 3 } : Txn)
    let beats := ([⟨zeros 64, 0, false⟩] : List Beat)
    s.host.reads.find? (·.tag = tag) = some t ∧ (t.got ++ beats).length < t.beats) ∧
    (let s : State := up.updHost fun h => { h with reads := [{ tag := 9, sid := 0, addr := 0, beats := 1, xfer := 3 }], xfers := [{ id := 3, purp := .lookup, write := false, sid := 0, addr := 0, len := 64, data := [], todo := [], out := 1 }] }
    let tag : Nat := 9
    let beats := ([⟨zeros 64, 0, false⟩] : List Beat)
    let u := (readReturn tag beats s).1
    let x := (readReturn tag beats s).2.getD xfer0
    readReturn tag beats s = (u, some x)) ∧
    (let s : State := up.updHost fun h => { h with reads := [{ tag := 9, sid := 0, addr := 0, beats := 2, xfer := 3 }], xfers := [{ id := 3, purp := .lookup, write := false, sid := 0, addr := 0, len := 64, data := [], todo := [], out := 1 }] }
    let tag : Nat := 9
    let beats := ([⟨zeros 64, 0, false⟩] : List Beat)
    let u := (readReturn tag beats s).1
    readReturn tag beats s = (u, none)) ∧
    (let s : State := up
    let tag : Nat := 9
    s.host.reads.find? (·.tag = tag) = none) ∧
    (let s : State := up.updHost fun h => { h with writes := [{ tag := 9, sid := 0, addr := 0, beats := 1, xfer := 3 }], xfers := [{ id := 3, purp := .crcRing 0, write := true, sid := 0, addr := 0, len := 64, data := [], todo := [], out := 1 }] }
    let tag : Nat := 9
    let resp := 0
    let u := (writeReturn tag resp s).1
    let x := (writeReturn tag resp s).2.getD xfer0
    writeReturn tag resp s = (u, some x)) ∧
    (let s : State := up.updHost fun h => { h with writes := [{ tag := 9, sid := 0, addr := 0, beats := 1, xfer := 3 }], xfers := [{ id := 3, purp := .crcRing 0, write := true, sid := 0, addr := 0, len := 64, data := [], todo := [], out := 2 }] }
    let tag : Nat := 9
    let resp := 0
    let u := (writeReturn tag resp s).1
    writeReturn tag resp s = (u, none)) ∧
    (let s : State := up
    let tag : Nat := 9
    s.host.writes.find? (·.tag = tag) = none) ∧
    (let s : State := up.updHost fun h => { h with reads := [{ tag := 9, sid := 0, addr := 0, beats := 1, xfer := 3 }], xfers := [{ id := 3, purp := .lookup, write := false, sid := 0, addr := 0, len := 64, data := [], todo := [], out := 1 }] }
    let tag : Nat := 9
    let w := false
    let t := ({ tag := 9, sid := 0, addr := 0, beats := 1, xfer := 3 } : Txn)
    let r0 := endTxn t true [] (judgeTags (lines (errBit 2 (countErrored ((retireTag w tag s).updHost fun h => { h with timeouts := sat32 h.timeouts })))))
    let u := r0.1
    let x := r0.2.getD xfer0
    findTxn w tag s = some t ∧ s.sys.quiescing = false ∧ s.sys.quiesced = false ∧
    endTxn t true (t.got.flatMap fun b => slice b.data 0 64) (judgeTags (lines (errBit 2 (countErrored ((retireTag w tag s).updHost fun h => { h with timeouts := sat32 h.timeouts }))))) = (u, some x)) ∧
    (let s : State := up.updHost fun h => { h with writes := [{ tag := 9, sid := 0, addr := 0, beats := 1, xfer := 3 }], xfers := [{ id := 3, purp := .event 1, write := true, sid := 0, addr := 0, len := 64, data := [], todo := [], out := 1 }] }
    let tag : Nat := 9
    let resp := 0
    let t := ({ tag := 9, sid := 0, addr := 0, beats := 1, xfer := 3 } : Txn)
    let x := ({ id := 3, purp := .event 1, write := true, sid := 0, addr := 0, len := 64, data := [], todo := [], out := 1 } : Xfer)
    let m := 1
    let u := (writeReturn tag resp s).1
    let y := (writeReturn tag resp s).2.getD xfer0
    findTxn true tag s = some t ∧ getXfer s t.xfer = some x ∧ x.purp = .event m ∧ writeReturn tag resp s = (u, some y)) ∧
    (let s : State := up.updHost fun h => { h with writes := [{ tag := 9, sid := 0, addr := 0, beats := 1, xfer := 3 }], xfers := [{ id := 3, purp := .event 1, write := true, sid := 0, addr := 0, len := 64, data := [], todo := [], out := 1 }] }
    let u : State := (writeReturn 9 0 s).1
    let tag : Nat := 9
    let resp : Nat := 0
    let m : Nat := 1
    let x : Xfer := (writeReturn 9 0 s).2.getD xfer0
    writeReturn tag resp s = (u, some x) ∧ x.purp = .event m) := by
  refine ⟨?_, Prod.ext rfl (by decide), Prod.ext rfl (by decide), ?_, Prod.ext rfl (by decide), Prod.ext rfl (by decide), ?_,
    ⟨by decide, by decide, by decide, Prod.ext (by decide) (by decide)⟩, ⟨by decide, by decide, by decide,
    Prod.ext rfl (by decide)⟩, ⟨Prod.ext rfl (by decide), by decide⟩⟩ <;> decide

set_option maxRecDepth 100000 in
theorem test_witness_RegisterPortRows :
    (let s : State := up.updPwr fun p => { p with clkAck := false }
    let a : Nat := 0x0EFFFC
    let v : Nat := 7
    let k : Nat := 15
    s.sys.held = false ∧ a < 2 ^ 22 ∧ v < 2 ^ 32 ∧ k < 16 ∧ coreOff s = true ∧ alwaysOn a = false) ∧
    (let s : State := up
    let a : Nat := 0
    let v : Nat := 7
    let k : Nat := 15
    s.sys.held = false ∧ a < 2 ^ 22 ∧ v < 2 ^ 32 ∧ k < 16 ∧ coreOff s = false ∧ a % 4 = 0 ∧ alwaysOn a = false) ∧
    (let s : State := up
    let a : Nat := 0x020000
    let v : Nat := 7
    let k : Nat := 15
    let t := (wrCore a v s).getD up
    s.sys.held = false ∧ a < 2 ^ 22 ∧ v < 2 ^ 32 ∧ k < 16 ∧ coreOff s = false ∧ a % 4 = 0 ∧ alwaysOn a = false ∧
    wrCore a v s = some t) ∧
    (let s : State := up
    let a : Nat := 0x1FFFFC
    let v : Nat := 7
    let k : Nat := 15
    s.sys.held = false ∧ a < 2 ^ 22 ∧ v < 2 ^ 32 ∧ k < 16 ∧ coreOff s = false ∧ a % 4 = 0 ∧ alwaysOn a = false ∧ wrCore a v s = none) ∧
    (let s : State := up
    let a : Nat := 0x0F0000
    let v : Nat := 7
    let k : Nat := 15
    s.sys.held = false ∧ a < 2 ^ 22 ∧ v < 2 ^ 32 ∧ k < 16 ∧ a % 4 = 0 ∧ alwaysOn a = true) ∧
    (let s : State := up
    let a : Nat := 0x0F0004
    let v : Nat := 7
    let k : Nat := 15
    let t := (wrAlways (a % 0x10000) v s).getD up
    s.sys.held = false ∧ a < 2 ^ 22 ∧ v < 2 ^ 32 ∧ k < 16 ∧ a % 4 = 0 ∧ alwaysOn a = true ∧ wrAlways (a % 0x10000) v s = some t) ∧
    (let s : State := up
    let a : Nat := 0
    let v : Nat := 7
    let k : Nat := 14
    s.sys.held = false ∧ a < 2 ^ 22 ∧ v < 2 ^ 32 ∧ k < 16 ∧ coreOff s = false ∧ k ≠ 15) ∧
    (let s : State := up
    let a : Nat := 2
    let v : Nat := 7
    let k : Nat := 15
    s.sys.held = false ∧ a < 2 ^ 22 ∧ v < 2 ^ 32 ∧ k < 16 ∧ coreOff s = false ∧ a % 4 ≠ 0) ∧
    (let s : State := up
    let a : Nat := 0
    let v : Nat := 7
    let k : Nat := 15
    s.sys.held = false ∧ a < 2 ^ 22 ∧ v < 2 ^ 32 ∧ k < 16) := by
  refine ⟨?_, ?_, ?_, ?_, ?_, ?_, ?_, ?_, ?_⟩ <;> decide

set_option maxRecDepth 100000 in
theorem test_witness_MailboxAndRequestRows :
    (let s : State := up
    let m : Nat := 15
    s.sys.held = false ∧ coreOff s = false ∧ m < 16 ∧ (getMb s m).busy = false) ∧
    (let s : State := setMb 15 (fun b => { b with busy := true }) up
    let m : Nat := 15
    s.sys.held = false ∧ coreOff s = false ∧ m < 16 ∧ (getMb s m).busy = true) ∧
    (let s : State := up
    let m : Nat := 15
    s.sys.held = false ∧ coreOff s = false ∧ m < 16) ∧
    (let s : State := (setMb 0 (fun b => { b with busy := true, bell := 3, agent := 0, hdr := hdrOf 0x0100 0 0 2 1 0 0 }) up).updGv fun g => { g with queue := [0] }
    let m : Nat := 0
    let u := s.updGv fun g => { g with queue := g.queue.erase m }
    let st := stBadSequence
    s.gv.taken = none ∧ onyxUp s = true ∧ s.gv.queue.find? (fun m => s.sys.fw || decide (m = 0)) = some m ∧ s.res.jasper ≠ .takeover ∧
    s.gv.awaited = [] ∧ checkHeader u m = some st) ∧
    (let s : State := (setMb 0 (fun b => { b with busy := true, bell := 3, agent := 0, hdr := hdrOf 0x0100 0 0 3 1 0 0 }) up).updGv fun g => { g with queue := [0] }
    let m : Nat := 0
    let u := s.updGv fun g => { g with queue := g.queue.erase m }
    let b := getMb u m
    s.gv.taken = none ∧ onyxUp s = true ∧ s.gv.queue.find? (fun m => s.sys.fw || decide (m = 0)) = some m ∧ s.res.jasper ≠ .takeover ∧
    s.gv.awaited = [] ∧ checkHeader u m = none ∧ rqPtr b.hdr = false ∧ b.tokens.find? (·.token = rqToken b.hdr) = none) ∧
    (let s : State := (setMb 0 (fun b => { b with busy := true, bell := 3, agent := 0, hdr := hdrOf 0x0100 0 0 3 1 0 0, tokens := [{ token := 1, code := 0x0100, digest := digestOf (hdrOf 0x0100 0 0 3 1 0 0) [], hdr := zeros 64, data := [] }] }) up).updGv fun g => { g with queue := [0] }
    let m : Nat := 0
    let u := s.updGv fun g => { g with queue := g.queue.erase m }
    let b := getMb u m
    let q : Req := { mb := m, hdr := b.hdr, payload := [], ready := false }
    let p := b.body.take (rqLen b.hdr)
    let q' : Req := { mb := m, hdr := b.hdr, payload := p, ready := true, digest := digestOf b.hdr p }
    let t := ({ token := 1, code := 0x0100, digest := digestOf (hdrOf 0x0100 0 0 3 1 0 0) [], hdr := zeros 64, data := [] } : Token)
    s.gv.taken = none ∧ onyxUp s = true ∧ s.gv.queue.find? (fun m => s.sys.fw || decide (m = 0)) = some m ∧ s.res.jasper ≠ .takeover ∧
    s.gv.awaited = [] ∧ checkHeader u m = none ∧ rqPtr b.hdr = false ∧ b.tokens.find? (·.token = rqToken b.hdr) = some t ∧
    t.code = rqCode b.hdr ∧ t.digest = q'.digest) ∧
    (let s : State := (setMb 0 (fun b => { b with busy := true, bell := 3, agent := 0, hdr := hdrOf 0x0100 0 0 3 1 0 0, tokens := [{ token := 1, code := 0x0102, digest := 0, hdr := zeros 64, data := [] }] }) up).updGv fun g => { g with queue := [0] }
    let m : Nat := 0
    let u := s.updGv fun g => { g with queue := g.queue.erase m }
    let b := getMb u m
    let q : Req := { mb := m, hdr := b.hdr, payload := [], ready := false }
    let p := b.body.take (rqLen b.hdr)
    let q' : Req := { mb := m, hdr := b.hdr, payload := p, ready := true, digest := digestOf b.hdr p }
    let t := ({ token := 1, code := 0x0102, digest := 0, hdr := zeros 64, data := [] } : Token)
    s.gv.taken = none ∧ onyxUp s = true ∧ s.gv.queue.find? (fun m => s.sys.fw || decide (m = 0)) = some m ∧ s.res.jasper ≠ .takeover ∧
    s.gv.awaited = [] ∧ checkHeader u m = none ∧ rqPtr b.hdr = false ∧ b.tokens.find? (·.token = rqToken b.hdr) = some t ∧
    (t.code ≠ rqCode b.hdr ∨ t.digest ≠ q'.digest)) ∧
    (let s : State := (setMb 0 (fun b => { b with busy := true, bell := 3, agent := 0, hdr := hdrOf 0x0101 1 24 3 1 0 0x1000 }) (windowed up)).updGv fun g => { g with queue := [0] }
    let m : Nat := 0
    let u := s.updGv fun g => { g with queue := g.queue.erase m }
    let b := getMb u m
    s.gv.taken = none ∧ onyxUp s = true ∧ s.gv.queue.find? (fun m => s.sys.fw || decide (m = 0)) = some m ∧ s.res.jasper ≠ .takeover ∧
    s.gv.awaited = [] ∧ checkHeader u m = none ∧ rqPtr b.hdr = true ∧ u.sys.quiesced = false) := by
  refine ⟨?_, ?_, ?_, ?_, ?_, ?_, ?_, ?_⟩ <;> decide

set_option maxRecDepth 100000 in
theorem test_witness_SystemCommandRows :
    (let s : State := hand 0x0100 ([]) (id)
    let q : Req := req 0x0100 ([])
    InHand 0x0100 q s) ∧
    (let s : State := hand 0x0101 ([4#8, 15, 0xFF] ++ zeros 5 ++ toLe 8 0x100000 ++ toLe 8 0x100000) (fun s => s.updHost fun h => { h with windows := [(15, { base := 0x100000, size := 0x100000, agent := 0xFF, set := true })] })
    let q : Req := req 0x0101 ([4#8, 15, 0xFF] ++ zeros 5 ++ toLe 8 0x100000 ++ toLe 8 0x100000)
    let p := q.payload
    let kind := u8 p 0
    let i := u8 p 1
    let base := u64 p 8
    let size := u64 p 16
    let new : Region := { base := base, size := size, agent := u8 p 2, set := true }
    let old := regionOf s kind i
    InHand 0x0101 q s ∧ kind ≤ 4 ∧ (kind = 4 → i ≤ 15) ∧ (kind ≠ 4 → i = 0 ∧ u8 p 2 = 0xFF) ∧ regionBad kind base size = none ∧
    base + size ≤ 2 ^ 48 ∧ (∀ r ∈ othersOf s kind, overlaps new r = false) ∧ (kind = 4 → old.agent = 0xFF ∨ old.agent = agentOf q s) ∧
    old.base = base ∧ old.size = size ∧ old.agent = u8 p 2) ∧
    (let s : State := hand 0x0101 ([4#8, 0, 0xFF] ++ zeros 5 ++ toLe 8 0x100000 ++ toLe 8 0x100000) (id)
    let q : Req := req 0x0101 ([4#8, 0, 0xFF] ++ zeros 5 ++ toLe 8 0x100000 ++ toLe 8 0x100000)
    let p := q.payload
    let kind := u8 p 0
    let i := u8 p 1
    let base := u64 p 8
    let size := u64 p 16
    let new : Region := { base := base, size := size, agent := u8 p 2, set := true }
    let old := regionOf s kind i
    let after := putRegion kind i new s
    InHand 0x0101 q s ∧ kind ≤ 4 ∧ (kind = 4 → i ≤ 15) ∧ (kind ≠ 4 → i = 0 ∧ u8 p 2 = 0xFF) ∧ regionBad kind base size = none ∧
    base + size ≤ 2 ^ 48 ∧ (∀ r ∈ othersOf s kind, overlaps new r = false) ∧ (kind = 4 → old.agent = 0xFF ∨ old.agent = agentOf q s) ∧
    (old.base ≠ base ∨ old.size ≠ size ∨ old.agent ≠ u8 p 2) ∧ regionState s kind after = true) ∧
    (let s : State := hand 0x0101 ([0#8, 0, 0xFF] ++ zeros 5 ++ toLe 8 0x800000 ++ toLe 8 0x800000) (fun s => s.updSys fun y => { y with phase := 2 })
    let q : Req := req 0x0101 ([0#8, 0, 0xFF] ++ zeros 5 ++ toLe 8 0x800000 ++ toLe 8 0x800000)
    let p := q.payload
    let kind := u8 p 0
    let i := u8 p 1
    let base := u64 p 8
    let size := u64 p 16
    let new : Region := { base := base, size := size, agent := u8 p 2, set := true }
    let old := regionOf s kind i
    let after := putRegion kind i new s
    InHand 0x0101 q s ∧ kind ≤ 4 ∧ (kind = 4 → i ≤ 15) ∧ (kind ≠ 4 → i = 0 ∧ u8 p 2 = 0xFF) ∧ regionBad kind base size = none ∧
    base + size ≤ 2 ^ 48 ∧ (∀ r ∈ othersOf s kind, overlaps new r = false) ∧ (kind = 4 → old.agent = 0xFF ∨ old.agent = agentOf q s) ∧
    (old.base ≠ base ∨ old.size ≠ size ∨ old.agent ≠ u8 p 2) ∧ regionState s kind after = false) ∧
    (let s : State := hand 0x0102 ([]) (id)
    let q : Req := req 0x0102 ([])
    InHand 0x0102 q s ∧ s.gv.groups.length < 8) ∧
    (let s : State := hand 0x0102 ([]) (fun s => s.updGv fun g => { g with groups := List.replicate 8 { id := 5, mb := 0, agent := 0, cmds := [] } })
    let q : Req := req 0x0102 ([])
    InHand 0x0102 q s ∧ 8 ≤ s.gv.groups.length) ∧
    (let s : State := hand 0x0104 (zeros 4 ++ toLe 4 5) (fun (s : State) => s.updGv fun g => { g with groups := [{ id := 5, mb := 0, agent := 0, cmds := [] }] })
    let q : Req := req 0x0104 (zeros 4 ++ toLe 4 5)
    let p := q.payload
    let g := ({ id := 5, mb := 0, agent := 0, cmds := [] } : Group)
    InHand 0x0104 q s ∧ u8 p 0 = 0 ∧ s.gv.groups.find? (fun g => g.id = u32 p 4 && (g.mb = q.mb || q.mb = 0)) = some g) ∧
    (let s : State := hand 0x0104 ([1#8, 15] ++ zeros 6) (fun s => s.updGv fun g => { g with running := [{ req 0x0E01 (zeros 24) with mb := 15 }] })
    let q : Req := req 0x0104 ([1#8, 15] ++ zeros 6)
    let p := q.payload
    let r := ({ req 0x0E01 (zeros 24) with mb := 15 } : Req)
    InHand 0x0104 q s ∧ u8 p 0 = 1 ∧ u8 p 1 ≤ 15 ∧ (u8 p 1 = q.mb ∨ q.mb = 0) ∧ s.gv.running.find? (·.mb = u8 p 1) = some r ∧
    rqCode r.hdr = 0x0E01) ∧
    (let s : State := hand 0x0105 (toLe 8 0x1000 ++ toLe 4 16 ++ zeros 20) (windowed)
    let q : Req := req 0x0105 (toLe 8 0x1000 ++ toLe 4 16 ++ zeros 20)
    let p := q.payload
    InHand 0x0105 q s ∧ (getMb s q.mb).evtQ = [] ∧ (∀ x ∈ s.host.xfers, x.purp = .event q.mb → x.out ≠ 0) ∧
    eventRingArgs s (agentOf q s) p = none) ∧
    (let s : State := hand 0x0106 (zeros 4) (id)
    let q : Req := req 0x0106 (zeros 4)
    InHand 0x0106 q s) := by
  refine ⟨?_, ?_, ?_, ?_, ?_, ?_, ?_, ?_, ?_, ?_⟩ <;> decide

set_option maxRecDepth 100000 in
theorem test_witness_SystemControlRows :
    (let s : State := hand 0x0107 ([15#8, 3, 0xFE, 0xFF]) (id)
    let q : Req := req 0x0107 ([15#8, 3, 0xFE, 0xFF])
    let p := q.payload
    InHand 0x0107 q s ∧ 1 ≤ u8 p 0 ∧ u8 p 0 ≤ 15 ∧ u8 p 1 ≠ 255 ∧ (getMb s (u8 p 0)).busy = false) ∧
    (let s : State := hand 0x0108 ([0#8, 7, 0, 0] ++ toLe 4 511 ++ toLe 4 1) (id)
    let q : Req := req 0x0108 ([0#8, 7, 0, 0] ++ toLe 4 511 ++ toLe 4 1)
    let p := q.payload
    let k := u8 p 0
    let first := u32 p 4
    let n := u32 p 8
    let lim := if k = 0 then nChannels s else if k = 1 then nStations s else 16
    InHand 0x0108 q s ∧ k ≤ 2 ∧ u8 p 1 ≠ 255 ∧ first < lim ∧ n ≠ 0 ∧ first + n ≤ lim ∧ (upto first n).any (bindBusy s k) = false) ∧
    (let s : State := hand 0x0108 ([0#8, 7, 0, 0] ++ toLe 4 511 ++ toLe 4 1) (setCh 511 (fun x => { x with state := .enabled }))
    let q : Req := req 0x0108 ([0#8, 7, 0, 0] ++ toLe 4 511 ++ toLe 4 1)
    let p := q.payload
    let k := u8 p 0
    let first := u32 p 4
    let n := u32 p 8
    let lim := if k = 0 then nChannels s else if k = 1 then nStations s else 16
    InHand 0x0108 q s ∧ k ≤ 2 ∧ u8 p 1 ≠ 255 ∧ first < lim ∧ n ≠ 0 ∧ first + n ≤ lim ∧ (upto first n).any (bindBusy s k) = true) ∧
    (let s : State := hand 0x0109 ([]) (id)
    let q : Req := req 0x0109 ([])
    InHand 0x0109 q s ∧ s.pwr.mode ≠ .entering ∧ s.sys.quiesced = false) ∧
    (let s : State := hand 0x010A ([]) (fun s => ((s.updSys fun y => { y with phase := 1 }).updHost fun h => { h with control := { size := 1 } }).updEng fun g => { g with baseImg := some [] })
    let q : Req := req 0x010A ([])
    InHand 0x010A q s ∧ s.sys.phase = 1 ∧ s.host.control.size ≠ 0 ∧ baseRuns s = true) ∧
    (let s : State := hand 0x010B (toLe 4 0xFFFFFFFF ++ zeros 4) (id)
    let q : Req := req 0x010B (toLe 4 0xFFFFFFFF ++ zeros 4)
    let p := q.payload
    InHand 0x010B q s ∧ u32 p 0 = 0xFFFFFFFF) ∧
    (let s : State := hand 0x010B (zeros 8) (id)
    let q : Req := req 0x010B (zeros 8)
    let p := q.payload
    InHand 0x010B q s ∧ u32 p 0 ≠ 0xFFFFFFFF ∧ u32 p 0 ≠ 0x00F00000 ∧ destStatus s (agentOf q s) (u32 p 0) = none) := by
  refine ⟨?_, ?_, ?_, ?_, ?_, ?_, ?_⟩ <;> decide

set_option maxRecDepth 100000 in
theorem test_witness_StagedAndCommitRows :
    (let p := (0x0201, Instr.portStage 0)
    p ∈ stagedRows) ∧
    (let s : State := up
    let apply : Nat := 3
    let row : Nat × Instr := ((0x0201, Instr.portStage 3) : Nat × Instr)
    apply ≠ 0 ∧ (row = (0x0201, .portStage apply) ∨ row = (0x0301, .lnStage apply)) ∧ takenFor row.1 s = none) ∧
    (let s : State := hand 0x0201 (zeros 24) (fun s => s.updCls fun c => { c with resident := [{ gen := 0, sweeping := true }] })
    let q : Req := req 0x0201 (zeros 24)
    let apply : Nat := 3
    let row : Nat × Instr := ((0x0201, Instr.portStage 3) : Nat × Instr)
    apply ≠ 0 ∧ (row = (0x0201, .portStage apply) ∨ row = (0x0301, .lnStage apply)) ∧ takenFor row.1 s = some q ∧
    turnedAway q s = false ∧ rqGroup q.hdr = 0 ∧ stageJudge s (agentOf q s) row.1 q.payload = none ∧ commitWaits s = true) ∧
    (let s : State := hand 0x0201 (zeros 24) (id)
    let q : Req := req 0x0201 (zeros 24)
    let apply : Nat := 3
    let row : Nat × Instr := ((0x0201, Instr.portStage 3) : Nat × Instr)
    let c : Cmd := ⟨row.1, q.payload, q.mb⟩
    let r := commitCmds apply [c] s
    apply ≠ 0 ∧ (row = (0x0201, .portStage apply) ∨ row = (0x0301, .lnStage apply)) ∧ takenFor row.1 s = some q ∧
    turnedAway q s = false ∧ rqGroup q.hdr = 0 ∧ stageJudge s (agentOf q s) row.1 q.payload = none ∧ commitWaits s = false ∧
    (r.2.st = stOk ∨ r.2.st = stStaging)) ∧
    (let s : State := up
    takenFor 0x0103 s = none) ∧
    (let s : State := hand 0x0103 (toLe 4 5 ++ zeros 4) (id)
    let q : Req := req 0x0103 (toLe 4 5 ++ zeros 4)
    InHand 0x0103 q s ∧ findGroup (u32 q.payload 0) q.mb s = none) ∧
    (let s : State := hand 0x0103 (toLe 4 5 ++ zeros 4) (fun s => (fun (s : State) => s.updGv fun g => { g with groups := [{ id := 5, mb := 0, agent := 0, cmds := [⟨0x0505, zeros 8, 0⟩] }] }) (s.updCls fun c => { c with resident := [{ gen := 0, sweeping := true }] }))
    let q : Req := req 0x0103 (toLe 4 5 ++ zeros 4)
    let g := ({ id := 5, mb := 0, agent := 0, cmds := [⟨0x0505, zeros 8, 0⟩] } : Group)
    InHand 0x0103 q s ∧ findGroup (u32 q.payload 0) q.mb s = some g ∧ commitWaits s = true) ∧
    (let s : State := hand 0x0103 (toLe 4 5 ++ zeros 4) (fun (s : State) => s.updGv fun g => { g with groups := [{ id := 5, mb := 0, agent := 0, cmds := [] }] })
    let q : Req := req 0x0103 (toLe 4 5 ++ zeros 4)
    let apply : Nat := 0
    let g := ({ id := 5, mb := 0, agent := 0, cmds := [] } : Group)
    let t := (commitCmds apply g.cmds s).1
    let r := (commitCmds apply g.cmds s).2
    InHand 0x0103 q s ∧ findGroup (u32 q.payload 0) q.mb s = some g ∧ commitWaits s = false ∧ commitCmds apply g.cmds s = (t, r) ∧
    r.st = stOk) ∧
    (let s : State := hand 0x0103 (toLe 4 5 ++ zeros 4) (fun s => (fun (s : State) => s.updGv fun g => { g with groups := [{ id := 5, mb := 0, agent := 0, cmds := [] }] }) (setLane 3 (fun l => { l with retired := true }) s))
    let q : Req := req 0x0103 (toLe 4 5 ++ zeros 4)
    let apply : Nat := 8
    let g := ({ id := 5, mb := 0, agent := 0, cmds := [] } : Group)
    let t := (commitCmds apply g.cmds s).1
    let r := (commitCmds apply g.cmds s).2
    InHand 0x0103 q s ∧ findGroup (u32 q.payload 0) q.mb s = some g ∧ commitWaits s = false ∧ commitCmds apply g.cmds s = (t, r) ∧
    r.st = stStaging) ∧
    (let s : State := hand 0x0103 (toLe 4 5 ++ zeros 4) (fun (s : State) => s.updGv fun g => { g with groups := [{ id := 5, mb := 0, agent := 0, cmds := [⟨0x0505, zeros 8, 0⟩] }] })
    let q : Req := req 0x0103 (toLe 4 5 ++ zeros 4)
    let apply : Nat := 0
    let g := ({ id := 5, mb := 0, agent := 0, cmds := [⟨0x0505, zeros 8, 0⟩] } : Group)
    let t := (commitCmds apply g.cmds s).1
    let r := (commitCmds apply g.cmds s).2
    InHand 0x0103 q s ∧ findGroup (u32 q.payload 0) q.mb s = some g ∧ commitWaits s = false ∧ commitCmds apply g.cmds s = (t, r) ∧
    r.st ≠ stOk ∧ r.st ≠ stStaging) := by
  refine ⟨?_, ?_, ?_, ?_, ?_, ?_, ?_, ⟨by decide, by decide, by decide, Prod.ext rfl rfl, by decide⟩, ⟨by decide, by decide,
    by decide, Prod.ext rfl rfl, by decide⟩, ⟨by decide, by decide, by decide, Prod.ext rfl rfl, by decide, by decide⟩⟩ <;> decide

set_option maxRecDepth 100000 in
theorem test_witness_TimeCommandRows :
    (let s : State := hand 0x0B01 ([6#8, 0] ++ zeros 14 ++ toLe 4 999999999 ++ zeros 4) (id)
    let q : Req := req 0x0B01 ([6#8, 0] ++ zeros 14 ++ toLe 4 999999999 ++ zeros 4)
    let p := q.payload
    let k := u8 p 0
    InHand 0x0B01 q s ∧ k ≤ 6 ∧ u8 p 1 = 0 ∧ u32 p 20 = 0 ∧ u32 p 16 < 1000000000 ∧ timeAt p 8 < tbSpan ∧ (getTb s k).track = false ∧
    (getTb s k).locked = false) ∧
    (let s : State := hand 0x0B02 ([5#8] ++ zeros 3 ++ toLe 4 549755813) (setTb 5 (fun b => { b with locked := true, track := false }))
    let q : Req := req 0x0B02 ([5#8] ++ zeros 3 ++ toLe 4 549755813)
    let p := q.payload
    let k := u8 p 0
    InHand 0x0B02 q s ∧ k ≤ 6 ∧ rateOk (sext 32 (u32 p 4)) = true ∧ (getTb s k).track = false ∧ (getTb s k).locked = true) ∧
    (let s : State := hand 0x0B02 ([5#8] ++ zeros 3 ++ toLe 4 549755813) (id)
    let q : Req := req 0x0B02 ([5#8] ++ zeros 3 ++ toLe 4 549755813)
    let p := q.payload
    let k := u8 p 0
    InHand 0x0B02 q s ∧ k ≤ 6 ∧ rateOk (sext 32 (u32 p 4)) = true ∧ ((getTb s k).track = true ∨ (getTb s k).locked = false)) ∧
    (let s : State := hand 0x0B03 ([5#8] ++ zeros 3) (setTb 5 (fun b => { b with locked := true, track := false }))
    let q : Req := req 0x0B03 ([5#8] ++ zeros 3)
    let p := q.payload
    let k := u8 p 0
    InHand 0x0B03 q s ∧ k ≤ 6 ∧ (getTb s k).track = false ∧ (getTb s k).locked = true) ∧
    (let s : State := hand 0x0B04 ([6#8, 1, 1, 0] ++ zeros 4) (id)
    let q : Req := req 0x0B04 ([6#8, 1, 1, 0] ++ zeros 4)
    let p := q.payload
    let k := u8 p 0
    InHand 0x0B04 q s ∧ 4 ≤ k ∧ k ≤ 6 ∧ u8 p 1 = 1 ∧ u16 p 2 ≠ 0) ∧
    (let s : State := hand 0x0B04 ([4#8, 0, 1, 0] ++ zeros 4) (id)
    let q : Req := req 0x0B04 ([4#8, 0, 1, 0] ++ zeros 4)
    let p := q.payload
    let k := u8 p 0
    InHand 0x0B04 q s ∧ 4 ≤ k ∧ k ≤ 6 ∧ u8 p 1 = 0 ∧ u16 p 2 ≠ 0) ∧
    (let s : State := hand 0x0B05 ([15#8, 1, 1, 31, 7] ++ zeros 7 ++ toLe 4 1000000000) (id)
    let q : Req := req 0x0B05 ([15#8, 1, 1, 31, 7] ++ zeros 7 ++ toLe 4 1000000000)
    let p := q.payload
    let k := u8 p 0
    InHand 0x0B05 q s ∧ k ≤ 15 ∧ u8 p 1 ≤ 1 ∧ u8 p 2 ≤ 1 ∧ u8 p 3 ≤ 31 ∧ (u8 p 2 = 0 → u8 p 3 = 0) ∧ u8 p 4 ≤ 7 ∧
    u32 p 12 ≤ 1000000000) ∧
    (let s : State := hand 0x0B06 ([31#8, 7] ++ zeros 22 ++ toLe 4 5 ++ zeros 12) (id)
    let q : Req := req 0x0B06 ([31#8, 7] ++ zeros 22 ++ toLe 4 5 ++ zeros 12)
    let p := q.payload
    let k := u8 p 0
    InHand 0x0B06 q s ∧ armBad s k (armSet p) p = none ∧ (armSet p).target ≠ 2 ∧ (getTrg s k).mode ≠ .owned ∧
    (getTb s (armSet p).base).v < (armSet p).time ∧ (armSet p).time < (getTb s (armSet p).base).v + 2 ^ 39 * nsUnit) ∧
    (let s : State := hand 0x0B07 ([31#8] ++ zeros 3) (setTrg 31 (fun x => { x with mode := .armed }))
    let q : Req := req 0x0B07 ([31#8] ++ zeros 3)
    let p := q.payload
    let k := u8 p 0
    InHand 0x0B07 q s ∧ k ≤ 31 ∧ (getTrg s k).mode = .armed) ∧
    (let s : State := hand 0x0B07 ([31#8] ++ zeros 3) (setTrg 31 (fun x => { x with mode := .owned }))
    let q : Req := req 0x0B07 ([31#8] ++ zeros 3)
    let p := q.payload
    let k := u8 p 0
    InHand 0x0B07 q s ∧ k ≤ 31 ∧ (getTrg s k).mode = .owned) ∧
    (let s : State := hand 0x0B08 ([2#8, 5, 0, 0]) (id)
    let q : Req := req 0x0B08 ([2#8, 5, 0, 0])
    let p := q.payload
    let k := u8 p 0
    InHand 0x0B08 q s ∧ k ≤ 2 ∧ 1 ≤ u8 p 1 ∧ u8 p 1 ≤ 5) ∧
    (let s : State := hand 0x0B09 ([]) (id)
    let q : Req := req 0x0B09 ([])
    InHand 0x0B09 q s) ∧
    (let s : State := hand 0x0B0A ([0#8, 1, 7, 0]) (id)
    let q : Req := req 0x0B0A ([0#8, 1, 7, 0])
    let p := q.payload
    let k := u8 p 0
    InHand 0x0B0A q s ∧ k ≤ 3 ∧ u8 p 1 ≤ 1 ∧ u16 p 2 < [8, 16, 32, 3].getD k 0) := by
  refine ⟨?_, ?_, ?_, ?_, ?_, ?_, ?_, ?_, ?_, ?_, ?_, ?_, ?_⟩ <;> decide

set_option maxRecDepth 100000 in
theorem test_witness_TimeRegisterRows :
    (let s : State := up
    let k : Nat := 7
    Serving s ∧ k < 8) ∧
    (let s : State := up
    let v : Nat := 1
    Serving s ∧ v % 2 = 1) ∧
    (let s : State := setTb 5 (fun b => { b with locked := true, track := false }) up
    let k : Nat := 5
    let v : Nat := 549755813
    Serving s ∧ k < 7 ∧ (getTb s k).track = false ∧ (getTb s k).locked = true ∧ rateOk (sext 32 v) = true) ∧
    (let s : State := up
    let k : Nat := 6
    let v : Nat := 0
    Serving s ∧ k < 7 ∧ ((getTb s k).track = true ∨ (getTb s k).locked = false ∨ rateOk (sext 32 v) = false)) ∧
    (let s : State := up
    Serving s) ∧
    (let s : State := up
    let k : Nat := 15
    Serving s ∧ k < 16) ∧
    (let s : State := setTrg 31 (fun x => { x with rNs := 1000000000 }) up
    let k : Nat := 31
    let v : Nat := 1
    let x := trgRegs (getTrg s k)
    Serving s ∧ k < 32 ∧ v % 2 = 1 ∧ v / 2 % 2 = 0 ∧ (1000000000 ≤ (getTrg s k).rNs ∨ 2 ≤ x.target ∨ trgSetOk k x = false)) ∧
    (let s : State := up
    let k : Nat := 31
    let v : Nat := 1
    let x := trgRegs (getTrg s k)
    Serving s ∧ k < 32 ∧ v % 2 = 1 ∧ v / 2 % 2 = 0 ∧ (getTrg s k).rNs < 1000000000 ∧ x.target < 2 ∧ trgSetOk k x = true) ∧
    (let s : State := up
    let k : Nat := 31
    let v : Nat := 2
    Serving s ∧ k < 32 ∧ v % 2 = 0 ∧ v / 2 % 2 = 1) ∧
    (let s : State := up
    let k : Nat := 31
    let v : Nat := 3
    Serving s ∧ k < 32 ∧ v % 2 = 1 ∧ v / 2 % 2 = 1) := by
  refine ⟨?_, ?_, ?_, ?_, ?_, ?_, ?_, ?_, ?_, ?_⟩ <;> decide

set_option maxRecDepth 100000 in
theorem test_witness_TimeEventRows :
    (let s : State := setCap 15 (fun x => { x with enable := true }) up
    let c : Nat := 15
    Serving s ∧ c < 16 ∧ (getCap s c).enable = true ∧ (getCap s c).source = 0 ∧ (getCap s c).stuck = false ∧ (getCap s c).minInt = 0 ∧
    (getCap s c).fifo.length < 16) ∧
    (let s : State := setCap 15 (fun x => { x with enable := true, fifo := List.replicate 16 { time := 0, base := 0, stepped := false } }) up
    let c : Nat := 15
    Serving s ∧ c < 16 ∧ (getCap s c).enable = true ∧ (getCap s c).source = 0 ∧ (getCap s c).stuck = false ∧ (getCap s c).minInt = 0 ∧
    16 ≤ (getCap s c).fifo.length) ∧
    (let s : State := setCap 15 (fun x => { x with enable := true, minInt := 5, lastEdge := some 0 }) up
    let c : Nat := 15
    let n := 0
    Serving s ∧ c < 16 ∧ (getCap s c).enable = true ∧ (getCap s c).source = 0 ∧ (getCap s c).minInt ≠ 0 ∧
    (getCap s c).lastEdge = some n ∧ nowNs s < n + (getCap s c).minInt) ∧
    (let s : State := setCap 15 (fun x => { x with enable := true, expect := 1 }) up
    let c : Nat := 15
    Serving s ∧ c < 16 ∧ (getCap s c).enable = true ∧ (getCap s c).expect ≠ 0 ∧ (getCap s c).stuck = false) ∧
    (let s : State := up
    let c : Nat := 31
    Serving s ∧ c < 32 ∧ (getTrg s c).mode = .idle) ∧
    (let s : State := setTrg 31 (fun x => { x with mode := .armed, set := { x.set with time := 10 * nsUnit } }) up
    let c : Nat := 31
    let y := getTrg s c
    let d := (linOf y.set.time + 2 ^ 41 - (if y.set.target = 1 then 2 else 0) - linOf (getTb s y.set.base).v) % 2 ^ 40
    Serving s ∧ c < 32 ∧ y.mode = .armed ∧ d ≠ 0 ∧ d < 2 ^ 39) ∧
    (let s : State := setTrg 31 (fun x => { x with mode := .armed }) up
    let c : Nat := 31
    let y := getTrg s c
    let d := (linOf y.set.time + 2 ^ 41 - (if y.set.target = 1 then 2 else 0) - linOf (getTb s y.set.base).v) % 2 ^ 40
    Serving s ∧ c < 32 ∧ y.mode = .armed ∧ (d = 0 ∨ 2 ^ 39 ≤ d) ∧
    (y.set.period = 0 ∨ (getTb s y.set.base).v ≤ y.set.time + y.set.period * nsUnit)) ∧
    (let s : State := setTrg 31 (fun x => { x with mode := .armed, set := { x.set with base := 7, period := 1 } }) (setTb 7 (fun b => { b with v := 5 * nsUnit }) up)
    let c : Nat := 31
    let y := getTrg s c
    let d := (linOf y.set.time + 2 ^ 41 - (if y.set.target = 1 then 2 else 0) - linOf (getTb s y.set.base).v) % 2 ^ 40
    Serving s ∧ c < 32 ∧ y.mode = .armed ∧ (d = 0 ∨ 2 ^ 39 ≤ d) ∧ y.set.period ≠ 0 ∧
    y.set.time + y.set.period * nsUnit < (getTb s y.set.base).v) ∧
    (let s : State := setTrg 31 (fun x => { x with mode := .owned }) up
    let c : Nat := 31
    Serving s ∧ c < 32 ∧ (getTrg s c).mode = .owned ∧ trgDue s (getTrg s c).set = true) ∧
    (let s : State := setTrg 15 (fun x => { x with pulse := true }) up
    let c : Nat := 15
    Serving s ∧ c < 16 ∧ (getTrg s c).pulse = true) ∧
    (let s : State := setTb 6 (fun b => { b with track := true }) up
    let c : Nat := 6
    Serving s ∧ 4 ≤ c ∧ c < 7 ∧ (getTb s c).track = true ∧ (getTb s c).tsfTimeout ≠ 0 ∧ (getTb s c).stale = false) ∧
    (let s : State := up
    let c : Nat := 2
    Serving s ∧ c < 3) ∧
    (let s : State := openRec 2 1 false up
    let c : Nat := 2
    Serving s ∧ c < 3 ∧ hasOpen s c = true) ∧
    (let s : State := up
    let c : Nat := 2
    Serving s ∧ c < 3 ∧ hasOpen s c = false) ∧
    (let s : State := setRl 2 (fun r => { r with enabled := true }) up
    let m : Bytes := ([0x24#8, 0, 5, 0, 3] ++ zeros 11 : Bytes)
    Serving s ∧ fbHead s 4 true m = true ∧ 1 ≤ u8 m 4 ∧ u8 m 4 ≤ 3 ∧ u8 m 5 = 0) ∧
    (let s : State := setRl 2 (fun r => { r with enabled := true }) up
    let m : Bytes := ([0x25#8, 0, 0xFF, 0x0F] ++ zeros 12 : Bytes)
    Serving s ∧ fbHead s 5 true m = true ∧ fbSta m = 0xFFF ∧ allZero (slice m 4 4) = true) ∧
    (let s : State := setRl 2 (fun r => { r with enabled := true }) up
    let m : Bytes := ([0x24#8, 0, 0xFF, 0x0F] ++ zeros 12 : Bytes)
    Serving s ∧ fbHead s 5 true m = false) ∧
    (let s : State := setRl 2 (fun r => { r with enabled := true }) up
    let m : Bytes := ([0x25#8, 0, 0xFF, 0x0F] ++ zeros 12 : Bytes)
    Serving s ∧ fbHead s 4 true m = false) := by
  refine ⟨?_, ?_, ?_, ?_, ?_, ?_, ?_, ?_, ?_, ?_, ?_, ?_, ?_, ?_, ?_, ?_, ?_, ?_⟩ <;> decide

set_option maxRecDepth 100000 in
theorem test_witness_ChannelRegisterRows :
    (let s : State := up
    let c : Nat := 511
    let r : Nat := 7
    let v : Nat := 0
    let tx : Bool := false
    let x := getCh s c
    let g := ringOf s c tx r
    Serving s ∧ c < nChannels s ∧ r < 8 ∧ v < 2 ^ 32 ∧
    (x.state ≠ .enabled ∨ g.mode = 0 ∨ s.sys.quiescing = true ∨ s.sys.quiesced = true)) ∧
    (let s : State := setRing 511 false 7 (fun g => { g with mode := 1, entries := 16 }) (setCh 511 (fun x => { x with state := .enabled }) up)
    let c : Nat := 511
    let r : Nat := 7
    let v : Nat := 0
    let tx : Bool := false
    let x := getCh s c
    let g := ringOf s c tx r
    Serving s ∧ c < nChannels s ∧ r < 8 ∧ v < 2 ^ 32 ∧ x.state = .enabled ∧ s.sys.quiescing = false ∧ s.sys.quiesced = false ∧
    g.mode = 1 ∧ v = g.prod) ∧
    (let s : State := setRing 511 false 7 (fun g => { g with mode := 1, entries := 16 }) (setCh 511 (fun x => { x with state := .enabled }) up)
    let c : Nat := 511
    let r : Nat := 7
    let v : Nat := 17
    let tx : Bool := false
    let x := getCh s c
    let g := ringOf s c tx r
    Serving s ∧ c < nChannels s ∧ r < 8 ∧ v < 2 ^ 32 ∧ x.state = .enabled ∧ s.sys.quiescing = false ∧ s.sys.quiesced = false ∧
    g.mode = 1 ∧ v ≠ g.prod ∧ (sext 32 (v + 2 ^ 32 - g.prod) < 0 ∨ g.entries < (v + 2 ^ 32 - g.cons) % 2 ^ 32)) ∧
    (let s : State := setRing 511 false 7 (fun g => { g with mode := 1, entries := 16 }) (setCh 511 (fun x => { x with state := .enabled }) up)
    let c : Nat := 511
    let r : Nat := 7
    let v : Nat := 16
    let tx : Bool := false
    let x := getCh s c
    let g := ringOf s c tx r
    Serving s ∧ c < nChannels s ∧ r < 8 ∧ v < 2 ^ 32 ∧ x.state = .enabled ∧ s.sys.quiescing = false ∧ s.sys.quiesced = false ∧
    g.mode = 1 ∧ v ≠ g.prod ∧ ¬ sext 32 (v + 2 ^ 32 - g.prod) < 0 ∧ (v + 2 ^ 32 - g.cons) % 2 ^ 32 ≤ g.entries) ∧
    (let s : State := setRing 511 false 7 (fun g => { g with mode := 2 }) (setCh 511 (fun x => { x with state := .enabled }) up)
    let c : Nat := 511
    let r : Nat := 7
    let v : Nat := 0
    let tx : Bool := false
    let x := getCh s c
    let g := ringOf s c tx r
    Serving s ∧ c < nChannels s ∧ r < 8 ∧ v < 2 ^ 32 ∧ x.state = .enabled ∧ s.sys.quiescing = false ∧ s.sys.quiesced = false ∧
    2 ≤ g.mode) ∧
    (let s : State := up
    let c : Nat := 511
    let r : Nat := 7
    let v : Nat := 7
    Serving s ∧ c < nChannels s ∧ r < 8 ∧ v < 2 ^ 32) ∧
    (let s : State := setVec 511 7 (fun x => { x with maxD := 1, u := 1 }) up
    let c : Nat := 511
    let r : Nat := 7
    let v : Nat := 0
    Serving s ∧ c < nChannels s ∧ r < 8 ∧ v < 2 ^ 32 ∧ (vecOf s c r).maxD ≠ 0 ∧ 0 < (vecOf s c r).u) ∧
    (let s : State := up
    let c : Nat := 511
    let r : Nat := 7
    let v : Nat := 0
    Serving s ∧ c < nChannels s ∧ r < 8 ∧ v < 2 ^ 32 ∧ ((vecOf s c r).maxD = 0 ∨ (vecOf s c r).u = 0)) := by
  refine ⟨?_, ?_, ?_, ?_, ?_, ?_, ?_, ?_⟩ <;> decide

set_option maxRecDepth 100000 in
theorem test_witness_ChannelCommandRows :
    (let s : State := hand 0x0801 (toLe 2 511 ++ [0#8, 0]) (id)
    let q : Req := req 0x0801 (toLe 2 511 ++ [0#8, 0])
    let p := q.payload
    let c := u16 p 0
    let st := (getCh s c).state
    let ok (code : Nat) : Prop := InHand code q s ∧ c < nChannels s ∧ (getCh s c).agent = agentOf q s
    ok 0x0801 ∧ st ≠ .resetting) ∧
    (let s : State := hand 0x0802 (toLe 2 511 ++ [1#8, 7, 1, 0xFF, 0, 0] ++ toLe 8 0x1000 ++ toLe 4 16 ++ toLe 4 1 ++ toLe 8 0x2000) (windowed)
    let q : Req := req 0x0802 (toLe 2 511 ++ [1#8, 7, 1, 0xFF, 0, 0] ++ toLe 8 0x1000 ++ toLe 4 16 ++ toLe 4 1 ++ toLe 8 0x2000)
    let p := q.payload
    let c := u16 p 0
    let st := (getCh s c).state
    let ok (code : Nat) : Prop := InHand code q s ∧ c < nChannels s ∧ (getCh s c).agent = agentOf q s
    ok 0x0802 ∧ ringArgs s c p = none ∧ st = .disabled) ∧
    (let s : State := hand 0x0802 (toLe 2 511 ++ [1#8, 7, 1, 0xFF, 0, 0] ++ toLe 8 0x1000 ++ toLe 4 16 ++ toLe 4 1 ++ toLe 8 0x2000) (fun s => setCh 511 (fun x => { x with state := .enabled }) (windowed s))
    let q : Req := req 0x0802 (toLe 2 511 ++ [1#8, 7, 1, 0xFF, 0, 0] ++ toLe 8 0x1000 ++ toLe 4 16 ++ toLe 4 1 ++ toLe 8 0x2000)
    let p := q.payload
    let c := u16 p 0
    let st := (getCh s c).state
    let ok (code : Nat) : Prop := InHand code q s ∧ c < nChannels s ∧ (getCh s c).agent = agentOf q s
    ok 0x0802 ∧ ringArgs s c p = none ∧ st ≠ .disabled) ∧
    (let s : State := hand 0x0803 (toLe 2 511 ++ [7#8, 0] ++ zeros 12 ++ [1#8, 0, 0, 0] ++ zeros 4) (id)
    let q : Req := req 0x0803 (toLe 2 511 ++ [7#8, 0] ++ zeros 12 ++ [1#8, 0, 0, 0] ++ zeros 4)
    let p := q.payload
    let c := u16 p 0
    let ok (code : Nat) : Prop := InHand code q s ∧ c < nChannels s ∧ (getCh s c).agent = agentOf q s
    ok 0x0803 ∧ u8 p 2 ≤ 7 ∧ u64 p 8 = 0 ∧ u16 p 16 ≠ 0) ∧
    (let s : State := hand 0x0804 (toLe 2 511 ++ [0#8, 0, 16, 0, 0, 0] ++ zeros 128) (id)
    let q : Req := req 0x0804 (toLe 2 511 ++ [0#8, 0, 16, 0, 0, 0] ++ zeros 128)
    let p := q.payload
    let c := u16 p 0
    let ok (code : Nat) : Prop := InHand code q s ∧ c < nChannels s ∧ (getCh s c).agent = agentOf q s
    ok 0x0804 ∧ u8 p 2 = 0 ∧ u8 p 4 ≤ 16) ∧
    (let s : State := hand 0x0804 (toLe 2 511 ++ [1#8, 0] ++ zeros 4 ++ zeros 32) (id)
    let q : Req := req 0x0804 (toLe 2 511 ++ [1#8, 0] ++ zeros 4 ++ zeros 32)
    let p := q.payload
    let c := u16 p 0
    let ok (code : Nat) : Prop := InHand code q s ∧ c < nChannels s ∧ (getCh s c).agent = agentOf q s
    ok 0x0804 ∧ u8 p 2 = 1) ∧
    (let s : State := hand 0x0804 (toLe 2 511 ++ [2#8, 0] ++ zeros 4 ++ zeros 512) (id)
    let q : Req := req 0x0804 (toLe 2 511 ++ [2#8, 0] ++ zeros 4 ++ zeros 512)
    let p := q.payload
    let c := u16 p 0
    let ok (code : Nat) : Prop := InHand code q s ∧ c < nChannels s ∧ (getCh s c).agent = agentOf q s
    ok 0x0804 ∧ u8 p 2 = 2) ∧
    (let s : State := hand 0x0805 (toLe 2 511 ++ zeros 46 ++ List.replicate 128 7#8) (id)
    let q : Req := req 0x0805 (toLe 2 511 ++ zeros 46 ++ List.replicate 128 7#8)
    let p := q.payload
    let c := u16 p 0
    let ok (code : Nat) : Prop := InHand code q s ∧ c < nChannels s ∧ (getCh s c).agent = agentOf q s
    ok 0x0805 ∧ (∀ i ∈ List.range 128, u8 p (48 + i) ≤ 7)) ∧
    (let s : State := hand 0x0806 (toLe 2 511 ++ zeros 10 ++ toLe 4 100000000 ++ toLe 4 100000000 ++ zeros 4) (id)
    let q : Req := req 0x0806 (toLe 2 511 ++ zeros 10 ++ toLe 4 100000000 ++ toLe 4 100000000 ++ zeros 4)
    let p := q.payload
    let c := u16 p 0
    let ok (code : Nat) : Prop := InHand code q s ∧ c < nChannels s ∧ (getCh s c).agent = agentOf q s
    ok 0x0806 ∧ policerArgs p 2 3 4 8 = none ∧ u32 p 12 ≤ 100000000 ∧ u32 p 16 ≤ 100000000) ∧
    (let s : State := hand 0x0807 (toLe 2 511 ++ zeros 2) (id)
    let q : Req := req 0x0807 (toLe 2 511 ++ zeros 2)
    let p := q.payload
    let c := u16 p 0
    let st := (getCh s c).state
    let ok (code : Nat) : Prop := InHand code q s ∧ c < nChannels s ∧ (getCh s c).agent = agentOf q s
    ok 0x0807 ∧ st = .disabled) ∧
    (let s : State := hand 0x0807 (toLe 2 511 ++ zeros 2) (setCh 511 (fun x => { x with state := .enabled }))
    let q : Req := req 0x0807 (toLe 2 511 ++ zeros 2)
    let p := q.payload
    let c := u16 p 0
    let st := (getCh s c).state
    let ok (code : Nat) : Prop := InHand code q s ∧ c < nChannels s ∧ (getCh s c).agent = agentOf q s
    ok 0x0807 ∧ st ≠ .disabled) ∧
    (let s : State := hand 0x0808 (toLe 2 511 ++ zeros 2) (id)
    let q : Req := req 0x0808 (toLe 2 511 ++ zeros 2)
    let p := q.payload
    let c := u16 p 0
    let st := (getCh s c).state
    let ok (code : Nat) : Prop := InHand code q s ∧ c < nChannels s ∧ (getCh s c).agent = agentOf q s
    ok 0x0808 ∧ st = .disabled) ∧
    (let s : State := hand 0x0808 (toLe 2 511 ++ zeros 2) (setCh 511 (fun x => { x with state := .resetting }))
    let q : Req := req 0x0808 (toLe 2 511 ++ zeros 2)
    let p := q.payload
    let c := u16 p 0
    let st := (getCh s c).state
    let ok (code : Nat) : Prop := InHand code q s ∧ c < nChannels s ∧ (getCh s c).agent = agentOf q s
    ok 0x0808 ∧ st = .resetting) ∧
    (let s : State := hand 0x0808 (toLe 2 511 ++ zeros 2) (setCh 511 (fun x => { x with state := .enabled }))
    let q : Req := req 0x0808 (toLe 2 511 ++ zeros 2)
    let p := q.payload
    let c := u16 p 0
    let st := (getCh s c).state
    let ok (code : Nat) : Prop := InHand code q s ∧ c < nChannels s ∧ (getCh s c).agent = agentOf q s
    let t := settleReset 511 (startReset 511 s)
    ok 0x0808 ∧ (st = .enabled ∨ st = .quarantined) ∧ settleReset c (startReset c s) = t) ∧
    (let s : State := hand 0x0809 (toLe 2 511 ++ zeros 2) (id)
    let q : Req := req 0x0809 (toLe 2 511 ++ zeros 2)
    let p := q.payload
    let c := u16 p 0
    let ok (code : Nat) : Prop := InHand code q s ∧ c < nChannels s ∧ (getCh s c).agent = agentOf q s
    ok 0x0809) ∧
    (let s : State := hand 0x080A ([0#8, 1] ++ toLe 2 511) (id)
    let q : Req := req 0x080A ([0#8, 1] ++ toLe 2 511)
    let p := q.payload
    InHand 0x080A q s ∧ u8 p 0 = 0 ∧ u8 p 1 ≤ 1 ∧ u16 p 2 < nChannels s ∧ (getCh s (u16 p 2)).agent = agentOf q s) ∧
    (let s : State := up.updSys fun y => { y with quiesced := true }
    let busy : Nat := (s.ch.vals.map fun x => (x.deliv.filter (!·.bad)).length + x.rxReads.length).sum
    (128 ≤ busy ∨ s.pwr.mode ≠ .active ∨ s.sys.quiesced = true)) ∧
    (let s : State := up
    let q : Req := req 0 []
    let p := q.payload
    let c := u16 p 0
    let busy : Nat := (s.ch.vals.map fun x => (x.deliv.filter (!·.bad)).length + x.rxReads.length).sum
    let front := s.sch.upper.active.take 4
    let u := front.foldl (fun s c => nominateRing c s) s
    let n := (front.filter fun c => u.sch.upper.active.contains c).length
    let d := u.sch.upper.decide (chHead u) (fun c => (getChSch u c).quantum) n
    busy < 128 ∧ s.pwr.mode = .active ∧ s.sys.quiesced = false ∧ d.1 = none) ∧
    (let s : State := ring32
    let q : Req := req 0 []
    let p := q.payload
    let c := u16 p 0
    let busy : Nat := (s.ch.vals.map fun x => (x.deliv.filter (!·.bad)).length + x.rxReads.length).sum
    let front := s.sch.upper.active.take 4
    let u := front.foldl (fun s c => nominateRing c s) s
    let n := (front.filter fun c => u.sch.upper.active.contains c).length
    let d := u.sch.upper.decide (chHead u) (fun c => (getChSch u c).quantum) n
    let w := u.updSch fun t => { t with upper := d.2 }
    let i := 3
    let r := 2
    let cost := 64
    busy < 128 ∧ s.pwr.mode = .active ∧ s.sys.quiesced = false ∧ d.1 = some i ∧ (getChSch w i).nomRing = some r ∧
    chHead w i = some cost) := by
  refine ⟨?_, ?_, ?_, ?_, ?_, ?_, ?_, ?_, ?_, ?_, ?_, ?_, ?_, ?_, ?_, ?_, ?_, ?_, ?_⟩ <;> decide

set_option maxRecDepth 100000 in
theorem test_witness_CrcRows :
    (let s : State := setJob 3 (fun x => { x with state := .running }) up
    let j : Nat := 3
    let v : Nat := 1
    let x := getJob s j
    Serving s ∧ j < 4 ∧ v % 2 = 1 ∧ jobBusy x = true) ∧
    (let s : State := up
    let j : Nat := 3
    let v : Nat := 1
    let x := getJob s j
    let f := v.testBit 2
    Serving s ∧ j < 4 ∧ v % 2 = 1 ∧ jobBusy x = false ∧ (legacyBad x = true ∨ (x.len = 0 ∧ f = false))) ∧
    (let s : State := setJob 3 (fun x => { x with len := 1 }) up
    let j : Nat := 3
    let v : Nat := 1
    let x := getJob s j
    let f := v.testBit 2
    Serving s ∧ j < 4 ∧ v % 2 = 1 ∧ jobBusy x = false ∧ legacyBad x = false ∧ (x.len ≠ 0 ∨ f = true) ∧ x.len ≠ 0 ∧
    inWindow s x.addr x.len = false) ∧
    (let s : State := setJob 3 (fun x => { x with len := 1 }) (windowed up)
    let j : Nat := 3
    let v : Nat := 1
    let x := getJob s j
    Serving s ∧ j < 4 ∧ v % 2 = 1 ∧ jobBusy x = false ∧ legacyBad x = false ∧ x.len ≠ 0 ∧ inWindow s x.addr x.len = true) ∧
    (let s : State := up
    let j : Nat := 3
    let v : Nat := 5
    let x := getJob s j
    let f := v.testBit 2
    Serving s ∧ j < 4 ∧ v % 2 = 1 ∧ jobBusy x = false ∧ legacyBad x = false ∧ x.len = 0 ∧ f = true) ∧
    (let s : State := setJob 3 (fun x => { x with state := .running }) up
    let j : Nat := 3
    let v : Nat := 8
    let x := getJob s j
    Serving s ∧ j < 4 ∧ v % 2 = 0 ∧ v.testBit 3 = true ∧ x.state = .running) ∧
    (let s : State := up
    let j : Nat := 3
    let v : Nat := 8
    let x := getJob s j
    Serving s ∧ j < 4 ∧ v % 2 = 0 ∧ v.testBit 3 = true ∧ x.state ≠ .running) ∧
    (let s : State := setJob 3 (fun x => { x with state := .running }) up
    let j : Nat := 3
    let x := getJob s j
    Serving s ∧ j < 4 ∧ x.state = .running ∧ x.rd = none) ∧
    (let s : State := up
    let j : Nat := 3
    Serving s ∧ j < 4) ∧
    (let s : State := up
    let j : Nat := 3
    Serving s ∧ j < 4 ∧ resultRing s = true) ∧
    (let s : State := { up with build := .bm128 }
    let j : Nat := 3
    Serving s ∧ j < 4 ∧ resultRing s = false) := by
  refine ⟨?_, ?_, ?_, ?_, ?_, ?_, ?_, ?_, ?_, ?_, ?_⟩ <;> decide

set_option maxRecDepth 100000 in
theorem test_witness_PowerEntryRows :
    (let s : State := hand 0x0D01 ([2#8, 0, 0, 0]) (id)
    let q : Req := req 0x0D01 ([2#8, 0, 0, 0])
    let p := q.payload
    InHand 0x0D01 q s ∧ (u8 p 0 = 2 ∨ (u8 p 0 = 1 ∧ canWatch s = true)) ∧ s.gv.running = [] ∧ s.pwr.mode = .active) ∧
    (let s : State := hand 0x0D01 ([1#8, 0, 0, 0]) (id)
    let q : Req := req 0x0D01 ([1#8, 0, 0, 0])
    let p := q.payload
    InHand 0x0D01 q s ∧ (u8 p 0 = 1 ∨ u8 p 0 = 2) ∧ (s.gv.running ≠ [] ∨ s.pwr.mode ≠ .active ∨ (u8 p 0 = 1 ∧ canWatch s = false))) ∧
    (let s : State := ((up).updPwr fun p => { p with mode := .entering }).updGv fun g => { g with running := [req 0x0D01 [2#8, 0, 0, 0]] }
    let q : Req := (req 0x0D01 [2#8, 0, 0, 0] : Req)
    runningFor 0x0D01 s = some q ∧ s.pwr.mode = .entering ∧ s.pwr.committed = false ∧ inflight s = 0) ∧
    (let s : State := thr id
    inflight s ≠ 0) ∧
    (let s : State := ((thr id).updPwr fun p => { p with mode := .entering }).updGv fun g => { g with running := [req 0x0D01 [2#8, 0, 0, 0]] }
    let q : Req := (req 0x0D01 [2#8, 0, 0, 0] : Req)
    runningFor 0x0D01 s = some q ∧ s.pwr.mode = .entering ∧ s.pwr.committed = false ∧ s.pwr.forced = false ∧ inflight s ≠ 0 ∧
    s.pwr.force = false) ∧
    (let s : State := ((thr id).updPwr fun p => { p with mode := .entering, force := true }).updGv fun g => { g with running := [req 0x0D01 [2#8, 0, 0, 0]] }
    let q : Req := (req 0x0D01 [2#8, 0, 0, 0] : Req)
    runningFor 0x0D01 s = some q ∧ s.pwr.mode = .entering ∧ s.pwr.committed = false ∧ s.pwr.forced = false ∧ inflight s ≠ 0 ∧
    s.pwr.force = true) ∧
    (let s : State := ((thr id).updPwr fun p => { p with mode := .entering, forced := true }).updGv fun g => { g with running := [req 0x0D01 [2#8, 0, 0, 0]] }
    let q : Req := (req 0x0D01 [2#8, 0, 0, 0] : Req)
    runningFor 0x0D01 s = some q ∧ s.pwr.mode = .entering ∧ s.pwr.committed = false ∧ s.pwr.forced = true ∧ inflight s ≠ 0) ∧
    (let s : State := up.updSys fun y => { y with quiescing := true }
    s.sys.quiescing = true) ∧
    (let s : State := up
    s.sys.quiescing = false) := by
  refine ⟨?_, ?_, ?_, ?_, ?_, ?_, ?_, ?_, ?_⟩ <;> decide

set_option maxRecDepth 100000 in
theorem test_witness_PowerCommandRows :
    (let s : State := hand 0x0D02 (zeros 28) (id)
    let q : Req := req 0x0D02 (zeros 28)
    let p := q.payload
    InHand 0x0D02 q s ∧ (∀ i ∈ List.range 3, u8 p i < 2 ^ nPorts s) ∧ (∀ n ∈ List.range 4, (u8 p (4 + 6 * n)).testBit 0 = false)) ∧
    (let s : State := hand 0x0D02 ([0#8, 0x0C] ++ zeros 26) (fun s => { s with build := .bm128 })
    let q : Req := req 0x0D02 ([0#8, 0x0C] ++ zeros 26)
    let p := q.payload
    let i := 1
    i < 3 ∧ InHand 0x0D02 q s ∧ (∀ k < i, u8 p k < 2 ^ nPorts s) ∧ 2 ^ nPorts s ≤ u8 p i) ∧
    (let s : State := hand 0x0D02 (zeros 10 ++ [1#8] ++ zeros 17) (id)
    let q : Req := req 0x0D02 (zeros 10 ++ [1#8] ++ zeros 17)
    let p := q.payload
    let n := 1
    n < 4 ∧ InHand 0x0D02 q s ∧ (∀ i ∈ List.range 3, u8 p i < 2 ^ nPorts s) ∧ (∀ k < n, (u8 p (4 + 6 * k)).testBit 0 = false) ∧
    (u8 p (4 + 6 * n)).testBit 0 = true) ∧
    (let s : State := hand 0x0D03 ([15#8] ++ zeros 135) (id)
    let q : Req := req 0x0D03 ([15#8] ++ zeros 135)
    let p := q.payload
    InHand 0x0D03 q s ∧ u8 p 0 ≤ 15 ∧ u8 p 1 < 2 ^ nPorts s ∧ (∀ i ∈ List.range 64, andNot (u8 p (8 + i)) (u8 p (72 + i)) = 0)) ∧
    (let s : State := hand 0x0D03 ([0#8, 0x0C] ++ zeros 134) (fun s => { s with build := .bm128 })
    let q : Req := req 0x0D03 ([0#8, 0x0C] ++ zeros 134)
    let p := q.payload
    InHand 0x0D03 q s ∧ u8 p 0 ≤ 15 ∧ 2 ^ nPorts s ≤ u8 p 1) ∧
    (let s : State := hand 0x0D04 ([]) (id)
    let q : Req := req 0x0D04 ([])
    InHand 0x0D04 q s) ∧
    (let s : State := hand 0x0D05 ([0#8, 1, 0, 0]) (id)
    let q : Req := req 0x0D05 ([0#8, 1, 0, 0])
    let p := q.payload
    InHand 0x0D05 q s ∧ u8 p 0 = 0 ∧ u8 p 1 ≤ 1) ∧
    (let s : State := hand 0x0D05 ([1#8, 1, 0xFF, 0x03]) (id)
    let q : Req := req 0x0D05 ([1#8, 1, 0xFF, 0x03])
    let p := q.payload
    InHand 0x0D05 q s ∧ u8 p 0 = 1 ∧ u8 p 1 ≤ 1 ∧ portCodeOk s (u16 p 2) = true) := by
  refine ⟨?_, ?_, ?_, ?_, ?_, ?_, ?_, ?_⟩ <;> decide

set_option maxRecDepth 100000 in
theorem test_witness_HandshakeRows :
    (let s : State := up.updPwr fun p => { p with req := 0x20000 }
    let k : Nat := 17
    let b : Bool := true
    k < 24 ∧ s.pwr.ack.testBit k ≠ b ∧ s.pwr.req.testBit k = b) ∧
    (let s : State := up.updPwr fun p => { p with retReq := 8 }
    let k : Nat := 3
    let b : Bool := true
    k < 4 ∧ s.pwr.retAck.testBit k ≠ b ∧ s.pwr.retReq.testBit k = b) ∧
    (let s : State := up.updPwr fun p => { p with clkAck := false }
    s.pwr.clkAck = false ∧ s.pwr.clkReq = true) ∧
    (let s : State := up.updPwr fun p => { p with clkReq := false }
    s.pwr.clkAck = true ∧ s.pwr.clkReq = false) ∧
    (let s : State := up
    s.pwr.clkAck = true) ∧
    (let s : State := up.updPwr fun p => { p with clkAck := false }
    s.pwr.clkAck = false) ∧
    (let s : State := up
    let k : Nat := 17
    k < 18 ∧ s.pwr.req.testBit k ≠ s.pwr.ack.testBit k ∧ timedOut s 0 k = false) ∧
    (let s : State := up.updPwr fun p => { p with mode := .dormant }
    s.sys.held = false ∧ (s.pwr.mode = .watch ∨ s.pwr.mode = .dormant)) ∧
    (let s : State := up
    s.sys.held = false ∧ (s.pwr.mode = .active ∨ s.pwr.mode = .entering)) ∧
    (let s : State := up.updPwr fun p => { p with mode := .waking, cause := 5, causeAt := 7 }
    let now := (getTb s 7).v
    s.sys.held = false ∧ s.pwr.mode = .waking ∧ (s.pwr.causeAt ≠ now ∨ s.pwr.cause ≤ 4)) ∧
    (let s : State := up.updPwr fun p => { p with mode := .waking, cause := 5, causeAt := 0 }
    let now := (getTb s 7).v
    s.sys.held = false ∧ s.pwr.mode = .waking ∧ s.pwr.causeAt = now ∧ 4 < s.pwr.cause) ∧
    (let s : State := (setTb 7 (fun b => { b with v := 5 * nsUnit }) up).updPwr fun p => { p with mode := .watch, wakeTime := 1 }
    s.sys.held = false ∧ s.pwr.wakeTime ≠ 0 ∧ s.pwr.wakeTime ≤ nowNs s ∧ (s.pwr.mode = .watch ∨ s.pwr.mode = .dormant)) ∧
    (let s : State := (setTb 7 (fun b => { b with v := 5 * nsUnit }) up).updPwr fun p => { p with mode := .entering, wakeTime := 1 }
    s.sys.held = false ∧ s.pwr.wakeTime ≠ 0 ∧ s.pwr.wakeTime ≤ nowNs s ∧ s.pwr.mode = .entering ∧ s.pwr.heldCause = none) ∧
    (let s : State := (setTb 7 (fun b => { b with v := 5 * nsUnit }) up).updPwr fun p => { p with mode := .active, wakeTime := 1 }
    s.sys.held = false ∧ s.pwr.wakeTime ≠ 0 ∧ s.pwr.wakeTime ≤ nowNs s ∧ s.pwr.mode = .active) ∧
    (let s : State := up
    (s.pwr.wakeTime = 0 ∨ nowNs s < s.pwr.wakeTime)) ∧
    (let s : State := up
    let k : Nat := 31
    Serving s ∧ k < nBanks s ∧ s.store.banks.getD k 4 ≠ 4) ∧
    (let s : State := (setLane 3 (fun l => { l with applied := { mode := 7 } }) (setPort 3 (fun x => { x with link := true }) up)).updPwr fun p => { p with mode := .watch, watchPorts := 8 }
    let k : Nat := 3
    k < nPorts s ∧ watched s k = true ∧ (getPort s k).link = true ∧ laneOn s k = true ∧ s.sys.held = false ∧
    (s.pwr.mode = .entering ∨ s.pwr.mode = .watch ∨ s.pwr.mode = .waking)) := by
  refine ⟨?_, ?_, ?_, ?_, ?_, ?_, ?_, ?_, ?_, ?_, ?_, ?_, ?_, ?_, ?_, ?_, ?_⟩ <;> decide

set_option maxRecDepth 100000 in
theorem test_witness_LaneSignalRows :
    (let s : State := lane3 id
    let n : Nat := 3
    let l := getLane s n
    laneRuns s n = true ∧ l.los = false ∧ pinsUsed l = true ∧ l.rxLpi ≠ .sleep) ∧
    (let s : State := lane3 (fun l => { l with rxLpi := .sleep })
    let n : Nat := 3
    let l := getLane s n
    laneRuns s n = true ∧ l.los = false ∧ pinsUsed l = true ∧ l.rxLpi = .sleep) ∧
    (let s : State := lane3 (fun l => { l with los := true, rxLpi := .quiet })
    let n : Nat := 3
    let l := getLane s n
    laneRuns s n = true ∧ l.los = true ∧ pinsUsed l = true ∧ l.losCounted = false ∧ l.rxLpi = .quiet) ∧
    (let s : State := lane3 (fun l => { l with los := true, losCounted := true })
    let n : Nat := 3
    let l := getLane s n
    laneRuns s n = true ∧ l.los = true ∧ pinsUsed l = true ∧ l.losCounted = true ∧ l.rxLpi ≠ .quiet) ∧
    (let s : State := lane3 (fun l => { l with pll := true })
    let n : Nat := 3
    let l := getLane s n
    laneRuns s n = true ∧ l.pll = true ∧ l.cdr = false ∧ loopback l.applied ≠ 2) ∧
    (let s : State := lane3 (fun l => { l with cdr := true })
    let n : Nat := 3
    let l := getLane s n
    laneRuns s n = true ∧ l.cdr = true ∧ l.rxLpi ≠ .quiet) ∧
    (let s : State := lane3 (fun l => { l with starting := true })
    let n : Nat := 3
    let l := getLane s n
    laneRuns s n = true ∧ l.starting = true) ∧
    (let s : State := lane3 (fun l => { l with retryWait := true })
    let n : Nat := 3
    let l := getLane s n
    laneRuns s n = true ∧ l.retryWait = true) ∧
    (let s : State := lane3 (fun l => { l with pll := true })
    let n : Nat := 3
    let l := getLane s n
    laneRuns s n = true ∧ l.pll = true) ∧
    (let s : State := lane3 (fun l => { l with cdr := true })
    let n : Nat := 3
    let l := getLane s n
    laneRuns s n = true ∧ l.rxReady = false ∧ (loopback l.applied = 2 ∨ l.cdr = true ∧ (l.los = false ∨ pinsUsed l = false))) ∧
    (let s : State := lane3 (fun l => { l with rxReady := true })
    let n : Nat := 3
    let l := getLane s n
    laneRuns s n = true ∧ l.rxReady = true) ∧
    (let s : State := lane3 (fun l => { l with rxReady := true })
    let n : Nat := 3
    let l := getLane s n
    laneRuns s n = true ∧ 2 ≤ laneRate l ∧ l.rxReady = true ∧ l.aligned = false) ∧
    (let s : State := lane3 (fun l => { l with aligned := true })
    let n : Nat := 3
    let l := getLane s n
    laneRuns s n = true ∧ 2 ≤ laneRate l ∧ l.aligned = true ∧ l.rxLpi ≠ .quiet) ∧
    (let s : State := lane3 (fun l => { l with rxReady := true, applied := { mode := 3 } })
    let n : Nat := 3
    let l := getLane s n
    laneRuns s n = true ∧ laneRate l ≤ 1 ∧ l.rxReady = true ∧ l.aligned = false) ∧
    (let s : State := lane3 (fun l => { l with aligned := true, applied := { mode := 3 } })
    let n : Nat := 3
    let l := getLane s n
    laneRuns s n = true ∧ laneRate l ≤ 1 ∧ l.aligned = true ∧ l.rxLpi ≠ .quiet) := by
  refine ⟨?_, ?_, ?_, ?_, ?_, ?_, ?_, ?_, ?_, ?_, ?_, ?_, ?_, ?_, ?_⟩ <;> decide

set_option maxRecDepth 100000 in
theorem test_witness_LaneReceiverRows :
    (let s : State := lane3 id
    let n : Nat := 3
    let a : Nat := 12
    laneRuns s n = true ∧ a ≤ 12) ∧
    (let s : State := lane3 id
    let n : Nat := 3
    let a : Nat := 20
    laneRuns s n = true ∧ 20 ≤ a) ∧
    (let s : State := lane3 id
    let n : Nat := 3
    let a : Nat := 13
    laneRuns s n = true ∧ 12 < a) ∧
    (let s : State := lane3 id
    let n : Nat := 3
    let a : Nat := 19
    laneRuns s n = true ∧ a < 20) ∧
    (let s : State := lane3 id
    let n : Nat := 3
    laneRuns s n = true) ∧
    (let s : State := lane3 (fun l => { l with training := true })
    let n : Nat := 3
    let l := getLane s n
    laneRuns s n = true ∧ l.training = true) ∧
    (let s : State := lane3 (fun l => { l with training := true, rxReady := true })
    let n : Nat := 3
    let l := getLane s n
    laneRuns s n = true ∧ l.training = true ∧ l.rxReady = true) ∧
    (let s : State := lane3 (fun l => { l with training := true })
    let n : Nat := 3
    let l := getLane s n
    laneRuns s n = true ∧ l.training = true ∧ ptAn (getPort s n).applied = 0) ∧
    (let s : State := lane3 (fun l => { l with txLpi := .sleep })
    let n : Nat := 3
    let l := getLane s n
    laneRuns s n = true ∧ l.txLpi = .sleep ∧ bits l.applied.lpi0 29 16 ≠ 0) ∧
    (let s : State := lane3 (fun l => { l with txLpi := .quiet })
    let n : Nat := 3
    let l := getLane s n
    laneRuns s n = true ∧ l.txLpi = .quiet) ∧
    (let s : State := lane3 (fun l => { l with txLpi := .refresh })
    let n : Nat := 3
    let l := getLane s n
    laneRuns s n = true ∧ l.txLpi = .refresh) ∧
    (let s : State := lane3 (fun l => { l with txLpi := .wake })
    let n : Nat := 3
    let l := getLane s n
    laneRuns s n = true ∧ l.txLpi = .wake) ∧
    (let s : State := lane3 (fun l => { l with applied := { mode := 7, lpi0 := 0x07080502 }, rxReady := true, aligned := true })
    let n : Nat := 3
    let l := getLane s n
    laneRuns s n = true ∧ l.applied.lpi0.testBit 1 = true ∧ noLpi l.applied = false ∧ 2 ≤ laneRate l ∧ l.los = false ∧
    l.rxLpi = .active ∧ l.rxReady = true ∧ l.aligned = true) ∧
    (let s : State := lane3 (fun l => { l with applied := { mode := 7, lpi0 := 0x07080502 }, rxLpi := .wake, rxReady := true })
    let n : Nat := 3
    let l := getLane s n
    laneRuns s n = true ∧ l.applied.lpi0.testBit 1 = true ∧ noLpi l.applied = false ∧ 2 ≤ laneRate l ∧ l.los = false ∧
    l.rxLpi = .wake ∧ l.rxReady = true) ∧
    (let s : State := lane3 (fun l => { l with applied := { mode := 7, lpi0 := 0x07080502 }, rxLpi := .sleep })
    let n : Nat := 3
    let l := getLane s n
    laneRuns s n = true ∧ l.applied.lpi0.testBit 1 = true ∧ noLpi l.applied = false ∧ 2 ≤ laneRate l ∧ l.los = false ∧
    l.rxLpi = .sleep) ∧
    (let s : State := lane3 (fun l => { l with rxLpi := .quiet, quietLimit := 7, los := true })
    let n : Nat := 3
    let l := getLane s n
    laneRuns s n = true ∧ l.rxLpi = .quiet ∧ l.quietLimit ≠ 0 ∧ l.los = true ∧ l.losCounted = false) ∧
    (let s : State := lane3 (fun l => { l with rxLpi := .wake })
    let n : Nat := 3
    let l := getLane s n
    laneRuns s n = true ∧ l.rxLpi = .wake ∧ l.aligned = false ∧ l.los = false) ∧
    (let s : State := lane3 (fun l => { l with applied := { mode := 7, prbs := 16 } })
    let n : Nat := 3
    let bs : List Bool := (List.replicate 71 false : List Bool)
    let l := getLane s n
    laneRuns s n = true ∧ l.applied.prbs.testBit 4 = true ∧ l.prbsDone = false ∧ l.prbsLock = false ∧ prbsClean l bs = true) ∧
    (let s : State := lane3 (fun l => { l with applied := { mode := 7, prbs := 16 } })
    let n : Nat := 3
    let bs : List Bool := ([] : List Bool)
    let l := getLane s n
    laneRuns s n = true ∧ l.applied.prbs.testBit 4 = true ∧ l.prbsDone = false ∧ l.prbsLock = false ∧ prbsClean l bs = false) ∧
    (let s : State := lane3 (fun l => { l with applied := { mode := 7, prbs := 16 }, prbsLock := true })
    let n : Nat := 3
    let b : Nat := 1
    let l := getLane s n
    laneRuns s n = true ∧ l.applied.prbs.testBit 4 = true ∧ l.prbsDone = false ∧ l.prbsLock = true ∧
    (bits l.applied.prbs 31 16 = 0 ∨ l.runMbits + b < bits l.applied.prbs 31 16)) ∧
    (let s : State := lane3 (fun l => { l with applied := { mode := 7, prbs := 0x10010 }, prbsLock := true })
    let n : Nat := 3
    let b : Nat := 1
    let l := getLane s n
    laneRuns s n = true ∧ l.applied.prbs.testBit 4 = true ∧ l.prbsDone = false ∧ l.prbsLock = true ∧ bits l.applied.prbs 31 16 ≠ 0 ∧
    bits l.applied.prbs 31 16 ≤ l.runMbits + b) ∧
    (let s : State := lane3 (fun l => { l with applied := { mode := 7, prbs := 16 }, prbsLock := true })
    let n : Nat := 3
    let l := getLane s n
    laneRuns s n = true ∧ l.applied.prbs.testBit 4 = true ∧ l.prbsDone = false ∧ l.prbsLock = true) ∧
    (let s : State := lane3 (fun l => { l with applied := { mode := 7, prbs := 0x10010 }, prbsLock := true })
    let n : Nat := 3
    let l := getLane s n
    laneRuns s n = true ∧ l.applied.prbs.testBit 4 = true ∧ l.prbsDone = false ∧ l.prbsLock = true ∧ bits l.applied.prbs 31 16 ≠ 0) ∧
    (let s : State := (lane3 (fun l => { l with pll := true }))
    let n : Nat := 3
    let o : LineOut := (.idle : LineOut)
    let p : List Bool := ((controlPayload .idle).getD [])
    lineOut s n = o ∧ controlPayload o = some p ∧ 2 ≤ laneRate (getLane s n)) ∧
    (let s : State := setPort 3 (fun p => { p with tx := some { handle := 0, oseq := 0, tc := 0, rewrite := 0xFFFFFFFF, bytes := zeros 60, words := 1 } }) (lane3 fun l => { l with applied := { mode := 0x207 }, pll := true })
    let n : Nat := 3
    let d : Bool := true
    let p : List Bool := ((frameBlock (withFcs (zeros 60)) 1).getD (false, [])).2
    let t : TxFrame := ({ handle := 0, oseq := 0, tc := 0, rewrite := 0xFFFFFFFF, bytes := zeros 60, words := 1 } : TxFrame)
    lineOut s n = .frame ∧ 2 ≤ laneRate (getLane s n) ∧ (getPort s n).tx = some t ∧ t.express = true ∧
    frameBlock (withFcs t.bytes) t.words = some (d, p)) ∧
    (let s : State := lane3 (fun l => { l with pll := true, applied := { mode := 7, prbs := 1 } })
    let n : Nat := 3
    lineOut s n = .pattern) ∧
    (let s : State := lane3 (fun l => { l with pll := false })
    let n : Nat := 3
    lineOut s n = .off) ∧
    (let s : State := setPort 3 (fun p => { p with localF := true }) (lane3 (fun l => { l with pll := true }))
    let n : Nat := 3
    laneOn s n = true ∧ (getLane s n).pll = true ∧ (getLane s n).applied.prbs.testBit 0 = false ∧ loopback (getLane s n).applied ≠ 3 ∧
    (getLane s n).txLpi = .active ∧ (getLane s n).training = false ∧ (ptAn (getPort s n).applied = 0 ∨ (getPort s n).anDone = true) ∧
    (getPort s n).localF = true) ∧
    (let s : State := setPort 3 (fun p => { p with remoteF := true }) (lane3 (fun l => { l with pll := true }))
    let n : Nat := 3
    laneOn s n = true ∧ (getLane s n).pll = true ∧ (getLane s n).applied.prbs.testBit 0 = false ∧ loopback (getLane s n).applied ≠ 3 ∧
    (getLane s n).txLpi = .active ∧ (getLane s n).training = false ∧ (ptAn (getPort s n).applied = 0 ∨ (getPort s n).anDone = true) ∧
    (getPort s n).localF = false ∧ (getPort s n).remoteF = true) := by
  refine ⟨?_, ?_, ?_, ?_, ?_, ?_, ?_, ?_, ?_, ?_, ?_, ?_, ?_, ?_, ?_, ?_, ?_, ?_, ?_, ?_, ?_, ?_, ?_, ?_, ?_, ?_, ?_, ?_,
    ?_⟩ <;> decide

set_option maxRecDepth 100000 in
theorem test_witness_LaneAndPortCommandRows :
    (let s : State := hand 0x0302 ([3#8, 0, 0, 0]) (id)
    let q : Req := req 0x0302 ([3#8, 0, 0, 0])
    let p := q.payload
    let m := u8 p 0
    InHand 0x0302 q s ∧ m < nPorts s) ∧
    (let s : State := hand 0x0303 ([3#8, 0, 0, 0]) (id)
    let q : Req := req 0x0303 ([3#8, 0, 0, 0])
    let p := q.payload
    let m := u8 p 0
    InHand 0x0303 q s ∧ m < nPorts s ∧ u8 p 1 = 0 ∧ (getLane s m).retired = false) ∧
    (let s : State := hand 0x0303 ([3#8, 1, 0, 0]) (setLane 3 (fun l => { l with retired := true }))
    let q : Req := req 0x0303 ([3#8, 1, 0, 0])
    let p := q.payload
    let m := u8 p 0
    InHand 0x0303 q s ∧ m < nPorts s ∧ u8 p 1 = 1 ∧ (getLane s m).retired = true) ∧
    (let s : State := hand 0x0204 ([3#8, 0, 0, 0]) (id)
    let q : Req := req 0x0204 ([3#8, 0, 0, 0])
    let p := q.payload
    let m := u8 p 0
    InHand 0x0204 q s ∧ m < nPorts s) ∧
    (let s : State := hand 0x0205 ([3#8, 8, 0, 0]) (id)
    let q : Req := req 0x0205 ([3#8, 8, 0, 0])
    let p := q.payload
    let m := u8 p 0
    InHand 0x0205 q s ∧ m < nPorts s ∧ 1 ≤ u8 p 1 ∧ u8 p 1 ≤ 8) ∧
    (let s : State := up
    let v : Nat := 16
    Serving s ∧ v % 2 ^ nPorts s = 0) ∧
    (let s : State := setLane 3 (fun l => { l with retired := true }) up
    let v : Nat := 8
    Serving s ∧ v % 2 ^ nPorts s ≠ 0 ∧ applyFails s v = true) ∧
    (let s : State := up
    let v : Nat := 8
    Serving s ∧ v % 2 ^ nPorts s ≠ 0 ∧ applyFails s v = false) ∧
    (let s : State := lane3 (fun l => { l with applied := { mode := 7, prbs := 1 } })
    let n : Nat := 3
    Serving s ∧ n < nPorts s ∧ (getLane s n).applied.prbs.testBit 0 = true) ∧
    (let s : State := up
    let n : Nat := 3
    Serving s ∧ n < nPorts s ∧ (getLane s n).applied.prbs.testBit 0 = false) := by
  refine ⟨?_, ?_, ?_, ?_, ?_, ?_, ?_, ?_, ?_, ?_⟩ <;> decide

set_option maxRecDepth 100000 in
theorem test_witness_LinkRows :
    (let s : State := lane3 (fun l => { l with rxReady := true, aligned := true })
    let n : Nat := 3
    let p := getPort s n
    laneRuns s n = true ∧ p.link = false ∧ linkFault false s n = none) ∧
    (let s : State := lane3 id
    let n : Nat := 3
    let p := getPort s n
    laneRuns s n = true ∧ (p.link = true ∨ linkFault false s n ≠ none)) ∧
    (let s : State := setPort 3 (fun p => { p with holdOver := false }) (lane3 id)
    let n : Nat := 3
    let p := getPort s n
    laneRuns s n = true ∧ n < nPorts s ∧ p.link = false ∧ p.holdOver = false ∧ lowPower s = false) ∧
    (let s : State := lane3 id
    let n : Nat := 3
    let b : Bool := true
    let p := getPort s n
    laneRuns s n = true ∧ p.hiBer ≠ b) ∧
    (let s : State := lane3 id
    let n : Nat := 3
    laneRuns s n = true) ∧
    (let s : State := setPort 3 (fun p => { p with applied := { mode := 0x05F20008 } }) (lane3 id)
    let n : Nat := 3
    let p := getPort s n
    laneRuns s n = true ∧ anRuns s n = true ∧ (ptTrain p.applied = false ∨ (getLane s n).trained = true)) ∧
    (let s : State := setPort 3 (fun p => { p with applied := { mode := 0x05F20008 } }) (lane3 id)
    let n : Nat := 3
    laneRuns s n = true ∧ anRuns s n = true) ∧
    (let s : State := setPort 3 (fun p => { p with anWait := true }) (lane3 id)
    let n : Nat := 3
    let p := getPort s n
    laneRuns s n = true ∧ p.anWait = true ∧ ptAn p.applied = 0) ∧
    (let s : State := setPort 3 (fun p => { p with anWait := true, applied := { mode := 0x05F20008 } }) (lane3 id)
    let n : Nat := 3
    let p := getPort s n
    laneRuns s n = true ∧ p.anWait = true ∧ ptAn p.applied ≠ 0) ∧
    (let s : State := setPort 3 (fun p => { p with anDone := true, applied := { mode := 0x05F20008 } }) (lane3 id)
    let n : Nat := 3
    let p := getPort s n
    laneRuns s n = true ∧ ptAn p.applied ≠ 0 ∧ p.anDone = true ∧ p.link = false) ∧
    (let s : State := link3 (fun p => { p with applied := { mode := 0x05F20020 } })
    let n : Nat := 3
    let p := getPort s n
    laneRuns s n = true ∧ ptEee p.applied = true ∧ ptQbv p.applied = false ∧ p.lpiReq = false ∧
    (watching s = true ∨ (coreOff s = false ∧ p.tx = none ∧ p.rem = none ∧ p.owed = [] ∧ wireOwners s n = [] ∧
    (getGc s n).gen = false))) := by
  refine ⟨?_, ?_, ?_, ?_, ?_, ?_, ?_, ?_, ?_, ?_, ?_⟩ <;> decide

set_option maxRecDepth 100000 in
theorem test_witness_WirePortRows :
    (let s : State := link3 (fun p => { p with xoff := 0 })
    let n : Nat := 3
    let p := getPort s n
    pinsUsed (getLane s n) = true ∧ laneRuns s n = true ∧ p.link = true ∧ checking (getLane s n) = false ∧ coreOff s = false ∧
    loopback (getLane s n).applied ≠ 3 ∧ s.pwr.mode = .active ∧ s.sys.quiescing = false ∧ s.sys.quiesced = false) ∧
    (let s : State := (link3 (fun p => { p with xoff := 0 })).updSys (fun y => { y with quiescing := true })
    let n : Nat := 3
    let rx : RxFrame := ({ data := [] } : RxFrame)
    let p := getPort s n
    pinsUsed (getLane s n) = true ∧ laneRuns s n = true ∧ p.link = true ∧ checking (getLane s n) = false ∧ coreOff s = false ∧
    loopback (getLane s n).applied ≠ 3 ∧ s.pwr.mode = .active ∧ rx.kind = .express ∧
    (s.sys.quiescing = true ∨ s.sys.quiesced = true)) ∧
    (let s : State := lane3 (fun l => { l with pll := true, applied := { mode := 0x307 } })
    let n : Nat := 3
    loopback (getLane s n).applied = 3 ∧ lineOut s n = .retimed) ∧
    (let s : State := up
    let n : Nat := 3
    let p := getPort s n
    p.link = false ∧ loopback (getLane s n).applied ≠ 3) ∧
    (let s : State := lane3 (fun l => { l with applied := { mode := 0x107 } })
    let n : Nat := 3
    let rx : RxFrame := ({ data := [] } : RxFrame)
    pinsUsed (getLane s n) = false ∧ rx.kind ≠ .respond) ∧
    (let s : State := link3 (fun p => { p with applied := { flow := 2 } })
    let n : Nat := 3
    let p := getPort s n
    fcMode p = 2) ∧
    (let s : State := link3 (fun p => { p with applied := { flow := 9 }, xoff := 1, xoffSent := 256, occ := [(0, 1)] })
    let n : Nat := 3
    let p := getPort s n
    p.xoff ≠ 0 ∧ txFc p = true ∧ p.refresh ≠ 0 ∧ fcMode p = 1 ∧ p.xoffSent.testBit 8 = true ∧ p.xoff ≤ occSum p) ∧
    (let s : State := link3 (fun p => { p with owed := [(8, 5)] })
    let n : Nat := 3
    let p := getPort s n
    let k := 8
    let x := 5
    let l := ([] : List (Nat × Nat))
    mayTransmit s n = true ∧ p.tx = none ∧ egressStops s = false ∧ p.owed = (k, x) :: l) ∧
    (let s : State := setGc 3 (fun g => { g with gen := true }) (link3 id)
    let n : Nat := 3
    let p := getPort s n
    mayTransmit s n = true ∧ p.tx = none ∧ egressStops s = false ∧ p.owed = [] ∧ (getGc s n).gen = true) ∧
    (let s : State := link3 id
    let n : Nat := 3
    let p := getPort s n
    mayTransmit s n = true ∧ p.tx = none ∧ egressStops s = false ∧ p.owed = [] ∧ (getGc s n).gen = false) ∧
    (let s : State := up
    let n : Nat := 3
    mayTransmit s n = false) ∧
    (let s : State := link3 (fun p => { p with tx := some { handle := 0, oseq := 0, tc := 0, rewrite := 0xFFFFFFFF, bytes := zeros 60, reading := true } })
    let n : Nat := 3
    let tc : Nat := 0
    let p := getPort s n
    let t := ({ handle := 0, oseq := 0, tc := 0, rewrite := 0xFFFFFFFF, bytes := zeros 60, reading := true } : TxFrame)
    coreOff s = false ∧ p.tx = some t ∧ t.reading = true) ∧
    (let s : State := link3 (fun p => { p with tx := some { handle := 0, oseq := 0, tc := 0, rewrite := 0xFFFFFFFF, bytes := zeros 60, control := true } })
    let n : Nat := 3
    let tc : Nat := 0
    let p := getPort s n
    let t := ({ handle := 0, oseq := 0, tc := 0, rewrite := 0xFFFFFFFF, bytes := zeros 60, control := true } : TxFrame)
    coreOff s = false ∧ p.tx = some t ∧ t.reading = false ∧ t.control = true ∧ t.gen = false) ∧
    (let s : State := stored (link3 (fun p => { p with tx := some { handle := 0, oseq := 0, tc := 0, rewrite := 0xFFFFFFFF, bytes := zeros 60 } }))
    let n : Nat := 3
    let tc : Nat := 0
    let p := getPort s n
    let t := ({ handle := 0, oseq := 0, tc := 0, rewrite := 0xFFFFFFFF, bytes := zeros 60 } : TxFrame)
    let b := (((getBuf s 0).getD buf0) : Buf)
    let u := countTx n t (setPort n endTx s)
    coreOff s = false ∧ p.tx = some t ∧ t.reading = false ∧ t.control = false ∧ t.gen = false ∧ u = countTx n t (setPort n endTx s) ∧
    getBuf u t.handle = some b) ∧
    (let s : State := link3 (fun p => { p with gclNext := some { tb := 7, entries := [(0xFF, 500), (0xFF, 500)], base := 0, cycle := 1000, ext := 0 } })
    let n : Nat := 3
    let p := getPort s n
    let g := ({ tb := 7, entries := [(0xFF, 500), (0xFF, 500)], base := 0, cycle := 1000, ext := 0 } : Gcl)
    coreOff s = false ∧ p.gclNext = some g) ∧
    (let s : State := link3 (fun p => { p with gcl := some { tb := 7, entries := [(0xFF, 500), (0xFF, 500)], base := 0, cycle := 1000, ext := 0 } })
    let n : Nat := 3
    let p := getPort s n
    let g := ({ tb := 7, entries := [(0xFF, 500), (0xFF, 500)], base := 0, cycle := 1000, ext := 0 } : Gcl)
    coreOff s = false ∧ p.gcl = some g ∧ p.tx = none ∧ p.entry + 1 < g.segs.length) ∧
    (let s : State := up
    let n : Nat := 3
    let p := getPort s n
    coreOff s = false ∧ p.gcl = none) ∧
    (let s : State := up
    let n : Nat := 3
    let p := getPort s n
    coreOff s = false ∧ p.gclNext = none) ∧
    (let s : State := link3 (fun p => { p with verify := 1, verifyN := 2 })
    let n : Nat := 3
    let p := getPort s n
    coreOff s = false ∧ p.verify = 1 ∧ p.link = true ∧ p.verifyN < 3) ∧
    (let s : State := link3 (fun p => { p with verify := 1, verifyN := 3 })
    let n : Nat := 3
    let p := getPort s n
    coreOff s = false ∧ p.verify = 1 ∧ p.link = true ∧ 3 ≤ p.verifyN) ∧
    (let s : State := setWire 3 (fun w => { w with nom := [(0, { sq := 0, qe := { h := 0, oseq := 0 }, since := 0 })] }) (stored (link3 (fun p => { p with applied := { preempt := 0x00090012 }, gcl := some { tb := 7, entries := [(0xFE, 500), (0xFE, 500)], base := 0, cycle := 1000, ext := 0 } })))
    let n : Nat := 3
    let tc : Nat := 0
    let p := getPort s n
    let x := ({ sq := 0, qe := { h := 0, oseq := 0 }, since := 0 } : Nom)
    let g := ({ tb := 7, entries := [(0xFE, 500), (0xFE, 500)], base := 0, cycle := 1000, ext := 0 } : Gcl)
    let u := prepareHead n tc (classDepth s n tc) s
    coreOff s = false ∧ p.tx.any (·.reading) = false ∧ u = prepareHead n tc (classDepth s n tc) s ∧
    (getWire u n).nom.get? tc = some x ∧ (getPort u n).gcl = some g ∧ ptQbv (getPort u n).applied = true ∧
    fits 0 (needBytes (getPort u n) tc (wireLen u x.qe) 0) (rateMbps (laneRate (getLane u n))) (longestWindow g tc) = false) ∧
    (let s : State := setWire 3 (fun w => { w with nom := [(0, { sq := 0, qe := { h := 0, oseq := 0 }, since := 0 })] }) (stored (link3 (fun p => { p with applied := { preempt := 0x00090012 }, gcl := some { tb := 7, entries := [(0xFF, 500), (0xFF, 500)], base := 0, cycle := 1000, ext := 0 } })))
    let n : Nat := 3
    let tc : Nat := 0
    let p := getPort s n
    let x := ({ sq := 0, qe := { h := 0, oseq := 0 }, since := 0 } : Nom)
    let g := ({ tb := 7, entries := [(0xFF, 500), (0xFF, 500)], base := 0, cycle := 1000, ext := 0 } : Gcl)
    let u := prepareHead n tc (classDepth s n tc) s
    coreOff s = false ∧ p.tx.any (·.reading) = false ∧ u = prepareHead n tc (classDepth s n tc) s ∧
    (getWire u n).nom.get? tc = some x ∧ (getPort u n).gcl = some g ∧ ptQbv (getPort u n).applied = true ∧
    fits 0 (needBytes (getPort u n) tc (wireLen u x.qe) 0) (rateMbps (laneRate (getLane u n))) (longestWindow g tc) = true) := by
  refine ⟨?_, ?_, ?_, ?_, ?_, ?_, ?_, ?_, ?_, ?_, ?_, ?_, ?_, ⟨by decide, by decide, by decide, by decide, by decide, rfl, rfl⟩,
    ?_, ?_, ?_, ?_, ?_, ?_, ⟨by decide, by decide, rfl, by decide, by decide, by decide, by decide⟩, ⟨by decide, by decide, rfl,
    by decide, by decide, by decide, by decide⟩⟩ <;> decide

set_option maxRecDepth 100000 in
theorem test_witness_SpillMoverRows :
    (let s : State := setQ (.wire 3 0 0) (List.replicate 64 { h := 1, oseq := 0 } ++ [{ h := 0, oseq := 0 }]) (setPool 0 (fun c => { c with state := .spilling }) (stored up))
    let p : Nat := 0
    let e : QE := ({ h := 0, oseq := 0 } : QE)
    coreOff s = false ∧ p < 4 ∧ (getPool s p).state = .spilling ∧ movesOut s < 32 ∧ moverOpen s = true ∧ selectSpill s p = some e) ∧
    (let s : State := setPool 0 (fun c => { c with state := .spilling }) up
    let p : Nat := 0
    coreOff s = false ∧ p < 4 ∧ (getPool s p).state = .spilling ∧ movesOut s < 32 ∧ moverOpen s = true ∧ selectSpill s p = none) ∧
    (let s : State := up
    let p : Nat := 0
    coreOff s = false ∧ (getPool s p).state ≠ .spilling) ∧
    (let s : State := (setBuf 0 { buf0 with loc := .movingOut 0 0 5, mv := some 4 } up).updHost fun h => { h with xfers := [{ xfer0 with id := 4, err := false, data := [] }] }
    let h : Nat := 0
    let b : Buf := ({ buf0 with loc := .movingOut 0 0 5, mv := some 4 } : Buf)
    let i : Nat := 5
    let k : Nat := 0
    let j : Nat := 0
    let x := ({ xfer0 with id := 4, err := false, data := [] } : Xfer)
    coreOff s = false ∧ getBuf s h = some b ∧ b.loc = .movingOut k j i ∧ b.mv.bind (getXfer s) = some x ∧ x.finished = true ∧
    x.err = false) ∧
    (let s : State := (setBuf 0 { buf0 with loc := .movingOut 0 0 5, mv := some 4 } up).updHost fun h => { h with xfers := [{ xfer0 with id := 4, err := true, data := [] }] }
    let h : Nat := 0
    let b : Buf := ({ buf0 with loc := .movingOut 0 0 5, mv := some 4 } : Buf)
    let i : Nat := 5
    let k : Nat := 0
    let j : Nat := 0
    let x := ({ xfer0 with id := 4, err := true, data := [] } : Xfer)
    coreOff s = false ∧ getBuf s h = some b ∧ b.loc = .movingOut k j i ∧ b.mv.bind (getXfer s) = some x ∧ x.finished = true ∧
    x.err = true) ∧
    (let s : State := (setQ (.wire 3 0 0) [{ h := 0, oseq := 0 }] (setBuf 0 { buf0 with loc := .lodged 5 } up)).updHost (fun h => { h with dram := { base := 0x100000, size := 0x200000, set := true } })
    let p : Nat := 0
    let e : QE := ({ h := 0, oseq := 0 } : QE)
    let b : Buf := ({ buf0 with loc := .lodged 5 } : Buf)
    let i : Nat := 5
    let k : Nat := 0
    let j : Nat := 0
    coreOff s = false ∧ p < 4 ∧ (getPool s p).state ≠ .spilling ∧ (getPool s p).high ≠ 0 ∧ movesIn s < 32 ∧ moverOpen s = true ∧
    selectReturn s p = some e ∧ freeSram s p = some (k, j) ∧ getBuf s e.h = some b ∧ b.loc = .lodged i ∧
    regionOk s (dramAddr s p i) (bufSize p) = true) ∧
    (let s : State := (setBuf 0 { buf0 with loc := .movingIn 0 0 5, mv := some 4 } up).updHost fun h => { h with xfers := [{ xfer0 with id := 4, err := false, data := back0 }] }
    let h : Nat := 0
    let b : Buf := ({ buf0 with loc := .movingIn 0 0 5, mv := some 4 } : Buf)
    let i : Nat := 5
    let k : Nat := 0
    let j : Nat := 0
    let x := ({ xfer0 with id := 4, err := false, data := back0 } : Xfer)
    let ok : Bool := imageGood h b.oseq b.data.length x.data
    coreOff s = false ∧ getBuf s h = some b ∧ b.loc = .movingIn k j i ∧ b.mv.bind (getXfer s) = some x ∧ x.finished = true ∧
    x.err = false ∧ ok = true) ∧
    (let s : State := (setBuf 0 { buf0 with loc := .movingIn 0 0 5, mv := some 4 } up).updHost fun h => { h with xfers := [{ xfer0 with id := 4, err := true, data := [] }] }
    let h : Nat := 0
    let b : Buf := ({ buf0 with loc := .movingIn 0 0 5, mv := some 4 } : Buf)
    let i : Nat := 5
    let k : Nat := 0
    let j : Nat := 0
    let x := ({ xfer0 with id := 4, err := true, data := [] } : Xfer)
    let ok : Bool := imageGood h b.oseq b.data.length x.data
    coreOff s = false ∧ getBuf s h = some b ∧ b.loc = .movingIn k j i ∧ b.mv.bind (getXfer s) = some x ∧ x.finished = true ∧
    (x.err = true ∨ ok = false)) ∧
    (let s : State := up.updHost fun h => { h with xfers := [{ xfer0 with purp := .freeRead 0, err := true }] }
    let p : Nat := 0
    let x := ({ xfer0 with purp := .freeRead 0, err := true } : Xfer)
    let t := dropXfer 0 s
    coreOff s = false ∧ p < 4 ∧ takeDone s (fun y => decide (y = .freeRead p)) = some (x, t) ∧ x.err = true) ∧
    (let s : State := up.updHost fun h => { h with xfers := [{ xfer0 with purp := .freeRead 0 }] }
    let p : Nat := 0
    let x := ({ xfer0 with purp := .freeRead 0 } : Xfer)
    let t := dropXfer 0 s
    coreOff s = false ∧ p < 4 ∧ takeDone s (fun y => decide (y = .freeRead p)) = some (x, t) ∧ x.err = false) ∧
    (let s : State := up
    let p : Nat := 0
    coreOff s = false ∧ p < 4 ∧ takeDone s (fun y => decide (y = .freeRead p)) = none ∧ (getPool s p).refill = false) ∧
    (let s : State := setPool 0 (fun c => { c with refill := true }) up
    let p : Nat := 0
    coreOff s = false ∧ p < 4 ∧ (getPool s p).refill = true ∧ s.host.xfers.any (fun x => decide (x.purp = .freeRead p)) = false) ∧
    (let s : State := up
    let p : Nat := 0
    coreOff s = false ∧ (getPool s p).refill = false) ∧
    (let s : State := (stored up).updStore (fun t => { t with retire := [{ bank := 0, cause := 1 }] })
    let h : Nat := 0
    let b : Buf := buf0
    let k : Nat := 0
    let j : Nat := 0
    let k2 := 1
    let j2 := 0
    let t := touchBuf h s
    coreOff s = false ∧ getBuf s h = some b ∧ b.loc = .sram k j ∧ emptying s k = true ∧ b.pins = 0 ∧ verifies t h b.oseq = true ∧
    freeSram t (hPool h) (some k) = some (k2, j2)) ∧
    (let s : State := up
    let h : Nat := 7
    coreOff s = false ∧ getBuf s h = none) := by
  refine ⟨?_, ?_, ?_, ⟨by decide, rfl, by decide, by decide, by decide, by decide⟩, ⟨by decide, rfl, by decide, by decide,
    by decide, by decide⟩, ⟨by decide, by decide, by decide, by decide, by decide, by decide, by decide, by decide, rfl, by decide,
    by decide⟩, ⟨by decide, rfl, by decide, by decide, by decide, by decide, by decide +kernel⟩, ⟨by decide, rfl, by decide,
    by decide, by decide, by decide⟩, ?_, ?_, ?_, ?_, ?_, ⟨by decide, rfl, by decide, by decide, by decide, by decide +kernel,
    by decide⟩, ?_⟩ <;> decide

set_option maxRecDepth 100000 in
theorem test_witness_StoreSchedulerAndStationCommandRows :
    (let s : State := hand 0x0401 ([29#8, 1, 1, 1] ++ zeros 8) (fun s => s.updSys fun y => { y with phase := 1 })
    let q : Req := req 0x0401 ([29#8, 1, 1, 1] ++ zeros 8)
    let p := q.payload
    let banks := (List.range 4).map fun i => u8 p i
    let units := (List.range 4).map fun i => u16 p (4 + 2 * i)
    InHand 0x0401 q s ∧ (∀ x ∈ banks, x ≤ 32) ∧ banks.sum = unretired s ∧ units.sum * 2097152 ≤ s.host.dram.size ∧
    (∀ i ∈ List.range 4, banks.getD i 0 ≠ 0 ∨ units.getD i 0 * 2097152 / bufSize i ≠ 0) ∧ s.sys.phase = 1) ∧
    (let s : State := hand 0x0401 ([29#8, 1, 1, 0] ++ zeros 8) (id)
    let q : Req := req 0x0401 ([29#8, 1, 1, 0] ++ zeros 8)
    let p := q.payload
    let banks := (List.range 4).map fun i => u8 p i
    InHand 0x0401 q s ∧ banks.sum ≠ unretired s) ∧
    (let s : State := hand 0x0403 ([]) (id)
    let q : Req := req 0x0403 ([])
    InHand 0x0403 q s) ∧
    (let s : State := hand 0x0404 ([0#8, 3, 0, 0, 1, 0, 0, 0]) (id)
    let q : Req := req 0x0404 ([0#8, 3, 0, 0, 1, 0, 0, 0])
    let p := q.payload
    InHand 0x0404 q s ∧ u8 p 0 = 0 ∧ u8 p 1 ≤ 3 ∧ u8 p 4 ≤ 1) ∧
    (let s : State := hand 0x0404 ([1#8, 0, 0xFF, 0x03, 1, 0, 0, 0]) (id)
    let q : Req := req 0x0404 ([1#8, 0, 0xFF, 0x03, 1, 0, 0, 0])
    let p := q.payload
    let id := u16 p 2
    InHand 0x0404 q s ∧ u8 p 0 = 1 ∧ portCodeOk s (id % 4096) = true ∧ u8 p 4 ≤ 1) ∧
    (let s : State := hand 0x0405 ([31#8, 0, 0, 0]) (id)
    let q : Req := req 0x0405 ([31#8, 0, 0, 0])
    let p := q.payload
    InHand 0x0405 q s ∧ u8 p 0 < nBanks s ∧ s.store.banks.getD (u8 p 0) 4 ≠ 4 ∧ s.store.retire = [] ∧
    retireStarves s (u8 p 0) = false) ∧
    (let s : State := hand 0x0A04 ([0#8, 0, 3, 0]) (id)
    let q : Req := req 0x0A04 ([0#8, 0, 3, 0])
    let p := q.payload
    let id := u16 p 2
    InHand 0x0A04 q s ∧ u8 p 0 = 0 ∧ id < nPorts s ∧ agentOf q s = 0) ∧
    (let s : State := hand 0x0A04 ([1#8, 0, 0xFF, 0x01]) (id)
    let q : Req := req 0x0A04 ([1#8, 0, 0xFF, 0x01])
    let p := q.payload
    let id := u16 p 2
    InHand 0x0A04 q s ∧ u8 p 0 = 1 ∧ id < nChannels s ∧ (getCh s id).agent = agentOf q s) ∧
    (let s : State := hand 0x0A05 ([0#8, 1, 3, 0]) (id)
    let q : Req := req 0x0A05 ([0#8, 1, 3, 0])
    let p := q.payload
    let id := u16 p 2
    InHand 0x0A05 q s ∧ u8 p 0 = 0 ∧ u8 p 1 ≤ 1 ∧ id < nPorts s ∧ agentOf q s = 0) ∧
    (let s : State := hand 0x0A05 ([1#8, 1, 0xFF, 0x03]) (id)
    let q : Req := req 0x0A05 ([1#8, 1, 0xFF, 0x03])
    let p := q.payload
    let id := u16 p 2
    InHand 0x0A05 q s ∧ u8 p 0 = 1 ∧ u8 p 1 ≤ 1 ∧ portCodeOk s id = true) ∧
    (let s : State := hand 0x0901 (toLe 2 1023 ++ [0#8, 7, 0, 0, 0, 0] ++ toLe 4 1000 ++ toLe 4 1000 ++ toLe 4 1000 ++ toLe 4 10000000 ++ [1#8, 0, 1, 0, 1, 0, 1, 0] ++ zeros 8) (id)
    let q : Req := req 0x0901 (toLe 2 1023 ++ [0#8, 7, 0, 0, 0, 0] ++ toLe 4 1000 ++ toLe 4 1000 ++ toLe 4 1000 ++ toLe 4 10000000 ++ [1#8, 0, 1, 0, 1, 0, 1, 0] ++ zeros 8)
    let p := q.payload
    let st := u16 p 0
    let x := getSta s st
    InHand 0x0901 q s ∧ staSetArgs q s = none ∧ u8 p 2 = 0 ∧ x.state = .free) ∧
    (let s : State := hand 0x0901 (toLe 2 1023 ++ [0#8, 7, 0, 0, 0, 0] ++ toLe 4 1000 ++ toLe 4 1000 ++ toLe 4 1000 ++ toLe 4 10000000 ++ [1#8, 0, 1, 0, 1, 0, 1, 0] ++ zeros 8) (setSta 1023 (fun x => { x with state := .active }))
    let q : Req := req 0x0901 (toLe 2 1023 ++ [0#8, 7, 0, 0, 0, 0] ++ toLe 4 1000 ++ toLe 4 1000 ++ toLe 4 1000 ++ toLe 4 10000000 ++ [1#8, 0, 1, 0, 1, 0, 1, 0] ++ zeros 8)
    let p := q.payload
    let st := u16 p 0
    let x := getSta s st
    InHand 0x0901 q s ∧ staSetArgs q s = none ∧ u8 p 2 = 0 ∧ x.state ≠ .free) ∧
    (let s : State := hand 0x0902 (toLe 2 1023 ++ zeros 2) (setSta 1023 (fun x => { x with state := .active }))
    let q : Req := req 0x0902 (toLe 2 1023 ++ zeros 2)
    let p := q.payload
    let st := u16 p 0
    let x := getSta s st
    InHand 0x0902 q s ∧ staArg q s = none ∧ x.state = .active) ∧
    (let s : State := hand 0x0903 (toLe 2 1023 ++ [15#8, 0]) (setSta 1023 (fun x => { x with state := .active }))
    let q : Req := req 0x0903 (toLe 2 1023 ++ [15#8, 0])
    let p := q.payload
    let st := u16 p 0
    let x := getSta s st
    InHand 0x0903 q s ∧ staArg q s = none ∧ u8 p 2 ≠ 0 ∧ x.state = .active) ∧
    (let s : State := hand 0x0904 (toLe 2 1023 ++ zeros 2) (id)
    let q : Req := req 0x0904 (toLe 2 1023 ++ zeros 2)
    InHand 0x0904 q s ∧ staArg q s = none) ∧
    (let s : State := hand 0x0905 ([0#8, 1] ++ toLe 2 1023) (id)
    let q : Req := req 0x0905 ([0#8, 1] ++ toLe 2 1023)
    let p := q.payload
    InHand 0x0905 q s ∧ u8 p 0 = 0 ∧ u8 p 1 ≤ 1 ∧ u16 p 2 < nStations s ∧ (getSta s (u16 p 2)).agent = agentOf q s) ∧
    (let s : State := hand 0x0906 ([2#8, 0, 7, 0] ++ [1#8, 0, 0, 1] ++ zeros 8 ++ toLe 2 10336 ++ zeros 6) (id)
    let q : Req := req 0x0906 ([2#8, 0, 7, 0] ++ [1#8, 0, 0, 1] ++ zeros 8 ++ toLe 2 10336 ++ zeros 6)
    let p := q.payload
    let l := u8 p 0
    InHand 0x0906 q s ∧ l < 3 ∧ u8 p 1 ≤ 1 ∧ u8 p 2 ≤ 7 ∧ le p 4 3 ≠ 0 ∧ u8 p 7 ≠ 0 ∧ 64 ≤ u16 p 16 ∧ u16 p 16 ≤ 10336 ∧
    (getRl s l).enabled = decide (u8 p 1 = 1)) ∧
    (let s : State := hand 0x0906 ([2#8, 1, 7, 0] ++ [1#8, 0, 0, 1] ++ zeros 8 ++ toLe 2 10336 ++ zeros 6) (id)
    let q : Req := req 0x0906 ([2#8, 1, 7, 0] ++ [1#8, 0, 0, 1] ++ zeros 8 ++ toLe 2 10336 ++ zeros 6)
    let p := q.payload
    let l := u8 p 0
    InHand 0x0906 q s ∧ l < 3 ∧ u8 p 1 ≤ 1 ∧ u8 p 2 ≤ 7 ∧ le p 4 3 ≠ 0 ∧ u8 p 7 ≠ 0 ∧ 64 ≤ u16 p 16 ∧ u16 p 16 ≤ 10336 ∧
    (getRl s l).enabled = false ∧ u8 p 1 = 1) ∧
    (let s : State := hand 0x0906 ([2#8, 0, 7, 0] ++ [1#8, 0, 0, 1] ++ zeros 8 ++ toLe 2 10336 ++ zeros 6) (setRl 2 (fun r => { r with enabled := true }))
    let q : Req := req 0x0906 ([2#8, 0, 7, 0] ++ [1#8, 0, 0, 1] ++ zeros 8 ++ toLe 2 10336 ++ zeros 6)
    let p := q.payload
    let l := u8 p 0
    InHand 0x0906 q s ∧ l < 3 ∧ u8 p 1 ≤ 1 ∧ u8 p 2 ≤ 7 ∧ le p 4 3 ≠ 0 ∧ u8 p 7 ≠ 0 ∧ 64 ≤ u16 p 16 ∧ u16 p 16 ≤ 10336 ∧
    (getRl s l).enabled = true ∧ u8 p 1 = 0) ∧
    (let s : State := hand 0x0907 ([2#8, 0, 0, 0]) (id)
    let q : Req := req 0x0907 ([2#8, 0, 0, 0])
    let p := q.payload
    let l := u8 p 0
    InHand 0x0907 q s ∧ l < 3) := by
  refine ⟨?_, ?_, ?_, ?_, ?_, ?_, ?_, ?_, ?_, ?_, ?_, ?_, ?_, ?_, ?_, ?_, ?_, ?_, ?_, ?_⟩ <;> decide

set_option maxRecDepth 100000 in
theorem test_witness_FeedbackAndRequestRowsComplete :
    (let s : State := setRl 2 (fun r => { r with enabled := true, rateTo := 1000 }) (setSta 5 (fun x => { x with state := .active, links := 4 }) up)
    let m : Bytes := ([0x21#8, 0, 5, 0, 1, 0, 0, 1] ++ zeros 8 : Bytes)
    let l : Nat := 2
    let st : Nat := 5
    m.length = 16 ∧ l < 3 ∧ coreOff s = false ∧ (getRl s l).enabled = true ∧ u8 m 1 = 0 ∧ u16 m 2 = st ∧
    (getSta s st).state = .active ∧ u8 m 0 = 1 + 16 * l ∧ st < nStations s ∧ (getSta s st).links.testBit l = true ∧ le m 4 3 ≠ 0 ∧
    u8 m 7 ≠ 0 ∧ allZero (slice m 10 6) = true) ∧
    (let s : State := setRl 2 (fun r => { r with enabled := true, rateTo := 1000 }) (setSta 5 (fun x => { x with state := .active, links := 4 }) up)
    let m : Bytes := ([0x22#8, 0, 5, 0] ++ toLe 4 1000 ++ zeros 8 : Bytes)
    let l : Nat := 2
    let st : Nat := 5
    m.length = 16 ∧ l < 3 ∧ coreOff s = false ∧ (getRl s l).enabled = true ∧ u8 m 1 = 0 ∧ u16 m 2 = st ∧
    (getSta s st).state = .active ∧ u8 m 0 = 2 + 16 * l ∧ st < nStations s ∧ (getSta s st).links.testBit l = true ∧
    allZero (slice m 10 6) = true) ∧
    (let s : State := setRl 2 (fun r => { r with enabled := true, rateTo := 1000 }) (setSta 5 (fun x => { x with state := .active, links := 4 }) up)
    let m : Bytes := ([0x23#8, 0, 5, 0, 1] ++ zeros 11 : Bytes)
    let l : Nat := 2
    let st : Nat := 5
    m.length = 16 ∧ l < 3 ∧ coreOff s = false ∧ (getRl s l).enabled = true ∧ u8 m 1 = 0 ∧ u16 m 2 = st ∧
    (getSta s st).state = .active ∧ u8 m 0 = 3 + 16 * l ∧ st < nStations s ∧ (getSta s st).links.testBit l = true ∧ u8 m 4 < 2 ∧
    u8 m 5 = 0 ∧ u16 m 6 = 0 ∧ allZero (slice m 8 8) = true) ∧
    (let s : State := setQ (.sta 5 0) [{ h := 0, oseq := 0 }] (setRl 2 (fun r => { r with enabled := true, rateTo := 1000 }) (setSta 5 (fun x => { x with state := .active, links := 4 }) up))
    let m : Bytes := ([0x23#8, 0, 5, 0, 2, 15, 3, 0] ++ zeros 8 : Bytes)
    let l : Nat := 2
    let st : Nat := 5
    m.length = 16 ∧ l < 3 ∧ coreOff s = false ∧ (getRl s l).enabled = true ∧ u8 m 1 = 0 ∧ u16 m 2 = st ∧
    (getSta s st).state = .active ∧ u8 m 0 = 3 + 16 * l ∧ st < nStations s ∧ (getSta s st).links.testBit l = true ∧ u8 m 4 = 2 ∧
    u8 m 5 ≠ 0 ∧ u8 m 5 < 16 ∧ allZero (slice m 8 8) = true ∧ (∃ a ∈ List.range 4, (u8 m 5).testBit a = true ∧
    getQ s (.sta st a) ≠ [])) ∧
    (let s : State := (setTb 7 (fun b => { b with v := 2000000000 * nsUnit }) (setRl 2 (fun r => { r with enabled := true, rateTo := 1000 }) (setSta 5 (fun x => { x with state := .active, links := 4, per := [(2, { rate := some ⟨1, 1, 1⟩ })] }) up)))
    let st : Nat := 5
    let l : Nat := 2
    coreOff s = false ∧ (getSta s st).state = .active ∧ (staLink (getSta s st) l).rate.isSome = true ∧
    (staLink (getSta s st) l).stale = false ∧ (getRl s l).rateTo ≠ 0 ∧
    (staLink (getSta s st) l).rateNs + (getRl s l).rateTo * 1000000 ≤ nowNs s) ∧
    (let s : State := up
    let m : Nat := 15
    m < 16 ∧ Serving s ∧ (getMb s m).busy = false) ∧
    (let s : State := setMb 15 (fun b => { b with busy := true }) up
    let m : Nat := 15
    m < 16 ∧ Serving s ∧ (getMb s m).busy = true) ∧
    (let s : State := up
    let m : Nat := 15
    m < 16 ∧ Serving s) ∧
    (let s : State := (setMb 0 (fun b => { b with busy := true, bell := 3, agent := 0, hdr := hdrOf 0x0100 0 0 3 1 0 0 }) up).updGv fun g => { g with queue := [0] }
    let m : Nat := 0
    let b := getMb s m
    m < 16 ∧ s.gv.taken = none ∧ onyxUp s = true ∧ s.res.jasper ≠ .takeover ∧ s.gv.awaited = [] ∧
    s.gv.queue.find? (fun m => s.sys.fw || decide (m = 0)) = some m ∧ checkHeader s m = none ∧ rqPtr b.hdr = false ∧
    b.tokens.find? (·.token = rqToken b.hdr) = none) := by
  refine ⟨?_, ?_, ?_, ?_, ?_, ?_, ?_, ?_, ?_⟩ <;> decide

set_option maxRecDepth 100000 in
theorem test_witness_ClassifierRows :
    (let s : State := hand 0x0509 ([]) (id)
    let q : Req := req 0x0509 ([])
    InHand 0x0509 q s) ∧
    (let s : State := hand 0x050A (toLe 2 9 ++ zeros 2) (fun s => s.updCls fun c => { c with resident := [{ gen := 0 }, { gen := 9 }] })
    let q : Req := req 0x050A (toLe 2 9 ++ zeros 2)
    let p := q.payload
    let x := ({ gen := 9 } : Gen)
    InHand 0x050A q s ∧ findGen s (u16 p 0) = some x ∧ x.sweeping = false ∧ u16 p 0 ≠ s.cls.current ∧ x.retiring = false) ∧
    (let s : State := hand 0x050A (zeros 4) (id)
    let q : Req := req 0x050A (zeros 4)
    let p := q.payload
    let x := ({ gen := 0 } : Gen)
    InHand 0x050A q s ∧ findGen s (u16 p 0) = some x ∧ x.sweeping = false ∧ (u16 p 0 = s.cls.current ∨ x.retiring = true)) ∧
    (let s : State := hand 0x050A (toLe 2 9 ++ zeros 2) (id)
    let q : Req := req 0x050A (toLe 2 9 ++ zeros 2)
    let p := q.payload
    InHand 0x050A q s ∧ findGen s (u16 p 0) = none) ∧
    (let s : State := hand 0x050B ([7#8, 0, 0, 0] ++ toLe 4 5 ++ zeros 4) (fun s => s.updCls fun c => { c with vers := [{ kind := .rule, key := 7 * 2 ^ 32 + 5, val := zeros 176, born := 0 }] })
    let q : Req := req 0x050B ([7#8, 0, 0, 0] ++ toLe 4 5 ++ zeros 4)
    let p := q.payload
    let v := ({ kind := .rule, key := 7 * 2 ^ 32 + 5, val := zeros 176, born := 0 } : Ver)
    InHand 0x050B q s ∧ u8 p 0 ≤ 7 ∧ u8 p 8 = 0 ∧ (findGen s (u16 p 2)).isSome = true ∧
    findVer s .rule (u8 p 0 * 2 ^ 32 + u32 p 4) (u16 p 2) = some v) ∧
    (let s : State := hand 0x050B ([7#8, 0, 0, 0] ++ toLe 4 5 ++ [1#8, 0, 0, 0]) (id)
    let q : Req := req 0x050B ([7#8, 0, 0, 0] ++ toLe 4 5 ++ [1#8, 0, 0, 0])
    let p := q.payload
    InHand 0x050B q s ∧ u8 p 0 ≤ 7 ∧ u8 p 8 ≤ 1 ∧ (findGen s (u16 p 2)).isSome = true ∧
    findVer s .rule (u8 p 0 * 2 ^ 32 + u32 p 4) (u16 p 2) = none) ∧
    (let s : State := hand 0x050C ([0xFF#8, 3, 1, 0]) (id)
    let q : Req := req 0x050C ([0xFF#8, 3, 1, 0])
    let p := q.payload
    InHand 0x050C q s ∧ portCodeOk s (u16 p 0) = true ∧ u8 p 2 ≤ 1) ∧
    (let s : State := up
    Serving s) ∧
    (let s : State := (fun s => s.updCls fun c => { c with resident := [{ gen := 0 }, { gen := 9 }] }) up
    let g : Nat := 9
    let x := ({ gen := 9 } : Gen)
    Serving s ∧ findGen s g = some x ∧ g ≠ s.cls.current) ∧
    (let s : State := up
    let g : Nat := 9
    findGen s g = none) := by
  refine ⟨?_, ?_, ?_, ?_, ?_, ?_, ?_, ?_, ?_, ?_⟩ <;> decide

set_option maxRecDepth 100000 in
theorem test_witness_FlowCommandRows :
    (let s : State := hand 0x0604 (toLe 2 4095 ++ zeros 22) (id)
    let q : Req := req 0x0604 (toLe 2 4095 ++ zeros 22)
    let p := q.payload
    InHand 0x0604 q s ∧ u16 p 0 ≤ 4095 ∧ policerArgs p 2 3 4 8 = none) ∧
    (let s : State := hand 0x0605 (zeros 8 ++ [1#8] ++ zeros 127) (fun (s : State) => s.updHost fun h => { h with flow := { base := 0x100000, size := 0x100000, set := true } })
    let q : Req := req 0x0605 (zeros 8 ++ [1#8] ++ zeros 127)
    let p := q.payload
    InHand 0x0605 q s ∧ installArgs p = none ∧ s.host.flow.size ≠ 0) ∧
    (let s : State := hand 0x0606 (toLe 4 5 ++ zeros 4) (fun (s : State) => s.updHost fun h => { h with flow := { base := 0x100000, size := 0x100000, set := true } })
    let q : Req := req 0x0606 (toLe 4 5 ++ zeros 4)
    let p := q.payload
    InHand 0x0606 q s ∧ s.host.flow.size ≠ 0 ∧ u32 p 0 < 4 * nBuckets s) ∧
    (let s : State := hand 0x060A ([2#8, 7] ++ toLe 2 4095) (fun (s : State) => s.updHost fun h => { h with flow := { base := 0x100000, size := 0x100000, set := true } })
    let q : Req := req 0x060A ([2#8, 7] ++ toLe 2 4095)
    let p := q.payload
    InHand 0x060A q s ∧ u8 p 0 ≤ 2 ∧ u8 p 1 ≤ 7 ∧ u16 p 2 ≤ 4095 ∧ s.host.flow.size ≠ 0) ∧
    (let s : State := hand 0x0605 (zeros 8 ++ [1#8] ++ zeros 127) (id)
    let q : Req := req 0x0605 (zeros 8 ++ [1#8] ++ zeros 127)
    let p := q.payload
    InHand 0x0605 q s ∧ installArgs p = none ∧ s.host.flow.size = 0) ∧
    (let s : State := hand 0x0607 (toLe 4 5 ++ zeros 4) (fun s => (fun (s : State) => s.updHost fun h => { h with flow := { base := 0x100000, size := 0x100000, set := true } }) (s.updFlow fun f => { f with cache := [(0, [{ index := 5, image := zeros 64 }])] }))
    let q : Req := req 0x0607 (toLe 4 5 ++ zeros 4)
    let p := q.payload
    let w := ({ index := 5, image := zeros 64 } : Way)
    InHand 0x0607 q s ∧ s.host.flow.size ≠ 0 ∧ u32 p 0 < 4 * nBuckets s ∧
    s.host.xfers.any (fun x => decide (x.purp = .svcRead q.mb)) = false ∧ wayOf s (u32 p 0) = some w) ∧
    (let s : State := hand 0x0607 (toLe 4 5 ++ zeros 4) (fun (s : State) => s.updHost fun h => { h with flow := { base := 0x100000, size := 0x100000, set := true } })
    let q : Req := req 0x0607 (toLe 4 5 ++ zeros 4)
    let p := q.payload
    InHand 0x0607 q s ∧ s.host.flow.size ≠ 0 ∧ u32 p 0 < 4 * nBuckets s ∧
    s.host.xfers.any (fun x => decide (x.purp = .svcRead q.mb)) = false ∧ wayOf s (u32 p 0) = none ∧
    bucketBusy s (u32 p 0 / 4) = false ∧ regionOk s (bucketAddr s (u32 p 0 / 4)) 128 = true) ∧
    (let s : State := hand 0x0608 (toLe 2 47 ++ zeros 2 ++ (List.range 8).flatMap fun _ => toLe 2 2000) (id)
    let q : Req := req 0x0608 (toLe 2 47 ++ zeros 2 ++ (List.range 8).flatMap fun _ => toLe 2 2000)
    let p := q.payload
    let l := (List.range 8).map fun i => u16 p (4 + 2 * i)
    InHand 0x0608 q s ∧ u16 p 0 ≠ 0 ∧ u16 p 0 ≤ 2047 ∧ (∀ i ∈ List.range 8, l.getD i 0 ≠ 0 ∧ l.getD i 0 ≤ 2047 ∧
    u16 p 0 + l.getD i 0 ≤ 2047)) ∧
    (let s : State := hand 0x0609 ([0#8, 0, 0, 0, 60, 0, 0, 0]) (fun s => s.updSys fun y => { y with phase := 1 })
    let q : Req := req 0x0609 ([0#8, 0, 0, 0, 60, 0, 0, 0])
    let p := q.payload
    InHand 0x0609 q s ∧ u8 p 4 ≤ 60 ∧ s.sys.phase = 1) ∧
    (let s : State := hand 0x0609 ([0#8, 0, 0, 0, 60, 0, 0, 0]) (id)
    let q : Req := req 0x0609 ([0#8, 0, 0, 0, 60, 0, 0, 0])
    let p := q.payload
    InHand 0x0609 q s ∧ u8 p 4 ≤ 60 ∧ s.sys.phase ≠ 1) ∧
    (let s : State := hand 0x060B ([2#8, 1, 0, 0]) (id)
    let q : Req := req 0x060B ([2#8, 1, 0, 0])
    let p := q.payload
    InHand 0x060B q s ∧ u8 p 0 = 2 ∧ u8 p 1 ≤ 1) ∧
    (let s : State := up
    coreOff s = false ∧ ((draining s = true ∧
    flushJob s = none) ∨ s.host.flow.size = 0 ∨ (serviceEngine s).isNone = true ∨ (jobAt s).isSome = true ∨ s.flow.looking.isSome = true)) ∧
    (let s : State := setEng 0 (fun g => { g with mode := .active }) (((fun (s : State) => s.updHost fun h => { h with flow := { base := 0x100000, size := 0x100000, set := true } }) up).updFlow fun f => { f with jobs := [{ mb := none, op := .flush 0 0 0, phase := .scan }] })
    let i := 0
    let j := ({ mb := none, op := .flush 0 0 0, phase := .scan } : SvcJob)
    coreOff s = false ∧ s.host.flow.size ≠ 0 ∧ (serviceEngine s).isSome = true ∧ jobAt s = none ∧ s.flow.looking = none ∧
    flushJob s = some (i, j)) ∧
    (let s : State := setEng 0 (fun g => { g with mode := .active }) (((fun (s : State) => s.updHost fun h => { h with flow := { base := 0x100000, size := 0x100000, set := true } }) up).updFlow fun f => { f with tick := 1 })
    coreOff s = false ∧ s.host.flow.size ≠ 0 ∧ (serviceEngine s).isSome = true ∧ jobAt s = none ∧ s.flow.looking = none ∧
    flushJob s = none ∧ draining s = false ∧ s.flow.tick ≠ 0) ∧
    (let s : State := setEng 0 (fun g => { g with mode := .active }) (((fun (s : State) => s.updHost fun h => { h with flow := { base := 0x100000, size := 0x100000, set := true } }) up).updFlow fun f => { f with tick := 0 })
    coreOff s = false ∧ s.host.flow.size ≠ 0 ∧ (serviceEngine s).isSome = true ∧ jobAt s = none ∧ s.flow.looking = none ∧
    flushJob s = none ∧ draining s = false ∧ s.flow.tick = 0) := by
  refine ⟨?_, ?_, ?_, ?_, ?_, ?_, ?_, ?_, ?_, ?_, ?_, ?_, ?_, ?_, ?_⟩ <;> decide

set_option maxRecDepth 100000 in
theorem test_witness_EngineCommandRows :
    (let s : State := hand 0x0702 ([15#8, 0, 0, 0]) (fun s => s.updEng fun g => { g with progs := [(15, { ipage := 0, ipages := 1, dpage := 0, dpages := 1, icode := [], ddata := [] })] })
    let q : Req := req 0x0702 ([15#8, 0, 0, 0])
    let p := q.payload
    let n := u8 p 0
    let g := ({ ipage := 0, ipages := 1, dpage := 0, dpages := 1, icode := [], ddata := [] } : Prog)
    InHand 0x0702 q s ∧ 1 ≤ n ∧ n ≤ 15 ∧ s.eng.progs.get? n = some g ∧ s.eng.hooks.vals.any (fun x => decide (x.prog = n)) = false ∧
    g.inflight = 0) ∧
    (let s : State := hand 0x0702 ([15#8, 0, 0, 0]) (fun s => s.updEng fun g => { g with progs := [(15, { ipage := 0, ipages := 1, dpage := 0, dpages := 1, icode := [], ddata := [], inflight := 1 })] })
    let q : Req := req 0x0702 ([15#8, 0, 0, 0])
    let p := q.payload
    let n := u8 p 0
    let g := ({ ipage := 0, ipages := 1, dpage := 0, dpages := 1, icode := [], ddata := [], inflight := 1 } : Prog)
    InHand 0x0702 q s ∧ 1 ≤ n ∧ n ≤ 15 ∧ s.eng.progs.get? n = some g ∧
    (s.eng.hooks.vals.any (fun x => decide (x.prog = n)) = true ∨ g.inflight ≠ 0)) ∧
    (let s : State := hand 0x0703 ([7#8, 0] ++ toLe 2 1000) (id)
    let q : Req := req 0x0703 ([7#8, 0] ++ toLe 2 1000)
    let p := q.payload
    let n := u8 p 0
    InHand 0x0703 q s ∧ n < nEngines s ∧ 1 ≤ u16 p 2 ∧ u16 p 2 ≤ 1000 ∧ n ≠ 255) ∧
    (let s : State := hand 0x0704 ([1#8, 0, 0, 0]) (id)
    let q : Req := req 0x0704 ([1#8, 0, 0, 0])
    let p := q.payload
    let n := u8 p 0
    InHand 0x0704 q s ∧ n ≤ 1 ∧ (n = 0 → s.eng.spareUsed = false)) ∧
    (let s : State := hand 0x0704 ([0#8, 0, 0, 0]) (fun s => s.updEng fun g => { g with spareUsed := true })
    let q : Req := req 0x0704 ([0#8, 0, 0, 0])
    let p := q.payload
    let n := u8 p 0
    InHand 0x0704 q s ∧ n = 0 ∧ s.eng.spareUsed = true) ∧
    (let s : State := hand 0x0705 ([15#8, 0] ++ toLe 2 4 ++ toLe 4 8 ++ zeros 4) (fun s => s.updEng fun g => { g with progs := [(15, { ipage := 0, ipages := 1, dpage := 0, dpages := 1, icode := [], ddata := [] })] })
    let q : Req := req 0x0705 ([15#8, 0] ++ toLe 2 4 ++ toLe 4 8 ++ zeros 4)
    let p := q.payload
    let n := u8 p 0
    let g := ({ ipage := 0, ipages := 1, dpage := 0, dpages := 1, icode := [], ddata := [] } : Prog)
    InHand 0x0705 q s ∧ 1 ≤ n ∧ n ≤ 15 ∧ 4 ≤ u16 p 2 ∧ u16 p 2 ≤ 4088 ∧ u16 p 2 % 4 = 0 ∧ u32 p 4 % 4 = 0 ∧
    s.eng.progs.get? n = some g ∧ u32 p 4 + u16 p 2 ≤ 4096 * g.dpages) ∧
    (let s : State := hand 0x0706 ([]) (setEng 7 (fun g => { g with mode := .active }))
    let q : Req := req 0x0706 ([])
    let e := 7
    InHand 0x0706 q s ∧ serviceEngine s = some e) ∧
    (let s : State := hand 0x0707 ([1#8, 1, 7, 0]) (id)
    let q : Req := req 0x0707 ([1#8, 1, 7, 0])
    let p := q.payload
    let n := u8 p 0
    InHand 0x0707 q s ∧ n = 1 ∧ u8 p 1 ≤ 1 ∧ u16 p 2 < nEngines s) ∧
    (let s : State := hand 0x0708 ([7#8, 8, 0, 0]) (id)
    let q : Req := req 0x0708 ([7#8, 8, 0, 0])
    let p := q.payload
    let n := u8 p 0
    InHand 0x0708 q s ∧ n < nEngines s ∧ 1 ≤ u8 p 1 ∧ u8 p 1 ≤ 8) ∧
    (let s : State := hand 0x0709 ([1#8, 0, 1, 0, 1, 0, 0, 0] ++ zeros 16) (id)
    let q : Req := req 0x0709 ([1#8, 0, 1, 0, 1, 0, 0, 0] ++ zeros 16)
    let p := q.payload
    let n := u8 p 0
    InHand 0x0709 q s ∧ (n.testBit 0 = true → u16 p 2 ≠ 0 ∧ u32 p 4 ≠ 0)) := by
  refine ⟨?_, ?_, ?_, ?_, ?_, ?_, ?_, ?_, ?_, ?_⟩ <;> decide

set_option maxRecDepth 100000 in
theorem test_witness_PipelineRows :
    (let s : State := up.updSys fun y => { y with phase := 1 }
    entryOpen s = false) ∧
    (let s : State := up.updPipe fun p => { p with wait := [{ port := 3, h := some 0, data := zeros 64 }] }
    let a := ({ port := 3, h := some 0, data := zeros 64 } : Arr)
    let u := offerAll s
    entryOpen s = true ∧ u = offerAll s ∧ entryHeld u = false ∧ nextArrival u = some a) ∧
    (let s : State := up
    s.pipe.granted = []) ∧
    (let s : State := (stored up).updPipe fun p => { p with granted := [{ port := 3, h := some 0, data := zeros 64 }] }
    let a := ({ port := 3, h := some 0, data := zeros 64 } : Arr)
    let rest := ([] : List Arr)
    let h := 0
    let b := buf0
    let u := s.updPipe (fun p => { p with granted := rest })
    coreOff s = false ∧ s.pipe.granted = a :: rest ∧ a.h = some h ∧ u = s.updPipe (fun p => { p with granted := rest }) ∧
    getBuf u h = some b) ∧
    (let s : State := up.updPipe fun p => { p with granted := [{ port := 0xE0, data := zeros 64 }] }
    let a := ({ port := 0xE0, data := zeros 64 } : Arr)
    let rest := ([] : List Arr)
    let p := 0
    let h := ((allocBuf 0 (s.updPipe (fun p => { p with granted := [] }))).1.getD 9)
    let u := s.updPipe (fun p => { p with granted := rest })
    let w := (allocBuf p u).2
    coreOff s = false ∧ s.pipe.granted = a :: rest ∧ a.h = none ∧ poolFor a.data.length = some p ∧
    u = s.updPipe (fun p => { p with granted := rest }) ∧ allocBuf p u = (some h, w)) ∧
    (let s : State := up
    coreOff s = false ∧ s.pipe.parseQ = []) ∧
    (let s : State := fetching .parser ((stored up).updPipe fun p => { p with parseQ := [fr] })
    let f0 := fr
    let rest := ([] : List PFrame)
    let u := s
    coreOff s = false ∧ s.pipe.parseQ = f0 :: rest ∧ fetchPinned .parser f0.h s = (none, u)) ∧
    (let s : State := (setBuf 0 { buf0 with bad := true } up).updPipe (fun p => { p with parseQ := [fr] })
    let f0 := fr
    let rest := ([] : List PFrame)
    let x := (none : Option Xfer)
    let v := (fetchPinned .parser f0.h s).2
    let u := v.updPipe fun p => { p with parseQ := rest }
    coreOff s = false ∧ s.pipe.parseQ = f0 :: rest ∧ fetchPinned .parser f0.h s = (some x, v) ∧
    u = v.updPipe (fun p => { p with parseQ := rest }) ∧ (x.any (·.err) = true ∨ isBad u f0.h = true)) ∧
    (let s : State := id ((stored up).updPipe fun p => { p with parseQ := [fr] })
    let f0 := fr
    let rest := ([] : List PFrame)
    let x := (none : Option Xfer)
    let v := (fetchPinned .parser f0.h s).2
    let u := v.updPipe fun p => { p with parseQ := rest }
    let d := readData u f0.h x
    let r := parseData u f0.gen f0.port d
    coreOff s = false ∧ s.pipe.parseQ = f0 :: rest ∧ fetchPinned .parser f0.h s = (some x, v) ∧
    u = v.updPipe (fun p => { p with parseQ := rest }) ∧ x.any (·.err) = false ∧ isBad u f0.h = false ∧ r.2 = 0) ∧
    (let s : State := up
    coreOff s = false ∧ s.pipe.flowQ = []) ∧
    (let s : State := (stored up).updPipe fun p => { p with flowQ := [fr] }
    let f := fr
    let rest := ([] : List PFrame)
    let ok : Bool := s.host.flow.size != 0 && eligible f.shadow f.pres (profOf s f)
    coreOff s = false ∧ s.pipe.flowQ = f :: rest ∧ ok = false) ∧
    (let s : State := ((fun (s : State) => s.updHost fun h => { h with flow := { base := 0x100000, size := 0x100000, set := true } }) ((stored up).updPipe fun p => { p with flowQ := [fr] })).updCls fun c => { c with vers := [{ kind := .profile, key := 0, val := [0#8, 2] ++ zeros 14, born := 0 }] }
    let f := fr
    let rest := ([] : List PFrame)
    let ok : Bool := s.host.flow.size != 0 && eligible f.shadow f.pres (profOf s f)
    coreOff s = false ∧ s.pipe.flowQ = f :: rest ∧ ok = true ∧ s.flow.looks.length < 128) ∧
    (let s : State := up.updHost fun h => { h with reads := [{ tag := 9, sid := 0, addr := 0, beats := 1, xfer := 3 }], xfers := [{ id := 3, purp := .lookup, write := false, sid := 0, addr := 0, len := 64, data := [], todo := [], out := 1 }] }
    let tag := 9
    let beats := ([⟨zeros 64, 0, false⟩] : List Beat)
    let x := (readReturn 9 [⟨zeros 64, 0, false⟩] s).2.getD xfer0
    let u := (readReturn 9 [⟨zeros 64, 0, false⟩] s).1
    (s.host.reads.find? (·.tag = tag)).bind (fun t => (getXfer s t.xfer).map (·.purp)) = some .lookup ∧
    readReturn tag beats s = (u, some x)) ∧
    (let s : State := up.updSys fun y => { y with phase := 1 }
    let next := s.pipe.slots.find? fun x => releasable s x.2 && !reading s .commit x.2.frame.h
    coreOff s = false ∧ next = none) ∧
    (let s : State := slot0 (.drop 0x70 1) fr (stored up)
    let next := s.pipe.slots.find? fun x => releasable s x.2 && !reading s .commit x.2.frame.h
    let i := 0
    let e := ({ frame := fr, first := fr, state := .drop 0x70 1 } : ReEnt)
    let g := 0x70
    let k := 1
    coreOff s = false ∧ next = some (i, e) ∧ e.state = .drop g k) ∧
    (let s : State := slot0 .ready fr (stored (up.updCls fun c => { c with resident := [{ gen := 0, retiring := true }] }))
    let next := s.pipe.slots.find? fun x => releasable s x.2 && !reading s .commit x.2.frame.h
    let i := 0
    let e := ({ frame := fr, first := fr, state := .ready } : ReEnt)
    coreOff s = false ∧ next = some (i, e) ∧ e.state = .ready ∧ isRetiring s e.frame.gen = true) ∧
    (let s : State := slot0 .ready fr (lodged up)
    let next := s.pipe.slots.find? fun x => releasable s x.2 && !reading s .commit x.2.frame.h
    let i := 0
    let e := ({ frame := fr, first := fr, state := .ready } : ReEnt)
    let u := (fetchPinned .commit e.frame.h s).2
    coreOff s = false ∧ next = some (i, e) ∧ e.state = .ready ∧ isRetiring s e.frame.gen = false ∧
    fetchPinned .commit e.frame.h s = (none, u)) ∧
    (let s : State := slot0 .ready fr (stored up)
    let next := s.pipe.slots.find? fun x => releasable s x.2 && !reading s .commit x.2.frame.h
    let i := 0
    let e := ({ frame := fr, first := fr, state := .ready } : ReEnt)
    let x := (none : Option Xfer)
    let u := (fetchPinned .commit e.frame.h s).2
    coreOff s = false ∧ next = some (i, e) ∧ e.state = .ready ∧ isRetiring s e.frame.gen = false ∧
    fetchPinned .commit e.frame.h s = (some x, u)) ∧
    (let s : State := stored up
    let who := Reader.commit
    let h := 0
    readOf s who h = none ∧ readOf (pinBuf h s) who h = none ∧ readsDram (pinBuf h s) h = false) := by
  refine ⟨?_, ?_, ?_, ⟨by decide, by decide, by decide, rfl, rfl⟩, ⟨by decide, by decide, by decide, by decide, rfl,
    Prod.ext (by decide) rfl⟩, ?_, ⟨by decide, by decide, rfl⟩, ⟨by decide, by decide, rfl, rfl, by decide⟩, ⟨by decide, by decide,
    rfl, rfl, by decide, by decide, by decide⟩, ?_, ⟨by decide, by decide, by decide +kernel⟩, ⟨by decide, by decide,
    by decide +kernel, by decide⟩, ⟨by decide, Prod.ext rfl (by decide)⟩, ?_, ?_, ?_, ⟨by decide, by decide, by decide, by decide,
    rfl⟩, ⟨by decide, by decide, by decide, by decide, rfl⟩, ?_⟩ <;> decide

set_option maxRecDepth 100000 in
theorem test_witness_EngineServiceRows :
    (let s : State := setQ .onyx [{ h := 0, oseq := 0 }] (stored (up.updCls fun c => { c with resident := [{ gen := 0, retiring := true }] }))
    let q := ({ h := 0, oseq := 0 } : QE)
    let rest := ([] : List QE)
    let f := buf0
    coreOff s = false ∧ onyxServes s = true ∧ getQ s .onyx = q :: rest ∧ getBuf s q.h = some f ∧
    isRetiring s (recGen f.record) = true) ∧
    (let s : State := setQ .onyx [{ h := 0, oseq := 0 }] (stored up)
    let q := ({ h := 0, oseq := 0 } : QE)
    let rest := ([] : List QE)
    let f := buf0
    coreOff s = false ∧ onyxServes s = true ∧ getQ s .onyx = q :: rest ∧ getBuf s q.h = some f ∧
    isRetiring s (recGen f.record) = false ∧ s.gv.puntTarget = 0xFFFFFFFF) ∧
    (let s : State := fetching .onyx (setQ .onyx [{ h := 0, oseq := 0 }] (stored (up.updGv fun g => { g with puntTarget := 0 })))
    let q := ({ h := 0, oseq := 0 } : QE)
    let rest := ([] : List QE)
    let f := (buf0 : Buf)
    let u := s
    coreOff s = false ∧ onyxServes s = true ∧ getQ s .onyx = q :: rest ∧ getBuf s q.h = some f ∧
    isRetiring s (recGen f.record) = false ∧ s.gv.puntTarget ≠ 0xFFFFFFFF ∧ fetchPinned .onyx q.h s = (none, u)) ∧
    (let s : State := setQ .onyx [{ h := 0, oseq := 0 }] (setBuf 0 { buf0 with bad := true } (up.updGv fun g => { g with puntTarget := 0 }))
    let q := ({ h := 0, oseq := 0 } : QE)
    let rest := ([] : List QE)
    let f := ({ buf0 with bad := true } : Buf)
    let x := (none : Option Xfer)
    let u := (fetchPinned .onyx q.h s).2
    let v := unpinBuf q.h (popInq .onyx u)
    coreOff s = false ∧ onyxServes s = true ∧ getQ s .onyx = q :: rest ∧ getBuf s q.h = some f ∧
    isRetiring s (recGen f.record) = false ∧ s.gv.puntTarget ≠ 0xFFFFFFFF ∧ fetchPinned .onyx q.h s = (some x, u) ∧
    v = unpinBuf q.h (popInq .onyx u) ∧ readGood v q.h q.oseq x = false) ∧
    (let s : State := setQ .onyx [{ h := 0, oseq := 0 }] (stored (up.updGv fun g => { g with puntTarget := 0 }))
    let q := ({ h := 0, oseq := 0 } : QE)
    let rest := ([] : List QE)
    let f := (buf0 : Buf)
    let x := (none : Option Xfer)
    let u := (fetchPinned .onyx q.h s).2
    let v := unpinBuf q.h (popInq .onyx u)
    coreOff s = false ∧ onyxServes s = true ∧ getQ s .onyx = q :: rest ∧ getBuf s q.h = some f ∧
    isRetiring s (recGen f.record) = false ∧ s.gv.puntTarget ≠ 0xFFFFFFFF ∧ fetchPinned .onyx q.h s = (some x, u) ∧
    v = unpinBuf q.h (popInq .onyx u) ∧ readGood v q.h q.oseq x = true) ∧
    (let s : State := setEng 7 (fun g => { g with mode := .active }) up
    let e : Nat := 7
    let c : Nat := 4
    coreOff s = false ∧ e < nEngines s ∧ ((getEng s e).mode = .active ∨ (getEng s e).mode = .draining) ∧ 1 ≤ c ∧ c ≤ 4) ∧
    (let s : State := up
    let e : Nat := 7
    coreOff s = false ∧ e < nEngines s ∧ (getEng s e).mode ≠ .active ∧ (getEng s e).mode ≠ .draining) ∧
    (let s : State := up.updHost fun h => { h with xfers := [{ xfer0 with purp := .thread 7 0, write := true, out := 1, sid := 0x20F }] }
    let e : Nat := 7
    coreOff s = false ∧ engWrites s e = true) ∧
    (let s : State := up
    let e : Nat := 7
    coreOff s = false ∧ engWrites s e = false) ∧
    (let s : State := setEng 7 (fun g => { g with mode := .condemned }) up
    let e : Nat := 7
    let fails := ([] : List (Nat × List Cell))
    let r := engineTest e fails s
    let g := getEng r.2 e
    coreOff s = false ∧ e < nEngines s ∧ (getEng s e).mode = .condemned ∧ r.1 = true ∧ g.noReturn = false ∧
    condemnedLately r.2 e < 3 ∧ g.again = none) ∧
    (let s : State := setEng 7 (fun g => { g with mode := .condemned, again := some 3 }) up
    let e : Nat := 7
    let fails := ([] : List (Nat × List Cell))
    let r := engineTest e fails s
    let g := getEng r.2 e
    let k := 3
    coreOff s = false ∧ e < nEngines s ∧ (getEng s e).mode = .condemned ∧ r.1 = true ∧ g.noReturn = false ∧
    condemnedLately r.2 e < 3 ∧ g.again = some k) ∧
    (let s : State := setEng 7 (fun g => { g with mode := .condemned, noReturn := true }) up
    let e : Nat := 7
    let fails := ([] : List (Nat × List Cell))
    let r := engineTest e fails s
    let g := getEng r.2 e
    coreOff s = false ∧ e < nEngines s ∧ (getEng s e).mode = .condemned ∧
    (r.1 = false ∨ g.noReturn = true ∨ 3 ≤ condemnedLately r.2 e)) ∧
    (let s : State := up.updRes fun r => { r with ciphAbandoned := true }
    coreOff s = false ∧ s.res.ciphAbandoned = true) ∧
    (let s : State := up.updRes fun r => { r with load := some { mb := 0, kind := 1, slot := 0, epoch := 0, group := 0, addr := 0, rollback := false, phase := .cipher, ctLen := 0, sent := zeros 16 } }
    let l := ({ mb := 0, kind := 1, slot := 0, epoch := 0, group := 0, addr := 0, rollback := false, phase := .cipher, ctLen := 0, sent := zeros 16 } : LoadSt)
    coreOff s = false ∧ s.res.ciphAbandoned = false ∧ s.res.load = some l ∧ l.phase = .cipher ∧ l.got.length = l.ctLen ∧
    l.fed = l.total) ∧
    (let s : State := up.updRes fun r => { r with load := some { mb := 0, kind := 1, slot := 0, epoch := 0, group := 0, addr := 0, rollback := false, phase := .cipher, ctLen := 0, sent := zeros 16 } }
    let l := ({ mb := 0, kind := 1, slot := 0, epoch := 0, group := 0, addr := 0, rollback := false, phase := .cipher, ctLen := 0, sent := zeros 16 } : LoadSt)
    coreOff s = false ∧ s.res.load = some l ∧ l.phase = .cipher ∧ l.fed = l.total) ∧
    (let s : State := up.updRes fun r => { r with load := some { mb := 0, kind := 1, slot := 0, epoch := 0, group := 0, addr := 0, rollback := false, phase := .cipher, ctLen := 65, got := [] } }
    let l := ({ mb := 0, kind := 1, slot := 0, epoch := 0, group := 0, addr := 0, rollback := false, phase := .cipher, ctLen := 65, got := [] } : LoadSt)
    coreOff s = false ∧ s.res.load = some l ∧ l.phase = .cipher ∧ l.got.length < l.ctLen ∧ l.fail = none ∧
    (l.got.length + 1) % 64 ≠ 0 ∧ l.got.length + 1 ≠ l.ctLen) ∧
    (let s : State := up.updRes fun r => { r with load := some { mb := 0, kind := 1, slot := 0, epoch := 0, group := 0, addr := 0, rollback := false, phase := .cipher, ctLen := 65, got := zeros 63 } }
    let l := ({ mb := 0, kind := 1, slot := 0, epoch := 0, group := 0, addr := 0, rollback := false, phase := .cipher, ctLen := 65, got := zeros 63 } : LoadSt)
    coreOff s = false ∧ s.res.load = some l ∧ l.phase = .cipher ∧ l.got.length < l.ctLen ∧ l.fail = none ∧
    (l.got.length + 1) % 64 = 0) := by
  refine ⟨⟨by decide, by decide, by decide, rfl, by decide⟩, ⟨by decide, by decide, by decide, rfl, by decide, by decide⟩,
    ⟨by decide, by decide, by decide, rfl, by decide, by decide, rfl⟩, ⟨by decide, by decide, by decide, rfl, by decide, by decide,
    rfl, rfl, by decide +kernel⟩, ⟨by decide, by decide, by decide, rfl, by decide, by decide, rfl, rfl, by decide +kernel⟩, ?_,
    ?_, ?_, ?_, ?_, ?_, ?_, ?_, ?_, ?_, ?_, ?_⟩ <;> decide

set_option maxRecDepth 100000 in
theorem test_witness_ResetRows :
    (let s : State := up.updSys fun y => { y with rstN := false }
    s.sys.rstN = false) ∧
    (let s : State := up
    s.sys.rstN = true) ∧
    (let s : State := up.updSys fun y => { y with rstAoN := false }
    s.sys.rstAoN = false) ∧
    (let s : State := up.updSys fun y => { y with held := true }
    s.sys.held = true ∧ s.sys.rstAoN = true) ∧
    (let s : State := up
    s.sys.held = false) ∧
    (let s : State := State.reset
    s.sys.held = false ∧ s.sys.boot = false ∧ s.sys.fw = false ∧ s.sys.phase = 0 ∧ s.res.jasper = .idle) ∧
    (let s : State := up
    let l : Nat := 3
    let v : Nat := 1
    Serving s ∧ l < 4 ∧ (v % 2 = 0 ∨ msgAddrBad (getMsg s l).addr = false)) := by
  refine ⟨?_, ?_, ?_, ?_, ?_, ?_, ?_⟩ <;> decide

set_option maxRecDepth 100000 in
theorem test_witness_RepairEventRows :
    (let s : State := up
    let h : ScrubHit := ({ place := { sub := 1, mac := 5 }, wrong := 0 } : ScrubHit)
    Serving s ∧ h.wrong = 0) ∧
    (let s : State := up
    let h : ScrubHit := ({ place := { sub := 1, mac := 5 }, wrong := 1 } : ScrubHit)
    Serving s ∧ h.wrong = 1) ∧
    (let s : State := up
    let h : ScrubHit := ({ place := { sub := 1, mac := 5 }, wrong := 2 } : ScrubHit)
    Serving s ∧ h.wrong = 2) ∧
    (let s : State := up.updRes fun r => { r with repairs := [{ place := rowOf { sub := 1, mac := 5, row := 3 }, column := false, spare := some 0 }] }
    let p : Place := ({ sub := 1, mac := 5, row := 3, col := 4 } : Place)
    let r := ({ place := rowOf { sub := 1, mac := 5, row := 3 }, column := false, spare := some 0 } : Repair)
    coreOff s = false ∧
    s.res.repairs.find? (fun x => decide (x.place = rowOf p) && decide (x.column = false) && x.spare.isSome) = some r) ∧
    (let s : State := up.updRes fun r => { r with repairs := [{ place := colOf { sub := 1, mac := 5, col := 4 }, column := true, spare := some 0 }] }
    let p : Place := ({ sub := 1, mac := 5, row := 3, col := 4 } : Place)
    let r := ({ place := colOf { sub := 1, mac := 5, col := 4 }, column := true, spare := some 0 } : Repair)
    coreOff s = false ∧
    s.res.repairs.find? (fun x => decide (x.place = colOf p) && decide (x.column = true) && x.spare.isSome) = some r) ∧
    (let s : State := up
    s.res.repairs = []) ∧
    (let s : State := up
    coreOff s = false) ∧
    (let s : State := setEng 7 (fun g => { g with base := true }) up
    let n : Nat := 7
    coreOff s = false ∧ n < nEngines s ∧ (getEng s n).base = true) ∧
    (let s : State := up
    Serving s ∧ s.res.jasper = .idle ∧ s.sys.fw = true ∧ s.res.standby ≠ .ready) ∧
    (let s : State := up.updRes fun r => { r with jasper := .cold }
    s.res.jasper = .cold ∧ (s.res.fwHeld = false ∨ s.res.fwBad = true)) ∧
    (let s : State := up.updRes fun r => { r with jasper := .cold, fwHeld := true }
    s.res.jasper = .cold ∧ s.res.fwHeld = true ∧ s.res.fwBad = false) ∧
    (let s : State := up.updRes fun r => { r with standby := .sync }
    Serving s ∧ s.res.standby = .sync ∧ s.res.jasper = .idle ∧ s.res.act = none) ∧
    (let s : State := up
    Serving s ∧ s.sys.fw = true ∧ s.res.jasper = .idle ∧ s.res.standby = .failed) ∧
    (let s : State := up.updRes fun r => { r with jasper := .takeover }
    Serving s ∧ s.sys.fw = true ∧ s.res.jasper = .takeover) ∧
    (let s : State := up.updRes fun r => { r with act := some { mb := 0, kind := 0, phase := .sync } }
    let a := ({ mb := 0, kind := 0, phase := .sync } : ActSt)
    s.res.act = some a ∧ (a.phase = .sync ∨ (a.phase = .switch ∧ s.res.standby ≠ .ready))) := by
  refine ⟨?_, ?_, ?_, ?_, ?_, ?_, ?_, ?_, ?_, ?_, ?_, ?_, ?_, ?_, ?_⟩ <;> decide

set_option maxRecDepth 100000 in
theorem test_witness_ResilienceCommandRows :
    (let s : State := hand 0x0E01 ([2#8] ++ zeros 7 ++ toLe 8 64 ++ zeros 8) (fun s => windowed (s.updHost fun h => { h with staging := { base := 0x200000, size := 0x100000, set := true } }))
    let q : Req := req 0x0E01 ([2#8] ++ zeros 7 ++ toLe 8 64 ++ zeros 8)
    let p := q.payload
    let n := u8 p 0
    InHand 0x0E01 q s ∧ n ≤ 2 ∧ u32 p 4 = 0 ∧ u64 p 8 % 64 = 0 ∧ busyImages s = false ∧ s.host.staging.size ≠ 0 ∧
    windowOk s (agentOf q s) (u64 p 8) 16 = true) ∧
    (let s : State := hand 0x0E01 ([2#8] ++ zeros 7 ++ toLe 8 64 ++ zeros 8) (fun s => (s.updHost fun h => { h with staging := { base := 0x200000, size := 0x100000, set := true }, windows := [(0, { base := 0, size := 0x100000, agent := 3, set := true })] }))
    let q : Req := req 0x0E01 ([2#8] ++ zeros 7 ++ toLe 8 64 ++ zeros 8)
    let p := q.payload
    let n := u8 p 0
    InHand 0x0E01 q s ∧ n ≤ 2 ∧ u32 p 4 = 0 ∧ u64 p 8 % 64 = 0 ∧ busyImages s = false ∧ s.host.staging.size ≠ 0 ∧
    windowOk s (agentOf q s) (u64 p 8) 16 = false ∧ inWindow s (u64 p 8) 16 = true) ∧
    (let s : State := hand 0x0E01 ([4#8] ++ zeros 23) (id)
    let q : Req := req 0x0E01 ([4#8] ++ zeros 23)
    let p := q.payload
    let n := u8 p 0
    InHand 0x0E01 q s ∧ 3 < n) ∧
    (let s : State := hand 0x0E02 ([1#8, 0, 0, 0]) (fun s => (fun s => windowed (s.updHost fun h => { h with staging := { base := 0x200000, size := 0x100000, set := true } })) (s.updRes fun r => { r with images := [(1, { off := 0, len := 64, digest := 0, build := 0, version := 0 })] }))
    let q : Req := req 0x0E02 ([1#8, 0, 0, 0])
    let p := q.payload
    let n := u8 p 0
    let im := ({ off := 0, len := 64, digest := 0, build := 0, version := 0 } : Staged)
    InHand 0x0E02 q s ∧ n = 1 ∧ busyImages s = false ∧ s.res.images.get? n = some im ∧ s.host.staging.size ≠ 0) ∧
    (let s : State := hand 0x0E02 ([1#8, 0, 0, 0]) (id)
    let q : Req := req 0x0E02 ([1#8, 0, 0, 0])
    let p := q.payload
    let n := u8 p 0
    InHand 0x0E02 q s ∧ n ≤ 1 ∧ busyImages s = false ∧ s.res.images.get? n = none) ∧
    (let s : State := hand 0x0E03 ([7#8, 0, 0, 0]) (setEng 7 (fun g => { g with mode := .spare }))
    let q : Req := req 0x0E03 ([7#8, 0, 0, 0])
    let p := q.payload
    let n := u8 p 0
    InHand 0x0E03 q s ∧ n < nEngines s ∧ ((getEng s n).mode = .active ∨ (getEng s n).mode = .draining ∨ (getEng s n).mode = .spare)) ∧
    (let s : State := hand 0x0E04 ([7#8, 0, 0, 0]) (setEng 7 (fun g => { g with failed := true }))
    let q : Req := req 0x0E04 ([7#8, 0, 0, 0])
    let p := q.payload
    let n := u8 p 0
    InHand 0x0E04 q s ∧ n < nEngines s ∧ (getEng s n).failed = true ∧ (getEng s n).testing = false) ∧
    (let s : State := hand 0x0E04 ([7#8, 0, 0, 0]) (id)
    let q : Req := req 0x0E04 ([7#8, 0, 0, 0])
    let p := q.payload
    let n := u8 p 0
    InHand 0x0E04 q s ∧ n < nEngines s ∧ (getEng s n).failed = false) ∧
    (let s : State := hand 0x0E05 ([]) (id)
    let q : Req := req 0x0E05 ([])
    InHand 0x0E05 q s ∧ s.res.standby ≠ .ready) ∧
    (let s : State := hand 0x0E05 ([]) (fun s => s.updRes fun r => { r with standby := .ready })
    let q : Req := req 0x0E05 ([])
    InHand 0x0E05 q s ∧ s.res.standby = .ready) ∧
    (let s : State := hand 0x0E06 (toLe 2 168 ++ zeros 2) (id)
    let q : Req := req 0x0E06 (toLe 2 168 ++ zeros 2)
    let p := q.payload
    InHand 0x0E06 q s ∧ u16 p 0 ≤ 168) ∧
    (let s : State := hand 0x0E07 ([]) (id)
    let q : Req := req 0x0E07 ([])
    InHand 0x0E07 q s) ∧
    (let s : State := hand 0x0E08 ([7#8, 0, 0, 0]) (id)
    let q : Req := req 0x0E08 ([7#8, 0, 0, 0])
    let p := q.payload
    let n := u8 p 0
    InHand 0x0E08 q s ∧ 1 ≤ n ∧ n ≤ 7) ∧
    (let s : State := hand 0x0E09 ([0#8, 1, 0, 0]) (id)
    let q : Req := req 0x0E09 ([0#8, 1, 0, 0])
    let p := q.payload
    let n := u8 p 0
    InHand 0x0E09 q s ∧ n = 0 ∧ u8 p 1 ≤ 1) := by
  refine ⟨?_, ?_, ?_, ?_, ?_, ?_, ?_, ?_, ?_, ?_, ?_, ?_, ?_, ?_⟩ <;> decide

set_option maxRecDepth 100000 in
theorem test_witness_MeasurementAndTestRows :
    (let s : State := up
    let u : Nat := 15
    Serving s ∧ pmuPresent s u = true) ∧
    (let s : State := up
    let u : Nat := 15
    let v : Nat := 3
    Serving s ∧ pmuPresent s u = true ∧ v / 4 % 2 = 0) ∧
    (let s : State := up
    let u : Nat := 3
    Serving s ∧ u < nPorts s) ∧
    (let s : State := setBw 3 (fun b => { b with run := true }) up
    let u : Nat := 3
    coreOff s = false ∧ u < nPorts s ∧ (getBw s u).run = true) ∧
    (let s : State := up
    let u : Nat := 3
    (getBw s u).run = false) ∧
    (let s : State := hand 0x0F01 ([3#8, 1, 1, 0, 64, 0, 0, 0, 84, 0, 242, 5] ++ zeros 84) (id)
    let q : Req := req 0x0F01 ([3#8, 1, 1, 0, 64, 0, 0, 0, 84, 0, 242, 5] ++ zeros 84)
    let p := q.payload
    let n := u8 p 0
    InHand 0x0F01 q s ∧ n < nPorts s ∧ u8 p 1 = 1 ∧ u8 p 2 ≤ 1 ∧ 14 ≤ u8 p 4 ∧ u8 p 4 ≤ 64 ∧ 64 ≤ u16 p 8 ∧ u8 p 4 + 20 ≤ u16 p 8 ∧
    u16 p 8 ≤ u16 p 10 ∧ u16 p 10 ≤ ptMax (getPort s n).applied) ∧
    (let s : State := hand 0x0F01 ([3#8, 0] ++ zeros 94) (id)
    let q : Req := req 0x0F01 ([3#8, 0] ++ zeros 94)
    let p := q.payload
    let n := u8 p 0
    InHand 0x0F01 q s ∧ n < nPorts s ∧ u8 p 1 = 0) ∧
    (let s : State := hand 0x0F02 ([3#8, 0] ++ zeros 6) (id)
    let q : Req := req 0x0F02 ([3#8, 0] ++ zeros 6)
    let p := q.payload
    let n := u8 p 0
    InHand 0x0F02 q s ∧ n < nPorts s ∧ u8 p 1 = 0) ∧
    (let s : State := hand 0x0F03 ([3#8, 0, 0, 0]) (id)
    let q : Req := req 0x0F03 ([3#8, 0, 0, 0])
    let p := q.payload
    let n := u8 p 0
    InHand 0x0F03 q s ∧ n < nPorts s ∧ u8 p 1 = 0) ∧
    (let s : State := hand 0x0F03 ([3#8, 1, 0, 0]) (id)
    let q : Req := req 0x0F03 ([3#8, 1, 0, 0])
    let p := q.payload
    let n := u8 p 0
    InHand 0x0F03 q s ∧ n < nPorts s ∧ u8 p 1 = 1) ∧
    (let s : State := hand 0x0F04 (toLe 4 0x8000 ++ zeros 4) (id)
    let q : Req := req 0x0F04 (toLe 4 0x8000 ++ zeros 4)
    let p := q.payload
    InHand 0x0F04 q s ∧ u32 p 0 ≠ 0 ∧ u8 p 4 = 0) ∧
    (let s : State := hand 0x0F04 (zeros 8) (id)
    let q : Req := req 0x0F04 (zeros 8)
    let p := q.payload
    InHand 0x0F04 q s ∧ u32 p 0 = 0) ∧
    (let code : Nat := 256
    code % 256 = 0) ∧
    (let code : Nat := 0x44
    wirCodes.contains (code % 256) = false) ∧
    (let s : State := (up.updSys fun y => { y with rstN := false }).updMt fun m => { m with test := { m.test with mode := true, bistRun := false } }
    s.mt.test.mode = true ∧ s.sys.rstN = false) ∧
    (let s : State := up
    (s.mt.test.mode = false ∨ s.sys.rstN = true)) ∧
    (let s : State := up
    s.mt.test.bistRun = false) ∧
    (let s : State := (up.updSys fun y => { y with rstN := false }).updMt fun m => { m with test := { m.test with mode := true, bistRun := true } }
    s.mt.test.bistRun = true) := by
  refine ⟨?_, ?_, ?_, ?_, ?_, ?_, ?_, ?_, ?_, ?_, ?_, ?_, ?_, ?_, ?_, ?_, ?_, ?_⟩ <;> decide

end Sys2Proof.Tests
end

namespace Sys2Proof.Machine

open Sys2Proof

/-! ## A step answers, and keeps the build and the queue behind the front command -/

/-- No arm of `exec` is a fault or a refusal: what cannot happen in a state changes nothing (log 4). -/
theorem exec_next (i : Instr) (s : State) : ∃ t, exec i s = .next t := by
  cases i <;> exact ⟨_, rfl⟩

/-- Every command keeps the build, the queue behind it and the invariant, each by the law of its own meaning. -/
theorem exec_keep {r s : State} (h : Keep r s) : ∀ i : Instr, KeepR r (exec i s)
  | .frameEnters => execFrameEnters_keep h
  | .pipelineEntry => execPipelineEntry_keep h
  | .parse => execParse_keep h
  | .flowLookup => execFlowLookup_keep h
  | .flowReadReturn _ _ => execFlowReadReturn_keep h
  | .engineDispatch => execEngineDispatch_keep h
  | .release => execRelease_keep h
  | .genSweepEnd => execGenSweepEnd_keep h
  | .clsGenSlow _ => execClsGenSlow_keep h
  | .hostReadReturn _ _ => execHostReadReturn_keep h
  | .hostWriteResponse _ _ => execHostWriteResponse_keep h
  | .hostTimeout _ _ => execHostTimeout_keep h
  | .registerWrite _ _ _ => execRegisterWrite_keep h
  | .rcRead _ => execRcRead_keep h
  | .counterLowRead _ => execCounterLowRead_keep h
  | .dnDone _ _ _ => execDnDone_keep h
  | .dnDoneTimeout _ _ => execDnDoneTimeout_keep h
  | .dnStageDone _ => execDnStageDone_keep h
  | .dnFrameStart _ => execDnFrameStart_keep h
  | .upFrame _ _ _ _ => execUpFrame_keep h
  | .fbRate _ => execFbRate_keep h
  | .fbCredit _ => execFbCredit_keep h
  | .fbPs _ => execFbPs_keep h
  | .fbRxEvent _ => execFbRxEvent_keep h
  | .fbTsf _ => execFbTsf_keep h
  | .stbPd _ => execStbPd_keep h
  | .stbAbort _ => execStbAbort_keep h
  | .stbRestart _ => execStbRestart_keep h
  | .rateStale _ _ => execRateStale_keep h
  | .stationDecision => execStationDecision_keep h
  | .ciphDone _ => execCiphDone_keep h
  | .ciphTimeout => execCiphTimeout_keep h
  | .capEdge _ => execCapEdge_keep h
  | .captureStuck _ => execCaptureStuck_keep h
  | .triggerFire _ => execTriggerFire_keep h
  | .trigPulseEnd _ => execTrigPulseEnd_keep h
  | .tsfStale _ => execTsfStale_keep h
  | .tbNsRead _ => execTbNsRead_keep h
  | .timeSnap _ => execTimeSnap_keep h
  | .tbRateWrite _ _ => execTbRateWrite_keep h
  | .capPop _ => execCapPop_keep h
  | .trgArm _ _ => execTrgArm_keep h
  | .trgCancel _ _ => execTrgCancel_keep h
  | .intRearm _ _ => execIntRearm_keep h
  | .intMaskWrite _ _ => execIntMaskWrite_keep h
  | .vectorDelay _ _ => execVectorDelay_keep h
  | .intMsgCtrlWrite _ _ => execIntMsgCtrlWrite_keep h
  | .mbDoorbell _ _ => execMbDoorbell_keep h
  | .mbDoneClear _ => execMbDoneClear_keep h
  | .requestTake => execRequestTake_keep h
  | .eventWriteResponse _ _ => execEventWriteResponse_keep h
  | .sysIdentify => execSysIdentify_keep h
  | .sysRegionSet => execSysRegionSet_keep h
  | .sysGroupOpen => execSysGroupOpen_keep h
  | .sysCommit _ => execSysCommit_keep h
  | .sysAbort => execSysAbort_keep h
  | .sysEventRingSet => execSysEventRingSet_keep h
  | .sysEventMask => execSysEventMask_keep h
  | .sysMailboxGrant => execSysMailboxGrant_keep h
  | .sysResourceBind => execSysResourceBind_keep h
  | .sysPuntSet => execSysPuntSet_keep h
  | .sysQuiesce => execSysQuiesce_keep h
  | .sysStart => execSysStart_keep h
  | .lnStage _ => execLnStage_keep h
  | .lnStatusGet => execLnStatusGet_keep h
  | .lnRetire => execLnRetire_keep h
  | .lnApply _ => execLnApply_keep h
  | .errInject _ => execErrInject_keep h
  | .losAssert _ => execLosAssert_keep h
  | .losDeassert _ => execLosDeassert_keep h
  | .cdrLock _ => execCdrLock_keep h
  | .cdrLockLoss _ => execCdrLockLoss_keep h
  | .pllLock _ => execPllLock_keep h
  | .pllStartFail _ => execPllStartFail_keep h
  | .pllRetry _ => execPllRetry_keep h
  | .pllLockLoss _ => execPllLockLoss_keep h
  | .rxReady _ _ _ => execRxReady_keep h
  | .blockLock _ => execBlockLock_keep h
  | .blockSlip _ => execBlockSlip_keep h
  | .ctcInsert _ _ => execCtcInsert_keep h
  | .ctcDelete _ _ => execCtcDelete_keep h
  | .ctcSlip _ => execCtcSlip_keep h
  | .trainingRequest _ _ => execTrainingRequest_keep h
  | .trained _ => execTrained_keep h
  | .trainingTimeout _ => execTrainingTimeout_keep h
  | .txLpiTimer _ => execTxLpiTimer_keep h
  | .rxLpiBlocks _ _ => execRxLpiBlocks_keep h
  | .rxLpiFault _ _ => execRxLpiFault_keep h
  | .prbsLock _ _ _ _ => execPrbsLock_keep h
  | .prbsLockLoss _ _ _ => execPrbsLockLoss_keep h
  | .prbsDone _ _ => execPrbsDone_keep h
  | .portStage _ => execPortStage_keep h
  | .portConfig => execPortConfig_keep h
  | .portGclSet => execPortGclSet_keep h
  | .portStatusGet => execPortStatusGet_keep h
  | .portTsRead => execPortTsRead_keep h
  | .wireRxFrame _ _ => execWireRxFrame_keep h
  | .pauseExpire _ _ => execPauseExpire_keep h
  | .pauseRefresh _ _ => execPauseRefresh_keep h
  | .txSelect _ => execTxSelect_keep h
  | .txFrameDone _ => execTxFrameDone_keep h
  | .linkUp _ => execLinkUp_keep h
  | .linkDownHoldExpire _ => execLinkDownHoldExpire_keep h
  | .hiBer _ _ => execHiBer_keep h
  | .anComplete _ _ _ => execAnComplete_keep h
  | .anRestartTimer _ => execAnRestartTimer_keep h
  | .anLinkFail _ => execAnLinkFail_keep h
  | .eeeIdleExpire _ => execEeeIdleExpire_keep h
  | .gclStart _ => execGclStart_keep h
  | .gateEntryChange _ => execGateEntryChange_keep h
  | .gateOversize _ _ => execGateOversize_keep h
  | .verifyTimer _ => execVerifyTimer_keep h
  | .spillStart _ => execSpillStart_keep h
  | .spillComplete _ => execSpillComplete_keep h
  | .returnStart _ => execReturnStart_keep h
  | .returnComplete _ => execReturnComplete_keep h
  | .freeQueueRefill _ => execFreeQueueRefill_keep h
  | .refillRetry _ => execRefillRetry_keep h
  | .relocationDone _ => execRelocationDone_keep h
  | .storePoolSplit => execStorePoolSplit_keep h
  | .storeSpillSet => execStoreSpillSet_keep h
  | .storeStatusGet => execStoreStatusGet_keep h
  | .storeCountersGet => execStoreCountersGet_keep h
  | .storeBankRetire => execStoreBankRetire_keep h
  | .clsParseNodeSet => execClsParseNodeSet_keep h
  | .clsParseStartSet => execClsParseStartSet_keep h
  | .clsExceptionSet => execClsExceptionSet_keep h
  | .clsRuleAdd => execClsRuleAdd_keep h
  | .clsRuleDelete => execClsRuleDelete_keep h
  | .clsMcastSet => execClsMcastSet_keep h
  | .clsDefaultSet => execClsDefaultSet_keep h
  | .clsTableSet => execClsTableSet_keep h
  | .clsGenStatus => execClsGenStatus_keep h
  | .clsGenRetire => execClsGenRetire_keep h
  | .clsRuleRead => execClsRuleRead_keep h
  | .clsCountersGet => execClsCountersGet_keep h
  | .flowProfileSet => execFlowProfileSet_keep h
  | .flowActionSet => execFlowActionSet_keep h
  | .flowRewriteSet => execFlowRewriteSet_keep h
  | .flowPolicerSet => execFlowPolicerSet_keep h
  | .flowInstall => execFlowInstall_keep h
  | .flowDelete => execFlowDelete_keep h
  | .flowRead => execFlowRead_keep h
  | .flowAgeSet => execFlowAgeSet_keep h
  | .flowTableSet => execFlowTableSet_keep h
  | .flowFlush => execFlowFlush_keep h
  | .flowCountersGet => execFlowCountersGet_keep h
  | .claimNew _ _ _ => execClaimNew_keep h
  | .claimEntry _ _ _ _ => execClaimEntry_keep h
  | .publish _ _ _ _ => execPublish_keep h
  | .abandon _ _ _ => execAbandon_keep h
  | .flopOutcome _ _ => execFlopOutcome_keep h
  | .agingPair => execAgingPair_keep h
  | .plus _ _ _ _ _ => execPlus_keep h
  | .minus _ _ _ _ _ => execMinus_keep h
  | .band _ _ _ _ _ => execBand_keep h
  | .bor _ _ _ _ _ => execBor_keep h
  | .bxor _ _ _ _ _ => execBxor_keep h
  | .shl _ _ _ _ _ => execShl_keep h
  | .shr _ _ _ _ _ => execShr_keep h
  | .shra _ _ _ _ _ => execShra_keep h
  | .cmplt _ _ _ _ _ => execCmplt_keep h
  | .cmpltu _ _ _ _ _ => execCmpltu_keep h
  | .immh _ _ _ _ => execImmh_keep h
  | .imml _ _ _ _ => execImml_keep h
  | .mpy _ _ _ _ _ => execMpy_keep h
  | .mpyhs _ _ _ _ _ => execMpyhs_keep h
  | .mpyhu _ _ _ _ _ => execMpyhu_keep h
  | .ld8 _ _ _ _ _ => execLd8_keep h
  | .ld8s _ _ _ _ _ => execLd8s_keep h
  | .ld16 _ _ _ _ _ => execLd16_keep h
  | .ld16s _ _ _ _ _ => execLd16s_keep h
  | .ld32 _ _ _ _ _ => execLd32_keep h
  | .st8 _ _ _ _ _ => execSt8_keep h
  | .st16 _ _ _ _ _ => execSt16_keep h
  | .st32 _ _ _ _ _ => execSt32_keep h
  | .jeq _ _ _ _ _ => execJeq_keep h
  | .jne _ _ _ _ _ => execJne_keep h
  | .jlt _ _ _ _ _ => execJlt_keep h
  | .jge _ _ _ _ _ => execJge_keep h
  | .jltu _ _ _ _ _ => execJltu_keep h
  | .jgeu _ _ _ _ _ => execJgeu_keep h
  | .call _ _ _ => execCall_keep h
  | .jumpr _ _ _ _ => execJumpr_keep h
  | .crd _ _ _ _ => execCrd_keep h
  | .cwr _ _ _ _ => execCwr_keep h
  | .fld8 _ _ _ _ _ => execFld8_keep h
  | .fld16 _ _ _ _ _ => execFld16_keep h
  | .fld32 _ _ _ _ _ => execFld32_keep h
  | .windowLoadReturn _ _ _ => execWindowLoadReturn_keep h
  | .bxt _ _ _ _ _ _ => execBxt_keep h
  | .bins _ _ _ _ _ _ => execBins_keep h
  | .brev8 _ _ _ _ => execBrev8_keep h
  | .ocadd _ _ _ => execOcadd_keep h
  | .crc8 _ _ _ => execCrc8_keep h
  | .crc16 _ _ _ => execCrc16_keep h
  | .crc32 _ _ _ => execCrc32_keep h
  | .hrd _ _ _ _ _ => execHrd_keep h
  | .hwr _ _ _ _ _ => execHwr_keep h
  | .hostAccessDone _ _ => execHostAccessDone_keep h
  | .done _ _ _ => execDone_keep h
  | .send _ _ _ _ _ _ _ => execSend_keep h
  | .wait _ _ _ => execWait_keep h
  | .waitWake _ _ => execWaitWake_keep h
  | .frameBudgetExpire _ _ => execFrameBudgetExpire_keep h
  | .inqTake _ => execInqTake_keep h
  | .onyxInqServe => execOnyxInqServe_keep h
  | .engineWatchdog _ _ => execEngineWatchdog_keep h
  | .redispatch _ => execRedispatch_keep h
  | .engineBistDone _ _ => execEngineBistDone_keep h
  | .engHookBind => execEngHookBind_keep h
  | .engProgUnload => execEngProgUnload_keep h
  | .engConfigSet => execEngConfigSet_keep h
  | .engPolicySet => execEngPolicySet_keep h
  | .engDataWrite => execEngDataWrite_keep h
  | .engStatusGet => execEngStatusGet_keep h
  | .engCountersGet => execEngCountersGet_keep h
  | .engSampleRead => execEngSampleRead_keep h
  | .engBaseSet => execEngBaseSet_keep h
  | .txDb _ _ _ => execTxDb_keep h
  | .rxDb _ _ _ => execRxDb_keep h
  | .chEventsClear _ _ => execChEventsClear_keep h
  | .hostRxDecision => execHostRxDecision_keep h
  | .chConfig => execChConfig_keep h
  | .chRingSet => execChRingSet_keep h
  | .chVectorSet => execChVectorSet_keep h
  | .chFilterSet => execChFilterSet_keep h
  | .chHashSet => execChHashSet_keep h
  | .chRateSet => execChRateSet_keep h
  | .chEnable => execChEnable_keep h
  | .chReset => execChReset_keep h
  | .chStatusGet => execChStatusGet_keep h
  | .chCountersGet => execChCountersGet_keep h
  | .staSet => execStaSet_keep h
  | .staRemove => execStaRemove_keep h
  | .staFlush => execStaFlush_keep h
  | .staStatusGet => execStaStatusGet_keep h
  | .staCountersGet => execStaCountersGet_keep h
  | .rlConfig => execRlConfig_keep h
  | .rlStatusGet => execRlStatusGet_keep h
  | .schPortSet => execSchPortSet_keep h
  | .schShaperSet => execSchShaperSet_keep h
  | .schChannelSet => execSchChannelSet_keep h
  | .schStatusGet => execSchStatusGet_keep h
  | .schCountersGet => execSchCountersGet_keep h
  | .timeStep => execTimeStep_keep h
  | .timeRate => execTimeRate_keep h
  | .timeUnlock => execTimeUnlock_keep h
  | .timeTrackSet => execTimeTrackSet_keep h
  | .timeCaptureSet => execTimeCaptureSet_keep h
  | .timeTriggerArm => execTimeTriggerArm_keep h
  | .timeTriggerCancel => execTimeTriggerCancel_keep h
  | .timeStrobeRead => execTimeStrobeRead_keep h
  | .timeStatusGet => execTimeStatusGet_keep h
  | .timeCountersGet => execTimeCountersGet_keep h
  | .crcStart _ _ => execCrcStart_keep h
  | .crcAbort _ _ => execCrcAbort_keep h
  | .crcJobEnd _ => execCrcJobEnd_keep h
  | .crcRingRetry => execCrcRingRetry_keep h
  | .pwrStateSet => execPwrStateSet_keep h
  | .powerCommitPoint => execPowerCommitPoint_keep h
  | .powerDeferTimeout => execPowerDeferTimeout_keep h
  | .forceLateTimeout => execForceLateTimeout_keep h
  | .pwrWatchSet => execPwrWatchSet_keep h
  | .pwrPatternSet => execPwrPatternSet_keep h
  | .pwrStatusGet => execPwrStatusGet_keep h
  | .pwrCountersGet => execPwrCountersGet_keep h
  | .pwrAckChange _ _ => execPwrAckChange_keep h
  | .retAckChange _ _ => execRetAckChange_keep h
  | .clkAckRise => execClkAckRise_keep h
  | .clkAckFall => execClkAckFall_keep h
  | .handshakeTimeout _ _ => execHandshakeTimeout_keep h
  | .watchRxFrame _ _ => execWatchRxFrame_keep h
  | .pwrWake => execPwrWake_keep h
  | .wakeTimer => execWakeTimer_keep h
  | .lightSleep _ => execLightSleep_keep h
  | .rstNAssert => execRstNAssert_keep h
  | .rstAoNAssert => execRstAoNAssert_keep h
  | .coreResetRelease => execCoreResetRelease_keep h
  | .bootReady => execBootReady_keep h
  | .testModeChange _ => execTestModeChange_keep h
  | .scrubRead _ => execScrubRead_keep h
  | .rowRepairDone _ => execRowRepairDone_keep h
  | .columnRepairDone _ => execColumnRepairDone_keep h
  | .freeListRebuildDone _ => execFreeListRebuildDone_keep h
  | .imemRefillDone _ => execImemRefillDone_keep h
  | .onyxTrap => execOnyxTrap_keep h
  | .onyxHang => execOnyxHang_keep h
  | .standbyReady => execStandbyReady_keep h
  | .coldRestartDone => execColdRestartDone_keep h
  | .scrubWriteRetry => execScrubWriteRetry_keep h
  | .resImageLoad => execResImageLoad_keep h
  | .resImageActivate => execResImageActivate_keep h
  | .resEngineCondemn => execResEngineCondemn_keep h
  | .resEngineReturn => execResEngineReturn_keep h
  | .resMgmtSwitch => execResMgmtSwitch_keep h
  | .resConfig => execResConfig_keep h
  | .resStatusGet => execResStatusGet_keep h
  | .resFaultRead => execResFaultRead_keep h
  | .resCountersGet => execResCountersGet_keep h
  | .wsBypass _ => execWsBypass_keep h
  | .wsExtest _ => execWsExtest_keep h
  | .wsIntest _ => execWsIntest_keep h
  | .wsPreload _ => execWsPreload_keep h
  | .internalScan _ => execInternalScan_keep h
  | .memoryBistRun => execMemoryBistRun_keep h
  | .bistDone _ => execBistDone_keep h
  | .memoryBistStatusRead => execMemoryBistStatusRead_keep h
  | .repairRecordRead => execRepairRecordRead_keep h
  | .repairRecordProgram _ => execRepairRecordProgram_keep h
  | .pmuLoad _ => execPmuLoad_keep h
  | .pmuRunWrite _ _ => execPmuRunWrite_keep h
  | .bwCfgWrite _ _ => execBwCfgWrite_keep h
  | .bwWindowEnd _ => execBwWindowEnd_keep h
  | .mtGenSet => execMtGenSet_keep h
  | .mtChkSet => execMtChkSet_keep h
  | .mtResultGet => execMtResultGet_keep h
  | .mtPmuControl => execMtPmuControl_keep h
  | .codeGroupSync _ _ => execCodeGroupSync_keep h
  | .fecLockChange _ _ => execFecLockChange_keep h
  | .rxFaultSignal _ _ _ => execRxFaultSignal_keep h
  | .cqConsWrite _ _ _ _ => execCqConsWrite_keep h
  | .crcRingConsWrite _ => execCrcRingConsWrite_keep h
  | .aoTb7Read => execAoTb7Read_keep h
  | .standbyCoreFail => execStandbyCoreFail_keep h
  | .standbySyncTimeout => execStandbySyncTimeout_keep h
  | .quiesceDrainTimeout => execQuiesceDrainTimeout_keep h
  | .rstAoNDeassert => execRstAoNDeassert_keep h
  | .ciphPlaintextByte _ => execCiphPlaintextByte_keep h

/-- A step answers a state that keeps the build and the invariant, with the front command gone from the queue. -/
theorem step_next (s : State) : ∃ t, step s = .next t ∧ Keep { s with pending := s.pending.tail } t := by
  unfold step
  cases hp : s.pending with
  | nil =>
    have hs : { s with pending := [].tail } = s := by rw [List.tail_nil, ← hp]
    exact ⟨tick s, rfl, hs.symm ▸ tick_keep (Keep.refl s)⟩
  | cons c rest =>
    obtain ⟨t, ht⟩ := exec_next c { s with pending := rest }
    exact ⟨t, ht, exec_keep (Keep.refl _) c t ht⟩

/-- Settles O2: a command's meaning, or a tick, answers a state that keeps the build and the queue that it found. -/
theorem everyStepTakesOneCommand : Obligations.EveryStepTakesOneCommand := by
  intro s
  obtain ⟨t, ht, hbuild, hpending, -⟩ := step_next s
  exact ⟨t, ht, hbuild, hpending⟩

/-! ## The register port -/

section RegisterPort

variable {s : State} {a v k : Nat}

theorem serving_answer (h : Serving s) : Serving (answer v s) := h

theorem serving_decodeError (h : Serving s) : Serving (decodeError a s) := h

/-- While the core is on, a refused access is counted (R526, R530). -/
theorem countDecode_on (hc : coreOff s = false) : countDecode a s = decodeError a s := by
  simp [countDecode, hc]

theorem readReg_targetErr (hh : s.sys.held = false) (ha : a < 2 ^ 22) (hc : coreOff s = true) (ho : alwaysOn a = false) :
    readReg a s = targetErr s := by
  simp only [readReg, Nat.mod_eq_of_lt ha]
  simp [hh, hc, ho]

theorem readReg_misaligned (hh : s.sys.held = false) (ha : a < 2 ^ 22) (hc : coreOff s = false) (hm : a % 4 ≠ 0) :
    readReg a s = answer 0 (decodeError a s) := by
  simp only [readReg, Nat.mod_eq_of_lt ha]
  simp [hh, hc, hm, countDecode_on]

theorem readReg_core (hh : s.sys.held = false) (ha : a < 2 ^ 22) (hc : coreOff s = false) (hm : a % 4 = 0)
    (ho : alwaysOn a = false) : readReg a s = answer ((rdCore a s).1 % 2 ^ 32) (rdCore a s).2 := by
  simp only [readReg, Nat.mod_eq_of_lt ha]
  simp [hh, hc, hm, ho]

/-- The always-on area is read with the core on or off (R50). -/
theorem readReg_always (hh : s.sys.held = false) (ha : a < 2 ^ 22) (hm : a % 4 = 0) (ho : alwaysOn a = true) :
    readReg a s = answer ((rdAlways (a % 0x10000) s).1 % 2 ^ 32) (rdAlways (a % 0x10000) s).2 := by
  simp only [readReg, Nat.mod_eq_of_lt ha]
  simp [hh, hm, ho]

theorem writeReg_targetErr (hh : s.sys.held = false) (ha : a < 2 ^ 22) (hc : coreOff s = true) (ho : alwaysOn a = false) :
    writeReg a v k s = targetErr s := by
  simp only [writeReg, Nat.mod_eq_of_lt ha]
  simp [hh, hc, ho]

/-- A write is of whole aligned words: any other is ignored and counted (R48, R51; log 16). -/
theorem writeReg_refused (hh : s.sys.held = false) (ha : a < 2 ^ 22) (hc : coreOff s = false) (hb : k ≠ 15 ∨ a % 4 ≠ 0) :
    writeReg a v k s = answer 0 (decodeError (2 ^ 31 + a) s) := by
  simp only [writeReg, Nat.mod_eq_of_lt ha]
  simp [hh, hc, hb, countDecode_on]

theorem writeReg_core {t : State} (hh : s.sys.held = false) (ha : a < 2 ^ 22) (hc : coreOff s = false) (hm : a % 4 = 0)
    (ho : alwaysOn a = false) (hw : wrCore a (v % 2 ^ 32) s = some t) : writeReg a v 15 s = answer 0 t := by
  simp only [writeReg, Nat.mod_eq_of_lt ha, hw]
  simp [hh, hc, hm, ho]

/-- A write where no present register is has no effect, and is counted (R6, R51). -/
theorem writeReg_core_absent (hh : s.sys.held = false) (ha : a < 2 ^ 22) (hc : coreOff s = false) (hm : a % 4 = 0)
    (ho : alwaysOn a = false) (hw : wrCore a (v % 2 ^ 32) s = none) :
    writeReg a v 15 s = answer 0 (decodeError (2 ^ 31 + a) s) := by
  simp only [writeReg, Nat.mod_eq_of_lt ha, hw]
  simp [hh, hc, hm, ho, countDecode_on]

theorem writeReg_always {t : State} (hh : s.sys.held = false) (ha : a < 2 ^ 22) (hm : a % 4 = 0) (ho : alwaysOn a = true)
    (hw : wrAlways (a % 0x10000) (v % 2 ^ 32) s = some t) : writeReg a v 15 s = answer 0 t := by
  simp only [writeReg, Nat.mod_eq_of_lt ha, hw]
  simp [hh, hm, ho]

/-! ### The identification page (R2, R531) -/

theorem rdCore_version : rdCore 0 s = (ipVersion, s) := rfl

theorem rdCore_config : rdCore 4 s = (ipConfig s, s) := rfl

theorem wrCore_version : wrCore 0 v s = some s := rfl

theorem readReg_version (h : Serving s) : readReg 0 s = answer ipVersion s := by
  rw [readReg_core h.1 (by decide) h.2 rfl rfl, rdCore_version]
  rfl

/-- A write of IP_VERSION leaves the block served, whether it is ignored or refused for its strobe. -/
theorem serving_writeReg_version (h : Serving s) : Serving (writeReg 0 v k s) := by
  by_cases hk : k = 15
  · subst hk
    rw [writeReg_core h.1 (by decide) h.2 rfl rfl wrCore_version]
    exact serving_answer h
  · rw [writeReg_refused h.1 (by decide) h.2 (.inl hk)]
    exact serving_answer (serving_decodeError h)

/-- The value that the register port answers for IP_CONFIG fits its 32 bits. -/
theorem ipConfig_lt : ipConfig s < 2 ^ 32 := by
  unfold ipConfig byBuild
  split <;> decide

theorem readReg_config (h : Serving s) : readReg 4 s = answer (ipConfig s) s := by
  rw [readReg_core h.1 (by decide) h.2 rfl rfl, rdCore_config, Nat.mod_eq_of_lt ipConfig_lt]

/-- AO_TB7_LO lies in the always-on area, and its read latches AO_TB7_HI (R465). -/
theorem readReg_aoTb7 (hh : s.sys.held = false) :
    readReg 0x0F0014 s =
      answer (nowNs s % 2 ^ 32) (s.updPwr fun p => { p with aoHold := nowNs s / 2 ^ 32 % 2 ^ 32 }) := by
  rw [readReg_always hh (by decide) rfl rfl]
  change answer (nowNs s % 2 ^ 32 % 2 ^ 32) _ = _
  rw [Nat.mod_mod]
  rfl

end RegisterPort

/-- Settles O7: IP_VERSION's read is `ipVersion` in every served state, and a write of it leaves the block served. -/
theorem versionRegister : Obligations.VersionRegister := by
  intro s h
  refine ⟨⟨answer ipVersion s, congrArg _ (readReg_version h), rfl, rfl, by simp [answer, ipVersion]⟩, fun v k => ?_⟩
  exact ⟨writeReg 0 v k s, rfl, answer ipVersion (writeReg 0 v k s),
    congrArg _ (readReg_version (serving_writeReg_version h)), rfl⟩

/-- Settles O8: IP_CONFIG's read is `ipConfig`, which the build alone determines. -/
theorem configRegister : Obligations.ConfigRegister := by
  intro s h
  refine ⟨answer (ipConfig s) s, congrArg _ (readReg_config h), ?_, ?_, ?_⟩ <;>
    exact fun hb => by simp [answer, ipConfig, byBuild, hb]

/-- Settles O30: the register port's cases, each by its law (the answer stands in `reg`; log 16). -/
theorem registerPortRows : Obligations.RegisterPortRows := by
  intro s a v k hh ha hv hk
  have hvm : v % 2 ^ 32 = v := Nat.mod_eq_of_lt hv
  refine ⟨fun hc ho => ?_, fun hc hm ho => ?_, fun hm ho => ?_, fun hc hk' => ?_, fun hc hm => ?_, ?_⟩
  · have hr := readReg_targetErr hh ha hc ho
    exact ⟨congrArg _ hr, congrArg _ hr, congrArg _ (writeReg_targetErr hh ha hc ho)⟩
  · have hr := readReg_core hh ha hc hm ho
    exact ⟨congrArg _ hr, congrArg _ hr, fun t hw => congrArg _ (writeReg_core hh ha hc hm ho (hvm.symm ▸ hw)),
      fun hw => congrArg _ (writeReg_core_absent hh ha hc hm ho (hvm.symm ▸ hw))⟩
  · exact ⟨congrArg _ (readReg_always hh ha hm ho),
      fun t hw => congrArg _ (writeReg_always hh ha hm ho (hvm.symm ▸ hw))⟩
  · exact congrArg _ (writeReg_refused hh ha hc (.inl hk'))
  · exact ⟨congrArg _ (readReg_misaligned hh ha hc hm), congrArg _ (writeReg_refused hh ha hc (.inr hm))⟩
  · exact congrArg _ (readReg_aoTb7 hh)

/-! ## The commands of the power unit (R457-R467) -/

section PowerCommands

variable {s : State} {q : Req}

theorem namesAbsentPort_of_lt {m : Nat} (h : m < 2 ^ nPorts s) : namesAbsentPort s m = false := by
  simpa [namesAbsentPort] using h

theorem namesAbsentPort_of_le {m : Nat} (h : 2 ^ nPorts s ≤ m) : namesAbsentPort s m = true := by
  simpa [namesAbsentPort] using h

/-- Of PWR_WATCH_SET's three masks, the first that names an absent port (R6). -/
def watchMaskBad (s : State) (p : Bytes) : Option Nat := (List.range 3).find? fun i => namesAbsentPort s (u8 p i)

/-- Of PWR_WATCH_SET's four addresses, the first that is a group address. -/
def watchAddrBad (p : Bytes) : Option Nat := (List.range 4).find? fun n => (u8 p (4 + 6 * n)).testBit 0

/-- The first field that PWR_WATCH_SET is refused for: a mask before any address. -/
def watchBad (s : State) (p : Bytes) : Option Nat := (watchMaskBad s p).or ((watchAddrBad p).map (4 + 6 * ·))

theorem watchBad_eq {p : Bytes} : watchBad s p =
    ((List.range 3).filter (fun i => namesAbsentPort s (u8 p i)) ++
      ((List.range 4).filter fun n => (u8 p (4 + 6 * n)).testBit 0).map (4 + 6 * ·)).head? := by
  simp only [watchBad, watchMaskBad, watchAddrBad, List.head?_append, List.head?_map, List.head?_filter]

theorem pwrWatchCmd_refused {i : Nat} (h : watchBad s q.payload = some i) : pwrWatchCmd q s = (s, inv i) := by
  rw [watchBad_eq] at h
  simp only [pwrWatchCmd, h]

theorem pwrWatchCmd_accepted (h : watchBad s q.payload = none) :
    pwrWatchCmd q s = (s.updPwr fun w => { w with
      watchPorts := u8 q.payload 0, linkWake := u8 q.payload 1, addrWake := u8 q.payload 2
      wakeAddr := (List.range 4).foldl (fun t n => t.set n (le q.payload (4 + 6 * n) 6)) w.wakeAddr }, okR) := by
  rw [watchBad_eq] at h
  simp only [pwrWatchCmd, h]

theorem watchMaskBad_none {p : Bytes} (h : ∀ i < 3, u8 p i < 2 ^ nPorts s) : watchMaskBad s p = none := by
  simpa [watchMaskBad, namesAbsentPort] using h

theorem watchMaskBad_some {p : Bytes} {i : Nat} (hi : i < 3) (hlo : ∀ k < i, u8 p k < 2 ^ nPorts s)
    (hbad : 2 ^ nPorts s ≤ u8 p i) : watchMaskBad s p = some i := by
  simpa [watchMaskBad, List.find?_range_eq_some, namesAbsentPort] using ⟨hbad, hi, hlo⟩

theorem watchAddrBad_none {p : Bytes} (h : ∀ n < 4, (u8 p (4 + 6 * n)).testBit 0 = false) : watchAddrBad p = none := by
  simpa [watchAddrBad, List.find?_range_eq_none] using h

theorem watchAddrBad_some {p : Bytes} {n : Nat} (hn : n < 4) (hlo : ∀ k < n, (u8 p (4 + 6 * k)).testBit 0 = false)
    (hbad : (u8 p (4 + 6 * n)).testBit 0 = true) : watchAddrBad p = some n :=
  List.find?_range_eq_some.mpr ⟨hbad, List.mem_range.mpr hn, fun k hk => by simp only [hlo k hk, Bool.not_false]⟩

theorem pwrPatternCmd_accepted (hi : u8 q.payload 0 ≤ 15) (hp : u8 q.payload 1 < 2 ^ nPorts s)
    (hm : ∀ i < 64, andNot (u8 q.payload (8 + i)) (u8 q.payload (72 + i)) = 0) :
    pwrPatternCmd q s = (s.updPwr fun w => { w with
      pats := w.pats.set (u8 q.payload 0) {
        ports := u8 q.payload 1, value := slice q.payload 8 64, mask := slice q.payload 72 64 } }, okR) := by
  have hf : (List.range 64).find? (fun i => andNot (u8 q.payload (8 + i)) (u8 q.payload (72 + i)) != 0) = none := by
    simpa [List.find?_range_eq_none] using hm
  simp only [pwrPatternCmd, if_neg (Nat.not_lt.mpr hi), namesAbsentPort_of_lt hp, Bool.false_eq_true, if_false, hf]

theorem pwrPatternCmd_absentPort (hi : u8 q.payload 0 ≤ 15) (hp : 2 ^ nPorts s ≤ u8 q.payload 1) :
    pwrPatternCmd q s = (s, inv 1) := by
  simp only [pwrPatternCmd, if_neg (Nat.not_lt.mpr hi), namesAbsentPort_of_le hp, if_true]

theorem pwrCountersCmd_unit (h0 : u8 q.payload 0 = 0) (h1 : u8 q.payload 1 ≤ 1) :
    pwrCountersCmd q s = ((readCounters 0xD0 0 5 (u8 q.payload 1 = 1) s).2,
      okD (readCounters 0xD0 0 5 (u8 q.payload 1 = 1) s).1) := by
  simp [pwrCountersCmd, firstErr, h0, Nat.not_lt.mpr h1]

theorem pwrCountersCmd_port (h0 : u8 q.payload 0 = 1) (h1 : u8 q.payload 1 ≤ 1)
    (hp : portCodeOk s (u16 q.payload 2) = true) :
    pwrCountersCmd q s = ((readCounters 0xD1 (u16 q.payload 2) 4 (u8 q.payload 1 = 1) s).2,
      okD (readCounters 0xD1 (u16 q.payload 2) 4 (u8 q.payload 1 = 1) s).1) := by
  simp [pwrCountersCmd, firstErr, h0, Nat.not_lt.mpr h1, hp]

end PowerCommands

/-- Settles O42: each command of the power unit in hand finishes with what its own function answers.  In BM-128 the
addresses at the places of the absent WP2 and WP3 are taken as any other (log 89). -/
theorem powerCommandRows : Obligations.PowerCommandRows := by
  intro s q
  refine ⟨fun h hp ha => ?_, fun i hi h hlo hbad => ?_, fun n hn h hp hlo hbad => ?_, fun h hi hp hm => ?_,
    fun h hi hp => ?_, fun h => ?_, fun h h0 h1 => ?_, fun h h0 h1 hp => ?_⟩
  · have hb : watchBad s q.payload = none := by simp [watchBad, watchMaskBad_none hp, watchAddrBad_none ha]
    exact congrArg _ (immediate_inHand h (pwrWatchCmd_accepted hb))
  · have hb : watchBad s q.payload = some i := by simp [watchBad, watchMaskBad_some hi hlo hbad]
    exact congrArg _ (immediate_inHand h (pwrWatchCmd_refused hb))
  · have hb : watchBad s q.payload = some (4 + 6 * n) := by
      simp [watchBad, watchMaskBad_none hp, watchAddrBad_some hn hlo hbad]
    exact congrArg _ (immediate_inHand h (pwrWatchCmd_refused hb))
  · exact congrArg _ (immediate_inHand h (pwrPatternCmd_accepted hi hp hm))
  · exact congrArg _ (immediate_inHand h (pwrPatternCmd_absentPort hi hp))
  · exact congrArg _ (immediate_inHand h rfl)
  · exact congrArg _ (immediate_inHand h (pwrCountersCmd_unit h0 h1))
  · exact congrArg _ (immediate_inHand h (pwrCountersCmd_port h0 h1 hp))

end Sys2Proof.Machine

namespace Sys2Proof.Machine

open Sys2Proof

/-! ## The state at reset (R24, R86, R322, R504) -/

/-- Settles O6: at reset every table is empty, so each of its entries reads as the default of its kind (the allocation
counter's reset value is log 9's). -/
theorem resetState : Obligations.ResetState :=
  ⟨rfl, fun _ => ⟨rfl, rfl⟩, fun _ => rfl, fun _ => rfl, fun _ => rfl, fun _ => rfl, fun _ _ => rfl,
    rfl, rfl, rfl, rfl, rfl, rfl, fun _ => rfl, fun _ => rfl, fun _ => rfl, rfl, rfl⟩

/-! ## The pool of a stored length (R22) -/

/-- The pool chosen for a length is the first whose buffers hold it with the 72 bytes beside it. -/
theorem poolFor_eq_some {n p : Nat} :
    poolFor n = some p ↔ n ≤ 10236 ∧ p < 4 ∧ n + 72 ≤ bufSize p ∧ ∀ q < p, bufSize q < n + 72 := by
  by_cases hn : n ≤ 10236
  · simp only [poolFor, if_neg (Nat.not_lt.mpr hn), List.find?_range_eq_some, List.mem_range, decide_eq_true_eq,
      Bool.not_eq_true', decide_eq_false_iff_not, Nat.not_le]
    tauto
  · simp only [poolFor, if_pos (Nat.lt_of_not_le hn), hn, false_and, reduceCtorEq]

/-- The largest buffers hold every length that a frame may have. -/
theorem exists_poolFor {n : Nat} (hn : n ≤ 10236) : ∃ p, poolFor n = some p := by
  have h3 : n + 72 ≤ bufSize 3 := Nat.le_trans (Nat.add_le_add_right hn 72) (by decide)
  rw [poolFor, if_neg (Nat.not_lt.mpr hn), ← Option.isSome_iff_exists, List.find?_isSome]
  exact ⟨3, by decide, decide_eq_true h3⟩

/-- Settles O10: the choice is characterised by `poolFor_eq_some`; the sizes and the lengths at each limit are computed. -/
theorem smallestPool : Obligations.SmallestPool :=
  ⟨fun _ _ h => (poolFor_eq_some.mp h).2, fun _ => ⟨fun ⟨_, h⟩ => (poolFor_eq_some.mp h).1, exists_poolFor⟩,
    rfl, rfl, rfl, rfl, by decide⟩

/-! ## The wire ports (R148, R172-R185) -/

section WirePorts

variable {s : State} {n tc : Nat} {rx : RxFrame} {t : TxFrame} {g : Gcl}

/-! ### Reception and near-end loopback -/

theorem lineRx_linkDown (h : (getPort s n).link = false) : lineRx n rx s = s := by
  simp [lineRx, h]

/-- While frames are admitted, a packet of a running lane is received. -/
theorem lineRx_admitted (hr : laneRuns s n = true) (hl : (getPort s n).link = true) (hk : checking (getLane s n) = false)
    (hm : s.pwr.mode = .active) (hq : s.sys.quiescing = false) (hd : s.sys.quiesced = false) (hc : coreOff s = false) :
    lineRx n rx s = rxPacket n rx (fecCount n rx s) := by
  simp [lineRx, hr, hl, hk, hm, hq, hd, hc]

/-- Once admission has stopped, a packet of a running lane is discarded (R452). -/
theorem lineRx_stopped (hr : laneRuns s n = true) (hl : (getPort s n).link = true) (hk : checking (getLane s n) = false)
    (hm : s.pwr.mode = .active) (hq : s.sys.quiescing = true ∨ s.sys.quiesced = true) :
    lineRx n rx s = discardRx n rx s := by
  simp [lineRx, hr, hl, hk, hm, hq]

/-- A whole express frame leaves the frame under reassembly as it was. -/
theorem discardRx_express (h : rx.kind = .express) :
    discardRx n rx s = bump cPwrPort n 1 (setPort n (fun p => { p with asm := (getPort s n).asm }) s) := by
  simp [discardRx, reassemble, h]

theorem pinsUsed_of_farEnd (h : loopback (getLane s n).applied = 3) : pinsUsed (getLane s n) = true := by
  simp [pinsUsed, h]

theorem echoRx_not_farEnd (h : loopback (getLane s n).applied ≠ 3) : echoRx n rx s = s := by
  simp [echoRx, h]

theorem echoRx_farEnd (h : loopback (getLane s n).applied = 3) (ho : lineOut s n = .retimed) :
    echoRx n rx s = setLane n (fun l => { l with echo := l.echo ++ [withFcs rx.data] }) s := by
  simp [echoRx, h, ho]

theorem wireRx_pinsUsed (h : pinsUsed (getLane s n) = true) : wireRx n rx s = lineRx n rx (echoRx n rx s) := by
  simp [wireRx, h]

theorem wireRx_pinsIgnored (h : pinsUsed (getLane s n) = false) (hk : rx.kind ≠ .respond) : wireRx n rx s = s := by
  simp [wireRx, h, hk]

theorem wireRx_linkDown (h : (getPort s n).link = false) (hf : loopback (getLane s n).applied ≠ 3) :
    wireRx n rx s = s := by
  rw [wireRx, echoRx_not_farEnd hf, lineRx_linkDown h, ite_self]

/-! ### Flow control -/

/-- A refresh is owed while the occupancy whose PAUSE was sent has not come down (R178). -/
theorem pauseRefresh_owed (hx : (getPort s n).xoff ≠ 0) (ht : txFc (getPort s n) = true)
    (hr : (getPort s n).refresh ≠ 0) (hm : fcMode (getPort s n) = 1) (hs : (getPort s n).xoffSent.testBit 8 = true)
    (ho : (getPort s n).xoff ≤ occSum (getPort s n)) :
    pauseRefresh n tc s = oweFc n 8 (getPort s n).quanta s := by
  simp [pauseRefresh, hx, ht, hr, hm, hs, ho]

/-! ### Selection and the end of a transmission -/

theorem txSelect_held (h : mayTransmit s n = false) : txSelect n s = s := by
  simp [txSelect, h]

theorem txSelect_idle (h : mayTransmit s n = true) (ht : (getPort s n).tx = none) : txSelect n s = selectNow n s := by
  simp [txSelect, h, ht]

theorem selectNow_owed {k x : Nat} {l : List (Nat × Nat)} (he : egressStops s = false)
    (ho : (getPort s n).owed = (k, x) :: l) : selectNow n s = startControl n k x l s := by
  simp [selectNow, he, ho]

theorem selectNow_generator (he : egressStops s = false) (ho : (getPort s n).owed = [])
    (hg : (getGc s n).gen = true) : selectNow n s = startGen n s := by
  simp [selectNow, he, ho, hg]

theorem selectNow_class (he : egressStops s = false) (ho : (getPort s n).owed = [])
    (hg : (getGc s n).gen = false) : selectNow n s = selectClass n classOrder s := by
  simp [selectNow, he, ho, hg]

/-- What the end of a transmission puts on the line last: the whole frame, or the last part of a preempted one. -/
def lastPart (t : TxFrame) : RxFrame :=
  { data := t.bytes.drop t.sent, kind := if t.sent = 0 then .express else .last }

theorem txFrameDone_reading (ht : (getPort s n).tx = some t) (hr : t.reading = true) : txFrameDone n s = s := by
  simp [txFrameDone, ht, hr]

theorem txFrameDone_control (ht : (getPort s n).tx = some t) (hr : t.reading = false) (hc : t.control = true)
    (hg : t.gen = false) : txFrameDone n s = sendBack n (lastPart t) (countTx n t (setPort n endTx s)) := by
  simp [txFrameDone, lastPart, ht, hr, hc, hg]

/-- A frame of the store gives back its pin and its owner. -/
theorem txFrameDone_stored {b : Buf} (ht : (getPort s n).tx = some t) (hr : t.reading = false) (hc : t.control = false)
    (hg : t.gen = false) (hb : getBuf (countTx n t (setPort n endTx s)) t.handle = some b) :
    txFrameDone n s = sendBack n (lastPart t) (releaseOwner t.handle (n * 65536 + t.tc)
      (unpinBuf t.handle (keepStamp n t b.record (countTx n t (setPort n endTx s))))) := by
  simp [txFrameDone, lastPart, ht, hr, hc, hg, hb]

/-! ### Gates and verification -/

theorem gclStart_none (h : (getPort s n).gclNext = none) : gclStart n s = s := by
  simp [gclStart, h]

theorem gateChange_none (h : (getPort s n).gcl = none) : gateChange n s = s := by
  simp [gateChange, h]

theorem gateChange_inside (hg : (getPort s n).gcl = some g) (he : (getPort s n).entry + 1 < g.segs.length) :
    gateChange n s = gateMove n ((getPort s n).entry + 1) false g s := by
  simp [gateChange, hg, he]

/-- With nothing on the line, a change of the entry moves the gates alone. -/
theorem gateMove_idle {i : Nat} (ht : (getPort s n).tx = none) :
    gateMove n i false g s = setPort n (fun p => { p with
      entry := i, cycleStart := p.cycleStart, gates := ((g.segs[i]?).map fun x => x.2.2).getD 0xFF }) s := by
  simp [gateMove, ht]

theorem verifyTimer_again (hv : (getPort s n).verify = 1) (hl : (getPort s n).link = true)
    (hn : (getPort s n).verifyN < 3) :
    verifyTimer n s = setPort n (fun p => { p with verifyN := p.verifyN + 1 }) s := by
  simp [verifyTimer, hv, hl, hn]

/-- Verification fails after its third attempt (R185). -/
theorem verifyTimer_failed (hv : (getPort s n).verify = 1) (hl : (getPort s n).link = true)
    (hn : 3 ≤ (getPort s n).verifyN) :
    verifyTimer n s = raise0 0x0283 n (toLe 1 1) (setPort n (fun p => { p with verify := 3 }) s) := by
  simp [verifyTimer, hv, hl, Nat.not_lt.mpr hn]

/-- The head of a gated class fits into the longest window that its list gives the class. -/
def headFits (n tc : Nat) (x : Nom) (g : Gcl) (u : State) : Bool :=
  fits 0 (needBytes (getPort u n) tc (wireLen u x.qe) 0) (rateMbps (laneRate (getLane u n))) (longestWindow g tc)

theorem gateOversize_head {x : Nom} {u : State} (hc : coreOff s = false) (hr : (getPort s n).tx.any (·.reading) = false)
    (hu : u = prepareHead n tc (classDepth s n tc) s) (hx : (getWire u n).nom.get? tc = some x)
    (hg : (getPort u n).gcl = some g) (hq : ptQbv (getPort u n).applied = true) :
    gateOversize n tc s = if headFits n tc x g u then u else dropHead n tc cWire n 24 x.qe u := by
  subst hu
  simp only [gateOversize, hc, hr, hx, hg, hq, Bool.or_self, Bool.false_eq_true, if_false, Bool.true_and,
    Bool.not_eq_true', ← Bool.not_eq_true, ite_not]
  rfl

end WirePorts

/-- Settles O48: each row by the law of its function in that case; what an event of the core domain does, by
`clocked_on`.  An event with nothing to act on changes nothing (log 4). -/
theorem wirePortRows : Obligations.WirePortRows := by
  intro s n tc rx
  refine ⟨fun hp hr hl hk hc hf hm => ?_, fun hf ho => ?_, fun hl hf => congrArg _ (wireRx_linkDown hl hf),
    fun hp hk => congrArg _ (wireRx_pinsIgnored hp hk), fun _ => rfl,
    fun hx ht hr hm hs ho => congrArg _ (pauseRefresh_owed hx ht hr hm hs ho), fun hm ht he => ?_,
    fun hm => congrArg _ (txSelect_held hm), fun hc => ?_⟩
  · have hw : wireRx n rx s = lineRx n rx s := by rw [wireRx_pinsUsed hp, echoRx_not_farEnd hf]
    exact ⟨fun hq hd => congrArg _ (hw.trans (lineRx_admitted hr hl hk hm hq hd hc)),
      fun he hq => congrArg _ (hw.trans ((lineRx_stopped hr hl hk hm hq).trans (discardRx_express he)))⟩
  · exact congrArg _ ((wireRx_pinsUsed (pinsUsed_of_farEnd hf)).trans (congrArg _ (echoRx_farEnd hf ho)))
  · have hs := txSelect_idle hm ht
    exact ⟨fun k x l ho => congrArg _ (hs.trans (selectNow_owed he ho)),
      fun ho hg => congrArg _ (hs.trans (selectNow_generator he ho hg)),
      fun ho hg => congrArg _ (hs.trans (selectNow_class he ho hg))⟩
  · have hon : ∀ {t : State}, clocked s t = t := clocked_on hc
    refine ⟨fun t ht hr => ?_, fun t ht hr hk hg => ?_, fun t b ht hr hk hg u hu hb => ?_, fun g hg => ?_,
      fun g hg ht he => ?_, fun hg => ?_, fun hg => ?_, fun hv hl hn => ?_, fun hv hl hn => ?_,
      fun x g u hr hu hx hg hq => ?_⟩
    · exact congrArg _ (hon.trans (txFrameDone_reading ht hr))
    · exact congrArg _ (hon.trans (txFrameDone_control ht hr hk hg))
    · subst hu
      exact congrArg _ (hon.trans (txFrameDone_stored ht hr hk hg hb))
    · exact congrArg _ (hon.trans (by simp only [gclStart, hg]))
    · exact congrArg _ (hon.trans ((gateChange_inside hg he).trans (gateMove_idle ht)))
    · exact congrArg _ (hon.trans (gateChange_none hg))
    · exact congrArg _ (hon.trans (gclStart_none hg))
    · exact congrArg _ (hon.trans (verifyTimer_again hv hl hn))
    · exact congrArg _ (hon.trans (verifyTimer_failed hv hl hn))
    · have ho := hon.trans (gateOversize_head hc hr hu hx hg hq)
      exact ⟨fun hf => congrArg _ (ho.trans (if_neg (ne_true_of_eq_false hf))),
        fun hf => congrArg _ (ho.trans (if_pos hf))⟩

/-! ## The pipeline (R23, R26, R29, R263, R295) -/

section Pipeline

variable {s : State}

/-! ### Entry -/

theorem pipelineEntry_closed (h : entryOpen s = false) : pipelineEntry s = s := by
  simp [pipelineEntry, h]

theorem pipelineEntry_granted {a : Arr} (h : entryOpen s = true) (hh : entryHeld (offerAll s) = false)
    (ha : nextArrival (offerAll s) = some a) :
    pipelineEntry s = giveCredit a.port ((offerAll s).updPipe fun p => { p with
      wait := p.wait.erase a, granted := p.granted ++ [a], turn := if a.port < 4 then p.turn else a.port }) := by
  simp [pipelineEntry, h, hh, ha]

theorem frameEnters_none (h : s.pipe.granted = []) : frameEnters s = s := by
  simp [frameEnters, h]

section Granted

variable {a : Arr} {rest : List Arr} {h : Nat} {u w : State}

/-- A frame that has its buffer enters with the buffer's owner sequence; any other, with that of its allocation (R204). -/
theorem frameEnters_stored {b : Buf} (hc : coreOff s = false) (hg : s.pipe.granted = a :: rest) (ha : a.h = some h)
    (hu : u = s.updPipe fun p => { p with granted := rest }) (hb : getBuf u h = some b) :
    frameEnters s = enterWith a h b.oseq u := by
  subst hu
  simp [frameEnters, hc, hg, ha, hb]

theorem frameEnters_allocated {p : Nat} (hc : coreOff s = false) (hg : s.pipe.granted = a :: rest) (ha : a.h = none)
    (hp : poolFor a.data.length = some p) (hu : u = s.updPipe fun p => { p with granted := rest })
    (hw : allocBuf p u = (some h, w)) : frameEnters s = enterWith a h u.store.alloc w := by
  subst hu
  simp [frameEnters, hc, hg, ha, hp, hw]

end Granted

/-! ### Parsing -/

section Parsing

variable {f : PFrame} {rest : List PFrame} {x : Option Xfer} {u v : State}

theorem parseNext_none (h : s.pipe.parseQ = []) : parseNext s = s := by
  simp [parseNext, h]

/-- The parser waits for the frame's bytes. -/
theorem parseNext_waits (hq : s.pipe.parseQ = f :: rest) (hf : fetchPinned .parser f.h s = (none, u)) :
    parseNext s = u := by
  simp [parseNext, hq, hf]

/-- Once the bytes are there, a frame that cannot be trusted is lost and any other is parsed. -/
theorem parseNext_fetched (hq : s.pipe.parseQ = f :: rest) (hf : fetchPinned .parser f.h s = (some x, v))
    (hu : u = v.updPipe fun p => { p with parseQ := rest }) :
    parseNext s = if x.any (·.err) || isBad u f.h then parseLost f x u else parseFrame f x u := by
  subst hu
  simp only [parseNext, hq, hf]

/-- The frame as the parser leaves it. -/
def parsedFrame (f : PFrame) (x : Option Xfer) (u : State) : PFrame :=
  let d := readData u f.h x
  let r := parseData u f.gen f.port d
  { f with
    key := parseKey r.1 0 f.port (recCh (readRecord u f.h x)) f.tc f.len f.tag false
    pres := parseResult r.1 0, shadow := d.take 256, hdrOld := min d.length 256, hdrNew := min d.length 256 }

theorem parseFrame_complete (h : (parseData u f.gen f.port (readData u f.h x)).2 = 0) :
    parseFrame f x u = classifyFrame (parsedFrame f x u) false
      (updBuf f.h (fun b => { b with pres := (parsedFrame f x u).pres, key := (parsedFrame f x u).key }) u) := by
  simp [parseFrame, parsedFrame, h]

end Parsing

/-! ### The flow stage -/

section FlowStage

variable {f : PFrame} {rest : List PFrame}

theorem flowLookup_none (h : s.pipe.flowQ = []) : flowLookup s = s := by
  simp [flowLookup, h]

/-- A flow table is there and the frame is eligible for it (R256, R263). -/
def looksUp (s : State) (f : PFrame) : Bool :=
  s.host.flow.size != 0 && eligible f.shadow f.pres (profOf s f)

theorem flowLookup_passes (hq : s.pipe.flowQ = f :: rest) (h : looksUp s f = false) :
    flowLookup s = exitFlow f (bump cFlowPort f.port 3 (s.updPipe fun p => { p with flowQ := rest })) := by
  unfold looksUp at h
  simp only [flowLookup, hq, h, Bool.false_eq_true, if_false]

theorem flowLookup_looks (hq : s.pipe.flowQ = f :: rest) (h : looksUp s f = true) (hl : s.flow.looks.length < 128) :
    flowLookup s = lookFrame { f with look := true } (lookupKey f.shadow f.pres (profOf s f))
      (s.updPipe fun p => { p with flowQ := rest }) := by
  unfold looksUp at h
  simp [flowLookup, hq, h, Nat.not_le.mpr hl]

theorem flowReadReturn_completed {tag : Nat} {beats : List Beat} {x : Xfer} {u : State}
    (hm : (s.host.reads.find? (·.tag = tag)).bind (fun t => (getXfer s t.xfer).map (·.purp)) = some .lookup)
    (hr : readReturn tag beats s = (u, some x)) : flowReadReturn tag beats s = lookDone x (dropXfer x.id u) := by
  simp [flowReadReturn, hm, hr]

end FlowStage

/-! ### Release -/

/-- The frame of the lowest entry that may leave the window and waits for no read (R295, log 5). -/
def nextRelease (s : State) : Option (Nat × ReEnt) :=
  s.pipe.slots.find? fun x => releasable s x.2 && !reading s .commit x.2.frame.h

section Release

variable {i : Nat} {e : ReEnt}

theorem releaseNext_none (h : nextRelease s = none) : releaseNext s = s := by
  unfold nextRelease at h
  simp only [releaseNext, h]

theorem releaseNext_dropped (h : nextRelease s = some (i, e)) (hc : commits s e = false) :
    releaseNext s = leaveWindow i e (dropReleased e) (forgetRead .commit e.frame.h s) := by
  unfold nextRelease at h
  simp only [releaseNext, h, hc, Bool.false_eq_true, if_false]

theorem releaseNext_waits {u : State} (h : nextRelease s = some (i, e)) (hc : commits s e = true)
    (hf : fetchPinned .commit e.frame.h s = (none, u)) : releaseNext s = u := by
  unfold nextRelease at h
  simp only [releaseNext, h, hc, hf, if_true]

theorem releaseNext_committed {x : Option Xfer} {u : State} (h : nextRelease s = some (i, e)) (hc : commits s e = true)
    (hf : fetchPinned .commit e.frame.h s = (some x, u)) :
    releaseNext s = leaveWindow i e
      (fun t => commitFrame e.frame x (if e.frame.reason = 0 then t else unpinBuf e.frame.h t)) u := by
  unfold nextRelease at h
  simp only [releaseNext, h, hc, hf, if_true]

theorem commits_ready (h : e.state = .ready) : commits s e = !isRetiring s e.frame.gen := by
  simp [commits, h]

theorem commits_drop {g k : Nat} (h : e.state = .drop g k) : commits s e = false := by
  simp [commits, h]

theorem dropReleased_drop {g k : Nat} (h : e.state = .drop g k) :
    dropReleased e = fun t => releaseOwner e.frame.h ownPipeline (bump g e.frame.port k t) := by
  funext t
  simp [dropReleased, h]

/-- A frame that was to be committed and whose generation retires is dropped (R250). -/
theorem dropReleased_ready (h : e.state = .ready) :
    dropReleased e = fun t => releaseOwner e.frame.h ownPipeline (bump 0x50 e.frame.port 11 t) := by
  funext t
  simp [dropReleased, h]

end Release

/-- A buffer that is not read out of host memory is read at once, and stays pinned. -/
theorem fetchPinned_sram {who : Reader} {h : Nat} (h0 : readOf s who h = none) (h1 : readOf (pinBuf h s) who h = none)
    (hd : readsDram (pinBuf h s) h = false) : fetchPinned who h s = (some none, touchBuf h (pinBuf h s)) := by
  simp [fetchPinned, fetchBuf, h0, h1, hd]

end Pipeline

/-- Settles O55: each row by the law of its function in that case.  An event with nothing to act on changes nothing
(log 4). -/
theorem pipelineRows : Obligations.PipelineRows := by
  intro s
  refine ⟨fun h => congrArg _ (pipelineEntry_closed h), fun a u h hu hh ha => ?_, fun h => congrArg _ (frameEnters_none h),
    fun hc => ?_, fun tag beats x u hm hr => congrArg _ (flowReadReturn_completed hm hr), fun hc => ?_,
    fun who h h0 h1 hd => fetchPinned_sram h0 h1 hd⟩
  · subst hu
    exact congrArg _ (pipelineEntry_granted h hh ha)
  · have hon : ∀ {t : State}, clocked s t = t := clocked_on hc
    refine ⟨fun a rest h b u hg ha hu hb => congrArg _ (frameEnters_stored hc hg ha hu hb),
      fun a rest p h u w hg ha hp hu hw => congrArg _ (frameEnters_allocated hc hg ha hp hu hw),
      fun hq => congrArg _ (hon.trans (parseNext_none hq)),
      fun f rest u hq hf => congrArg _ (hon.trans (parseNext_waits hq hf)),
      fun f rest x v u hq hf hu => ?_, fun hq => congrArg _ (hon.trans (flowLookup_none hq)), fun f rest hq => ?_⟩
    · have hp := hon.trans (parseNext_fetched hq hf hu)
      exact ⟨fun hb => congrArg _ (hp.trans (if_pos (Bool.or_eq_true_iff.mpr hb))),
        fun he hb h0 => congrArg _ (hp.trans ((if_neg (by simp [he, hb])).trans (parseFrame_complete h0)))⟩
    · exact ⟨fun h => congrArg _ (hon.trans (flowLookup_passes hq h)),
        fun h hl => congrArg _ (hon.trans (flowLookup_looks hq h hl))⟩
  · have hon : ∀ {t : State}, clocked s t = t := clocked_on hc
    refine ⟨fun h => congrArg _ (hon.trans (releaseNext_none h)), fun i e g k h hd => ?_, fun i e h hr hg => ?_,
      fun i e h hr hg => ?_⟩
    · rw [← dropReleased_drop hd]
      exact congrArg _ (hon.trans (releaseNext_dropped h (commits_drop hd)))
    · rw [← dropReleased_ready hr]
      exact congrArg _ (hon.trans (releaseNext_dropped h (by rw [commits_ready hr, hg]; rfl)))
    · have hk : commits s e = true := by rw [commits_ready hr, hg]; rfl
      exact ⟨fun u hf => congrArg _ (hon.trans (releaseNext_waits h hk hf)),
        fun x u hf => congrArg _ (hon.trans (releaseNext_committed h hk hf))⟩

end Sys2Proof.Machine

namespace Sys2Proof.Machine

open Sys2Proof

/-! ## The invariant along a run (R37, R38, R39, R46, R480) -/

/-- Settles O1: both clauses are the two branches of `step`. -/
theorem stepRunsTheFrontCommand : Obligations.StepRunsTheFrontCommand :=
  ⟨fun _ _ _ => rfl, fun s h => by simp only [step, h]⟩

/-- The invariant does not speak of the queue. -/
theorem inv_pending {s : State} {l : List Instr} : Inv { s with pending := l } ↔ Inv s := Iff.rfl

/-- Settles O3: the state that a step answers keeps the invariant of the state before it (`step_next`). -/
theorem everyStepKeepsTheInvariant : Obligations.EveryStepKeepsTheInvariant := by
  intro s t hs ht
  obtain ⟨u, hu, -, -, hkeep⟩ := step_next s
  cases hu.symm.trans ht
  exact hkeep (inv_pending.mpr hs)

/-- Settles O4: at reset no transaction is outstanding and none waits, and no engine holds a byte or the record an entry. -/
theorem resetHasTheInvariant : Obligations.ResetHasTheInvariant := by
  have htags : tagsOk [] [] := ⟨List.nodup_nil, by simp, by simp⟩
  exact ⟨⟨htags, htags, by simp [State.reset]⟩, by simp [engOk, State.reset], Nat.zero_le _⟩

/-- The invariant holds in every state that a run from a state with it reaches. -/
theorem run_keeps_inv {k : Nat} : ∀ {s t : State}, Inv s → core.run k s = .next t → Inv t := by
  induction k with
  | zero => intro s t hs ht; cases ht; exact hs
  | succ k ih =>
    intro s t hs ht
    obtain ⟨u, hu, -⟩ := step_next s
    have hstep : core.step s = .next u := hu
    simp only [Host.Core.run, hstep] at ht
    exact ih (everyStepKeepsTheInvariant s u hs hu) ht

section Transactions

variable {l : List Txn} {retired : List Nat} {x : Txn}

/-- Distinct tags of 8 bits name at most 256 transactions. -/
theorem tagsOk.length_le (h : tagsOk l retired) : l.length ≤ 256 := by
  obtain ⟨hnodup, hlt, -⟩ := h
  have hsub : l.map (·.tag) ⊆ List.range 256 := fun t ht => List.mem_range.mpr (hlt t (List.mem_append_left _ ht))
  simpa using ((List.nodup_append'.mp hnodup).1.subperm hsub).length_le

theorem tagsOk.nodup (h : tagsOk l retired) : (l.map (·.tag)).Nodup := (List.nodup_append'.mp h.1).1

theorem tagsOk.tag_not_retired (h : tagsOk l retired) (hx : x ∈ l) : x.tag ∉ retired :=
  (List.nodup_append'.mp h.1).2.2 (List.mem_map_of_mem hx)

theorem tagsOk.tag_lt (h : tagsOk l retired) (hx : x ∈ l) : x.tag < 256 :=
  h.2.1 _ (List.mem_append_left _ (List.mem_map_of_mem hx))

/-- A lawful piece starts and ends in one 4 KiB page (R38). -/
theorem pieceOk.same_page {a n : Nat} (h : pieceOk (a, n)) : a / 4096 = (a + 64 * n - 1) / 4096 := by
  obtain ⟨-, hn, hp⟩ := h
  dsimp only at hn hp
  omega

/-- A transaction that keeps the rules of its direction is one lawful piece with a tag of 8 bits. -/
theorem tagsOk.lawful (h : tagsOk l retired) (hx : x ∈ l) :
    x.tag < 256 ∧ x.addr % 64 = 0 ∧ 1 ≤ x.beats ∧ x.addr / 4096 = (x.addr + 64 * x.beats - 1) / 4096 := by
  have hp := h.2.2 x hx
  exact ⟨h.tag_lt hx, hp.1, hp.2.1, hp.same_page⟩

end Transactions

/-- Settles O5: a run from reset keeps the invariant, whose rules of the two directions are the statement's. -/
theorem outstandingTransactions : Obligations.OutstandingTransactions := by
  intro l k t ht
  obtain ⟨⟨hr, hw, -⟩, -, -⟩ := run_keeps_inv (inv_pending.mpr resetHasTheInvariant) ht
  exact ⟨hr.length_le, hw.length_le, hr.nodup, hw.nodup, fun _ => hr.tag_not_retired, fun _ => hw.tag_not_retired,
    fun x hx => (List.mem_append.mp hx).elim hr.lawful hw.lawful⟩

end Sys2Proof.Machine

namespace Sys2Proof.Machine

open Sys2Proof

/-! ## Handshakes, wakes and light sleep (R72-R76, R409, R410, R451, R458-R463) -/

section Handshakes

variable {s : State} {k : Nat} {b : Bool}

/-! ### Acknowledges that change without their request, and acknowledges that follow it -/

theorem pwrAck_stray (hk : k < 24) (ha : s.pwr.ack.testBit k ≠ b) (hr : s.pwr.req.testBit k ≠ b) :
    pwrAck k b s = hsError s := by
  simp [pwrAck, Nat.not_le.mpr hk, ha, hr]

theorem pwrAck_follows (hk : k < 24) (ha : s.pwr.ack.testBit k ≠ b) (hr : s.pwr.req.testBit k = b) :
    pwrAck k b s = ackIn 0 k (s.updPwr fun p => { p with
      ack := withBit p.ack k b, absent := if b then p.absent.filter (· != k) else p.absent }) := by
  simp [pwrAck, Nat.not_le.mpr hk, ha, hr]

theorem retAck_stray (hk : k < 4) (ha : s.pwr.retAck.testBit k ≠ b) (hr : s.pwr.retReq.testBit k ≠ b) :
    retAck k b s = hsError s := by
  simp [retAck, Nat.not_le.mpr hk, ha, hr]

theorem retAck_follows (hk : k < 4) (ha : s.pwr.retAck.testBit k ≠ b) (hr : s.pwr.retReq.testBit k = b) :
    retAck k b s = ackIn 1 k (s.updPwr fun p => { p with retAck := withBit p.retAck k b }) := by
  simp [retAck, Nat.not_le.mpr hk, ha, hr]

theorem clkRise_already (ha : s.pwr.clkAck = true) : clkRise s = s := by
  simp [clkRise, ha]

theorem clkRise_stray (ha : s.pwr.clkAck = false) (hr : s.pwr.clkReq = false) : clkRise s = hsError s := by
  simp [clkRise, ha, hr]

/-- The bases of the core run again, from the stop that was kept if there is one (R410). -/
def clockOn (s : State) : State :=
  let on := (s.updPwr fun p => { p with clkAck := true }).updTime fun t => { t with kept := none }
  match s.time.kept with
  | some v => (List.range 7).foldl (fun t k => resumeBase ((getTb t 7).v - v) k t) on
  | none => on

theorem clkRise_follows (ha : s.pwr.clkAck = false) (hr : s.pwr.clkReq = true) :
    clkRise s = ackIn 2 0 (lines ((List.range 8).foldl (fun t k => gclStep k (trgJudgeBase k t)) (clockOn s))) := by
  unfold clkRise clockOn
  cases s.time.kept <;> simp [ha, hr]

theorem clkFall_already (ha : s.pwr.clkAck = false) : clkFall s = s := by
  simp [clkFall, ha]

theorem clkFall_stray (ha : s.pwr.clkAck = true) (hr : s.pwr.clkReq = true) : clkFall s = hsError s := by
  simp [clkFall, ha, hr]

theorem clkFall_follows (ha : s.pwr.clkAck = true) (hr : s.pwr.clkReq = false) :
    clkFall s = ackIn 2 0 ((s.updTime fun t => { t with
      kept := some (getTb s 7).v, edges := []
      trg := t.trg.map fun x => (x.1, { x.2 with out := false, pulse := false }) }).updPwr fun p =>
        { p with clkAck := false }) := by
  simp [clkFall, ha, hr]

/-- A PWR_ACK that is late for the first time: its domain counts as absent if it was to come up (R74, R463). -/
theorem hsTimeout_power (hk : k < 18) (hl : s.pwr.req.testBit k ≠ s.pwr.ack.testBit k) (ht : timedOut s 0 k = false) :
    hsTimeout 0 k s = settlePower (raise0 0x0D83 noSubj (toLe 1 0 ++ toLe 1 k ++ toLe 1 (b2n (s.pwr.req.testBit k)))
      (judgeHs (s.updPwr fun p => { p with
        hsTimeout := p.hsTimeout ++ [(0, k)], absent := if s.pwr.req.testBit k then p.absent ++ [k] else p.absent }))) := by
  simp [hsTimeout, hsLevels, hk, hl, ht]

/-! ### Wake causes -/

variable {c i n : Nat}

theorem wakeCause_asleep (h : s.pwr.mode = .watch ∨ s.pwr.mode = .dormant) :
    wakeCause c i n s = beginWake c i n (s.updPwr fun p => { p with causeAt := (getTb s 7).v }) := by
  rcases h with h | h <;> simp only [wakeCause, h]

/-- The first cause of an entry is held until the entry ends (R462). -/
theorem wakeCause_entering (h : s.pwr.mode = .entering) (hn : s.pwr.heldCause = none) :
    wakeCause c i n s = s.updPwr fun p => { p with heldCause := some (c, i, n), causeAt := (getTb s 7).v } := by
  simp [wakeCause, h, hn]

theorem wakeCause_active (h : s.pwr.mode = .active) : wakeCause c i n s = s := by
  simp only [wakeCause, h]

/-- In a wake, a cause of another cycle and one of no lower code are not recorded (R462). -/
theorem wakeCause_waking_ignored (h : s.pwr.mode = .waking) (hc : s.pwr.causeAt ≠ (getTb s 7).v ∨ s.pwr.cause ≤ c) :
    wakeCause c i n s = s := by
  have hf : (s.pwr.causeAt = (getTb s 7).v && decide (c < s.pwr.cause)) = false := by
    rcases hc with hc | hc <;> simp [hc]
  simp [wakeCause, h, hf]

/-- Of the causes of one cycle the lowest code is taken (R469). -/
theorem wakeCause_waking_lower (h : s.pwr.mode = .waking) (hc : s.pwr.causeAt = (getTb s 7).v) (hl : c < s.pwr.cause) :
    wakeCause c i n s = s.updPwr fun p => { p with cause := c, causePat := i, causePort := n } := by
  simp [wakeCause, h, hc, hl]

theorem hostWake_cause (hh : s.sys.held = false) (hm : s.pwr.mode ≠ .entering) :
    hostWake s = answer 0 (wakeCause 4 0 0 s) := by
  simp [hostWake, hh, hm]

theorem hostWake_entering (hh : s.sys.held = false) (hm : s.pwr.mode = .entering) : hostWake s = answer 0 s := by
  simp [hostWake, hh, hm]

theorem wakeTimer_due (hh : s.sys.held = false) (h0 : s.pwr.wakeTime ≠ 0) (hd : s.pwr.wakeTime ≤ nowNs s) :
    wakeTimer s = wakeCause 5 0 0 s := by
  simp [wakeTimer, hh, h0, Nat.not_lt.mpr hd]

theorem wakeTimer_not_due (h : s.pwr.wakeTime = 0 ∨ nowNs s < s.pwr.wakeTime) : wakeTimer s = s := by
  simp [wakeTimer, h]

/-! ### Light sleep and the watch path -/

theorem lightSleep_powered (h : Serving s) (hb : k < nBanks s) (hp : s.store.banks.getD k 4 ≠ 4) :
    lightSleep k s = s.updStore fun t => { t with asleep := withBit t.asleep k true } := by
  rw [List.getD_eq_getElem?_getD] at hp
  simp [lightSleep, h.1, h.2, hb, hp]

theorem watchRx_watched {rx : RxFrame} (hk : k < nPorts s) (hw : watched s k = true) (hl : (getPort s k).link = true)
    (ho : laneOn s k = true) (hh : s.sys.held = false)
    (hm : s.pwr.mode = .entering ∨ s.pwr.mode = .watch ∨ s.pwr.mode = .waking) :
    watchRx k rx s = watchPacket k rx s := by
  simp [watchRx, hk, hw, hl, ho, hh, or_assoc, hm]

end Handshakes

/-- Settles O12: a stray change reaches `hsError` alone, whose counter stops at its largest value (R465); the view of
the ACK stays as it was (log 45). -/
theorem handshakeErrors : Obligations.HandshakeErrors := fun _ _ _ =>
  ⟨fun hk ha hr => congrArg _ (pwrAck_stray hk ha hr), fun hk ha hr => congrArg _ (retAck_stray hk ha hr),
    fun ha hr => congrArg _ (clkRise_stray ha hr), fun ha hr => congrArg _ (clkFall_stray ha hr)⟩

/-- Settles O43: each row by the law of its function in that case.  An acknowledge that is already so, and a wake timer
that is not due, change nothing (log 4, log 46). -/
theorem handshakeRows : Obligations.HandshakeRows := by
  intro s k b rx
  refine ⟨fun hk ha hr => congrArg _ (pwrAck_follows hk ha hr), fun hk ha hr => congrArg _ (retAck_follows hk ha hr),
    fun ha hr => congrArg _ (clkRise_follows ha hr), fun ha hr => congrArg _ (clkFall_follows ha hr),
    fun ha => congrArg _ (clkRise_already ha), fun ha => congrArg _ (clkFall_already ha),
    fun hk hl ht => congrArg _ (hsTimeout_power hk hl ht), fun hh => ?_, fun h => congrArg _ (wakeTimer_not_due h),
    fun h hb hp => congrArg _ (lightSleep_powered h hb hp),
    fun hk hw hl ho hh hm => congrArg _ (watchRx_watched hk hw hl ho hh hm)⟩
  have host (hm : s.pwr.mode ≠ .entering) : hostWake s = answer 0 (wakeCause 4 0 0 s) := hostWake_cause hh hm
  refine ⟨fun hm => ?_, fun hm => ?_, fun hm hc => ?_, fun hm hc hl => ?_, fun h0 hd => ?_⟩
  · have hne : s.pwr.mode ≠ .entering := by rcases hm with hm | hm <;> simp [hm]
    exact congrArg _ ((host hne).trans (congrArg _ (wakeCause_asleep hm)))
  · rcases hm with hm | hm
    · exact congrArg _ ((host (by simp [hm])).trans (congrArg _ (wakeCause_active hm)))
    · exact congrArg _ (hostWake_entering hh hm)
  · exact congrArg _ ((host (by simp [hm])).trans (congrArg _ (wakeCause_waking_ignored hm hc)))
  · exact congrArg _ ((host (by simp [hm])).trans (congrArg _ (wakeCause_waking_lower hm hc hl)))
  · have timer := wakeTimer_due hh h0 hd
    exact ⟨fun hm => congrArg _ (timer.trans (wakeCause_asleep hm)),
      fun hm hn => congrArg _ (timer.trans (wakeCause_entering hm hn)),
      fun hm => congrArg _ (timer.trans (wakeCause_active hm))⟩

end Sys2Proof.Machine

namespace Sys2Proof.Machine

open Sys2Proof

/-! ## Radio frames on their way down (R54, R360, R361, R371-R373, R397) -/

section Downstream

variable {s : State} {l tag k : Nat} {x : Launch} {u : Unfin}

/-! ### Staging -/

/-- The oldest frame of a link's launch queue that is not staged. -/
def nextStaged (s : State) (l : Nat) : Option Launch := (getRl s l).launch.find? fun x => !x.staged

/-- The read of a frame out of host memory for its staging (log 11). -/
def stageRead (s : State) (l : Nat) (x : Launch) : Option Xfer :=
  s.host.xfers.find? fun y => y.purp = .direct x.h (.stage l x.sta) && !y.gone

theorem stageDone_full (hx : nextStaged s l = some x) (hr : 32768 < stagedBytes (getRl s l) + x.d) :
    stageDone l s = s := by
  unfold nextStaged at hx
  simp [stageDone, hx, hr]

theorem stageDone_sram (hx : nextStaged s l = some x) (hr : stagedBytes (getRl s l) + x.d ≤ 32768)
    (hd : readsDram s x.h = false) :
    stageDone l s = if verifies s x.h x.oseq then stageGood l x s else stageFailed l x 0 s := by
  unfold nextStaged at hx
  simp [stageDone, hx, Nat.not_lt.mpr hr, hd]

/-- Once its read has ended, a frame in host memory is judged by what was read. -/
theorem stageDone_dram {y : Xfer} (hx : nextStaged s l = some x) (hr : stagedBytes (getRl s l) + x.d ≤ 32768)
    (hd : readsDram s x.h = true) (hy : stageRead s l x = some y) (hf : y.finished = true) :
    stageDone l s =
      if directOk s x.h x.oseq y then stageGood l x (dropXfer y.id s) else stageFailed l x (directKind y) (dropXfer y.id s) := by
  unfold nextStaged at hx
  unfold stageRead at hy
  simp only [stageDone, hx, if_neg (Nat.not_lt.mpr hr), hd, if_true, hy, hf, Bool.not_true, Bool.false_eq_true, if_false]

theorem stageGood_stored {b : Buf} (hb : getBuf s x.h = some b) :
    stageGood l x s = unpinBuf x.h (setRl l (fun r => { r with launch := r.launch.map fun y =>
      if y = x then { y with staged := true, bytes := egressBytes s b x.rewrite } else y }) s) := by
  simp only [stageGood, hb]

theorem directKind_err {y : Xfer} (h : y.err = true) : directKind y = 5 := by simp [directKind, h]

theorem directKind_clean {y : Xfer} (h : y.err = false) : directKind y = 0 := by simp [directKind, h]

/-! ### Start -/

/-- The head of the launch queue starts with the lowest free tag (R372). -/
theorem frameStart_starts {rest : List Launch} (hq : (getRl s l).launch = x :: rest) (he : (getRl s l).enabled = true)
    (hx : x.staged = true) (hn : (getRl s l).unfin.length < 4096)
    (hs : stillCredit (staLink (getSta s x.sta) l).win x.d = true) (hl : stillCredit (getRl s l).win x.d = true)
    (ht : lowestFree 4096 ((getRl s l).unfin.map (·.tag)) = some tag) :
    let up := ((getBuf s x.h).map fun b => u8 b.record 41 % 8).getD 0
    let f := fun (w : Win) => { w with reserved := (w.reserved + 2 ^ 32 - x.d) % 2 ^ 32, sent := (w.sent + x.d) % 2 ^ 32 }
    frameStart l s = forgetLink x.sta l (bumpN cRl l 1 x.d (bump cRl l 0 (bumpN cSta x.sta 1 x.d
      (bump cSta x.sta 0 (setStaLink x.sta l (fun y => { y with win := f y.win })
        (setRl l (fun r => { r with launch := rest, win := f r.win, unfin := r.unfin ++
          [{ tag := tag, h := x.h, oseq := x.oseq, sta := x.sta, ac := x.ac, md := dnMeta x tag up, bytes := x.bytes }] })
          s)))))) := by
  simp only [frameStart, hq, he, hx, Nat.not_le.mpr hn, hs, hl, ht, decide_false, Bool.not_true, Bool.or_self,
    Bool.false_eq_true, if_false]

/-! ### The end of a frame -/

theorem doneReport_disabled (he : (getRl s l).enabled = false) : doneReport l tag k s = s := by
  simp [doneReport, he]

theorem doneReport_stray (he : (getRl s l).enabled = true) (hu : (getRl s l).unfin.find? (·.tag = tag) = none) :
    doneReport l tag k s = rlProtocol l 1 s := by
  simp only [doneReport, he, hu, Bool.not_true, Bool.false_eq_true, if_false]

/-- Status 0 ends the frame; 1 counts it as failed; above 1 it is a protocol error besides (R373). -/
theorem doneReport_unfinished (he : (getRl s l).enabled = true) (hu : (getRl s l).unfin.find? (·.tag = tag) = some u) :
    doneReport l tag k s =
      let failed := bump cRl l 5 (countSta u.sta 7 0 u.h s)
      if k = 0 then endFrame l u s else endFrame l u (if 2 ≤ k then rlProtocol l 2 failed else failed) := by
  simp only [doneReport, he, hu, Bool.not_true, Bool.false_eq_true, if_false, ge_iff_le]

theorem doneTimeout_unfinished (ht : (getRl s l).doneTo ≠ 0) (hu : (getRl s l).unfin.find? (·.tag = tag) = some u) :
    doneTimeout l tag s = endFrame l u (rlProtocol l 3 (bump cRl l 6 (countSta u.sta 8 1 u.h s))) := by
  simp only [doneTimeout, hu, ht, if_false]

/-! ### The station decision -/

/-- The categories are asked from the highest, each on the state that the one above it leaves, until one yields a frame. -/
theorem stationDecide_rounds
    (hl : (List.range 3).any (fun l => (getRl s l).enabled && decide ((getRl s l).launch.length < 8)) = true)
    (hm : s.pwr.mode = .active) (hq : s.sys.quiesced = false) :
    let d3 := decideRound 3 s
    let d2 := decideRound 2 d3.2
    let d1 := decideRound 1 d2.2
    let d0 := decideRound 0 d1.2
    stationDecide s = if d3.1 then d3.2 else if d2.1 then d2.2 else if d1.1 then d1.2
      else if d0.1 then d0.2 else perf 6 3 d0.2 := by
  have hs : egressStops s = false := by simp [egressStops, hm, hq]
  intro d3 d2 d1 d0
  simp only [stationDecide, hl, hs, Bool.not_true, Bool.false_eq_true, if_false, List.foldl]
  by_cases h3 : d3.1 = true
  · simp [d3, h3]
  by_cases h2 : d2.1 = true
  · simp [d3, d2, h3, h2]
  by_cases h1 : d1.1 = true
  · simp [d3, d2, d1, h3, h2, h1]
  · simp [d3, d2, d1, d0, h3, h2, h1]

end Downstream

/-- Settles O26: each row by the law of its function in that case; what an event of the core domain does, by
`clocked_on`. -/
theorem radioDownstreamRows : Obligations.RadioDownstreamRows := by
  refine ⟨fun s l hc => ?_, fun s hl hm hq => congrArg _ (stationDecide_rounds hl hm hq)⟩
  have hon : ∀ {t : State}, clocked s t = t := clocked_on hc
  refine ⟨fun x b hx hb hr => ⟨fun hd => ?_, fun y hd hf hy => ?_⟩,
    fun x hx hr => congrArg _ (hon.trans (stageDone_full hx hr)),
    fun x rest tag hq he hx hn hs hl ht => congrArg _ (hon.trans (frameStart_starts hq he hx hn hs hl ht)),
    fun tag u he hu => ?_, fun tag k he hu => congrArg _ (hon.trans (doneReport_stray he hu)),
    fun tag k he => congrArg _ (hon.trans (doneReport_disabled he)),
    fun tag u ht hu => congrArg _ (hon.trans (doneTimeout_unfinished ht hu))⟩
  · have staged := hon.trans (stageDone_sram hx hr hd)
    exact ⟨fun hv => congrArg _ (staged.trans ((if_pos hv).trans (stageGood_stored hb))),
      fun hv => congrArg _ (staged.trans (if_neg (ne_true_of_eq_false hv)))⟩
  · have staged := hon.trans (stageDone_dram hx hr hd hy hf)
    refine ⟨fun hv => ?_, fun hv he => ?_, fun hv he => ?_⟩
    · exact congrArg _ (staged.trans ((if_pos hv).trans (stageGood_stored hb)))
    · have hk := staged.trans (if_neg (ne_true_of_eq_false hv))
      rw [directKind_err he] at hk
      exact congrArg _ hk
    · have hk := staged.trans (if_neg (ne_true_of_eq_false hv))
      rw [directKind_clean he] at hk
      exact congrArg _ hk
  · have done (k : Nat) := hon.trans (doneReport_unfinished (k := k) he hu)
    exact ⟨congrArg _ (done 0), congrArg _ (done 1),
      fun k hk => congrArg _ ((done k).trans (by simp only [if_pos hk, if_neg (show k ≠ 0 by omega)]))⟩

end Sys2Proof.Machine

namespace Sys2Proof.Machine

open Sys2Proof

/-! ## Rate, credit and power-save messages (R84, R359, R362-R369) -/

section Feedback

variable {s : State} {m : Bytes} {k l st : Nat}

/-- The common part of a feedback message (R362) is in order, but for the station named: it is of type `k`, on the enabled
link `l`, and names station `st`. -/
structure FbOn (s : State) (m : Bytes) (k l st : Nat) : Prop where
  length : m.length = 16
  type : k < 16
  link : l < 3
  first : u8 m 0 = k + 16 * l
  second : u8 m 1 = 0
  station : u16 m 2 = st
  enabled : (getRl s l).enabled = true

theorem FbOn.fbType_eq (h : FbOn s m k l st) : fbType m = k := by
  have := h.type
  have := h.first
  simp only [fbType, bits]
  omega

theorem FbOn.fbLink_eq (h : FbOn s m k l st) : fbLink m = l := by
  have := h.type
  have := h.link
  have := h.first
  simp only [fbLink, bits]
  omega

theorem FbOn.fbSta_eq (h : FbOn s m k l st) (hst : st < 4096) : fbSta m = st := by
  simp only [fbSta, h.station, Nat.mod_eq_of_lt hst]

theorem nStations_le : nStations s ≤ 1024 := by
  unfold nStations byBuild
  split <;> decide

/-- What is left to judge of the common part is the station: one that is present, or all of them where the type takes that. -/
theorem FbOn.fbHead_eq (h : FbOn s m k l st) {all : Bool} (hst : st < 4096) :
    fbHead s k all m = if st = 0xFFF then all else decide (st < nStations s) := by
  have hb : u8 m 0 < 64 := by have := h.type; have := h.link; have := h.first; omega
  simp only [fbHead, h.fbType_eq, h.fbLink_eq, h.fbSta_eq hst, h.length, h.link, hb, h.second, h.station, hst, h.enabled,
    decide_true, Bool.true_and, Bool.and_true]

theorem FbOn.fbMember_eq (h : FbOn s m k l st) (hst : st < 4096) :
    fbMember s m = (decide ((getSta s st).state = .active) && (getSta s st).links.testBit l) := by
  simp only [fbMember, h.fbSta_eq hst, h.fbLink_eq]

/-- The station of a message is present, ACTIVE, and may use the link. -/
def FbMember (s : State) (l st : Nat) : Prop :=
  st < nStations s ∧ (getSta s st).state = .active ∧ (getSta s st).links.testBit l = true

theorem FbMember.lt (h : FbMember s l st) : st < 4095 := by
  have := h.1
  have := nStations_le (s := s)
  omega

theorem FbOn.accepted (h : FbOn s m k l st) {all : Bool} (hm : FbMember s l st) :
    fbHead s k all m = true ∧ fbMember s m = true ∧ fbSta m = st := by
  have hlt := hm.lt
  obtain ⟨hn, ha, hl⟩ := hm
  have hst : st < 4096 := by omega
  refine ⟨?_, ?_, h.fbSta_eq hst⟩
  · rw [h.fbHead_eq hst, if_neg (by omega), decide_eq_true hn]
  · rw [h.fbMember_eq hst, hl, decide_eq_true ha]
    rfl

/-- A message of a type that names one station is refused where it names all, or one that is not ACTIVE. -/
theorem FbOn.refused (h : FbOn s m k l st) (hs : st = 0xFFF ∨ (getSta s st).state ≠ .active) :
    (fbHead s k false m && fbMember s m) = false := by
  by_cases hst : st < 4096
  · rcases hs with hs | hs
    · rw [h.fbHead_eq hst, if_pos hs, Bool.false_and]
    · rw [h.fbMember_eq hst, decide_eq_false hs, Bool.false_and, Bool.and_false]
  · simp [fbHead, h.station, hst]

/-- On an enabled link a message that is out of order is counted, and raises its cause (R363). -/
theorem FbOn.fbError_eq (h : FbOn s m k l st) : fbError m s = raiseErr 4 (bump cRadio 0 1 s) := by
  simp [fbError, h.fbLink_eq, h.link, h.enabled]

/-! ### FB_RATE -/

theorem FbOn.fbRateMsg_member (h : FbOn s m 1 l st) (hm : FbMember s l st) (ht : le m 4 3 ≠ 0) (ha : u8 m 7 ≠ 0)
    (hz : allZero (slice m 10 6) = true) :
    fbRateMsg m s = setStaLink st l (fun y => { y with
      rate := some ⟨le m 4 3, u8 m 7, u16 m 8⟩, rateNs := nowNs s, stale := false }) (fbAccept s) := by
  obtain ⟨hh, hb, hst⟩ := h.accepted (all := false) hm
  simp [fbRateMsg, hh, hb, ht, ha, hz, hst, h.fbLink_eq]

theorem FbOn.fbRateMsg_refused (h : FbOn s m 1 l st)
    (hw : st = 0xFFF ∨ (getSta s st).state ≠ .active ∨ le m 4 3 = 0 ∨ u8 m 7 = 0 ∨ allZero (slice m 10 6) = false) :
    fbRateMsg m s = raiseErr 4 (bump cRadio 0 1 s) := by
  rw [← or_assoc] at hw
  rw [← h.fbError_eq, fbRateMsg]
  refine if_neg ?_
  rcases hw with hw | hw | hw | hw
  · simp [h.refused hw]
  all_goals simp [hw]

/-! ### FB_CREDIT -/

theorem FbOn.fbCreditMsg_member (h : FbOn s m 2 l st) (hm : FbMember s l st) (hz : allZero (slice m 10 6) = true) :
    fbCreditMsg m s = setStaLink st l (fun y => { y with
      win := { y.win with limit := u32 m 4, avail := nowNs s + u16 m 8 * 1000 } }) (fbAccept s) := by
  obtain ⟨hh, hb, hst⟩ := h.accepted (all := true) hm
  have hne : st ≠ 0xFFF := by have := hm.lt; omega
  simp [fbCreditMsg, hh, hb, hz, hst, hne, h.fbLink_eq]

theorem FbOn.fbCreditMsg_link (h : FbOn s m 2 l 0xFFF) (hz : allZero (slice m 10 6) = true) :
    fbCreditMsg m s = setRl l (fun r => { r with
      win := { r.win with limit := u32 m 4, avail := nowNs s + u16 m 8 * 1000 } }) (fbAccept s) := by
  simp [fbCreditMsg, h.fbHead_eq (all := true), h.fbSta_eq, hz, h.fbLink_eq]

theorem FbOn.fbCreditMsg_refused (h : FbOn s m 2 l st)
    (hw : (st ≠ 0xFFF ∧ (getSta s st).state ≠ .active) ∨ allZero (slice m 10 6) = false) :
    fbCreditMsg m s = raiseErr 4 (bump cRadio 0 1 s) := by
  rw [← h.fbError_eq, fbCreditMsg]
  refine if_neg ?_
  rcases hw with ⟨hne, hs⟩ | hw
  · by_cases hst : st < 4096
    · simp [h.fbMember_eq hst, h.fbSta_eq hst, hne, hs]
    · simp [fbHead, h.station, hst]
  · simp [hw]

/-! ### FB_PS -/

/-- The body of a power-save message is in order (R368). -/
def psBodyOk (m : Bytes) : Bool :=
  if u8 m 4 = 2 then u8 m 5 != 0 && decide (u8 m 5 < 16) else decide (u8 m 4 < 2) && decide (u8 m 5 = 0) && decide (u16 m 6 = 0)

theorem FbOn.fbPsMsg_member (h : FbOn s m 3 l st) (hm : FbMember s l st) (hb : psBodyOk m = true)
    (hz : allZero (slice m 8 8) = true) :
    fbPsMsg m s = psEffect st l (u8 m 4) (u8 m 5) (u16 m 6) (fbAccept s) := by
  obtain ⟨hh, hmem, hst⟩ := h.accepted (all := false) hm
  unfold psBodyOk at hb
  simp only [fbPsMsg, hh, hmem, hb, hz, Bool.and_self, if_true, hst, h.fbLink_eq]

theorem psBodyOk_eq_false (h : 2 < u8 m 4 ∨ (u8 m 4 < 2 ∧ (u8 m 5 ≠ 0 ∨ u16 m 6 ≠ 0)) ∨
    (u8 m 4 = 2 ∧ (u8 m 5 = 0 ∨ 15 < u8 m 5))) : psBodyOk m = false := by
  simp only [psBodyOk]
  split <;> simp <;> omega

theorem FbOn.fbPsMsg_refused (h : FbOn s m 3 l st)
    (hw : st = 0xFFF ∨ (getSta s st).state ≠ .active ∨ psBodyOk m = false ∨ allZero (slice m 8 8) = false) :
    fbPsMsg m s = raiseErr 4 (bump cRadio 0 1 s) := by
  rw [← or_assoc] at hw
  rw [← h.fbError_eq, fbPsMsg]
  refine if_neg ?_
  rcases hw with hw | hw | hw
  · simp [h.refused hw]
  · unfold psBodyOk at hw
    simp only [hw, Bool.and_false, Bool.false_and, Bool.false_eq_true, not_false_eq_true]
  · simp [hw]

/-- States 0 and 1 are AWAKE and DOZE, without a service period (R368). -/
theorem psEffect_state {x a n : Nat} (hx : x < 2) :
    psEffect st l x a n s = evalParks st (setStaLink st l (fun y => { y with
      ps := if x = 0 then .awake else .doze, spMask := 0, spLeft := 0 }) s) := by
  obtain rfl | rfl : x = 0 ∨ x = 1 := by omega
  all_goals rfl

/-- The service period of state 2 begins (R369). -/
def beginPeriod (st l a n : Nat) (s : State) : State :=
  setStaLink st l (fun y => { y with ps := .period, spMask := a, spLeft := n }) s

theorem psEffect_period {a n : Nat} :
    psEffect st l 2 a n s = evalParks st (if (List.range 4).any fun i => a.testBit i && !(getQ s (.sta st i)).isEmpty then
      beginPeriod st l a n s
      else setStaLink st l (fun y => { y with ps := .doze, spMask := 0, spLeft := 0 }) (beginPeriod st l a n s)) := by
  have hq (i : Nat) : getQ (beginPeriod st l a n s) (.sta st i) = getQ s (.sta st i) := rfl
  change evalParks st (if (decide (2 = 2) && !(List.range 4).any fun i =>
    a.testBit i && !(getQ (beginPeriod st l a n s) (.sta st i)).isEmpty) = true then _ else _) = _
  simp only [hq, decide_true, Bool.true_and, Bool.not_eq_true', ← Bool.not_eq_true, ite_not]
  rfl

/-- The period goes on while a queue that it serves holds a frame. -/
theorem psEffect_period_held {a n : Nat} (h : ∃ i < 4, a.testBit i = true ∧ getQ s (.sta st i) ≠ []) :
    psEffect st l 2 a n s = evalParks st (beginPeriod st l a n s) := by
  rw [psEffect_period, if_pos (by simpa using h)]

/-- A period with nothing to serve ends at once (R369). -/
theorem psEffect_period_empty {a n : Nat} (h : ∀ i < 4, a.testBit i = true → getQ s (.sta st i) = []) :
    psEffect st l 2 a n s = evalParks st (setStaLink st l (fun y => { y with ps := .doze, spMask := 0, spLeft := 0 })
      (beginPeriod st l a n s)) := by
  rw [psEffect_period, if_neg (by simpa using h)]

/-! ### A disabled link, and a rate that grows stale -/

theorem fbHead_disabled {all : Bool} (h : (getRl s (fbLink m)).enabled = false) : fbHead s k all m = false := by
  simp [fbHead, h]

/-- A message to a link that was disabled in an earlier cycle counts nowhere (R84, R359; log 65). -/
theorem fbError_disabled (hl : fbLink m < 3) (he : (getRl s (fbLink m)).enabled = false)
    (ho : (getRl s (fbLink m)).offAt ≠ some s.time.cycle) : fbError m s = s := by
  simp [fbError, hl, he, offNow, ho]

theorem rateStales_stale (ha : (getSta s st).state = .active) (hr : (staLink (getSta s st) l).rate.isSome = true)
    (hs : (staLink (getSta s st) l).stale = false) (h0 : (getRl s l).rateTo ≠ 0)
    (ht : (staLink (getSta s st) l).rateNs + (getRl s l).rateTo * 1000000 ≤ nowNs s) :
    rateStales st l s = raiseTo (.agents [(getSta s st).agent]) 0x0982 st (toLe 1 l)
      (setStaLink st l (fun y => { y with stale := true }) s) := by
  simp [rateStales, rateOld, ha, hr, hs, h0, ht]

/-- What changes nothing changes nothing with the core domain off either. -/
theorem clocked_self : clocked s s = s := by simp [clocked]

end Feedback

/-- Settles O27: each message by the law of its function in that case; a message to a link disabled in an earlier cycle is
ignored (log 65). -/
theorem radioFeedbackRows : Obligations.RadioFeedbackRows := by
  refine ⟨fun s m l st hlen hl h1 h2 he hc => ?_, fun s m hl he ho => ?_,
    fun s st l hc ha hr hs h0 ht => congrArg _ ((clocked_on hc).trans (rateStales_stale ha hr hs h0 ht))⟩
  · have hon : ∀ {t : State}, clocked s t = t := clocked_on hc
    have on (k : Nat) (hk : k < 16) (h0 : u8 m 0 = k + 16 * l) : FbOn s m k l st := ⟨hlen, hk, hl, h0, h1, h2, he⟩
    refine ⟨fun h0 hm ht ha hz => congrArg _ (hon.trans ((on 1 (by decide) h0).fbRateMsg_member hm ht ha hz)),
      fun h0 hm _ hz => congrArg _ (hon.trans ((on 2 (by decide) h0).fbCreditMsg_member hm hz)),
      fun h0 hst hz => ?_, fun h0 hm _ hx ha hn hz => ?_, fun h0 hm _ hx ha hlt hz => ?_,
      fun h0 hw => congrArg _ (hon.trans ((on 1 (by decide) h0).fbRateMsg_refused hw)),
      fun h0 hw => congrArg _ (hon.trans ((on 2 (by decide) h0).fbCreditMsg_refused hw)), fun h0 hw => ?_⟩
    · exact congrArg _ (hon.trans ((hst ▸ on 2 (by decide) h0 : FbOn s m 2 l 0xFFF).fbCreditMsg_link hz))
    · have hb : psBodyOk m = true := by simp [psBodyOk, Nat.ne_of_lt hx, hx, ha, hn]
      have hp := hon.trans ((on 3 (by decide) h0).fbPsMsg_member hm hb hz)
      rw [psEffect_state hx] at hp
      exact congrArg Host.Outcome.next hp
    · have hb : psBodyOk m = true := by simp [psBodyOk, hx, ha, hlt]
      have hp := hon.trans ((on 3 (by decide) h0).fbPsMsg_member hm hb hz)
      rw [hx] at hp
      refine ⟨fun hq => ?_, fun hq => ?_⟩
      · exact congrArg Host.Outcome.next (hp.trans (psEffect_period_held hq))
      · exact congrArg Host.Outcome.next (hp.trans (psEffect_period_empty hq))
    · refine congrArg _ (hon.trans ((on 3 (by decide) h0).fbPsMsg_refused ?_))
      rcases hw with hw | hw | hw | hw | hw | hw
      · exact .inl hw
      · exact .inr (.inl hw)
      · exact .inr (.inr (.inl (psBodyOk_eq_false (.inl hw))))
      · exact .inr (.inr (.inl (psBodyOk_eq_false (.inr (.inl hw)))))
      · exact .inr (.inr (.inl (psBodyOk_eq_false (.inr (.inr hw)))))
      · exact .inr (.inr (.inr hw))
  · have hh {k : Nat} {all : Bool} : fbHead s k all m = false := fbHead_disabled he
    have herr := fbError_disabled hl he ho
    have hrate : fbRateMsg m s = s := by simp [fbRateMsg, hh, herr]
    have hcredit : fbCreditMsg m s = s := by simp [fbCreditMsg, hh, herr]
    have hps : fbPsMsg m s = s := by simp [fbPsMsg, hh, herr]
    exact ⟨congrArg _ ((congrArg _ hrate).trans clocked_self), congrArg _ ((congrArg _ hcredit).trans clocked_self),
      congrArg _ ((congrArg _ hps).trans clocked_self)⟩

end Sys2Proof.Machine

namespace Sys2Proof.Machine

open Sys2Proof

/-! ## Frames that a radio link sends up (R55, R359, R381, R382) -/

section Upstream

variable {s : State} {l : Nat} {md data : Bytes}

/-- The beats of an upstream frame. -/
def upBeats (data : Bytes) : Nat := max 1 ((data.length + 15) / 16)

/-- The link's credit is less by the beats of a frame. -/
def takeUpCredit (l : Nat) (data : Bytes) (s : State) : State :=
  setRl l (fun r => { r with upCredit := r.upCredit - upBeats data }) s

/-- The station that the metadata of an upstream frame name. -/
def upSta (md : Bytes) : Nat := u16 md 0 % 4096

/-- The frame names no station, or one that is present and ACTIVE. -/
def upStaOk (s : State) (md : Bytes) : Prop :=
  upSta md = 0xFFF ∨ (upSta md < nStations s ∧ (getSta s (upSta md)).state = .active)

theorem upFrameIn_disabled {f : Bool} (he : (getRl s l).enabled = false) (ho : (getRl s l).offAt ≠ some s.time.cycle) :
    upFrameIn l md data f s = s := by
  simp [upFrameIn, he, offNow, ho]

/-- A frame that ends in the cycle in which its link was disabled was in reception then, and is dropped (R359, R84). -/
theorem upFrameIn_offNow {f : Bool} (h : Serving s) (he : (getRl s l).enabled = false)
    (ho : (getRl s l).offAt = some s.time.cycle) : upFrameIn l md data f s = dropUp l 8 7 s := by
  simp [upFrameIn, h.1, h.2, he, offNow, ho]

section Enabled

variable (h : Serving s) (he : (getRl s l).enabled = true) (hb : upBeats data ≤ (getRl s l).upCredit)

include h he hb

/-- A frame within its link's credit, but with bad metadata, is a protocol error. -/
theorem upFrameIn_metaBad (hm : upMetaBad md = true) :
    upFrameIn l md data true s =
      grantBeats l (upBeats data) (rlProtocol l 6 (dropUp l 8 7 (takeUpCredit l data s))) := by
  unfold upBeats at hb
  simp [upFrameIn, h.1, h.2, he, hm, Nat.not_lt.mpr hb, Nat.min_eq_left hb, upBeats, takeUpCredit]

variable (hm : upMetaBad md = false) (hlen : data.length = u16 md 2)

include hm hlen

/-- A frame of a station that is not ACTIVE is dropped, and its credit returned. -/
theorem upFrameIn_noStation (hne : upSta md ≠ 0xFFF) (hs : (getSta s (upSta md)).state ≠ .active) :
    upFrameIn l md data true s = grantBeats l (upBeats data) (dropUp l 10 9 (takeUpCredit l data s)) := by
  unfold upBeats at hb
  have hst : (u16 md 0 % 4096 != 0xFFF && (decide (u16 md 0 % 4096 ≥ nStations s) ||
      (getSta s (u16 md 0 % 4096)).state != .active)) = true := by
    unfold upSta at hne hs
    simp [hne, hs]
  have hl : (data.length != u16 md 2) = false := bne_eq_false_iff_eq.mpr hlen
  simp only [upFrameIn, h.1, h.2, he, hm, hst, hl, Nat.not_lt.mpr hb, Nat.min_eq_left hb, upBeats, takeUpCredit,
    decide_false, Bool.not_true, Bool.or_self, Bool.false_eq_true, if_false, if_true]

/-- The arrival of an accepted frame, in its buffer. -/
def upArrival (s : State) (l : Nat) (md data : Bytes) (b : Nat) : Arr :=
  let tb := (getRl s l).upTb.getD (4 + l)
  { port := 0x100 + l, h := some b, data := data, tb := tb, time := (getTb s tb).v, chsta := upSta md, tc := u8 md 4 % 8
    tag := u32 md 8, beats := upBeats data }

/-- What becomes of a frame in order: with its buffer it waits for the arbiter; without one it is dropped, and counted. -/
def upAllocated (s : State) (l p : Nat) (md data : Bytes) (r : Option Nat × State) : State :=
  grantBeats l (upBeats data) (match r.1 with
    | none => countFailed (takeUpCredit l data s) p (0x100 + l) (dropUp l 9 8) r.2
    | some b => r.2.updPipe fun q => { q with wait := q.wait ++ [upArrival s l md data b] })

variable (hs : upStaOk s md) (hph : s.sys.phase = 2) {p : Nat} (hp : poolFor (u16 md 2) = some p)

include hs hph hp

/-- A frame in order is judged by the allocation of its buffer alone. -/
theorem upFrameIn_allocates :
    upFrameIn l md data true s = upAllocated s l p md data (allocBuf p (takeUpCredit l data s)) := by
  have hst : (u16 md 0 % 4096 != 0xFFF && (decide (u16 md 0 % 4096 ≥ nStations s) ||
      (getSta s (u16 md 0 % 4096)).state != .active)) = false := by
    unfold upStaOk upSta at hs
    rcases hs with hs | ⟨hn, ha⟩
    · simp [hs]
    · simp [Nat.not_le.mpr hn, ha]
  unfold upBeats at hb
  have hl : (data.length != u16 md 2) = false := bne_eq_false_iff_eq.mpr hlen
  simp only [upFrameIn, h.1, h.2, he, hm, hst, hl, hph, hp, Nat.not_lt.mpr hb, Nat.min_eq_left hb,
    decide_false, bne_self_eq_false, Bool.not_true, Bool.or_self, Bool.false_eq_true, if_false]
  unfold upAllocated
  cases hr : allocBuf p (takeUpCredit l data s) with
  | mk b u =>
    unfold takeUpCredit upBeats at hr
    cases b <;> rw [hr] <;> rfl

theorem upFrameIn_accepted {b : Nat} {u : State} (ha : allocBuf p (takeUpCredit l data s) = (some b, u)) :
    upFrameIn l md data true s =
      grantBeats l (upBeats data) (u.updPipe fun q => { q with wait := q.wait ++ [upArrival s l md data b] }) := by
  rw [upFrameIn_allocates h he hb hm hlen hs hph hp, ha]
  rfl

theorem upFrameIn_noBuffer {u : State} (ha : allocBuf p (takeUpCredit l data s) = (none, u)) :
    upFrameIn l md data true s =
      grantBeats l (upBeats data) (countFailed (takeUpCredit l data s) p (0x100 + l) (dropUp l 9 8) u) := by
  rw [upFrameIn_allocates h he hb hm hlen hs hph hp, ha]
  rfl

end Enabled

end Upstream

/-- Settles O28: each row by the law of its function in that case.  That an UP_FRAME can stand in the cycle of the disable is
the model's choice (log 65). -/
theorem upstreamFrameRow : Obligations.UpstreamFrameRow := by
  intro s l md data
  exact ⟨fun he ho f => congrArg Host.Outcome.next (upFrameIn_disabled he ho),
    fun he ho h f => congrArg Host.Outcome.next (upFrameIn_offNow h he ho),
    fun he h hm hb => congrArg Host.Outcome.next (upFrameIn_metaBad h he hb hm),
    fun he h hm hb hne hs hlen => congrArg Host.Outcome.next (upFrameIn_noStation h he hb hm hlen hne hs),
    fun he h hm hb hs hlen hph p b u hp ha => congrArg Host.Outcome.next (upFrameIn_accepted h he hb hm hlen hs hph hp ha),
    fun he h hm hb hs hlen hph p u hp ha => congrArg Host.Outcome.next (upFrameIn_noBuffer h he hb hm hlen hs hph hp ha)⟩

/-! ## Returns and timeouts at the host port (R39, R45-R47, R119, R534) -/

section HostReturns

variable {s u : State} {tag resp : Nat} {beats : List Beat} {t : Txn} {x : Xfer}

theorem readReturn_stray (h : s.host.reads.find? (·.tag = tag) = none) :
    readReturn tag beats s = (lateOrStray false tag beats.length s, none) := by
  simp only [readReturn, h]

theorem readReturn_partial (h : s.host.reads.find? (·.tag = tag) = some t) (hl : (t.got ++ beats).length < t.beats) :
    readReturn tag beats s = (s.updHost fun h => { h with
      pmu := addAt h.pmu 2 beats.length
      reads := mapIf h.reads (·.tag = tag) fun x => { x with got := t.got ++ beats } }, none) := by
  simp only [readReturn, h, if_pos hl]
  rfl

theorem writeReturn_stray (h : s.host.writes.find? (·.tag = tag) = none) :
    writeReturn tag resp s = (lateOrStray true tag 0 s, none) := by
  simp only [writeReturn, h]

/-- A response that ends a transfer gives it to the unit that asked for it; any other only lets the host port go on. -/
theorem hostRead_done (h : readReturn tag beats s = (u, some x)) :
    hostRead tag beats s = afterHost (xferDone x (goodBeats tag beats s) u) := by
  rw [hostRead, h, endWith]

theorem hostRead_open (h : readReturn tag beats s = (u, none)) : hostRead tag beats s = afterHost u := by
  rw [hostRead, h, endWith]

theorem hostWrite_done (h : writeReturn tag resp s = (u, some x)) :
    hostWrite tag resp s = afterHost (xferDone x 0 u) := by
  rw [hostWrite, h, endWith]

theorem hostWrite_open (h : writeReturn tag resp s = (u, none)) : hostWrite tag resp s = afterHost u := by
  rw [hostWrite, h, endWith]

/-- Outside a quiesce, a transaction that times out is ended as an errored one (R46). -/
theorem hostTimeout_outstanding {w : Bool} (h : findTxn w tag s = some t) (hg : s.sys.quiescing = false)
    (hd : s.sys.quiesced = false)
    (he : endTxn t true (t.got.flatMap fun b => slice b.data 0 64) (judgeTags (lines (errBit 2 (countErrored
      ((retireTag w tag s).updHost fun h => { h with timeouts := sat32 h.timeouts }))))) = (u, some x)) :
    hostTimeout w tag s = afterHost (xferDone x (goodBeats tag [] s) u) := by
  simp only [hostTimeout, hg, hd, Bool.or_self, Bool.false_and, Bool.false_eq_true, if_false, timeoutTxn, h, he, endWith]

theorem eventWrite_event {m : Nat} (h : findTxn true tag s = some t) (hx : getXfer s t.xfer = some x)
    (hp : x.purp = .event m) : eventWrite tag resp s = hostWrite tag resp s := by
  simp only [eventWrite, h, Option.bind_some, hx, hp]

theorem xferDone_event {m n : Nat} (h : x.purp = .event m) : xferDone x n u = eventDone m x.err (dropXfer x.id u) := by
  simp only [xferDone, h]

end HostReturns

/-- Settles O29: each row by the law of its function in that case; a response that names no outstanding transaction is
`lateOrStray`'s, which sets the error cause (R534, log 17). -/
theorem hostReturnRows : Obligations.HostReturnRows := by
  refine ⟨fun s tag => ⟨fun t beats h hl => ?_, fun beats u x h => congrArg Host.Outcome.next (hostRead_done h),
    fun beats u h => congrArg Host.Outcome.next (hostRead_open h),
    fun beats h => congrArg Host.Outcome.next (hostRead_open (readReturn_stray h)),
    fun resp u x h => congrArg Host.Outcome.next (hostWrite_done h),
    fun resp u h => congrArg Host.Outcome.next (hostWrite_open h),
    fun resp h => congrArg Host.Outcome.next (hostWrite_open (writeReturn_stray h)),
    fun w t u x h hg hd he => congrArg Host.Outcome.next (hostTimeout_outstanding h hg hd he),
    fun resp t x m u y h hx hp hw => congrArg Host.Outcome.next ((eventWrite_event h hx hp).trans (hostWrite_done hw))⟩,
    fun s u tag resp m x h hp => ?_⟩
  · exact congrArg Host.Outcome.next (hostRead_open (readReturn_partial h hl))
  · exact congrArg Host.Outcome.next ((hostWrite_done h).trans (congrArg afterHost (xferDone_event hp)))

end Sys2Proof.Machine

namespace Sys2Proof.Machine

open Sys2Proof

/-! ## Onyx input queue, condemnation and the cipher port (R58-R60, R304, R313, R481, R489, R490) -/

section EngineService

variable {s : State} {e c : Nat}

/-! ### The Onyx input queue -/

section OnyxQueue

variable {q : QE} {rest : List QE} {f : Buf} {x : Option Xfer} {u : State}

/-- Onyx's queue without its head, which nothing reads any more. -/
def onyxPopped (q : QE) (s : State) : State := popInq .onyx (forgetRead .onyx q.h s)

variable (ho : onyxServes s = true) (hq : getQ s .onyx = q :: rest) (hb : getBuf s q.h = some f)

include ho hq hb

theorem onyxServe_retiring (hr : isRetiring s (recGen f.record) = true) :
    onyxServe s = releaseOwner q.h QKey.onyx.owner (bump 0x50 (recPort f.record) 11 (onyxPopped q s)) := by
  simp only [onyxServe, ho, hq, hb, hr, onyxPopped, Bool.not_true, Bool.false_eq_true, if_false, if_true]

variable (hr : isRetiring s (recGen f.record) = false)

include hr

theorem onyxServe_noTarget (ht : s.gv.puntTarget = 0xFFFFFFFF) :
    onyxServe s = releaseOwner q.h QKey.onyx.owner (bump 0x70 (recPort f.record) 6 (onyxPopped q s)) := by
  simp only [onyxServe, ho, hq, hb, hr, ht, onyxPopped, cEngPort, Bool.not_true, Bool.false_eq_true, if_false, if_true]

variable (ht : s.gv.puntTarget ≠ 0xFFFFFFFF)

include ht

theorem onyxServe_waits (hf : fetchPinned .onyx q.h s = (none, u)) : onyxServe s = u := by
  simp only [onyxServe, ho, hq, hb, hr, ht, hf, Bool.not_true, Bool.false_eq_true, if_false]

/-- Once the frame is read, it goes to the punt target if it verifies, and is lost if not (R304). -/
theorem onyxServe_fetched (hf : fetchPinned .onyx q.h s = (some x, u)) :
    let v := unpinBuf q.h (popInq .onyx u)
    onyxServe s = if readGood v q.h q.oseq x then
        redirect q.h q.oseq (recPort f.record) QKey.onyx.owner q.wake (readData v q.h x) [(s.gv.puntTarget, 0xFFFFFFFF)] v
      else releaseOwner q.h QKey.onyx.owner (checkFail q.h q.oseq (readKind 0 x) 0xF0 v) := by
  simp only [onyxServe, ho, hq, hb, hr, ht, hf, Bool.not_true, Bool.false_eq_true, if_false, Bool.not_eq_true',
    ← Bool.not_eq_true, ite_not]

end OnyxQueue

/-! ### Condemnation, redispatch and the test of a condemned engine -/

theorem watchdog_condemns (he : e < nEngines s) (hm : (getEng s e).mode = .active ∨ (getEng s e).mode = .draining)
    (h1 : 1 ≤ c) (h4 : c ≤ 4) : watchdog e c s = condemn e c s := by
  simp [watchdog, he, hm, h1, h4]

theorem watchdog_idle (ha : (getEng s e).mode ≠ .active) (hd : (getEng s e).mode ≠ .draining) : watchdog e c s = s := by
  simp [watchdog, ha, hd]

theorem redispatchAll_waits (h : engWrites s e = true) : redispatchAll e s = s := by
  simp [redispatchAll, h]

/-- The reorder entry waits for dispatch. -/
def isQueued (s : State) (i : Nat) : Bool := ((getSlot s i).map fun x => decide (x.state = .queued)).getD false

/-- The condemned engine's frames stand at the dispatcher's head in the order of their first dispatch (R313). -/
theorem redispatchAll_moves (h : engWrites s e = false) :
    redispatchAll e s =
      let u := (movingSlots s e).foldl (fun s i => redispatchSlot i s) s
      u.updPipe fun p => { p with disp := ((movingSlots s e).filter (isQueued u)) ++ p.disp } := by
  simp only [redispatchAll, h, Bool.false_eq_true, if_false]
  refine congrArg (State.updPipe _) (funext fun p => ?_)
  congr 3
  funext i
  unfold isQueued
  cases getSlot _ i <;> rfl

variable {fails : List (Nat × List Cell)}

/-- The test of a condemned engine ends its condemnation by its outcome (R481). -/
theorem engineBistDone_condemned (he : e < nEngines s) (hm : (getEng s e).mode = .condemned) :
    engineBistDone e fails s =
      settlePolicy 16 (endCondemned e (engineTest e fails s).1 (engineTest e fails s).2) := by
  simp [engineBistDone, hm, Nat.not_le.mpr he]

theorem endCondemned_returns (hn : (getEng s e).noReturn = false) (hc : condemnedLately s e < 3)
    (ha : (getEng s e).again = none) : endCondemned e true s = engReturn e s := by
  simp [endCondemned, hn, hc, ha]

/-- A fault found meanwhile condemns the engine again (R471). -/
theorem endCondemned_again {k : Nat} (hn : (getEng s e).noReturn = false) (hc : condemnedLately s e < 3)
    (ha : (getEng s e).again = some k) : endCondemned e true s = condemn e k (engReturn e s) := by
  simp [endCondemned, hn, hc, ha]

theorem endCondemned_fails {pass : Bool} (h : pass = false ∨ (getEng s e).noReturn = true ∨ 3 ≤ condemnedLately s e) :
    endCondemned e pass s = engFail e s := by
  have hf : (pass && !(getEng s e).noReturn && decide (condemnedLately s e < 3)) = false := by
    rcases h with h | h | h <;> simp [h]
  simp only [endCondemned, hf, Bool.false_eq_true, if_false]

/-! ### The cipher port -/

section CipherPort

variable {n : Nat} {l : LoadSt} {b : Byte}

theorem ciphDone_abandoned (h : s.res.ciphAbandoned = true) :
    ciphDone n s = freeCipher (s.updRes fun r => { r with ciphAbandoned := false }) := by
  simp only [ciphDone, h, if_true]

/-- A request that has been fed whole and has given its whole output ends with any status. -/
theorem ciphDone_whole (ha : s.res.ciphAbandoned = false) (hl : s.res.load = some l) (hp : l.phase = .cipher)
    (hg : l.got.length = l.ctLen) (hf : l.fed = l.total) :
    ciphDone n s = settleLoad (updLoad (fun l => { l with phase := .drain (n % 4) })
      (dropXfers (fun x => decide (x.purp = .image)) (s.updRes fun r => { r with ciphOut := false }))) := by
  simp only [ciphDone, ha, hl, hp, hg, hf, bne_self_eq_false, Bool.or_self, Bool.and_false, Bool.false_eq_true, if_false]

/-- The status of an earlier failure wins over the timeout's (log 75). -/
theorem ciphTimeout_fed (hl : s.res.load = some l) (hp : l.phase = .cipher) (hf : l.fed = l.total) :
    ciphTimeout s = settleLoad (updLoad (fun l => { l with phase := .drain 1, fail := some (l.fail.getD stImgAuth) })
      (s.updRes fun r => { r with ciphOut := false, ciphAbandoned := true })) := by
  simp only [ciphTimeout, hl, hp, hf, bne_self_eq_false, Bool.or_self, Bool.false_eq_true, if_false]

section Plaintext

variable (hl : s.res.load = some l) (hp : l.phase = .cipher) (hg : l.got.length < l.ctLen) (hf : l.fail = none)

include hl hp hg hf

theorem plaintextByte_kept (hn : (l.got.length + 1) % 64 ≠ 0) (hc : l.got.length + 1 ≠ l.ctLen) :
    plaintextByte b s = updLoad (fun x => { x with got := l.got ++ [b] }) s := by
  simp [plaintextByte, hl, hp, Nat.not_le.mpr hg, hf, hn, hc]

/-- The byte that fills 64 bytes has them written to staging (R489). -/
theorem plaintextByte_written (hn : (l.got.length + 1) % 64 = 0) :
    plaintextByte b s =
      let lo := l.got.length / 64 * 64
      startXfer .stage true 0x210 (s.host.staging.base + l.off + lo) (l.got.length + 1 - lo) ((l.got ++ [b]).drop lo)
        (updLoad (fun x => { x with written := l.got.length + 1 }) (updLoad (fun x => { x with got := l.got ++ [b] }) s)) := by
  simp only [plaintextByte, hl, hp, hf, Nat.not_le.mpr hg, bne_self_eq_false, decide_false, Bool.or_self,
    Bool.false_eq_true, if_false, List.length_append, List.length_cons, List.length_nil, hn, Nat.zero_add,
    Nat.add_sub_cancel, Option.isSome_none, Bool.false_and]

end Plaintext

end CipherPort

end EngineService

/-- Settles O56: each row by the law of its function in that case.  A watchdog of an engine that does not run changes nothing
(log 4), and a condemned engine's operations are fenced until its test ends (log 25, log 82). -/
theorem engineServiceRows : Obligations.EngineServiceRows := by
  intro s e c n b
  refine ⟨fun q rest f hc ho hq hb => ?_, fun hc => ?_⟩
  all_goals have hon : ∀ {t : State}, clocked s t = t := clocked_on hc
  · refine ⟨fun hr => congrArg Host.Outcome.next (hon.trans (onyxServe_retiring ho hq hb hr)),
      fun hr ht => congrArg Host.Outcome.next (hon.trans (onyxServe_noTarget ho hq hb hr ht)),
      fun hr ht => ⟨fun u hf => congrArg Host.Outcome.next (hon.trans (onyxServe_waits ho hq hb hr ht hf)),
        fun x u v hf hv => ?_⟩⟩
    subst hv
    have served := hon.trans (onyxServe_fetched ho hq hb hr ht hf)
    exact ⟨fun hg => congrArg Host.Outcome.next (served.trans (if_neg (ne_true_of_eq_false hg))),
      fun hg => congrArg Host.Outcome.next (served.trans (if_pos hg))⟩
  · refine ⟨fun he hm h1 h4 => congrArg Host.Outcome.next (hon.trans (watchdog_condemns he hm h1 h4)),
      fun _ ha hd => congrArg Host.Outcome.next (hon.trans (watchdog_idle ha hd)),
      fun hw => congrArg Host.Outcome.next (hon.trans (redispatchAll_waits hw)),
      fun hw => congrArg Host.Outcome.next (hon.trans (redispatchAll_moves hw)), fun fails he hm => ?_,
      fun ha => congrArg Host.Outcome.next (hon.trans (ciphDone_abandoned ha)),
      fun l ha hl hp hg hf => congrArg Host.Outcome.next (hon.trans (ciphDone_whole ha hl hp hg hf)),
      fun l hl hp hf => congrArg Host.Outcome.next (hon.trans (ciphTimeout_fed hl hp hf)), fun l hl hp hg hf => ?_⟩
    · have tested := hon.trans (engineBistDone_condemned (fails := fails) he hm)
      refine ⟨fun hr hn hl ha => ?_, fun k hr hn hl ha => ?_, fun h => ?_⟩
      · rw [hr, endCondemned_returns hn hl ha] at tested
        exact congrArg Host.Outcome.next tested
      · rw [hr, endCondemned_again hn hl ha] at tested
        exact congrArg Host.Outcome.next tested
      · rw [endCondemned_fails h] at tested
        exact congrArg Host.Outcome.next tested
    · exact ⟨fun hn hc => congrArg Host.Outcome.next (hon.trans (plaintextByte_kept hl hp hg hf hn hc)),
        fun hn => congrArg Host.Outcome.next (hon.trans (plaintextByte_written hl hp hg hf hn))⟩

end Sys2Proof.Machine

namespace Sys2Proof.Machine

open Sys2Proof

/-! ## Resets (R69, R78, R80, R480, R504, R505, R511, R536) -/

section Resets

variable {s : State}

theorem warmReset_held (h : s.sys.rstN = false) : warmReset s = s := by
  simp [warmReset, h]

/-- A warm reset applies the repair record to the reset state with what it keeps: TB7, the repair record, the always-on
registers and counters, and the queue (R504; log 57). -/
theorem warmReset_keeps (h : s.sys.rstN = true) :
    ∃ t, warmReset s = applyRecord t ∧ t.sys.held = true ∧ t.sys.phase = State.reset.sys.phase ∧
      t.time.tb = [(7, { v := (getTb s 7).v })] ∧ t.res.record = s.res.record ∧ t.host = State.reset.host ∧
      t.gv = State.reset.gv ∧ t.reg = State.reset.reg ∧ t.ports = State.reset.ports ∧ t.store = State.reset.store ∧
      t.pending = s.pending ∧ t.pwr.wakeTime = s.pwr.wakeTime ∧ t.cnt = s.cnt.filter fun x => aoCounter x.1 := by
  have hrun : ¬ (!s.sys.rstN) = true := by simp [h]
  exact ⟨_, if_neg hrun, rfl, rfl, rfl, rfl, rfl, rfl, rfl, rfl, rfl, rfl, rfl, rfl⟩

theorem aoRelease_asserted (h : s.sys.rstAoN = false) :
    aoRelease s = applyRecord (s.updSys fun y => { y with rstAoN := true }) := by
  simp only [aoRelease, h, Bool.false_eq_true, if_false]

theorem coreRelease_running (h : s.sys.held = false) : coreRelease s = s := by
  simp [coreRelease, h]

/-- A release counts a warm reset, and the level of TEST_MODE makes no difference to it (log 76). -/
theorem coreRelease_held (hh : s.sys.held = true) (ho : s.sys.rstAoN = true) :
    coreRelease s =
      let t := s.updSys fun y => { y with
        held := false, rstN := true, lastReset := if s.sys.lastReset = 0 then 1 else 2
        warmCount := if s.sys.lastReset = 0 then 0 else min 255 (y.warmCount + 1) }
      driveReqs (dealDefault (endSession (if s.mt.test.session then applyRecord t else t))) := by
  simp only [coreRelease, hh, ho, Bool.not_true, Bool.or_self, Bool.false_eq_true, if_false]

theorem bootReady_boots (hh : s.sys.held = false) (hb : s.sys.boot = false) (hf : s.sys.fw = false)
    (hp : s.sys.phase = 0) (hj : s.res.jasper = .idle) : bootReady s = s.updSys fun y => { y with boot := true } := by
  simp [bootReady, hh, hb, hf, hp, hj]

/-- A write to a register of a page that is present, while the block is served, is answered and takes its effect. -/
theorem regWrite_served {present : Bool} {a : Nat} {f : State → State} (h : Serving s) (hp : present = true) :
    regWrite present a f s = answer 0 (f s) := by
  simp [regWrite, h.1, h.2, hp]

end Resets

/-- Settles O57: each row by the law of its function in that case; what a warm reset keeps, by `warmReset_keeps`.  A release
or a reset that has come already changes nothing (log 4). -/
theorem resetRows : Obligations.ResetRows := by
  intro s b l v
  refine ⟨rfl, fun h => congrArg Host.Outcome.next (warmReset_held h), fun h => ?_,
    fun h => congrArg Host.Outcome.next (aoRelease_asserted h),
    fun hh ho => congrArg Host.Outcome.next (coreRelease_held hh ho),
    fun h => congrArg Host.Outcome.next (coreRelease_running h),
    fun hh hb hf hp hj => congrArg Host.Outcome.next (bootReady_boots hh hb hf hp hj), rfl, fun h hl _ => ?_⟩
  · obtain ⟨t, ht, kept⟩ := warmReset_keeps h
    exact ⟨t, congrArg Host.Outcome.next ht, kept⟩
  · exact congrArg Host.Outcome.next ((regWrite_served h (decide_eq_true hl)).trans (congrArg (answer 0) (if_pos hl)))

end Sys2Proof.Machine

namespace Sys2Proof.Machine

open Sys2Proof

/-! ## Measurement and test access (R78, R79, R513-R527) -/

section Measurement

variable {s : State} {u v : Nat} {q : Req}

/-! ### The monitored units and the bandwidth windows -/

theorem pmuLoad_served (h : Serving s) (hp : pmuPresent s u = true) :
    pmuLoad u s = answer 0 (setPmu u (fun x => { x with cnt := x.reload, cycle := 0 }) (hostPerf s)) :=
  regWrite_served h hp

/-- A write of PMU_CTRL without LOAD sets RUN and FREEZE_ON_OVF alone (R513). -/
theorem pmuRunWrite_served (h : Serving s) (hp : pmuPresent s u = true) (hv : v / 4 % 2 = 0) :
    pmuRunWrite u v s =
      answer 0 (setPmu u (fun x => { x with run := v.testBit 0, freeze := v.testBit 1 }) (hostPerf s)) := by
  have hb : v.testBit 2 = false := by simp [Nat.testBit_eq_decide_div_mod_eq, hv]
  rw [pmuRunWrite, regWrite_served h hp]
  simp only [pmuCtrlWrite, hb, Bool.false_eq_true, if_false]

theorem bwWindowEnd_latches (hp : u < nPorts s) (hr : (getBw s u).run = true) :
    bwWindowEnd u s = setBw u (fun b => { b with
      lrxO := b.rxO, lrxF := b.rxF, ltxO := b.txO, ltxF := b.txF, seq := (b.seq + 1) % 2 ^ 32
      rxPeak := max b.rxPeak b.rxO, txPeak := max b.txPeak b.txO, rxO := 0, rxF := 0, txO := 0, txF := 0 }) s := by
  simp only [bwWindowEnd, hp, hr, decide_true, Bool.and_self, if_true]

theorem bwWindowEnd_stopped (hr : (getBw s u).run = false) : bwWindowEnd u s = s := by
  simp [bwWindowEnd, hr]

/-! ### The generator, the checker and the units by command -/

/-- Of two lists of checks, the second judges what the first lets pass. -/
theorem firstErr_append {l k : List (Bool × Reply)} (h : firstErr l = none) : firstErr (l ++ k) = firstErr k := by
  induction l with
  | nil => rfl
  | cons a t ih =>
    obtain ⟨bad, r⟩ := a
    cases bad with
    | false => exact ih h
    | true => cases h

/-- A port that is present and a switch that is 0 or 1 pass the checks of every command of the generator and the checker. -/
theorem portSwitch_ok {n a : Nat} {r1 r2 : Reply} (hn : n < nPorts s) (ha : a ≤ 1) :
    firstErr [(decide (n ≥ nPorts s), r1), (decide (a > 1), r2)] = none := by
  exact firstErr_none (by simp [hn, ha])

theorem genSetCmd_start (hn : u8 q.payload 0 < nPorts s) (h1 : u8 q.payload 1 = 1) (h2 : u8 q.payload 2 ≤ 1)
    (hlo : 14 ≤ u8 q.payload 4) (hhi : u8 q.payload 4 ≤ 64) (hm : 64 ≤ u16 q.payload 8)
    (hf : u8 q.payload 4 + 20 ≤ u16 q.payload 8) (hle : u16 q.payload 8 ≤ u16 q.payload 10)
    (hx : u16 q.payload 10 ≤ ptMax (getPort s (u8 q.payload 0)).applied) :
    genSetCmd q s = (endLpi (u8 q.payload 0) (setGc (u8 q.payload 0) (fun g => { g with
      gen := true, set := q.payload, i := 0, stop := false, old := (getPort s (u8 q.payload 0)).tx.any (·.gen) }) s), okR) := by
  have hmax := Nat.le_trans hle hx
  simp only [genSetCmd, if_pos h1, firstErr_append (portSwitch_ok hn (Nat.le_of_eq h1)), genSends]
  rw [firstErr_none (by simp [h2, hlo, hhi, hm, hmax, hf, hle, hx])]

/-- The generator stops after the frame in transmission, or at once if there is none (R520). -/
theorem genSetCmd_stop (hn : u8 q.payload 0 < nPorts s) (h1 : u8 q.payload 1 = 0) :
    genSetCmd q s = (setGc (u8 q.payload 0) (fun g =>
      if (getPort s (u8 q.payload 0)).tx.any (·.gen) then { g with stop := true } else { g with gen := false }) s, okR) := by
  have hne : u8 q.payload 1 ≠ 1 := by simp [h1]
  have ok := portSwitch_ok (r1 := inv 0) (r2 := inv 1) hn (show u8 q.payload 1 ≤ 1 by simp [h1])
  simp only [genSetCmd, firstErr_append ok, if_neg hne, firstErr, genSends]
  by_cases hg : (getPort s (u8 q.payload 0)).tx.any (·.gen) = true <;> simp only [hg, if_true, Bool.false_eq_true, if_false]

theorem chkSetCmd_stop (hn : u8 q.payload 0 < nPorts s) (h1 : u8 q.payload 1 = 0) :
    chkSetCmd q s = (setGc (u8 q.payload 0) (fun g => { g with chk := false }) s, okR) := by
  have hne : u8 q.payload 1 ≠ 1 := by simp [h1]
  have ok := portSwitch_ok (r1 := inv 0) (r2 := inv 1) hn (show u8 q.payload 1 ≤ 1 by simp [h1])
  simp only [chkSetCmd, firstErr_append ok, if_neg hne, firstErr]

theorem resultCmd_reads (hn : u8 q.payload 0 < nPorts s) (h1 : u8 q.payload 1 ≤ 1) :
    resultCmd q s =
      (if u8 q.payload 1 = 1 then setGc (u8 q.payload 0) clearResults s else s, okD (mtResult s (u8 q.payload 0))) := by
  simp only [resultCmd, portSwitch_ok hn h1]

theorem pmuControlCmd_stop (hu : u32 q.payload 0 ≠ 0) (ha : u8 q.payload 4 = 0) :
    pmuControlCmd q s = (((bitList 16 (u32 q.payload 0)).filter (pmuPresent s)).foldl
      (fun s i => setPmu i (fun x => { x with run := false }) s) (hostPerf s), okR) := by
  simp [pmuControlCmd, firstErr, hu, ha]

theorem pmuControlCmd_noUnit (hu : u32 q.payload 0 = 0) : pmuControlCmd q s = (s, inv 0) := by
  simp [pmuControlCmd, firstErr, hu]

/-! ### The test access -/

/-- The code of WS_BYPASS, and one that is undefined, is loaded as it is (R79). -/
theorem execWsBypass_loads {code : Nat} (h : code % 256 = 0 ∨ wirCodes.contains (code % 256) = false) :
    execWsBypass code s = .next (loadWir (code % 256) s) := by
  have hb : (code % 256 != 0 && wirCodes.contains (code % 256)) = false := by
    rcases h with h | h
    · simp [h]
    · rw [h, Bool.and_false]
  simp only [execWsBypass, hb, Bool.false_eq_true, if_false]

/-- An intrusive instruction is loaded while TEST_MODE is high and RST_N low (R79). -/
theorem intrusive_open {code : Nat} {f : State → State} (hm : s.mt.test.mode = true) (hr : s.sys.rstN = false) :
    intrusive code f s = f (updTest (fun t => { t with wir := code, session := true }) s) := by
  simp [intrusive, hm, hr]

/-- At any other time it acts as WS_BYPASS, and is counted (R79). -/
theorem intrusive_shut {code : Nat} {f : State → State} (h : s.mt.test.mode = false ∨ s.sys.rstN = true) :
    intrusive code f s = updTest (fun t => { t with wir := 0, refused := sat32 t.refused }) s := by
  have hs : (s.mt.test.mode && !s.sys.rstN) = false := by rcases h with h | h <;> simp [h]
  simp only [intrusive, hs, Bool.false_eq_true, if_false]

theorem bistDone_idle {fails : List (Option (List Cell))} (h : s.mt.test.bistRun = false) : bistDone fails s = s := by
  simp [bistDone, h]

/-- What BIST finds of each memory: 0 for good, 1 repairable, 2 past repair, 3 not tested (R522). -/
def bistResults (fails : List (Option (List Cell))) : List Nat :=
  fails.map fun m => (m.map fun c => (bistAllocate 0 0 c).1).getD 3

/-- The outcome of a run is that of its worst memory (R523). -/
theorem bistDone_running {fails : List (Option (List Cell))} (h : s.mt.test.bistRun = true) :
    ∃ t, bistDone fails s = updTest (fun _ => t) s ∧ t.bistRun = false ∧ t.results = bistResults fails ∧
      t.wir = s.mt.test.wir ∧ t.mode = s.mt.test.mode ∧
      t.outcome = if 2 ∈ t.results then 3 else if 1 ∈ t.results then 2 else 1 := by
  have hrun : ¬ (!s.mt.test.bistRun) = true := by simp [h]
  have hres (r : List (Nat × List (Nat × Nat) × List (Nat × Nat))) (k : Nat) :
      r.any (fun x => decide (x.1 = k)) = true ↔ k ∈ r.map (·.1) := by
    simp [List.mem_map]
  refine ⟨_, if_neg hrun, rfl, ?_, rfl, rfl, ?_⟩
  · rw [bistResults, List.map_map]
    refine List.map_congr_left fun m _ => ?_
    cases m <;> rfl
  · simp only [hres]

end Measurement

/-- Settles O60: each command in hand finishes with what its own function answers, and each wrapper instruction acts by
`intrusive_open` and `intrusive_shut` (log 60); PMU_LOAD keeps RUN (log 58) and the outcome of BIST is its worst memory's
(log 59). -/
theorem measurementAndTestRows : Obligations.MeasurementAndTestRows := by
  refine ⟨fun s q u v => ?_, fun s entry code cells chains fails => ?_⟩
  · refine ⟨fun h hp => ⟨congrArg Host.Outcome.next (pmuLoad_served h hp),
        fun hv => congrArg Host.Outcome.next (pmuRunWrite_served h hp hv)⟩,
      fun h hp => congrArg Host.Outcome.next (regWrite_served h (decide_eq_true hp)),
      fun hc hp hr => congrArg Host.Outcome.next ((clocked_on hc).trans (bwWindowEnd_latches hp hr)), fun hr => ?_,
      fun h hn h1 h2 hlo hhi hm hf hle hx => congrArg Host.Outcome.next
        (immediate_inHand h (genSetCmd_start hn h1 h2 hlo hhi hm hf hle hx)),
      fun h hn h1 => congrArg Host.Outcome.next (immediate_inHand h (genSetCmd_stop hn h1)),
      fun h hn h1 => congrArg Host.Outcome.next (immediate_inHand h (chkSetCmd_stop hn h1)),
      fun h hn h1 => ?_, fun h hn h1 => ?_,
      fun h hu ha => congrArg Host.Outcome.next (immediate_inHand h (pmuControlCmd_stop hu ha)),
      fun h hu => congrArg Host.Outcome.next (immediate_inHand h (pmuControlCmd_noUnit hu))⟩
    · exact congrArg Host.Outcome.next ((congrArg (clocked s) (bwWindowEnd_stopped hr)).trans clocked_self)
    · have hr := resultCmd_reads hn (show u8 q.payload 1 ≤ 1 by simp [h1])
      rw [if_neg (by simp [h1])] at hr
      exact congrArg Host.Outcome.next (immediate_inHand h hr)
    · have hr := resultCmd_reads hn (Nat.le_of_eq h1)
      rw [if_pos h1] at hr
      exact congrArg Host.Outcome.next (immediate_inHand h hr)
  · refine ⟨fun h => ?_, fun h => ?_, rfl, rfl, rfl, fun hm hr => ?_, fun h => ?_,
      fun h => congrArg Host.Outcome.next (bistDone_idle h), fun h => ?_⟩
    · have hw := execWsBypass_loads (s := s) (.inl h)
      rw [h] at hw
      exact hw
    · exact execWsBypass_loads (.inr h)
    · have loaded {code : Nat} {f : State → State} :=
        congrArg (Host.Outcome.next : State → Out) (intrusive_open (code := code) (f := f) hm hr)
      exact ⟨loaded, loaded, loaded, loaded, loaded⟩
    · have refused {code : Nat} {f : State → State} :=
        congrArg (Host.Outcome.next : State → Out) (intrusive_shut (code := code) (f := f) h)
      exact ⟨refused, refused, refused, refused, refused⟩
    · obtain ⟨t, ht, hrun, hres, hwir, hmode, hout⟩ := bistDone_running (fails := fails) h
      exact ⟨t, congrArg Host.Outcome.next ht, hrun, hres, hwir, hmode, fun h2 => hout.trans (if_pos h2),
        fun h2 h1 => hout.trans ((if_neg h2).trans (if_pos h1)), fun h2 h1 => hout.trans ((if_neg h2).trans (if_neg h1))⟩

end Sys2Proof.Machine

namespace Sys2Proof.Machine

open Sys2Proof

/-! ## What driving the lines and answering a command leave as it was (R86, R89, R90, R98, R536) -/

section PortOnly

variable {r s t : State}

/-- Of two states only the host port and the interrupt aggregation differ: what the issue of a message changes. -/
def PortOnly (r s : State) : Prop := s = { r with host := s.host, intr := s.intr }

theorem PortOnly.refl (s : State) : PortOnly s s := rfl

theorem PortOnly.trans (h : PortOnly r s) (g : PortOnly s t) : PortOnly r t := by
  unfold PortOnly at h g ⊢
  rw [g, h]

theorem PortOnly.gv_eq (h : PortOnly r s) : s.gv = r.gv := by
  unfold PortOnly at h
  rw [h]

theorem PortOnly.cnt_eq (h : PortOnly r s) : s.cnt = r.cnt := by
  unfold PortOnly at h
  rw [h]

theorem PortOnly.updIntr {f : IntrSt → IntrSt} (h : PortOnly r s) : PortOnly r (s.updIntr f) :=
  h.trans (t := s.updIntr f) rfl

theorem PortOnly.setMsg {l : Nat} {f : LineMsg → LineMsg} (h : PortOnly r s) : PortOnly r (setMsg l f s) := h.updIntr

/-- A message is issued, or is refused and counted at the host port and in INT_ERR. -/
theorem PortOnly.sendMsg {src : MsgSrc} {sid addr data : Nat} (h : PortOnly r s) :
    PortOnly r (sendMsg src sid addr data s).1 := by
  refine h.trans ?_
  unfold Machine.sendMsg
  split <;> rfl

theorem PortOnly.driveLine {l : Nat} (h : PortOnly r s) : PortOnly r (driveLine l s) := by
  unfold Machine.driveLine
  dsimp only
  split
  · exact h
  · split
    · split
      · split
        · exact h.updIntr.setMsg.sendMsg
        · exact h.updIntr.setMsg.sendMsg.updIntr
      · exact h.updIntr.setMsg
    · exact h.updIntr

theorem lines_portOnly : PortOnly s (lines s) :=
  (PortOnly.refl s).driveLine.driveLine.driveLine.driveLine.driveLine

@[simp] theorem lines_gv : (lines s).gv = s.gv := lines_portOnly.gv_eq

@[simp] theorem lines_cnt : (lines s).cnt = s.cnt := lines_portOnly.cnt_eq

@[simp] theorem putResponse_cnt {m : Nat} {hdr data : Bytes} : (putResponse m hdr data s).cnt = s.cnt := by
  unfold putResponse
  dsimp only
  split
  · rw [lines_cnt, (PortOnly.refl _).sendMsg.cnt_eq, lines_cnt]
    rfl
  · rw [lines_cnt]
    rfl

theorem respond_cnt {q : Req} {a : Reply} {record : Bool} : (respond q a record s).cnt = s.cnt := by
  unfold respond
  dsimp only
  split
  · split
    · rw [putResponse_cnt]
      rfl
    · rfl
  · exact putResponse_cnt

theorem finishTaken_cnt {q : Req} {a : Reply} : (finishTaken q a s).cnt = s.cnt := respond_cnt

end PortOnly

/-- Settles O15: what an answer writes is Gelvor's, and its message and lines are the host port's and the interrupt
aggregation's; none of them counts. -/
theorem finishingACommandIsQuiet : Obligations.FinishingACommandIsQuiet := fun s _ _ =>
  ⟨finishTaken_quiet (Quiet.refl s), finishTaken_cnt⟩

end Sys2Proof.Machine

namespace Sys2Proof.Machine

open Sys2Proof

/-! ## Staged commands, SYS_COMMIT and the groups (R108-R116, R161, R247) -/

section Groups

variable {s : State} {q : Req} {g : Group} {a code : Nat}

/-- A write of LN_APPLY in a command's cycle performs its own APPLY; there is none where the mask is 0 (R161; log 10). -/
def ownApply (a : Nat) (s : State) : State := if a = 0 then s else lnApply a s

theorem ownApply_zero : ownApply 0 s = s := rfl

theorem ownApply_pos (h : a ≠ 0) : ownApply a s = lnApply a s := if_neg h

theorem findGroup_none {id m : Nat} (h : ∀ g ∈ s.gv.groups, g.id = id → g.mb ≠ m) : findGroup id m s = none := by
  simpa [findGroup, List.find?_eq_none] using h

theorem addStaged_room {c : Cmd} (hn : g.cmds.length < 4096)
    (hb : (g.cmds.map (·.payload.length)).sum + c.payload.length ≤ 2 * 1024 * 1024) :
    addStaged g c s = (s.updGv fun v => { v with
      groups := mapIf v.groups (·.id = g.id) fun x => { x with cmds := x.cmds ++ [c] } }, okR) :=
  if_neg (by simp [hn, hb])

theorem addStaged_full {c : Cmd} (h : 4096 ≤ g.cmds.length ∨
    2 * 1024 * 1024 < (g.cmds.map (·.payload.length)).sum + c.payload.length) : addStaged g c s = (s, errR stGroupFull) :=
  if_pos (by simpa using h)

/-- A commit that neither succeeds nor ends in the failure of its APPLY fails before the commit point, and changes nothing
(R109, R111, R115). -/
theorem commitCmds_unchanged {cmds : List Cmd} (hok : (commitCmds a cmds s).2.st ≠ stOk)
    (hst : (commitCmds a cmds s).2.st ≠ stStaging) : (commitCmds a cmds s).1 = s := by
  revert hok hst
  unfold commitCmds
  dsimp only
  split
  · exact fun _ _ => rfl
  · split
    · exact fun _ _ => rfl
    · split
      · exact fun _ hst => absurd rfl hst
      · exact fun hok _ => absurd rfl hok

/-! ### A staged command -/

theorem stageRunWith_noRequest (h : takenFor code s = none) : stageRunWith a code s = ownApply a s := by
  rw [stageRunWith, h]
  rfl

section Taken

variable (ht : takenFor code s = some q) (ha : turnedAway q s = false)

include ht ha

theorem stageRunWith_alone_judged {r : Reply} (h0 : rqGroup q.hdr = 0)
    (hj : stageJudge s (agentOf q s) code q.payload = some r) :
    stageRunWith a code s = ownApply a (finishTaken q r s) := by
  simp only [stageRunWith, ht, ha, h0, hj, if_true, Bool.false_eq_true, if_false]
  rfl

/-- With GROUP 0 the commit waits for a sweep as any other does (R247; log 31). -/
theorem stageRunWith_alone_waits (h0 : rqGroup q.hdr = 0) (hj : stageJudge s (agentOf q s) code q.payload = none)
    (hw : commitWaits s = true) : stageRunWith a code s = ownApply a s := by
  simp only [stageRunWith, ht, ha, h0, hj, hw, if_true, Bool.false_eq_true, if_false]
  rfl

theorem stageRunWith_alone_commits (h0 : rqGroup q.hdr = 0) (hj : stageJudge s (agentOf q s) code q.payload = none)
    (hw : commitWaits s = false) :
    stageRunWith a code s =
      let p := commitCmds a [⟨code, q.payload, q.mb⟩] s
      let t := finishTaken q { p.2 with data := [] } p.1
      if p.2.st = stOk ∨ p.2.st = stStaging then t else ownApply a t := by
  simp only [stageRunWith, ht, ha, h0, hj, hw, if_true, Bool.false_eq_true, if_false, Bool.or_eq_true, decide_eq_true_eq]
  rfl

theorem stageRunWith_unknownGroup (h0 : rqGroup q.hdr ≠ 0) (hg : findGroup (rqGroup q.hdr) q.mb s = none) :
    stageRunWith a code s = ownApply a (finishTaken q (errR stGroupUnknown) s) := by
  simp only [stageRunWith, ht, ha, h0, hg, Bool.false_eq_true, if_false]
  rfl

theorem stageRunWith_grouped_judged {r : Reply} (h0 : rqGroup q.hdr ≠ 0) (hg : findGroup (rqGroup q.hdr) q.mb s = some g)
    (hj : stageJudge s (agentOf q s) code q.payload = some r) :
    stageRunWith a code s = ownApply a (finishTaken q r s) := by
  simp only [stageRunWith, ht, ha, h0, hg, hj, Bool.false_eq_true, if_false]
  rfl

theorem stageRunWith_grouped (h0 : rqGroup q.hdr ≠ 0) (hg : findGroup (rqGroup q.hdr) q.mb s = some g)
    (hj : stageJudge s (agentOf q s) code q.payload = none) :
    stageRunWith a code s =
      ownApply a (finishTaken q (addStaged g ⟨code, q.payload, q.mb⟩ s).2 (addStaged g ⟨code, q.payload, q.mb⟩ s).1) := by
  simp only [stageRunWith, ht, ha, h0, hg, hj, Bool.false_eq_true, if_false]
  rfl

end Taken

/-- Every staged command runs by the one operation of its kind. -/
theorem exec_stagedRow : ∀ p ∈ stagedRows, ∀ s, exec p.2 s = .next (stageRun p.1 s) := by
  intro p hp s
  fin_cases hp <;> rfl

/-- PORT_STAGE and LN_STAGE may have a write of LN_APPLY beside them. -/
theorem exec_stagedWith {p : Nat × Instr} (h : p = (0x0201, .portStage a) ∨ p = (0x0301, .lnStage a)) :
    exec p.2 s = .next (stageRunWith a p.1 s) := by
  rcases h with rfl | rfl <;> rfl

theorem stagedRule {row : Instr} (hrow : ∀ s, exec row s = .next (stageRun code s)) : StagedRule code row := by
  intro s q ht ha
  simp only [hrow, stageRun]
  refine ⟨fun r h0 hj => ?_, fun h0 hj hw => ?_, fun h0 hg => ?_, fun g r h0 hg hj => ?_, fun g h0 hg hj hn hb => ?_,
    fun g h0 hg hj hf => ?_⟩
  · rw [stageRunWith_alone_judged ht ha h0 hj, ownApply_zero]
  · rw [stageRunWith_alone_commits ht ha h0 hj hw]
    simp only [ownApply_zero, ite_self]
  · rw [stageRunWith_unknownGroup ht ha h0 hg, ownApply_zero]
  · rw [stageRunWith_grouped_judged ht ha h0 hg hj, ownApply_zero]
  · rw [stageRunWith_grouped ht ha h0 hg hj, addStaged_room hn hb, ownApply_zero]
  · rw [stageRunWith_grouped ht ha h0 hg hj, addStaged_full hf, ownApply_zero]

/-! ### SYS_COMMIT -/

theorem sysCommit_noRequest (h : takenFor 0x0103 s = none) : sysCommit a s = ownApply a s := by
  rw [sysCommit, h]
  rfl

theorem sysCommit_unknownGroup (h : InHand 0x0103 q s) (hg : findGroup (u32 q.payload 0) q.mb s = none) :
    sysCommit a s = ownApply a (finishTaken q (errR stGroupUnknown) s) := by
  simp only [sysCommit, h.1, h.2, hg]
  rfl

theorem sysCommit_waits (h : InHand 0x0103 q s) (hg : findGroup (u32 q.payload 0) q.mb s = some g)
    (hw : commitWaits s = true) : sysCommit a s = ownApply a s := by
  simp only [sysCommit, h.1, h.2, hg, hw, if_true]
  rfl

/-- A commit that succeeds closes its group, and one that fails leaves it open (R109, R111). -/
theorem sysCommit_commits {t : State} {r : Reply} (h : InHand 0x0103 q s)
    (hg : findGroup (u32 q.payload 0) q.mb s = some g) (hw : commitWaits s = false) (hc : commitCmds a g.cmds s = (t, r)) :
    sysCommit a s =
      let u := finishTaken q r (if r.st = stOk then dropGroup g.id t else t)
      if r.st = stOk ∨ r.st = stStaging then u else ownApply a u := by
  simp only [sysCommit, h.1, h.2, hg, hw, hc, Bool.false_eq_true, if_false, Bool.or_eq_true, decide_eq_true_eq]
  rfl

/-! ### SYS_ABORT of a group, and a rule image's group -/

theorem abortCmd_group_none (h0 : u8 q.payload 0 = 0)
    (hg : s.gv.groups.find? (fun g => g.id = u32 q.payload 4 && (g.mb = q.mb || q.mb = 0)) = none) :
    abortCmd q s = (s, errR stGroupUnknown) := by
  simp [abortCmd, h0, hg]

theorem abortCmd_group (h0 : u8 q.payload 0 = 0)
    (hg : s.gv.groups.find? (fun g => g.id = u32 q.payload 4 && (g.mb = q.mb || q.mb = 0)) = some g) :
    abortCmd q s = (if q.mb = 0 then discardGroup g 1 s else dropGroup g.id s, okR) := by
  simp [abortCmd, h0, hg]

theorem imageLoadCmd_unknownGroup (h3 : u8 q.payload 0 = 3) (ha : u64 q.payload 8 % 64 = 0)
    (hg : findGroup (u32 q.payload 4) q.mb s = none) : imageLoadCmd q s = (s, some (errR stGroupUnknown)) := by
  simp [imageLoadCmd, firstErr, h3, ha, hg]

end Groups

/-- Settles O34: each row by the law of its operation in that case.  A commit waits for a sweep with GROUP 0 too (log 31), and a
write of LN_APPLY in the cycle is the row's operand (log 10). -/
theorem stagedAndCommitRows : Obligations.StagedAndCommitRows := by
  refine ⟨fun p hp => stagedRule (exec_stagedRow p hp), fun s q a row hpos hrow => ?_, fun s q a => ?_⟩
  · rw [exec_stagedWith hrow, ← ownApply_pos hpos]
    refine ⟨fun h => congrArg _ (stageRunWith_noRequest h), fun ht ha h0 hj => ⟨fun hw => ?_, fun hw hr => ?_⟩⟩
    · exact congrArg _ (stageRunWith_alone_waits ht ha h0 hj hw)
    · exact congrArg _ ((stageRunWith_alone_commits ht ha h0 hj hw).trans (if_pos hr))
  · refine ⟨fun h => congrArg Host.Outcome.next (sysCommit_noRequest h),
      fun h hg => congrArg Host.Outcome.next (sysCommit_unknownGroup h hg),
      fun g h hg => ⟨fun hw => congrArg Host.Outcome.next (sysCommit_waits h hg hw), fun t r hw hc => ?_⟩⟩
    have hrun := sysCommit_commits h hg hw hc
    refine ⟨fun hok => ?_, fun hst => ?_, fun hok hst => ?_⟩
    · exact congrArg Host.Outcome.next (hrun.trans (by simp only [hok, true_or, if_true]))
    · have hne : r.st ≠ stOk := hst ▸ by decide
      exact congrArg Host.Outcome.next (hrun.trans (by simp only [if_neg hne, if_pos (Or.inr hst)]))
    · obtain rfl : t = s := by
        have hs := commitCmds_unchanged (a := a) (cmds := g.cmds) (s := s)
        rw [hc] at hs
        exact hs hok hst
      refine ⟨rfl, congrArg Host.Outcome.next (hrun.trans ?_)⟩
      simp only [if_neg hok, if_neg (not_or.mpr ⟨hok, hst⟩)]
      rfl

/-- Settles O11: a group that the mailbox has not opened is not found for it; MB0 finds every open group.  The APPLY of a write of
LN_APPLY beside the refused command is that write's own (log 10). -/
theorem groupsBelongToTheirMailbox : Obligations.GroupsBelongToTheirMailbox := by
  intro s q
  refine ⟨fun p hp ht ha h0 hg => ?_, fun a p hp ht ha h0 hg => ?_, fun a h hg => ?_, fun h h0 hm hg => ?_,
    fun h h0 hm ⟨g, hg, hid⟩ => ?_, fun h h3 ha hg => ?_⟩
  · rw [exec_stagedRow p hp, stageRun, stageRunWith_unknownGroup ht ha h0 (findGroup_none hg), ownApply_zero]
  · have hrow : p = (0x0201, .portStage a) ∨ p = (0x0301, .lnStage a) := by simpa using hp
    rw [exec_stagedWith hrow, stageRunWith_unknownGroup ht ha h0 (findGroup_none hg)]
    rfl
  · exact congrArg Host.Outcome.next (sysCommit_unknownGroup h (findGroup_none hg))
  · have hnone : s.gv.groups.find? (fun g => g.id = u32 q.payload 4 && (g.mb = q.mb || q.mb = 0)) = none := by
      simpa [List.find?_eq_none, hm] using hg
    exact congrArg _ (immediate_inHand h (abortCmd_group_none h0 hnone))
  · obtain ⟨x, hx⟩ : ∃ x, s.gv.groups.find? (fun g => g.id = u32 q.payload 4 && (g.mb = q.mb || q.mb = 0)) = some x :=
      Option.isSome_iff_exists.mp (List.find?_isSome.mpr ⟨g, hg, by simp [hid, hm]⟩)
    have hrun := immediate_inHand h (abortCmd_group h0 hx)
    rw [if_pos hm] at hrun
    exact ⟨x, List.mem_of_find?_eq_some hx, by simpa [hm] using List.find?_some hx, congrArg _ hrun⟩
  · exact congrArg _ (longRunning_answers h (imageLoadCmd_unknownGroup h3 ha (findGroup_none hg)))

end Sys2Proof.Machine

namespace Sys2Proof.Machine

open Sys2Proof

/-! ## The commands of the system unit (R104, R107, R113, R114, R117, R119, R509, R510) -/

section SystemCommands

variable {s : State} {q : Req}

/-! ### SYS_REGION_SET -/

/-- The region that SYS_REGION_SET asks for. -/
def newRegion (p : Bytes) : Region := { base := u64 p 8, size := u64 p 16, agent := u8 p 2, set := true }

/-- SYS_REGION_SET names a region of a lawful place, which overlaps no other and is the agent's to set (R104, R107). -/
structure RegionLawful (q : Req) (s : State) : Prop where
  kind : u8 q.payload 0 ≤ 4
  window : u8 q.payload 0 = 4 → u8 q.payload 1 ≤ 15
  fixed : u8 q.payload 0 ≠ 4 → u8 q.payload 1 = 0 ∧ u8 q.payload 2 = 0xFF
  place : regionBad (u8 q.payload 0) (u64 q.payload 8) (u64 q.payload 16) = none
  fits : u64 q.payload 8 + u64 q.payload 16 ≤ 2 ^ 48
  apart : ∀ r ∈ othersOf s (u8 q.payload 0), overlaps (newRegion q.payload) r = false
  owned : u8 q.payload 0 = 4 → (regionOf s (u8 q.payload 0) (u8 q.payload 1)).agent = 0xFF ∨
    (regionOf s (u8 q.payload 0) (u8 q.payload 1)).agent = agentOf q s

/-- The values that SYS_REGION_SET brings are those in force. -/
def regionInForce (p : Bytes) (old : Region) : Prop := old.base = u64 p 8 ∧ old.size = u64 p 16 ∧ old.agent = u8 p 2

/-- The state is looked at only where the values differ from those in force (log 56). -/
theorem regionSetCmd_lawful (h : RegionLawful q s) :
    (regionInForce q.payload (regionOf s (u8 q.payload 0) (u8 q.payload 1)) → regionSetCmd q s = (s, okR)) ∧
    (¬ regionInForce q.payload (regionOf s (u8 q.payload 0) (u8 q.payload 1)) →
      let after := putRegion (u8 q.payload 0) (u8 q.payload 1) (newRegion q.payload) s
      regionSetCmd q s =
        if regionState s (u8 q.payload 0) after = true then (after, okR) else (s, errR stWrongState)) := by
  obtain ⟨hk, hw, hx, hb, hs, ho, ha⟩ := h
  have hbad : firstErr [(decide (u8 q.payload 0 > 4), inv 0),
      (if u8 q.payload 0 = 4 then decide (u8 q.payload 1 > 15) else u8 q.payload 1 != 0, inv 1),
      (u8 q.payload 0 != 4 && u8 q.payload 2 != 0xFF, inv 2)] = none := by
    refine firstErr_none ?_
    by_cases h4 : u8 q.payload 0 = 4
    · simp [h4, hw h4]
    · simp [h4, hx h4, hk]
  have hapart : ¬ (othersOf s (u8 q.payload 0)).any (overlaps (newRegion q.payload)) = true := by
    simpa [List.any_eq_true] using ho
  have howned : ¬ (decide (u8 q.payload 0 = 4) && (regionOf s (u8 q.payload 0) (u8 q.payload 1)).agent != 0xFF &&
      (regionOf s (u8 q.payload 0) (u8 q.payload 1)).agent != agentOf q s) = true := by
    simp only [Bool.and_eq_true, decide_eq_true_eq, bne_iff_ne, ne_eq]
    exact fun ⟨⟨h4, hff⟩, hag⟩ => (ha h4).elim hff hag
  have hnew : ({ base := u64 q.payload 8, size := u64 q.payload 16, agent := u8 q.payload 2, set := true } : Region) =
    newRegion q.payload := rfl
  have hothers : (if u8 q.payload 0 = 4 then othersOf s 4 else othersOf s (u8 q.payload 0)) = othersOf s (u8 q.payload 0) := by
    split
    · next h4 => rw [h4]
    · rfl
  simp only [regionSetCmd, hbad, hb, Option.or_none, hnew, hothers, if_neg (Nat.not_lt.mpr hs), if_neg hapart, if_neg howned]
  refine ⟨fun hi => if_pos ?_, fun hi => if_neg ?_⟩
  · obtain ⟨h1, h2, h3⟩ := hi
    simp [h1, h2, h3]
  · simpa [regionInForce, and_assoc, newRegion] using hi

/-! ### Groups, event rings and masks -/

theorem groupOpenCmd_opens (h : s.gv.groups.length < 8) :
    groupOpenCmd q s = (s.updGv fun g => { g with
      groups := g.groups ++ [{ id := s.gv.nextGroup, mb := q.mb, agent := agentOf q s }], nextGroup := s.gv.nextGroup + 1 },
      okD (toLe 4 s.gv.nextGroup)) := if_neg (Nat.not_le.mpr h)

theorem groupOpenCmd_full (h : 8 ≤ s.gv.groups.length) : groupOpenCmd q s = (s, errR stNoResource) := if_pos h

/-- SYS_ABORT of a mailbox's own image load, or by MB0 (R114). -/
theorem abortCmd_load {r : Req} (h1 : u8 q.payload 0 = 1) (hm : u8 q.payload 1 ≤ 15) (ho : u8 q.payload 1 = q.mb ∨ q.mb = 0)
    (hr : s.gv.running.find? (·.mb = u8 q.payload 1) = some r) (hc : rqCode r.hdr = 0x0E01) :
    abortCmd q s = (abortLoad s, okR) := by
  have hown : ¬ (u8 q.payload 1 != q.mb && q.mb != 0) = true := by simpa [or_iff_not_imp_left] using ho
  simp only [abortCmd, h1, Nat.lt_irrefl, Nat.one_ne_zero, gt_iff_lt, if_neg (Nat.not_lt.mpr hm), if_neg hown, hr, hc,
    if_true, if_false]

theorem recordUnissued_false {m : Nat} (h : ∀ x ∈ s.host.xfers, x.purp = .event m → x.out ≠ 0) :
    recordUnissued m s = false := by
  simpa [recordUnissued] using h

/-- A record that has been issued completes to the ring that it was issued to (R117). -/
theorem leaveRing_issued {m : Nat} (h : recordUnissued m s = false) :
    leaveRing m s = (setMb m (fun b => { b with writing := false }) s).updHost fun h => { h with
      xfers := mapIf h.xfers (·.purp = .event m) fun x => { x with purp := .oldEvent m } } := by
  rw [leaveRing, h]
  rfl

theorem eventRingCmd_sets (h : eventRingArgs s (agentOf q s) q.payload = none) :
    eventRingCmd q s = (setMb q.mb (fun b => { b with
      ring := { base := u64 q.payload 0, entries := u32 q.payload 8, flags := u32 q.payload 12
                msgAddr := u64 q.payload 16, msgData := u32 q.payload 24 }
      evtProd := 0, evtCons := 0, seq := 0, lostBefore := false }) (leaveRing q.mb s), okR) := by
  simp only [eventRingCmd, h]

/-- SYS_EVENT_RING_SET runs once no record waits to be issued to the ring before (R119). -/
theorem eventRingSet_issued (ht : takenFor 0x0105 s = some q) (he : (getMb s q.mb).evtQ = [])
    (hr : recordUnissued q.mb s = false) : eventRingSet s = immediate 0x0105 eventRingCmd s := by
  simp only [eventRingSet, ht, he, hr, List.isEmpty_nil, Bool.not_false, Bool.and_self, if_true]

/-! ### Grants and bindings -/

/-- A mailbox other than MB0 that is not BUSY is granted: its groups are discarded and its ring is left (R117). -/
theorem grantCmd_grants (h1 : 1 ≤ u8 q.payload 0) (hm : u8 q.payload 0 ≤ 15) (ha : u8 q.payload 1 ≠ 255)
    (hb : (getMb s (u8 q.payload 0)).busy = false) :
    grantCmd q s = (setMb (u8 q.payload 0) (fun b => { b with
      tokens := [], ring := {}, evtMask := 0, agent := u8 q.payload 1, caps := u16 q.payload 2 })
      (loseQueued (u8 q.payload 0) (leaveRing (u8 q.payload 0)
        ((s.gv.groups.filter (·.mb = u8 q.payload 0)).foldl (fun s g => discardGroup g 0 s) s))), okR) := by
  have hok : firstErr [(decide (u8 q.payload 0 = 0) || decide (u8 q.payload 0 > 15), inv 0),
      (decide (u8 q.payload 1 = 255), inv 1), ((getMb s (u8 q.payload 0)).busy, errR stWrongState)] = none :=
    firstErr_none (by simp [ha, hb, hm, Nat.ne_of_gt h1])
  simp only [grantCmd, hok]

/-- The number of resources that SYS_RESOURCE_BIND of a kind may name. -/
def bindLimit (s : State) (k : Nat) : Nat := if k = 0 then nChannels s else if k = 1 then nStations s else 16

/-- A lawful range is bound where nothing in it is busy (R117); whose it was before is not asked (log 90). -/
theorem bindCmd_range (hk : u8 q.payload 0 ≤ 2) (ha : u8 q.payload 1 ≠ 255)
    (hf : u32 q.payload 4 < bindLimit s (u8 q.payload 0)) (hn : u32 q.payload 8 ≠ 0)
    (hl : u32 q.payload 4 + u32 q.payload 8 ≤ bindLimit s (u8 q.payload 0)) :
    bindCmd q s =
      let l := upto (u32 q.payload 4) (u32 q.payload 8)
      if l.any (bindBusy s (u8 q.payload 0)) = true then (s, errR stWrongState)
      else (l.foldl (fun s i => bindOne (u8 q.payload 0) (u8 q.payload 1) i s) s, okR) := by
  have hok : firstErr [(decide (u8 q.payload 0 > 2), inv 0), (decide (u8 q.payload 1 = 255), inv 1),
      (decide (u32 q.payload 4 ≥ bindLimit s (u8 q.payload 0)), inv 4),
      (decide (u32 q.payload 8 = 0) || decide (u32 q.payload 4 + u32 q.payload 8 > bindLimit s (u8 q.payload 0)), inv 8)] =
        none :=
    firstErr_none (by simp [hk, ha, hf, hn, hl])
  unfold bindLimit at hok
  simp only [bindCmd, hok]

/-! ### SYS_QUIESCE, SYS_START and SYS_PUNT_SET -/

theorem quiesceCmd_begins (hm : s.pwr.mode ≠ .entering) (hq : s.sys.quiesced = false) :
    quiesceCmd q s = (s.updSys fun y => { y with quiescing := true, qDropped := 0, qTimed := 0 }, none) := by
  simp only [quiesceCmd, if_neg hm, hq, Bool.false_eq_true, if_false]

theorem startCmd_starts (hp : s.sys.phase = 1) (hc : s.host.control.size ≠ 0) (hb : baseRuns s = true) :
    startCmd q s =
      (resumeSends (resumeUnits (s.updSys fun y => { y with phase := 2 })), okD (toLe 8 (nowNs s))) := by
  have hok : firstErr [(s.sys.phase != 1, errR stWrongState), (decide (s.host.control.size = 0), errR stNotConfigured),
      (!baseRuns s, errR stWrongState)] = none := firstErr_none (by simp [hp, hc, hb])
  simp only [startCmd, hok]

theorem puntCmd_off (h : u32 q.payload 0 = 0xFFFFFFFF) :
    puntCmd q s = (s.updGv fun g => { g with puntTarget := 0xFFFFFFFF }, okR) := by
  simp only [puntCmd, h, if_true]

theorem puntCmd_target (h : u32 q.payload 0 ≠ 0xFFFFFFFF) (ho : u32 q.payload 0 ≠ 0x00F00000)
    (hd : destStatus s (agentOf q s) (u32 q.payload 0) = none) :
    puntCmd q s = (s.updGv fun g => { g with puntTarget := u32 q.payload 0 }, okR) := by
  simp only [puntCmd, if_neg h, if_neg ho, hd]

end SystemCommands

/-- Settles O32: each command in hand finishes with what its own function answers.  SYS_REGION_SET with the values in force is
answered before the state is looked at (R104; log 56). -/
theorem systemCommandRows : Obligations.SystemCommandRows := by
  intro s q
  refine ⟨fun h => congrArg Host.Outcome.next (immediate_inHand h rfl), fun h hk hw hx hb hs ho ha => ?_,
    fun h hl => congrArg Host.Outcome.next (immediate_inHand h (groupOpenCmd_opens hl)),
    fun h hl => congrArg Host.Outcome.next (immediate_inHand h (groupOpenCmd_full hl)),
    fun g h h0 hg => congrArg Host.Outcome.next (immediate_inHand h (abortCmd_group h0 hg)),
    fun r h h1 hm ho hr hc => congrArg Host.Outcome.next (immediate_inHand h (abortCmd_load h1 hm ho hr hc)),
    fun h he hx ha => ?_, fun h => congrArg Host.Outcome.next (immediate_inHand h rfl)⟩
  · obtain ⟨hsame, hnew⟩ := regionSetCmd_lawful (q := q) ⟨hk, hw, hx, hb, hs, ho, ha⟩
    refine ⟨fun h1 h2 h3 => congrArg Host.Outcome.next (immediate_inHand h (hsame ⟨h1, h2, h3⟩)), fun hne => ?_⟩
    have hset := hnew fun ⟨h1, h2, h3⟩ => hne.elim (· h1) (·.elim (· h2) (· h3))
    refine ⟨fun hst => congrArg Host.Outcome.next (immediate_inHand h (hset.trans (if_pos hst))),
      fun hst => congrArg Host.Outcome.next (immediate_inHand h (hset.trans (if_neg (Bool.eq_false_iff.mp hst))))⟩
  · have hr := recordUnissued_false hx
    refine congrArg Host.Outcome.next ((eventRingSet_issued h.1 he hr).trans ?_)
    rw [immediate_inHand h (eventRingCmd_sets ha), leaveRing_issued hr]

/-- Settles O33: each command in hand finishes with what its own function answers, and SYS_QUIESCE goes on beside the queue.  A
range that is bound to another agent may be bound (log 90). -/
theorem systemControlRows : Obligations.SystemControlRows := by
  intro s q
  refine ⟨fun h h1 hm ha hb => congrArg Host.Outcome.next (immediate_inHand h (grantCmd_grants h1 hm ha hb)),
    fun h hk ha hf hn hl => ?_,
    fun h hm hq => congrArg (Host.Outcome.next ∘ settleQuiesce) (longRunning_runs h (quiesceCmd_begins hm hq)),
    fun h hp hc hb => congrArg Host.Outcome.next (immediate_inHand h (startCmd_starts hp hc hb)),
    fun h ht => congrArg Host.Outcome.next (immediate_inHand h (puntCmd_off ht)),
    fun h ht ho hd => congrArg Host.Outcome.next (immediate_inHand h (puntCmd_target ht ho hd))⟩
  have hbind := bindCmd_range hk ha hf hn hl
  exact ⟨fun hfree => congrArg Host.Outcome.next (immediate_inHand h (hbind.trans (if_neg (Bool.eq_false_iff.mp hfree)))),
    fun hbusy => congrArg Host.Outcome.next (immediate_inHand h (hbind.trans (if_pos hbusy)))⟩

end Sys2Proof.Machine

namespace Sys2Proof.Machine

open Sys2Proof

/-! ## Doorbells and the taking of requests (R85-R93, R97-R101) -/

section Requests

variable {s : State} {m v : Nat}

@[simp] theorem getMb_setMb {f : Mb → Mb} : getMb (setMb m f s) m = f (getMb s m) := by
  simp only [getMb, setMb, State.updGv_gv, Tbl.getD_set, if_true]

@[simp] theorem getMb_lines : getMb (lines s) m = getMb s m := by
  simp only [getMb, lines_gv]

@[simp] theorem answer_gv {k : Nat} : (answer k s).gv = s.gv := rfl

@[simp] theorem getMb_answer {k : Nat} : getMb (answer k s) m = getMb s m := rfl

/-! ### The registers of a mailbox -/

/-- A mailbox copies the request in its page, and is BUSY with it (R86). -/
def takeBell (v : Nat) (b : Mb) : Mb :=
  { b with busy := true, done := false, bell := v % 65536, hdr := b.reqHdr, body := b.reqData }

/-- The request of a free mailbox is copied and joins the queue (R86). -/
def acceptBell (m v : Nat) (s : State) : State :=
  (setMb m (takeBell v) s).updGv fun g => { g with queue := g.queue ++ [m] }

theorem getMb_acceptBell : getMb (acceptBell m v s) m = takeBell v (getMb s m) := getMb_setMb

theorem ringDoorbell_free (hb : (getMb s m).busy = false) : ringDoorbell m v s = lines (acceptBell m v s) := by
  rw [ringDoorbell, hb]
  rfl

theorem ringDoorbell_busy (hb : (getMb s m).busy = true) :
    ringDoorbell m v s = setMb m (fun b => { b with dbIgnored := true, ignored := b.ignored + 1 }) s := if_pos hb

theorem mbStatusWrite_done : mbStatusWrite m 2 s = lines (setMb m (fun b => { b with done := false }) s) := by
  have h1 : Nat.testBit 2 1 = true := rfl
  have h3 : Nat.testBit 2 3 = false := rfl
  simp only [mbStatusWrite, h1, h3, Bool.not_true, Bool.not_false, Bool.and_false, Bool.and_true]

theorem exec_mbDoorbell (h : Serving s) (hm : m < 16) : exec (.mbDoorbell m v) s = .next (answer 0 (ringDoorbell m v s)) := by
  refine congrArg Host.Outcome.next ((regWrite_served h (decide_eq_true hm)).trans ?_)
  rw [if_pos hm]

theorem exec_mbDoneClear (h : Serving s) (hm : m < 16) : exec (.mbDoneClear m) s =
    .next (answer 0 (lines (setMb m (fun b => { b with done := false }) s))) := by
  refine congrArg Host.Outcome.next ((regWrite_served h (decide_eq_true hm)).trans ?_)
  rw [if_pos hm, mbStatusWrite_done]

/-! ### REQUEST_TAKE -/

/-- A mailbox's request leaves the queue. -/
def unqueue (m : Nat) (s : State) : State := s.updGv fun g => { g with queue := g.queue.erase m }

/-- The inline payload of a mailbox's request (R96). -/
def inlinePayload (s : State) (m : Nat) : Bytes := (getMb s m).body.take (rqLen (getMb s m).hdr)

/-- A mailbox's request with its inline payload, ready to execute (R97). -/
def inlineReq (s : State) (m : Nat) : Req :=
  { mb := m, hdr := (getMb s m).hdr, payload := inlinePayload s m, ready := true
    digest := digestOf (getMb s m).hdr (inlinePayload s m) }

/-- With no request in hand and no response owed, Onyx takes the oldest request that it may (R90, R94). -/
theorem requestTake_takes (ht : s.gv.taken = none) (hu : onyxUp s = true) (hj : s.res.jasper ≠ .takeover)
    (ha : s.gv.awaited = []) (hq : s.gv.queue.find? (fun m => s.sys.fw || decide (m = 0)) = some m) :
    requestTake s = takeRequest m (unqueue m s) := by
  have hf : finishTakeover s = s := if_neg (by simp [hj])
  simp only [requestTake, hf, takeNext, ht, hu, ha, hq, Option.isSome_none, List.isEmpty_nil, Bool.not_true, Bool.or_self,
    Bool.false_eq_true, if_false]
  rfl

theorem takeRequest_badHeader {st : Nat} (hc : checkHeader s m = some st) :
    takeRequest m s = respond { mb := m, hdr := (getMb s m).hdr, payload := [], ready := false } (errR st) false s := by
  simp only [takeRequest, hc]

theorem takeRequest_pointer (hc : checkHeader s m = none) (hp : rqPtr (getMb s m).hdr = true)
    (hq : s.sys.quiesced = false) :
    takeRequest m s = startXfer .payload false 0x210 (rqAddr (getMb s m).hdr) (rqLen (getMb s m).hdr) []
      (s.updGv fun g => { g with
        taken := some { mb := m, hdr := (getMb s m).hdr, payload := [], ready := false } }) := by
  simp only [takeRequest, hc, hp, hq, if_true, Bool.false_eq_true, if_false]

section Inline

variable (hc : checkHeader s m = none) (hp : rqPtr (getMb s m).hdr = false)

include hc hp

theorem takeRequest_inline :
    takeRequest m s = judgeToken { mb := m, hdr := (getMb s m).hdr, payload := inlinePayload s m, ready := false } s := by
  simp only [takeRequest, hc, hp, Bool.false_eq_true, if_false]
  rfl

theorem takeRequest_new (ht : (getMb s m).tokens.find? (·.token = rqToken (getMb s m).hdr) = none) :
    takeRequest m s = s.updGv fun g => { g with taken := some (inlineReq s m) } := by
  rw [takeRequest_inline hc hp]
  simp only [judgeToken, ht]
  rfl

variable {t : Token} (ht : (getMb s m).tokens.find? (·.token = rqToken (getMb s m).hdr) = some t)

include ht

/-- A repeated request is answered with its recorded response, marked as one (R101). -/
theorem takeRequest_repeated (hcode : t.code = rqCode (getMb s m).hdr) (hd : t.digest = (inlineReq s m).digest) :
    takeRequest m s =
      putResponse m (overlay (overlay t.hdr 3 [1#8]) 6 (slice (getMb s m).hdr 6 2)) t.data
        (s.updGv fun g => { g with taken := none }) := by
  rw [takeRequest_inline hc hp]
  simp only [judgeToken, ht]
  exact if_pos (by simp [hcode, hd, inlineReq])

/-- A token used for another request is a conflict (R101). -/
theorem takeRequest_conflict (h : t.code ≠ rqCode (getMb s m).hdr ∨ t.digest ≠ (inlineReq s m).digest) :
    takeRequest m s = respond (inlineReq s m) (errR stConflict) false (s.updGv fun g => { g with taken := none }) := by
  rw [takeRequest_inline hc hp]
  simp only [judgeToken, ht]
  refine if_neg ?_
  simpa [imp_iff_not_or, inlineReq] using h

end Inline

end Requests

/-- Settles O31: each row by the law of its operation in that case; the counter of ignored doorbells has no bound (log 77). -/
theorem mailboxAndRequestRows : Obligations.MailboxAndRequestRows := by
  refine ⟨fun s m v hh hc hm => ⟨fun hb => ?_, fun hb => ?_, exec_mbDoneClear ⟨hh, hc⟩ hm⟩, fun s m ht hu hq hj ha => ?_⟩
  · rw [exec_mbDoorbell ⟨hh, hc⟩ hm, ringDoorbell_free hb]
    rfl
  · rw [exec_mbDoorbell ⟨hh, hc⟩ hm, ringDoorbell_busy hb]
  · have hrun : exec .requestTake s = .next (takeRequest m (unqueue m s)) :=
      congrArg Host.Outcome.next (requestTake_takes ht hu hj ha hq)
    refine ⟨fun st hc => ?_, fun hc hp => ⟨fun hn => ?_, fun t hf hcode hd => ?_, fun t hf hne => ?_⟩, fun hc hp hs => ?_⟩
    · exact hrun.trans (congrArg _ (takeRequest_badHeader hc))
    · exact hrun.trans (congrArg _ (takeRequest_new hc hp hn))
    · exact hrun.trans (congrArg _ (takeRequest_repeated hc hp hf hcode hd))
    · exact hrun.trans (congrArg _ (takeRequest_conflict hc hp hf hne))
    · exact hrun.trans (congrArg _ (takeRequest_pointer hc hp hs))

end Sys2Proof.Machine

namespace Sys2Proof.Machine

open Sys2Proof

/-! ## What a feedback message leaves in its station (R364-R369, R379) -/

section StationLinks

variable {r s : State} {st l : Nat}

theorem SameUnits.sta_eq (h : SameUnits r s) : s.sta = r.sta := by
  obtain ⟨_, _, _, _, _, _, _, hsta, _⟩ := h
  exact hsta

theorem SameUnits.sch_eq (h : SameUnits r s) : s.sch = r.sch := by
  obtain ⟨_, _, _, _, _, _, hsch, _⟩ := h
  exact hsch

theorem SameUnits.getSta_eq (h : SameUnits r s) : getSta s st = getSta r st := by
  simp only [getSta, h.sta_eq]

theorem SameUnits.getQ_eq {k : QKey} (h : SameUnits r s) : getQ s k = getQ r k := by
  simp only [getQ, h.sch_eq]

/-- An accepted message counts, in the radio port's counter and its monitored unit, and touches nothing else. -/
theorem fbAccept_sameUnits : SameUnits s (fbAccept s) := (pmuEvent_counted (Counted.refl s).bump).1

theorem raiseTo_sameUnits {a : Aud} {code subject : Nat} {detail : Bytes} :
    SameUnits s (raiseTo a code subject detail s) := (raiseTo_quiet (Quiet.refl s)).1

theorem getSta_setSta {f : Sta → Sta} : getSta (setSta st f s) st = f (getSta s st) := by
  simp only [getSta, setSta, State.updSta_sta, Tbl.upd, Tbl.getD_set, if_true]

/-- A station's link reads as last set. -/
theorem staLink_setStaLink {f : StaLink → StaLink} :
    staLink (getSta (setStaLink st l f s) st) l = f (staLink (getSta s st) l) := by
  simp only [setStaLink, getSta_setSta, staLink, Tbl.upd, Tbl.getD_set, if_true]

/-- To park a queue, or to let it go on, leaves the station's links as they were. -/
theorem evalPark_per {a : Nat} {c : Bool} : (getSta (evalPark st a c s) st).per = (getSta s st).per := by
  have hset {p : Bool} : (getSta (setSta st (fun x => { x with parked := withBit x.parked a p }) s) st).per =
      (getSta s st).per := by rw [getSta_setSta]
  unfold evalPark
  dsimp only
  split
  · rfl
  · split
    · split
      · exact hset
      · exact hset
    · split
      · exact hset
      · exact hset

theorem evalParks_per : (getSta (evalParks st s) st).per = (getSta s st).per :=
  List.foldlRecOn (motive := fun t => (getSta t st).per = (getSta s st).per) _ _ rfl
    fun _ ht _ _ => evalPark_per.trans ht

/-- What a message sets of its station's link, the parking that follows does not undo. -/
theorem staLink_evalParks : staLink (getSta (evalParks st s) st) l = staLink (getSta s st) l := by
  simp only [staLink, evalParks_per]

/-- The count of an accepted message leaves the stations: the link reads as the message sets it. -/
theorem staLink_accepted {f : StaLink → StaLink} :
    staLink (getSta (setStaLink st l f (fbAccept s)) st) l = f (staLink (getSta s st) l) := by
  rw [staLink_setStaLink, fbAccept_sameUnits.getSta_eq]

end StationLinks

/-- Settles O51: each row answers the state that the law of its operation in that case names, which holds what the statement says
of it. -/
theorem feedbackAndRequestRowsComplete : Obligations.FeedbackAndRequestRowsComplete := by
  refine ⟨⟨fun s m l st hlen hl hc he h1 hst ha => ?_, fun s st l hc ha hr hs h0 ht => ?_⟩, fun s m v hm => ?_⟩
  · have on (k : Nat) (hk : k < 16) (h0 : u8 m 0 = k + 16 * l) : FbOn s m k l st := ⟨hlen, hk, hl, h0, h1, hst, he⟩
    refine ⟨fun h0 hn hb ht hr hz => ?_, fun h0 hn hb hz => ?_, fun h0 hn hb hx ha0 hn0 hz => ?_,
      fun h0 hn hb hx ha0 hlt hz hq => ?_⟩
    · refine ⟨_, congrArg Host.Outcome.next ((clocked_on hc).trans ((on 1 (by decide) h0).fbRateMsg_member ⟨hn, ha, hb⟩ ht hr hz)), ?_⟩
      rw [staLink_accepted]
      exact ⟨rfl, rfl, rfl⟩
    · refine ⟨_, congrArg Host.Outcome.next ((clocked_on hc).trans ((on 2 (by decide) h0).fbCreditMsg_member ⟨hn, ha, hb⟩ hz)), ?_⟩
      rw [staLink_accepted]
      exact ⟨rfl, rfl, rfl⟩
    · have hbody : psBodyOk m = true := by simp [psBodyOk, Nat.ne_of_lt hx, hx, ha0, hn0]
      have hps := (on 3 (by decide) h0).fbPsMsg_member ⟨hn, ha, hb⟩ hbody hz
      rw [psEffect_state hx] at hps
      refine ⟨_, congrArg Host.Outcome.next ((clocked_on hc).trans hps), ?_⟩
      rw [staLink_evalParks, staLink_accepted]
    · have hbody : psBodyOk m = true := by simp [psBodyOk, hx, ha0, hlt]
      have hps := (on 3 (by decide) h0).fbPsMsg_member ⟨hn, ha, hb⟩ hbody hz
      rw [hx, psEffect_period_held (by simpa only [fbAccept_sameUnits.getQ_eq] using hq)] at hps
      refine ⟨_, congrArg Host.Outcome.next ((clocked_on hc).trans hps), ?_⟩
      rw [staLink_evalParks, beginPeriod, staLink_accepted]
      exact ⟨rfl, rfl, rfl⟩
  · refine ⟨_, congrArg Host.Outcome.next ((clocked_on hc).trans (rateStales_stale ha hr hs h0 ht)), ?_⟩
    rw [raiseTo_sameUnits.getSta_eq, staLink_setStaLink]
    exact ⟨rfl, rfl⟩
  · refine ⟨fun hs hb => ⟨_, exec_mbDoorbell hs hm, ?_⟩, fun hs hb => ⟨_, exec_mbDoorbell hs hm, ?_⟩,
      fun hs => ⟨_, exec_mbDoneClear hs hm, ?_⟩, fun ht hu hj ha hq hc hp hn => ?_⟩
    · rw [ringDoorbell_free hb, getMb_answer, getMb_lines, getMb_acceptBell, answer_gv, lines_gv]
      exact ⟨rfl, rfl, rfl, rfl, rfl, rfl⟩
    · rw [ringDoorbell_busy hb, getMb_answer, getMb_setMb]
      exact ⟨hb, rfl, rfl, rfl⟩
    · rw [getMb_answer, getMb_lines, getMb_setMb]
      exact ⟨rfl, rfl⟩
    · have hnew := takeRequest_new (s := unqueue m s) (m := m) hc hp hn
      exact ⟨_, congrArg Host.Outcome.next ((requestTake_takes ht hu hj ha hq).trans hnew), rfl, rfl, rfl⟩

end Sys2Proof.Machine

namespace Sys2Proof.Machine

open Sys2Proof

/-! ## The signals of a lane (R128, R129, R137-R142, R155) -/

/-- What a change makes of a lane depends on the lane as it stands. -/
theorem setLane_congr {s : State} {n : Nat} {f g : Lane → Lane} (h : f (getLane s n) = g (getLane s n)) :
    setLane n f s = setLane n g s := by
  simp only [setLane, h]

/-- What a change makes of a port depends on the port as it stands. -/
theorem setPort_congr {s : State} {n : Nat} {f g : Port → Port} (h : f (getPort s n) = g (getPort s n)) :
    setPort n f s = setPort n g s :=
  congrArg (fun p => s.updPorts fun t => t.set n p) h

section LaneSignals

variable {s : State} {n ctle : Nat} {dfe : List Int} (hr : laneRuns s n = true)

include hr

/-! ### Loss of signal and clock recovery -/

theorem losAssert_counted (hl : (getLane s n).los = false) (hp : pinsUsed (getLane s n) = true)
    (hx : (getLane s n).rxLpi ≠ .sleep) : losAssert n s = losCounted n s :=
  (if_neg (by simp [hr, hl, hp])).trans (if_neg hx)

/-- In SLEEP the loss of signal is the partner's QUIET, and is not counted (R139, R144; log 35). -/
theorem losAssert_quiet (hl : (getLane s n).los = false) (hp : pinsUsed (getLane s n) = true)
    (hx : (getLane s n).rxLpi = .sleep) :
    losAssert n s = setLane n (fun l => { l with
      los := true, losCounted := false, rxReady := false, aligned := false, rxLpi := .quiet
      quietLimit := bits l.applied.lpi1 31 16 }) s :=
  (if_neg (by simp [hr, hl, hp])).trans (if_pos hx)

theorem losDeassert_quiet (hl : (getLane s n).los = true) (hp : pinsUsed (getLane s n) = true)
    (hc : (getLane s n).losCounted = false) (hx : (getLane s n).rxLpi = .quiet) :
    losDeassert n s = setLane n (fun l => { l with
      los := false, losCounted := false, rxLpi := .wake, rxReady := l.cdr }) s :=
  (if_neg (by simp [hr, hl, hp])).trans ((if_neg (by simp [hc])).trans (setLane_congr (if_pos hx)))

theorem losDeassert_counted (hl : (getLane s n).los = true) (hp : pinsUsed (getLane s n) = true)
    (hc : (getLane s n).losCounted = true) (hx : (getLane s n).rxLpi ≠ .quiet) :
    losDeassert n s = laneEvent 0x0381 n (toLe 1 0) (laneCount n 0 1 (setLane n (fun l => { l with
      los := false, losCounted := false }) s)) :=
  (if_neg (by simp [hr, hl, hp])).trans ((if_pos hc).trans
    (congrArg (fun t => laneEvent 0x0381 n (toLe 1 0) (laneCount n 0 1 t)) (setLane_congr (if_neg hx))))

theorem cdrLock_gained (hp : (getLane s n).pll = true) (hc : (getLane s n).cdr = false)
    (hb : loopback (getLane s n).applied ≠ 2) :
    cdrLock n s = laneEvent 0x0382 n (toLe 1 1) (setLane n (fun l => { l with cdr := true }) s) :=
  if_pos (by simp [hr, hp, hc, hb])

theorem cdrLockLoss_lost (hc : (getLane s n).cdr = true) (hx : (getLane s n).rxLpi ≠ .quiet) :
    cdrLockLoss n s = checkLink n (laneEvent 0x0382 n (toLe 1 0) (laneCount n 1 1 (setLane n (fun l => { l with
      cdr := false, rxReady := false, aligned := false }) s))) :=
  if_pos (by simp [hr, hc, hx])

/-! ### The PLL -/

theorem pllLock_started (hs : (getLane s n).starting = true) :
    pllLock n s =
      let t := setLane n (fun l => { l with pll := true, starting := false, fails := 0, inSeq := false }) s
      lpiTake n (if (getLane s n).inSeq then laneDone n 0 t else t) :=
  if_pos (by simp [hr, hs])

/-- A third failure in succession retires the lane (R142). -/
theorem pllStartFail_failed (hs : (getLane s n).starting = true) :
    pllStartFail n s =
      let t := setLane n (fun l => { l with starting := false, fails := l.fails + 1, retryWait := decide (l.fails < 2) }) s
      if 2 ≤ (getLane s n).fails then retireLane n 0 t else t :=
  if_pos (by simp [hr, hs])

theorem pllRetry_restarts (hw : (getLane s n).retryWait = true) :
    pllRetry n s = setLane n (fun l => { l with starting := true, retryWait := false }) s :=
  if_pos (by simp [hr, hw])

theorem pllLockLoss_restarts (hp : (getLane s n).pll = true) :
    pllLockLoss n s = laneCount n 2 1 (setLane n (fun l => { l with pll := false, starting := true }) s) :=
  if_pos (by simp [hr, hp])

/-! ### Receiver adaptation and alignment -/

theorem rxReadyRise_converges (h0 : (getLane s n).rxReady = false)
    (h : loopback (getLane s n).applied = 2 ∨
      (getLane s n).cdr = true ∧ ((getLane s n).los = false ∨ pinsUsed (getLane s n) = false)) :
    rxReadyRise n ctle dfe s =
      tryTraining n (setLane n (fun l => { adapted ctle dfe l with rxReady := true, applying := false }) s) :=
  (if_neg (by simp [h0])).trans (if_pos (by simpa [hr] using h))

/-- The adaptation runs on while RX_READY is high (R137). -/
theorem rxReadyRise_runsOn (h1 : (getLane s n).rxReady = true) :
    rxReadyRise n ctle dfe s = setLane n (adapted ctle dfe) s :=
  if_pos (by simp [hr, h1])

theorem alignGain_gained (hx : (getLane s n).rxReady = true) (ha : (getLane s n).aligned = false) :
    alignGain n s = tryTraining n (setLane n (fun l => { l with aligned := true }) s) :=
  if_pos (by simp [hr, hx, ha])

theorem alignLoss_lost (ha : (getLane s n).aligned = true) (hx : (getLane s n).rxLpi ≠ .quiet) :
    alignLoss n s = checkLink n (setLane n (fun l => { l with aligned := false }) s) :=
  if_pos (by simp [hr, ha, hx])

omit hr

/-- At the rates of 66-bit blocks alignment is block lock, and at the lower ones code-group synchronisation (R128, R129). -/
theorem blockLock_high (h : 2 ≤ laneRate (getLane s n)) : blockLock n s = alignGain n s := if_pos h

theorem blockSlip_high (h : 2 ≤ laneRate (getLane s n)) : blockSlip n s = alignLoss n s := if_pos h

theorem codeGroupSync_low {gained : Bool} (h : laneRate (getLane s n) ≤ 1) :
    codeGroupSync n gained s = if gained then alignGain n s else alignLoss n s := if_pos h

end LaneSignals

/-- Settles O44: each row by the law of its event in that case.  An APPLY's sequence ends at RX_READY (log 33), and a
receiver in low power idle loses RX_READY and alignment in QUIET and not its link (log 35). -/
theorem laneSignalRows : Obligations.LaneSignalRows := by
  intro s n ctle dfe hr
  refine ⟨fun hl hp hx => congrArg Host.Outcome.next (losAssert_counted hr hl hp hx),
    fun hl hp hx => congrArg Host.Outcome.next (losAssert_quiet hr hl hp hx),
    fun hl hp hc hx => congrArg Host.Outcome.next (losDeassert_quiet hr hl hp hc hx),
    fun hl hp hc hx => congrArg Host.Outcome.next (losDeassert_counted hr hl hp hc hx),
    fun hp hc hb => congrArg Host.Outcome.next (cdrLock_gained hr hp hc hb),
    fun hc hx => congrArg Host.Outcome.next (cdrLockLoss_lost hr hc hx),
    fun hs => congrArg Host.Outcome.next (pllLock_started hr hs),
    fun hs => congrArg Host.Outcome.next (pllStartFail_failed hr hs),
    fun hw => congrArg Host.Outcome.next (pllRetry_restarts hr hw),
    fun hp => congrArg Host.Outcome.next (pllLockLoss_restarts hr hp),
    fun h0 h => congrArg Host.Outcome.next (rxReadyRise_converges hr h0 h),
    fun h1 => congrArg Host.Outcome.next (rxReadyRise_runsOn hr h1), fun h2 => ⟨fun hx ha => ?_, fun ha hx => ?_⟩,
    fun h1 => ⟨fun hx ha => ?_, fun ha hx => ?_⟩⟩
  · exact congrArg Host.Outcome.next ((blockLock_high h2).trans (alignGain_gained hr hx ha))
  · exact congrArg Host.Outcome.next ((blockSlip_high h2).trans (alignLoss_lost hr ha hx))
  · exact congrArg Host.Outcome.next ((codeGroupSync_low h1).trans (alignGain_gained hr hx ha))
  · exact congrArg Host.Outcome.next ((codeGroupSync_low h1).trans (alignLoss_lost hr ha hx))

end Sys2Proof.Machine

namespace Sys2Proof.Machine

open Sys2Proof

/-! ## What a lane receives and times (R132, R133, R135, R136, R143-R145, R150) -/

section LaneReceiver

variable {s : State} {n a b : Nat} {bs : List Bool} (hr : laneRuns s n = true)

include hr

/-! ### The elastic buffer -/

theorem ctcInsert_inserts (ha : a ≤ 12) :
    ctcInsert n a s = laneCount n 3 1 (setLane n (fun l => { l with fill := a + 1 }) s) :=
  (if_pos ha).trans (if_pos hr)

theorem ctcDelete_deletes (ha : 20 ≤ a) :
    ctcDelete n a s = laneCount n 4 1 (setLane n (fun l => { l with fill := a - 1 }) s) :=
  (if_pos ha).trans (if_pos hr)

theorem ctcInsert_drifts (ha : 12 < a) : ctcInsert n a s = setLane n (fun l => { l with fill := a }) s :=
  (if_neg (Nat.not_le.mpr ha)).trans (if_pos hr)

theorem ctcDelete_drifts (ha : a < 20) : ctcDelete n a s = setLane n (fun l => { l with fill := a }) s :=
  (if_neg (Nat.not_le.mpr ha)).trans (if_pos hr)

theorem ctcSlip_recentres :
    ctcSlip n s = setPort n (fun p => { p with asm := p.asm.map fun a => { a with bad := true } })
      (laneCount n 5 1 (setLane n (fun l => { l with fill := 16 }) s)) :=
  (if_pos hr).trans (congrArg (setPort n _) (if_pos hr))

/-! ### Training -/

theorem trainingRequest_preset (ht : (getLane s n).training = true) :
    trainingRequest n .preset s = setLane n (fun l => { l with pre := 0, main := 63, post := 0, coef := 0x15 }) s :=
  if_pos (by simp [hr, ht])

theorem trainingRequest_initial (ht : (getLane s n).training = true) :
    trainingRequest n .initial s = setLane n (fun l => { l with pre := 4, main := 47, post := 12, coef := 0x15 }) s :=
  if_pos (by simp [hr, ht])

/-- The steps of one request are judged in the order PRE, MAIN, POST (log 79). -/
theorem trainingRequest_step {x y z : Int} (ht : (getLane s n).training = true) :
    trainingRequest n (.step x y z) s =
      setLane n (fun l => coefStep 2 z (coefStep 1 y (coefStep 0 x { l with coef := 0 }))) s :=
  if_pos (by simp [hr, ht])

theorem trained_succeeds (ht : (getLane s n).training = true) (hx : (getLane s n).rxReady = true) :
    trained n s = laneEvent 0x0384 n (toLe 1 0) (setLane n (fun l => { l with training := false, trained := true }) s) :=
  if_pos (by simp [hr, ht, hx])

theorem trainingTimeout_alone (ht : (getLane s n).training = true) (ha : ptAn (getPort s n).applied = 0) :
    trainingTimeout n s = setPort n (fun p => { p with anWait := true, anDone := false })
      (laneEvent 0x0384 n (toLe 1 1) (laneCount n 11 1
        (setLane n (fun l => { l with training := false, pre := 4, main := 47, post := 12 }) s))) :=
  (if_pos (by simp [hr, ht])).trans (if_pos ha)

/-! ### Low-power idle -/

/-- The transmit state that the end of its timer leads to (R143); SLEEP without a time does not end. -/
def txLpiNext (l : Lane) : TxLpi :=
  match l.txLpi with
  | .active => .active
  | .sleep => if bits l.applied.lpi0 29 16 = 0 then .sleep else .quiet
  | .quiet => .refresh
  | .refresh => .quiet
  | .wake => .active

theorem txLpiTimer_next {x : TxLpi} (h : txLpiNext (getLane s n) = x) :
    txLpiTimer n s = setLane n (fun l => { l with txLpi := x }) s := by
  subst h
  refine (if_pos hr).trans (setLane_congr ?_)
  generalize getLane s n = l
  have stays {y : TxLpi} (hy : l.txLpi = y) : l = { l with txLpi := y } := congrArg (fun y => { l with txLpi := y }) hy
  cases hx : l.txLpi with
  | active => simpa only [txLpiNext, hx] using stays hx
  | sleep =>
    by_cases hz : bits l.applied.lpi0 29 16 = 0
    · simpa only [txLpiNext, hx, if_pos hz] using stays hx
    · simp only [txLpiNext, hx, if_neg hz]
  | quiet | refresh | wake => simp only [txLpiNext, hx]

section Heard

variable (he : (getLane s n).applied.lpi0.testBit 1 = true) (hn : noLpi (getLane s n).applied = false)
  (h2 : 2 ≤ laneRate (getLane s n)) (hl : (getLane s n).los = false)

include he hn h2 hl

theorem rxLpiBlocks_active (hx : (getLane s n).rxLpi = .active) (hy : (getLane s n).rxReady = true)
    (ha : (getLane s n).aligned = true) : rxLpiBlocks n true s = rxSleep n s := by
  simp [rxLpiBlocks, hr, he, hn, Nat.not_lt.mpr h2, hl, hx, hy, ha]

theorem rxLpiBlocks_sleep (hx : (getLane s n).rxLpi = .sleep) :
    rxLpiBlocks n false s = checkLink n (setLane n (fun l => { l with rxLpi := .active }) s) := by
  simp [rxLpiBlocks, hr, he, hn, Nat.not_lt.mpr h2, hl, hx]

/-- In WAKE a receiver that is ready is aligned again by the blocks that come: LPI ones bring it back to SLEEP, others to ACTIVE
(R144). -/
theorem rxLpiBlocks_wake {lpi : Bool} (hx : (getLane s n).rxLpi = .wake) (hy : (getLane s n).rxReady = true) :
    rxLpiBlocks n lpi s = if lpi then rxSleep n s
      else checkLink n (setLane n (fun l => { l with rxLpi := .active, aligned := true }) s) := by
  simp [rxLpiBlocks, hr, he, hn, Nat.not_lt.mpr h2, hl, hx, hy]

end Heard

/-- QUIET has outlasted its limit: the loss of signal is now a fault of the lane (R145). -/
theorem rxLpiFault_quiet (hx : (getLane s n).rxLpi = .quiet) (hq : (getLane s n).quietLimit ≠ 0)
    (hl : (getLane s n).los = true) (hc : (getLane s n).losCounted = false) :
    rxLpiFault n 0 s = losCounted n (laneEvent 0x0386 n (toLe 1 0) (laneCount n 10 1
      (setLane n (fun l => { l with rxLpi := .active }) s))) :=
  (if_pos (by simp [hr, hx, hq])).trans (if_pos (by simp [hl, hc]))

theorem rxLpiFault_wake (hx : (getLane s n).rxLpi = .wake) (ha : (getLane s n).aligned = false)
    (hl : (getLane s n).los = false) :
    rxLpiFault n 1 s = checkLink n (laneEvent 0x0386 n (toLe 1 1) (laneCount n 10 1
      (setLane n (fun l => { l with rxLpi := .active }) s))) :=
  (if_pos (by simp [hr, hx, ha])).trans (if_neg (by simp [hl]))

/-! ### The pattern checker -/

section Checking

variable (hk : checking (getLane s n) = true)

include hk

theorem prbsLock_locks (h0 : (getLane s n).prbsLock = false) (hb : prbsClean (getLane s n) bs = true) :
    prbsLock n bs a b s = setLane n (fun l => { l with prbsLock := true }) s :=
  (if_neg (by simp [hr, hk])).trans ((if_pos (by simp [h0])).trans (if_pos hb))

theorem prbsLock_unclean (h0 : (getLane s n).prbsLock = false) (hb : prbsClean (getLane s n) bs = false) :
    prbsLock n bs a b s = s :=
  (if_neg (by simp [hr, hk])).trans ((if_pos (by simp [h0])).trans (if_neg (by simp [hb])))

theorem prbsLock_counts (h1 : (getLane s n).prbsLock = true)
    (h : bits (getLane s n).applied.prbs 31 16 = 0 ∨
      (getLane s n).runMbits + b < bits (getLane s n).applied.prbs 31 16) :
    prbsLock n bs a b s = prbsCount n a b s :=
  (if_neg (by simp [hr, hk])).trans ((if_neg (by simp [h1])).trans (if_pos (by simpa using h)))

/-- The run ends at RUN units, whatever more were received (R150). -/
theorem prbsLock_ends (h1 : (getLane s n).prbsLock = true) (h0 : bits (getLane s n).applied.prbs 31 16 ≠ 0)
    (h : bits (getLane s n).applied.prbs 31 16 ≤ (getLane s n).runMbits + b) :
    prbsLock n bs a b s = setLane n (fun l => { l with prbsDone := true })
      (prbsCount n a (bits (getLane s n).applied.prbs 31 16 - (getLane s n).runMbits) s) :=
  (if_neg (by simp [hr, hk])).trans ((if_neg (by simp [h1])).trans (if_neg (by simp [h0, h])))

theorem prbsLockLoss_lost (h1 : (getLane s n).prbsLock = true) :
    prbsLockLoss n a b s = laneCount n 14 1 (setLane n (fun l => { l with prbsLock := false }) (prbsCount n a b s)) :=
  if_pos (by simp [hr, hk, h1])

theorem prbsDone_ends (h1 : (getLane s n).prbsLock = true) (h0 : bits (getLane s n).applied.prbs 31 16 ≠ 0) :
    prbsDone n a s = setLane n (fun l => { l with prbsDone := true })
      (prbsCount n a (bits (getLane s n).applied.prbs 31 16 - (getLane s n).runMbits) s) :=
  if_pos (by simp [hr, hk, h1, h0])

end Checking

end LaneReceiver

/-! ## The descrambler recovers what was scrambled (R130) -/

section Scrambler

variable {x y k m : Nat}

theorem scramble_cons {st : Nat} {b : Bool} {l : List Bool} :
    scramble st (b :: l) = ((scrambleBit st b).1 :: (scramble (scrambleBit st b).2 l).1,
      (scramble (scrambleBit st b).2 l).2) := rfl

theorem descramble_cons {st : Nat} {b : Bool} {l : List Bool} :
    descramble st (b :: l) = ((descrambleBit st b).1 :: (descramble (descrambleBit st b).2 l).1,
      (descramble (descrambleBit st b).2 l).2) := rfl

/-- Both registers shift in the bit on the line, and so agree on one bit more than before. -/
theorem line_modEq {b : Bool} (h : x ≡ y [MOD 2 ^ k]) (hk : m ≤ k + 1) (hm : m ≤ 58) :
    (scrambleBit x b).2 ≡ (descrambleBit y (scrambleBit x b).1).2 [MOD 2 ^ m] := by
  have shifted (c : Nat) : 2 * x + c ≡ 2 * y + c [MOD 2 ^ m] := by
    have hd : 2 ^ m ∣ 2 * 2 ^ k := by simpa [Nat.pow_succ, Nat.mul_comm] using Nat.pow_dvd_pow 2 hk
    exact ((h.mul_left' 2).of_dvd hd).add_right c
  have kept (z : Nat) : z % 2 ^ 58 ≡ z [MOD 2 ^ m] := Nat.mod_mod_of_dvd z (Nat.pow_dvd_pow 2 hm)
  exact (kept _).trans ((shifted _).trans (kept _).symm)

theorem testBit_eq_of_modEq {i : Nat} (h : x ≡ y [MOD 2 ^ k]) (hi : i < k) : x.testBit i = y.testBit i := by
  have hb := congrArg (Nat.testBit · i) h
  simpa [Nat.testBit_mod_two_pow, hi] using hb

/-- Registers that agree on their 58 bits give the bit back. -/
theorem descrambleBit_scrambleBit {b : Bool} (h : x ≡ y [MOD 2 ^ 58]) :
    (descrambleBit y (scrambleBit x b).1).1 = b := by
  have undone : ∀ b c d : Bool, ((((b != c) != d) != c) != d) = b := by decide
  have hlo : x.testBit 38 = y.testBit 38 := testBit_eq_of_modEq h (by decide)
  have hhi : x.testBit 57 = y.testBit 57 := testBit_eq_of_modEq h (by decide)
  simp only [descrambleBit, scrambleBit, hlo, hhi, undone]

theorem descramble_scramble {l : List Bool} (h : x ≡ y [MOD 2 ^ 58]) : (descramble y (scramble x l).1).1 = l := by
  induction l generalizing x y with
  | nil => rfl
  | cons b l ih =>
    simp only [scramble_cons, descramble_cons, descrambleBit_scrambleBit h]
    rw [ih (line_modEq h (by decide) (Nat.le_refl 58))]

/-- Registers that agree on `k` bits agree on all 58 after `58 - k` bits of the line. -/
theorem drop_descramble_scramble {j : Nat} {l : List Bool} (hj : j + k = 58) (h : x ≡ y [MOD 2 ^ k]) :
    (descramble y (scramble x l).1).1.drop j = l.drop j := by
  induction j generalizing k x y l with
  | zero =>
    obtain rfl : k = 58 := by omega
    rw [descramble_scramble h]
  | succ j ih =>
    cases l with
    | nil => rfl
    | cons b l =>
      simp only [scramble_cons, descramble_cons, List.drop_succ_cons]
      exact ih (by omega) (line_modEq h (Nat.le_refl _) (by omega))

end Scrambler

/-! ## What a lane sends (R130, R131, R143, R148, R167; log 80) -/

section LaneSender

variable {s : State} {n : Nat} {o : LineOut} {d : Bool} {p : List Bool} {t : TxFrame}

/-- A block is sent with its header and its scrambled payload (R130). -/
theorem sendWord_block (hp : lineOut s n ≠ .pattern) (h2 : 2 ≤ laneRate (getLane s n))
    (hb : nextBlock s n (lineOut s n) = some (d, p)) : sendWord n s = countWord n (lineOut s n) (sendBlock n d p s) := by
  simp only [sendWord, if_neg hp, if_neg (Nat.not_lt.mpr h2), hb]

/-- Three activities of the line are control blocks alone. -/
theorem controlPayload_some (h : controlPayload o = some p) : o = .idle ∨ o = .lpi ∨ o = .remoteFault := by
  cases o with
  | idle => exact .inl rfl
  | lpi => exact .inr (.inl rfl)
  | remoteFault => exact .inr (.inr rfl)
  | off | pattern | retimed | training | negotiation | frame => cases h

theorem sendWord_control (h : controlPayload (lineOut s n) = some p) (h2 : 2 ≤ laneRate (getLane s n)) :
    sendWord n s = sendBlock n false p s := by
  have hc := controlPayload_some h
  have hb : nextBlock s n (lineOut s n) = some (false, p) := by
    rcases hc with ho | ho | ho <;> rw [ho] at h ⊢ <;> simp only [nextBlock, h, Option.map_some]
  rw [sendWord_block (by rcases hc with ho | ho | ho <;> simp [ho]) h2 hb]
  rcases hc with ho | ho | ho <;> rw [ho] <;> rfl

theorem sendWord_frame (ho : lineOut s n = .frame) (h2 : 2 ≤ laneRate (getLane s n)) (ht : (getPort s n).tx = some t)
    (he : t.express = true) (hf : frameBlock (withFcs t.bytes) t.words = some (d, p)) :
    sendWord n s = setPort n (fun x => { x with tx := x.tx.map fun t => { t with words := t.words + 1 } })
      (sendBlock n d p s) := by
  have hb : nextBlock s n (lineOut s n) = some (d, p) := by simp [nextBlock, ho, ht, he, hf]
  rw [sendWord_block (by simp [ho]) h2 hb, ho]
  rfl

/-- The next bits of the lane's pattern, and its generator after them (R149). -/
def patternBits (l : Lane) : List Bool × Nat := prbsBits (bits l.applied.prbs 3 1) l.gen (wordLen l)

/-- The word of the pattern on the pins: INVERT, the injected error in its first bit, TX_POL (R131, R151). -/
def patternWord (l : Lane) : List Bool :=
  (match (patternBits l).1.map (· != prbsInvert l) with
    | b :: t => (b != l.errInject) :: t
    | [] => []).map (· != txPol l)

theorem sendWord_pattern (h : lineOut s n = .pattern) :
    sendWord n s = setLane n (fun l => { l with
      gen := (patternBits (getLane s n)).2
      word := if pinOut s n = .off then [] else patternWord (getLane s n), errInject := false }) s :=
  (if_pos h).trans (setLane_congr rfl)

theorem sendWord_off (h : lineOut s n = .off) : sendWord n s = setLane n (fun l => { l with word := [] }) s := by
  simp [sendWord, h, nextBlock, controlPayload]

/-- With no pattern, loopback, low-power idle, training or negotiation on it, the line carries faults, idle and frames (R167). -/
theorem lineOut_data (hon : laneOn s n = true) (hp : (getLane s n).pll = true)
    (hg : (getLane s n).applied.prbs.testBit 0 = false) (hb : loopback (getLane s n).applied ≠ 3)
    (hx : (getLane s n).txLpi = .active) (ht : (getLane s n).training = false)
    (ha : ptAn (getPort s n).applied = 0 ∨ (getPort s n).anDone = true) :
    lineOut s n = if (getPort s n).localF then .remoteFault
      else if (getPort s n).remoteF || (getPort s n).tx.all (·.reading) then .idle else .frame := by
  have hn : (ptAn (getPort s n).applied != 0 && !(getPort s n).anDone) = false := by rcases ha with ha | ha <;> simp [ha]
  simp [lineOut, hon, hp, hg, hb, hx, ht, hn]

end LaneSender

/-- Settles O45: each row by the law of its event in that case, the descrambler by `drop_descramble_scramble` and the words by
the laws of `sendWord`.  What is received in low power idle is log 35's, the order of coefficient steps log 79's, one word a
cycle log 80's, and that unclean bits before lock change nothing log 4's. -/
theorem laneReceiverRows : Obligations.LaneReceiverRows := by
  refine ⟨fun s n a b bs hr => ?_, fun st seen l => drop_descramble_scramble (k := 0) rfl Nat.modEq_one,
    fun s n o p ho hp h2 => ?_, fun s n d p t ho h2 ht he hf => sendWord_frame ho h2 ht he hf,
    fun s n h => ⟨_, _, sendWord_pattern h⟩, fun s n h => sendWord_off h, fun s n hon hp hg hb hx ht ha => ?_⟩
  · refine ⟨fun ha => congrArg Host.Outcome.next (ctcInsert_inserts hr ha),
      fun ha => congrArg Host.Outcome.next (ctcDelete_deletes hr ha),
      fun ha => congrArg Host.Outcome.next (ctcInsert_drifts hr ha),
      fun ha => congrArg Host.Outcome.next (ctcDelete_drifts hr ha),
      congrArg Host.Outcome.next (ctcSlip_recentres hr),
      fun ht => ⟨congrArg Host.Outcome.next (trainingRequest_preset hr ht),
        congrArg Host.Outcome.next (trainingRequest_initial hr ht),
        fun x y z => congrArg Host.Outcome.next (trainingRequest_step hr ht)⟩,
      fun ht hx => congrArg Host.Outcome.next (trained_succeeds hr ht hx),
      fun ht ha => congrArg Host.Outcome.next (trainingTimeout_alone hr ht ha),
      fun hx h0 => congrArg Host.Outcome.next (txLpiTimer_next hr (by simp only [txLpiNext, hx, if_neg h0])),
      fun hx => congrArg Host.Outcome.next (txLpiTimer_next hr (by simp only [txLpiNext, hx])),
      fun hx => congrArg Host.Outcome.next (txLpiTimer_next hr (by simp only [txLpiNext, hx])),
      fun hx => congrArg Host.Outcome.next (txLpiTimer_next hr (by simp only [txLpiNext, hx])),
      fun he hn h2 hl => ⟨fun hx hy ha => congrArg Host.Outcome.next (rxLpiBlocks_active hr he hn h2 hl hx hy ha),
        fun hx hy => congrArg Host.Outcome.next (rxLpiBlocks_wake hr he hn h2 hl hx hy),
        fun hx => congrArg Host.Outcome.next (rxLpiBlocks_sleep hr he hn h2 hl hx),
        fun hx hy => congrArg Host.Outcome.next (rxLpiBlocks_wake hr he hn h2 hl hx hy)⟩,
      fun hx hq hl hc => congrArg Host.Outcome.next (rxLpiFault_quiet hr hx hq hl hc),
      fun hx ha hl => congrArg Host.Outcome.next (rxLpiFault_wake hr hx ha hl), fun h4 hd => ?_⟩
    have hk : checking (getLane s n) = true := by simp only [checking, h4, hd, Bool.not_false, Bool.and_self]
    exact ⟨fun h0 hb => congrArg Host.Outcome.next (prbsLock_locks hr hk h0 hb),
      fun h0 hb => congrArg Host.Outcome.next (prbsLock_unclean hr hk h0 hb),
      fun h1 h => congrArg Host.Outcome.next (prbsLock_counts hr hk h1 h),
      fun h1 h0 h => congrArg Host.Outcome.next (prbsLock_ends hr hk h1 h0 h),
      fun h1 => congrArg Host.Outcome.next (prbsLockLoss_lost hr hk h1),
      fun h1 h0 => congrArg Host.Outcome.next (prbsDone_ends hr hk h1 h0)⟩
  · subst ho
    exact sendWord_control hp h2
  · have hline := lineOut_data hon hp hg hb hx ht ha
    exact ⟨fun hl => hline.trans (if_pos hl),
      fun hl hf => hline.trans ((if_neg (by simp [hl])).trans (if_pos (by simp [hf])))⟩

end Sys2Proof.Machine

namespace Sys2Proof.Machine

open Sys2Proof

/-! ## The commands of lanes and ports, APPLY and error injection (R151, R153, R154, R156, R158-R160, R189, R192) -/

section LaneCommands

variable {s : State} {q : Req} {n v : Nat}

theorem lnStatusCmd_reads (hn : u8 q.payload 0 < nPorts s) :
    lnStatusCmd q s = (s, okD (lnStatusBytes (getLane s (u8 q.payload 0)))) :=
  if_neg (Nat.not_le.mpr hn)

theorem portStatusCmd_reads (hn : u8 q.payload 0 < nPorts s) :
    portStatusCmd q s = (s, okD (portStatusBytes (getPort s (u8 q.payload 0)))) :=
  if_neg (Nat.not_le.mpr hn)

theorem lnRetireCmd_retires (hn : u8 q.payload 0 < nPorts s) (h0 : u8 q.payload 1 = 0)
    (hx : (getLane s (u8 q.payload 0)).retired = false) :
    lnRetireCmd q s = (retireLane (u8 q.payload 0) 1 s, okR) := by
  simp only [lnRetireCmd]
  rw [firstErr_none (by simp [hn, h0, hx])]
  simp only [h0, if_true]

theorem lnRetireCmd_returns (hn : u8 q.payload 0 < nPorts s) (h1 : u8 q.payload 1 = 1)
    (hx : (getLane s (u8 q.payload 0)).retired = true) :
    lnRetireCmd q s = (returnLane (u8 q.payload 0) s, okR) := by
  simp only [lnRetireCmd]
  rw [firstErr_none (by simp [hn, h1, hx])]
  simp only [h1, Nat.one_ne_zero, if_false]

/-- The records that are read leave the FIFO (R189). -/
theorem portTsCmd_takes (hn : u8 q.payload 0 < nPorts s) (hlo : 1 ≤ u8 q.payload 1) (hhi : u8 q.payload 1 ≤ 8) :
    portTsCmd q s =
      let t := (getPort s (u8 q.payload 0)).ts.take (u8 q.payload 1)
      (setPort (u8 q.payload 0) (fun x => { x with ts := x.ts.drop (u8 q.payload 1) }) s,
        okD (toLe 1 t.length ++ zeros 7 ++ t.flatMap tsBytes)) := by
  simp only [portTsCmd]
  rw [firstErr_none (by simp [hn, hhi, Nat.ne_of_gt hlo])]

/-! ### APPLY -/

theorem lnApply_noLane (h : Serving s) (hv : v % 2 ^ nPorts s = 0) : lnApply v s = answer 0 s :=
  (regWrite_served h rfl).trans (congrArg (answer 0) (if_pos hv))

theorem lnApply_lanes (h : Serving s) (hv : v % 2 ^ nPorts s ≠ 0) : lnApply v s = answer 0 (applyLanes v s) :=
  (regWrite_served h rfl).trans (congrArg (answer 0) (if_neg hv))

/-- The verdict of an APPLY: each named lane's reason, whether any failed, and the lanes named (R153, R156). -/
def applyVerdict (v : Nat) (s : State) : State :=
  (recordApply v s).updLanes fun x => { x with applyErr := applyFails s v, applyMask := v % 2 ^ nPorts s }

/-- An APPLY that fails for one lane changes none of the settings in use, and tells each named lane's reason (R153, R160). -/
theorem applyLanes_fails (hf : applyFails s v = true) :
    applyLanes v s = (namedLanes s v).foldl (fun t i => laneDone i (applyReason s v i) t) (applyVerdict v s) :=
  if_pos hf

theorem applyLanes_succeeds (hf : applyFails s v = false) :
    applyLanes v s = driveReqs (((namedLanes s v).foldl (fun t i => applyOne i t) (applyVerdict v s)).updLanes fun x =>
      { x with quadApplied := x.quadStaged }) :=
  if_neg (by simp [hf])

/-! ### Error injection -/

theorem errInject_generating (h : Serving s) (hn : n < nPorts s) (hg : (getLane s n).applied.prbs.testBit 0 = true) :
    errInject n s = answer 0 (setLane n (fun l => { l with errInject := true }) s) :=
  (regWrite_served h (decide_eq_true hn)).trans (congrArg (answer 0) (if_pos hg))

/-- Without the generator there is no bit to spoil (R151). -/
theorem errInject_idle (h : Serving s) (hn : n < nPorts s) (hg : (getLane s n).applied.prbs.testBit 0 = false) :
    errInject n s = answer 0 s :=
  (regWrite_served h (decide_eq_true hn)).trans (congrArg (answer 0) (if_neg (by simp [hg])))

end LaneCommands

/-- Settles O46: each command in hand finishes with what its own function answers, and the two register writes are answered
with their effect. -/
theorem laneAndPortCommandRows : Obligations.LaneAndPortCommandRows := by
  intro s q n v
  refine ⟨fun h hn => congrArg Host.Outcome.next (immediate_inHand h (lnStatusCmd_reads hn)),
    fun h hn h0 hx => congrArg Host.Outcome.next (immediate_inHand h (lnRetireCmd_retires hn h0 hx)),
    fun h hn h1 hx => congrArg Host.Outcome.next (immediate_inHand h (lnRetireCmd_returns hn h1 hx)),
    fun h hn => congrArg Host.Outcome.next (immediate_inHand h (portStatusCmd_reads hn)),
    fun h hn hlo hhi => congrArg Host.Outcome.next (immediate_inHand h (portTsCmd_takes hn hlo hhi)),
    fun h => ⟨fun hv => congrArg Host.Outcome.next (lnApply_noLane h hv), fun hv => ?_,
      fun hn hg => congrArg Host.Outcome.next (errInject_generating h hn hg),
      fun hn hg => congrArg Host.Outcome.next (errInject_idle h hn hg)⟩⟩
  have hrun := lnApply_lanes h hv
  exact ⟨fun hf => congrArg Host.Outcome.next (hrun.trans (congrArg (answer 0) (applyLanes_fails hf))),
    fun hf => congrArg Host.Outcome.next (hrun.trans (congrArg (answer 0) (applyLanes_succeeds hf)))⟩

end Sys2Proof.Machine

namespace Sys2Proof.Machine

open Sys2Proof

/-! ## The link of a wire port (R136, R165-R171, R179) -/

section Links

variable {s : State} {n : Nat} {b c : Bool} {a : AnPartner}

/-! ### Link up, the hold time and the conditions of the link -/

theorem linkUp_rises (hr : laneRuns s n = true) (hl : (getPort s n).link = false) (hf : linkFault false s n = none) :
    linkUp n s = linkWake n (linkEvent n 1 0 (setPort n (fun x => { x with
      link := true, verify := if bits (getPort s n).applied.preempt 1 0 = 3 then 1 else 0, verifyN := 1 }) s)) :=
  if_neg (by simp [hr, hl, hf])

theorem linkUp_stays (h : (getPort s n).link = true ∨ linkFault false s n ≠ none) : linkUp n s = s :=
  if_pos (by rcases h with h | h <;> simp [h, Option.isSome_iff_ne_none])

theorem linkHoldExpire_drops (hn : n < nPorts s) (hl : (getPort s n).link = false)
    (hh : (getPort s n).holdOver = false) (hp : lowPower s = false) :
    linkHoldExpire n s = dropWireQueues n (setPort n (fun x => { x with holdOver := true }) s) :=
  if_pos (by simp [hn, hl, hh, hp])

/-- A change of the high error rate is judged, and its rise counted (R165, R166). -/
theorem hiBer_changes (hr : laneRuns s n = true) (hb : (getPort s n).hiBer ≠ b) :
    hiBer n b s =
      let t := setPort n (fun x => { x with hiBer := b }) s
      checkLink n (if b then bump cWire n 35 t else t) :=
  if_neg (by simp [hr, hb])

theorem fecLock_changes (hr : laneRuns s n = true) :
    fecLock n b s = checkLink n (setPort n (fun x => { x with fecLock := b }) s) :=
  if_pos hr

theorem rxFault_changes (hr : laneRuns s n = true) :
    rxFault n b c s = checkLink n (setPort n (fun x => { x with localF := b, remoteF := c }) s) :=
  if_pos hr

/-! ### Auto-negotiation -/

/-- A negotiation ends GOOD once its training, where enabled, has succeeded (R169, R170). -/
theorem anComplete_good (h : anRuns s n = true) (ht : ptTrain (getPort s n).applied = false ∨ (getLane s n).trained = true) :
    anComplete n 0 a s = anEnd n 0 (setPort n (fun x => { x with
      anDone := true, page := a.page, resFec := resolveFec (advertOf (laneRate (getLane s n)) x.applied) a
      pauseOk := (advertOf (laneRate (getLane s n)) x.applied).pause && a.symPause }) s) :=
  (if_neg (by simp [h])).trans ((if_neg (by rcases ht with ht | ht <;> simp [ht])).trans
    (congrArg (anEnd n 0) (setPort_congr rfl)))

theorem anComplete_noCommon (h : anRuns s n = true) :
    anComplete n 1 a s = anEnd n 1 (setPort n (fun x => { x with anWait := true, page := a.page }) s) :=
  if_neg (by simp [h])

theorem anComplete_trainFailed (h : anRuns s n = true) :
    anComplete n 2 a s = anEnd n 2 (setPort n (fun x => { x with anWait := true }) s) :=
  if_neg (by simp [h])

theorem anRestartTimer_waits (hr : laneRuns s n = true) (hw : (getPort s n).anWait = true) :
    anRestartTimer n s = if ptAn (getPort s n).applied = 0
      then tryTraining n (setPort n (fun x => { x with anWait := false }) s) else anRestart n s :=
  if_pos (by simp [hr, hw])

theorem anLinkFail_restarts (hr : laneRuns s n = true) (ha : ptAn (getPort s n).applied ≠ 0)
    (hd : (getPort s n).anDone = true) (hl : (getPort s n).link = false) :
    anLinkFail n s = anRestart n (anEnd n 3 s) :=
  if_pos (by simp [hr, ha, hd, hl])

/-! ### Low-power idle -/

/-- A port asks for low-power idle when it has nothing to send, and a watched one whatever it has queued (R179, R457). -/
theorem eeeIdle_asks (hr : laneRuns s n = true) (he : ptEee (getPort s n).applied = true)
    (hq : ptQbv (getPort s n).applied = false) (hl : (getPort s n).lpiReq = false)
    (hi : watching s = true ∨ (coreOff s = false ∧ (getPort s n).tx = none ∧ (getPort s n).rem = none ∧
      (getPort s n).owed = [] ∧ wireOwners s n = [] ∧ (getGc s n).gen = false)) :
    eeeIdle n s = txLpiEnter n (setPort n (fun x => { x with lpiReq := true }) s) := by
  refine if_pos ?_
  rcases hi with hw | ⟨hc, ht, hm, ho, hk, hg⟩
  · simp [hr, he, hq, hl, hw]
  · simp [hr, he, hq, hl, hc, ht, hm, ho, hk, hg]

end Links

/-- Settles O47: each row by the law of its event in that case.  A LINK_UP of a link that is up already, or whose conditions do
not hold, changes nothing (log 4). -/
theorem linkRows : Obligations.LinkRows := by
  intro s n b c a hr
  refine ⟨fun hl hf => congrArg Host.Outcome.next (linkUp_rises hr hl hf), fun h => congrArg Host.Outcome.next (linkUp_stays h),
    fun hn hl hh hp => congrArg Host.Outcome.next (linkHoldExpire_drops hn hl hh hp),
    fun hb => congrArg Host.Outcome.next (hiBer_changes hr hb), congrArg Host.Outcome.next (fecLock_changes hr),
    congrArg Host.Outcome.next (rxFault_changes hr), fun h => ?_, fun hw ha => ?_, fun hw ha => ?_,
    fun ha hd hl => congrArg Host.Outcome.next (anLinkFail_restarts hr ha hd hl),
    fun he hq hl hi => congrArg Host.Outcome.next (eeeIdle_asks hr he hq hl hi)⟩
  · exact ⟨fun ht => congrArg Host.Outcome.next (anComplete_good h ht), congrArg Host.Outcome.next (anComplete_noCommon h),
      congrArg Host.Outcome.next (anComplete_trainFailed h)⟩
  · exact congrArg Host.Outcome.next ((anRestartTimer_waits hr hw).trans (if_pos ha))
  · exact congrArg Host.Outcome.next ((anRestartTimer_waits hr hw).trans (if_neg ha))

end Sys2Proof.Machine

namespace Sys2Proof.Machine

open Sys2Proof

/-! ## The events of the time unit (R183, R415-R428) -/

section TimeEvents

variable {s : State} {c l n d : Nat} {m : Bytes}

theorem clkAck_of_core_on (hc : coreOff s = false) : s.pwr.clkAck = true := by
  simp only [coreOff, Bool.or_eq_false_iff, Bool.not_eq_false'] at hc
  exact hc.1.1.1.1

/-! ### Capture edges (R417-R419) -/

theorem capEdge_pin (h : Serving s) (hc : c < 16) (he : (getCap s c).enable = true) (h0 : (getCap s c).source = 0) :
    capEdge c s = capAccept c 0 s :=
  if_pos (by simp [h.1, h.2, hc, he, h0])

/-- An edge less than MIN_INTERVAL ns of TB7 after the channel's last is counted, and no more (R417; log 42). -/
theorem capAccept_ignored (hm : (getCap s c).minInt ≠ 0) (hl : (getCap s c).lastEdge = some n)
    (ht : nowNs s + d < n + (getCap s c).minInt) : capAccept c d s = bump cCap c 2 s :=
  if_pos (by simp [hm, hl, recently, ht])

/-- The channel accepts an edge of this cycle. -/
def noteEdge (c : Nat) (s : State) : State :=
  setCap c (fun y => { y with lastEdge := some (nowNs s), stuck := false }) s

/-- The record of an edge of this cycle on a channel (R417). -/
def edgeRecord (s : State) (x : CapCh) : CapRec :=
  { time := wrapTime (getTb s x.base).v, base := x.base, stepped := steppedSince s x x.base }

/-- What an edge of this cycle that the channel takes comes to: its record, or an overflow of the FIFO (R418). -/
theorem capAccept_now (hm : (getCap s c).minInt = 0) (hs : (getCap s c).stuck = false) :
    capAccept c 0 s =
      if 16 ≤ (getCap s c).fifo.length then bump cCap c 1 (setCap c (fun y => { y with overflow := true }) (noteEdge c s))
      else raiseTime1 c (bump cCap c 0 (setCap c (fun y => { y with
        fifo := y.fifo ++ [edgeRecord s (getCap s c)], had := true, stepped := 0 }) (noteEdge c s))) := by
  simp [capAccept, hm, hs, noteEdge, edgeRecord]

theorem captureStuck_sets (h : Serving s) (hc : c < 16) (he : (getCap s c).enable = true) (hx : (getCap s c).expect ≠ 0)
    (hs : (getCap s c).stuck = false) :
    captureStuck c s =
      raise0 0x0B83 c (toLe 1 1) (raiseTime1 27 (bump cCap c 3 (setCap c (fun x => { x with stuck := true }) s))) :=
  if_pos (by simp [h.2, hc, he, hx, hs])

/-! ### Triggers (R424-R429) -/

/-- The 40-bit difference of a trigger's time and its base's, from which R426 judges whether it is due. -/
def trgDist (s : State) (x : TrgSet) : Nat :=
  (linOf x.time + 2 ^ 41 - (if x.target = 1 then 2 else 0) - linOf (getTb s x.base).v) % 2 ^ 40

theorem trgDue_iff {x : TrgSet} : trgDue s x = true ↔ trgDist s x = 0 ∨ 2 ^ 39 ≤ trgDist s x := by
  simp [trgDue, trgDist]

theorem trgDue_eq_false {x : TrgSet} (h0 : trgDist s x ≠ 0) (h : trgDist s x < 2 ^ 39) : trgDue s x = false :=
  Bool.eq_false_iff.mpr (mt trgDue_iff.mp (by omega))

theorem triggerFire_idle (hm : (getTrg s c).mode = .idle) : triggerFire c s = s := by
  simp only [triggerFire, hm, ite_self]

/-- An event that comes before the time falls due fires nothing (R426; log 13). -/
theorem triggerFire_notDue (hm : (getTrg s c).mode = .armed) (hd : trgDue s (getTrg s c).set = false) :
    triggerFire c s = s := by
  simp [triggerFire, hm, hd]

section Firing

variable (h : Serving s) (ht : c < 32)

include h ht

theorem triggerFire_onTime (hm : (getTrg s c).mode = .armed) (hd : trgDue s (getTrg s c).set = true)
    (hp : (getTrg s c).set.period = 0 ∨
      (getTb s (getTrg s c).set.base).v ≤ (getTrg s c).set.time + (getTrg s c).set.period * nsUnit) :
    triggerFire c s = trgAdvance c 1 (trgFire c 0 false (getTrg s c).set s) := by
  have hin : ¬ ((getTrg s c).set.period ≠ 0 ∧
      (getTrg s c).set.time + (getTrg s c).set.period * nsUnit < (getTb s (getTrg s c).set.base).v) := by omega
  simp [triggerFire, ht, h.1, clkAck_of_core_on h.2, hm, hd, hin]

/-- A trigger whose time has passed by more than a period is caught up (R427). -/
theorem triggerFire_passed (hm : (getTrg s c).mode = .armed) (hd : trgDue s (getTrg s c).set = true)
    (hp : (getTrg s c).set.period ≠ 0)
    (hl : (getTrg s c).set.time + (getTrg s c).set.period * nsUnit < (getTb s (getTrg s c).set.base).v) :
    triggerFire c s = trgCatchUp c s := by
  simp [triggerFire, ht, h.1, clkAck_of_core_on h.2, hm, hd, hp, hl]

/-- The trigger of a port's gate list starts a cycle of the list (R183, R429; log 38). -/
theorem triggerFire_owned (hm : (getTrg s c).mode = .owned) (hd : trgDue s (getTrg s c).set = true) :
    triggerFire c s = if (getPort s (c - 28)).gcl.isNone then gclStart (c - 28) s else gateCycle (c - 28) s := by
  simp [triggerFire, ht, h.1, clkAck_of_core_on h.2, hm, hd]

end Firing

theorem trigPulseEnd_falls (ht : c < 16) (hp : (getTrg s c).pulse = true) :
    trigPulseEnd c s = setTrg c (fun y => { y with out := false, pulse := false }) s :=
  if_pos (by simp [ht, hp])

theorem tsfStale_raised (h : Serving s) (hlo : 4 ≤ c) (hhi : c < 7) (ht : (getTb s c).track = true)
    (h0 : (getTb s c).tsfTimeout ≠ 0) (hs : (getTb s c).stale = false) :
    tsfStale c s = baseEvent c 3 (setTb c (fun b => { b with stale := true }) s) :=
  if_pos (by simp [h.2, hlo, hhi, ht, h0, hs])

/-! ### The strobes of the radio (R420, R421) -/

section Strobes

variable (h : Serving s) (hl : l < 3)

include h hl

theorem strobe_pd : strobe l 0 s = openRec l 1 false (closeRec l 1 (bump cLink l 0 s)) :=
  if_neg (by simp [h.1, h.2, hl])

theorem strobe_restart_open (ho : hasOpen s l = true) :
    strobe l 1 s = openRec l 3 false (closeRec l 2 (bump cLink l 0 s)) := by
  simp [strobe, h.1, h.2, hl, ho]

/-- A RESTART that finds no OPEN record opens an orphan (R421). -/
theorem strobe_restart_orphan (ho : hasOpen s l = false) :
    strobe l 1 s = openRec l 3 true (bump cLink l 2 (bump cLink l 0 s)) := by
  simp [strobe, h.1, h.2, hl, ho]

theorem strobe_abort : strobe l 2 s =
    if hasOpen s l then closeRec l 3 (bump cLink l 0 s) else bump cLink l 2 (bump cLink l 0 s) :=
  if_neg (by simp [h.1, h.2, hl])

end Strobes

/-! ### Receive-event and timing messages (R362, R363, R370, R415, R423) -/

theorem fbRxEventMsg_paired (hh : fbHead s 4 true m = true) (hlo : 1 ≤ u8 m 4) (hhi : u8 m 4 ≤ 3) (h0 : u8 m 5 = 0) :
    fbRxEventMsg m s = pairRec (fbLink m) (u8 m 4) (u16 m 6) (u64 m 8) (fbAccept s) :=
  if_pos (by simp [hh, hlo, hhi, h0])

theorem fbRxEventMsg_refused (hh : fbHead s 4 true m = false) : fbRxEventMsg m s = fbError m s :=
  if_neg (by simp [hh])

/-- The message is a sample for its link's base while that base is tracked (R415). -/
theorem fbTsfMsg_sampled (hh : fbHead s 5 true m = true) (hs : fbSta m = 0xFFF) (hz : allZero (slice m 4 4) = true) :
    fbTsfMsg m s =
      if (getTb (fbAccept s) (4 + fbLink m)).track then tsfSample (4 + fbLink m) (u64 m 8) (fbAccept s) else fbAccept s :=
  if_pos (by simp [hh, hs, hz])

theorem fbTsfMsg_refused (hh : fbHead s 5 true m = false) : fbTsfMsg m s = fbError m s :=
  if_neg (by simp [hh])

end TimeEvents

/-- Settles O37: each row by the law of its event in that case.  An edge's interval is measured in TB7 (log 42), the first
record of a channel counts a step of its own cycle alone (log 83), the sender judges when a time falls due (log 13), the list
of a port starts by its owned trigger (log 38), and an event that finds an IDLE trigger changes nothing (log 4). -/
theorem timeEventRows : Obligations.TimeEventRows := by
  intro s c m h
  refine ⟨fun hc he h0 hs hm hf => ?_, fun hc he h0 hs hm hf => ?_, fun n hc he h0 hm hn ht => ?_,
    fun hc he hx hs => congrArg Host.Outcome.next (captureStuck_sets h hc he hx hs),
    fun hc hm => congrArg Host.Outcome.next (triggerFire_idle hm),
    fun hc hm => ⟨fun h0 hd => ?_, fun hd hp => ?_, fun hd hp hl => ?_⟩,
    fun hc hm hd => congrArg Host.Outcome.next (triggerFire_owned h hc hm hd),
    fun hc hp => congrArg Host.Outcome.next ((clocked_on h.2).trans (trigPulseEnd_falls hc hp)),
    fun hlo hhi ht h0 hs => congrArg Host.Outcome.next (tsfStale_raised h hlo hhi ht h0 hs),
    fun hl => congrArg Host.Outcome.next (strobe_pd h hl),
    fun hl ho => ⟨congrArg Host.Outcome.next (strobe_restart_open h hl ho),
      congrArg Host.Outcome.next ((strobe_abort h hl).trans (if_pos ho))⟩,
    fun hl ho => ⟨congrArg Host.Outcome.next (strobe_restart_orphan h hl ho),
      congrArg Host.Outcome.next ((strobe_abort h hl).trans (if_neg (by simp [ho])))⟩,
    fun hh hlo hhi h0 => congrArg Host.Outcome.next (fbRxEventMsg_paired hh hlo hhi h0),
    fun hh hs hz => congrArg Host.Outcome.next (fbTsfMsg_sampled hh hs hz),
    fun hh => congrArg Host.Outcome.next (fbTsfMsg_refused hh), fun hh => congrArg Host.Outcome.next (fbRxEventMsg_refused hh)⟩
  · exact congrArg Host.Outcome.next ((capEdge_pin h hc he h0).trans ((capAccept_now hm hs).trans (if_neg (by omega))))
  · exact congrArg Host.Outcome.next ((capEdge_pin h hc he h0).trans ((capAccept_now hm hs).trans (if_pos hf)))
  · exact congrArg Host.Outcome.next ((capEdge_pin h hc he h0).trans (capAccept_ignored hm hn ht))
  · exact congrArg Host.Outcome.next (triggerFire_notDue hm (trgDue_eq_false h0 hd))
  · exact congrArg Host.Outcome.next (triggerFire_onTime h hc hm (trgDue_iff.mpr hd) hp)
  · exact congrArg Host.Outcome.next (triggerFire_passed h hc hm (trgDue_iff.mpr hd) hp hl)

end Sys2Proof.Machine

namespace Sys2Proof.Machine

open Sys2Proof

/-! ## Allocation (R204, R207, R208) -/

section Allocation

variable {s : State} {p h k : Nat}

theorem Tbl.get?_set_self {α : Type} {i : Nat} {v : α} : ∀ {t : Tbl α}, (t.set i v).get? i = some v
  | [] => if_pos rfl
  | (k, w) :: t => by
    simp only [Tbl.set]
    split
    · exact if_pos rfl
    · split
      · exact if_pos rfl
      · rename_i hne
        exact (if_neg (Ne.symm hne)).trans Tbl.get?_set_self

theorem SameUnits.store_eq {r : State} (h : SameUnits r s) : s.store = r.store := by
  obtain ⟨_, _, _, _, _, hstore, _⟩ := h
  exact hstore

@[simp] theorem perf_store {u c : Nat} : (perf u c s).store = s.store := (pmuEvent_counted (Counted.refl s)).1.store_eq

@[simp] theorem bump_store {g i : Nat} : (bump g i k s).store = s.store := rfl

/-- A pool's counter and its monitored event lie outside the store. -/
@[simp] theorem poolBump_store : (poolBump p k s).store = s.store := by
  unfold poolBump
  dsimp only
  split <;> simp only [perf_store, bump_store]

@[simp] theorem setPool_alloc {f : Pool → Pool} : (setPool p f s).store.alloc = s.store.alloc := rfl

/-- The spill state of a pool is evaluated without touching any buffer or the allocation counter. -/
theorem evalPool_store : ∃ l, (evalPool p s).store = { s.store with pools := l } := by
  have set_state (n : Spill) : ∃ l, (if n = (getPool s p).state then s else
      setPool p (fun x => { x with state := n }) s).store = { s.store with pools := l } := by
    split
    · exact ⟨s.store.pools, rfl⟩
    · exact ⟨_, rfl⟩
  exact set_state _

@[simp] theorem evalPool_alloc : (evalPool p s).store.alloc = s.store.alloc := by
  obtain ⟨l, hl⟩ := evalPool_store (s := s) (p := p)
  rw [hl]

@[simp] theorem getBuf_evalPool : getBuf (evalPool p s) h = getBuf s h := by
  obtain ⟨l, hl⟩ := evalPool_store (s := s) (p := p)
  simp only [getBuf, hl]

@[simp] theorem getBuf_poolBump {q : Nat} : getBuf (poolBump q k s) h = getBuf s h := by simp only [getBuf, poolBump_store]

@[simp] theorem getBuf_setBuf {b : Buf} : getBuf (setBuf h b s) h = some b := Tbl.get?_set_self

/-- A new buffer: its owner sequence is the allocation counter's value, and the counter advances. -/
def newBuf (p h : Nat) (loc : Loc) (s : State) : State :=
  evalPool p (poolBump p 0 (setBuf h { oseq := s.store.alloc, loc := loc }
    (s.updStore fun t => { t with alloc := (t.alloc + 1) % 2 ^ 32 })))

theorem getBuf_newBuf {loc : Loc} : getBuf (newBuf p h loc s) h = some { oseq := s.store.alloc, loc := loc } := by
  simp only [newBuf, getBuf_evalPool, getBuf_poolBump, getBuf_setBuf]

theorem newBuf_alloc {loc : Loc} : (newBuf p h loc s).store.alloc = (s.store.alloc + 1) % 2 ^ 32 := by
  simp only [newBuf, evalPool_alloc, poolBump_store]
  rfl

/-- What an allocation can do: give a buffer in SRAM, or one in host DRAM from the pool's free queue, or fail.  The draw that
tells whether a list under repair still reaches a slot leaves the store as it was (R476). -/
theorem allocBuf_cases (p : Nat) (s : State) : ∃ v, v.store = s.store ∧
    ((∃ h b j, allocBuf p s = (some h, newBuf p h (.sram b j) v)) ∨
      (∃ h i q, allocBuf p s = (some h, poolBump p 1 (newBuf p h (.dram i) (setPool p (fun c => { c with queue := q }) v)))) ∨
      ∃ u, allocBuf p s = (none, u) ∧ u.store = s.store) := by
  obtain ⟨c, hc, hs⟩ : ∃ c, (if recovering s p then draw s else (0, s)) = c ∧ c.2.store = s.store :=
    ⟨_, rfl, by split <;> rfl⟩
  refine ⟨c.2, hs, ?_⟩
  unfold allocBuf
  dsimp only
  rw [hc]
  split
  · exact .inl ⟨_, _, _, rfl⟩
  · split
    · exact .inr (.inl ⟨_, _, _, rfl⟩)
    · refine .inr (.inr ⟨_, rfl, ?_⟩)
      have h3 : (if nDram c.2 p = 0 then c.2 else poolBump p 3 c.2).store = s.store := by
        split
        · exact hs
        · exact poolBump_store.trans hs
      split
      · exact h3
      · exact poolBump_store.trans h3

end Allocation

/-- Settles O9: `allocBuf_cases` names what an allocation can do.  Both tiers number the new buffer in `newBuf`; a failed
allocation counts outside the store (R207). -/
theorem allocationsAreNumbered : Obligations.AllocationsAreNumbered := by
  refine ⟨fun s t p h ha => ?_, fun s t p ha => ?_⟩
  · obtain ⟨v, hv, ⟨_, _, _, he⟩ | ⟨_, _, _, he⟩ | ⟨_, he, _⟩⟩ := allocBuf_cases p s
    · obtain ⟨rfl, rfl⟩ : _ = h ∧ _ = t := by simpa using he.symm.trans ha
      rw [getBuf_newBuf, newBuf_alloc, hv]
      exact ⟨rfl, rfl⟩
    · obtain ⟨rfl, rfl⟩ : _ = h ∧ _ = t := by simpa using he.symm.trans ha
      rw [getBuf_poolBump, poolBump_store, getBuf_newBuf, newBuf_alloc, setPool_alloc, hv]
      exact ⟨rfl, rfl⟩
    · simp [he] at ha
  · obtain ⟨v, _, ⟨_, _, _, he⟩ | ⟨_, _, _, he⟩ | ⟨u, he, hu⟩⟩ := allocBuf_cases p s
    · simp [he] at ha
    · simp [he] at ha
    · obtain rfl : u = t := by simpa using he.symm.trans ha
      exact hu

end Sys2Proof.Machine

namespace Sys2Proof.Machine

open Sys2Proof

/-! ## Loads and stores of a thread (R199, R287-R292, R298, R299, R311) -/

section LoadsAndStores

variable {s : State} {e t n a o : Nat} {frame sign : Bool} {rd ra : Reg} {off : Int} {k : Area}

/-! ### The faults of an address (R298) -/

theorem accessFault_misaligned (h : a % n ≠ 0) : accessFault n a = some 2 := by simp [accessFault, h]

theorem accessFault_nowhere (h : a % n = 0) (hx : areaOf a = none) : accessFault n a = some 3 := by
  simp [accessFault, h, hx]

theorem accessFault_none (h : a % n = 0) (hx : areaOf a = some (k, o)) : accessFault n a = none := by
  simp [accessFault, h, hx]

/-! ### The frame window (R199, R289, R290) -/

/-- The beat of a window offset begins below it, so an access to it ends where the bytes of the load do. -/
theorem accessOk_window {z : Nat} : accessOk z false (64 + o / 64 * 64) (o % 64 + n) = decide (64 + (o + n) ≤ z - 8) := by
  have hbeat : (64 + o / 64 * 64) % 64 = 0 := by omega
  have hend : 64 + o / 64 * 64 + (o % 64 + n) = 64 + (o + n) := by omega
  simp only [accessOk, hbeat, hend, Bool.false_eq_true, if_false, decide_true, Bool.true_and]

theorem windowLoad_shadowed (h : o < 256 ∨ windowLen s e t ≤ o) :
    windowLoad sign n e t rd o s = retireW e t rd (extWord sign n (be (windowBytes s e t o n) 0 n)) s :=
  if_pos (by simpa using h)

section Beyond

variable (hlo : 256 ≤ o) (hhi : o < windowLen s e t)

include hlo hhi

theorem windowLoad_fenced (hf : fenced s e t = true) : windowLoad sign n e t rd o s = fence e t s := by
  simp [windowLoad, Nat.not_lt.mpr hlo, Nat.not_le.mpr hhi, hf]

/-- Where the bytes lie before the trailer of the buffer, the thread waits for them. -/
theorem windowLoad_waits {h : Nat} (hf : fenced s e t = false) (hh : ((heldFrame s e t).map (·.h)).getD 0 = h)
    (hz : 64 + (o + n) ≤ bufSize (hPool h) - 8) :
    windowLoad sign n e t rd o s = startWindow e t h o
      (setThr e t (fun x => { x with park := .window rd.val (if sign then n + 8 else n) o }) (retire e t (touchBuf h s))) := by
  simp [windowLoad, Nat.not_lt.mpr hlo, Nat.not_le.mpr hhi, hf, hh, access, accessOk_window, hz]

/-- A load that would reach the trailer is not performed, and is counted (R199). -/
theorem windowLoad_beyond {h : Nat} (hf : fenced s e t = false) (hh : ((heldFrame s e t).map (·.h)).getD 0 = h)
    (hz : bufSize (hPool h) - 8 < 64 + (o + n)) :
    windowLoad sign n e t rd o s = threadFault e t 5 (poolBump (hPool h) 18 s) := by
  simp [windowLoad, Nat.not_lt.mpr hlo, Nat.not_le.mpr hhi, hf, hh, access, accessOk_window, Nat.not_le.mpr hz]

end Beyond

/-! ### A load, by its address -/

section Load

variable (hr : canRun s e t = true)

include hr

theorem loadOp_faults {c : Nat} (hc : accessFault n (memAddr s e t ra off) = some c) :
    loadOp frame sign n e t rd ra off s = threadFault e t c s := by
  rw [loadOp, isa_of_canRun hr]
  simp only [hc]

theorem loadOp_window (h : memAddr s e t ra off % n = 0) (hx : areaOf (memAddr s e t ra off) = some (.window, o)) :
    loadOp frame sign n e t rd ra off s = windowLoad sign n e t rd o s := by
  rw [loadOp, isa_of_canRun hr]
  simp only [accessFault_none h hx, hx]

/-- In the other areas a load is at once, and a frame load names an address outside the window (R298). -/
theorem loadOp_area (h : memAddr s e t ra off % n = 0) (hx : areaOf (memAddr s e t ra off) = some (k, o)) (hk : k ≠ .window) :
    loadOp frame sign n e t rd ra off s = if frame then threadFault e t 3 s
      else retireW e t rd (extWord sign n (le (areaBytes s e t k o n) 0 n)) s := by
  rw [loadOp, isa_of_canRun hr]
  simp only [accessFault_none h hx, hx]
  cases k with
  | window => exact absurd rfl hk
  | imem => rfl
  | dmem => rfl
  | desc => rfl
  | shadow => rfl

end Load

theorem loadRule {row : Nat → Nat → Reg → Reg → Int → Instr}
    (hrow : ∀ s e t rd ra off, exec (row e t rd ra off) s = .next (loadOp frame sign n e t rd ra off s)) :
    LoadRule frame sign n row := by
  intro s e t rd ra off hr a
  rw [hrow]
  refine ⟨fun h => ?_, fun h hx => ?_, fun o h hx hs => ?_,
    fun o h hx hlo hhi => ⟨fun hf => ?_, fun hf => ⟨fun hz => ?_, fun hz => ?_⟩⟩, fun k o h hx hk => ?_⟩
  · rw [loadOp_faults hr (accessFault_misaligned h)]
  · rw [loadOp_faults hr (accessFault_nowhere h hx)]
  · rw [loadOp_window hr h hx, windowLoad_shadowed hs]
  · rw [loadOp_window hr h hx, windowLoad_fenced hlo hhi hf]
  · rw [loadOp_window hr h hx, windowLoad_waits hlo hhi hf rfl hz]
  · rw [loadOp_window hr h hx, windowLoad_beyond hlo hhi hf rfl hz]
  · rw [loadOp_area hr h hx hk]

/-! ### A store, by its address (R290, R298) -/

section Store

variable (hr : canRun s e t = true)

include hr

theorem storeOp_faults {c : Nat} (hc : accessFault n (memAddr s e t ra off) = some c) :
    storeOp n e t rd ra off s = threadFault e t c s := by
  rw [storeOp, isa_of_canRun hr]
  simp only [hc]

variable (h : memAddr s e t ra off % n = 0)

include h

theorem storeOp_dmem (hx : areaOf (memAddr s e t ra off) = some (.dmem, o)) : storeOp n e t rd ra off s =
    retire e t (setEng e (fun g => { g with dmem := Mem.wrN g.dmem o (toLe n (wreg s e t rd).toNat) }) s) := by
  rw [storeOp, isa_of_canRun hr]
  simp only [accessFault_none h hx, hx]

theorem storeOp_shadow (hx : areaOf (memAddr s e t ra off) = some (.shadow, o)) : storeOp n e t rd ra off s =
    retire e t (setThr e t (fun x => { x with shadow := overlay x.shadow o (toLe n (wreg s e t rd).toNat) }) s) := by
  rw [storeOp, isa_of_canRun hr]
  simp only [accessFault_none h hx, hx]

theorem storeOp_result (hx : areaOf (memAddr s e t ra off) = some (.desc, o)) (hlo : 192 ≤ o) (hhi : o < 224) :
    storeOp n e t rd ra off s =
      retire e t (setThr e t (fun x => { x with desc := overlay x.desc o (toLe n (wreg s e t rd).toNat) }) s) := by
  rw [storeOp, isa_of_canRun hr]
  simp [accessFault_none h hx, hx, hlo, hhi]

/-- Nothing writes IMEM, the frame window, or the descriptor outside its RESULT. -/
theorem storeOp_readOnly (hx : areaOf (memAddr s e t ra off) = some (.imem, o) ∨
    areaOf (memAddr s e t ra off) = some (.window, o) ∨
    (areaOf (memAddr s e t ra off) = some (.desc, o) ∧ (o < 192 ∨ 224 ≤ o))) :
    storeOp n e t rd ra off s = threadFault e t 4 s := by
  rw [storeOp, isa_of_canRun hr]
  obtain hx | hx | ⟨hx, ho⟩ := hx
  · simp only [accessFault_none h hx, hx]
  · simp only [accessFault_none h hx, hx]
  · have hout : ¬ (192 ≤ o ∧ o < 224) := by omega
    simp [accessFault_none h hx, hx, hout]

end Store

theorem storeRule {row : Nat → Nat → Reg → Reg → Int → Instr}
    (hrow : ∀ s e t rs ra off, exec (row e t rs ra off) s = .next (storeOp n e t rs ra off s)) : StoreRule n row := by
  intro s e t rs ra off hr a v
  rw [hrow]
  refine ⟨fun h => ?_, fun h hx => ?_, fun o h hx => ?_, fun o h hx => ?_, fun o h hx hlo hhi => ?_, fun o h hx => ?_⟩
  · rw [storeOp_faults hr (accessFault_misaligned h)]
  · rw [storeOp_faults hr (accessFault_nowhere h hx)]
  · rw [storeOp_dmem hr h hx]
  · rw [storeOp_shadow hr h hx]
  · rw [storeOp_result hr h hx hlo hhi]
  · rw [storeOp_readOnly hr h hx]

end LoadsAndStores

/-- Settles O18: each row is a load or a store of its width, which its address decides.  Alignment is judged before the address
and the address before the right to write, and a descriptor store outside RESULT is fault 4 (log 24; R318 numbers the faults). -/
theorem loadAndStoreRows : Obligations.LoadAndStoreRows :=
  ⟨⟨loadRule fun _ _ _ _ _ _ => rfl, loadRule fun _ _ _ _ _ _ => rfl, loadRule fun _ _ _ _ _ _ => rfl,
    loadRule fun _ _ _ _ _ _ => rfl, loadRule fun _ _ _ _ _ _ => rfl, loadRule fun _ _ _ _ _ _ => rfl,
    loadRule fun _ _ _ _ _ _ => rfl, loadRule fun _ _ _ _ _ _ => rfl⟩,
    storeRule fun _ _ _ _ _ _ => rfl, storeRule fun _ _ _ _ _ _ => rfl, storeRule fun _ _ _ _ _ _ => rfl⟩

end Sys2Proof.Machine

namespace Sys2Proof.Machine

open Sys2Proof

/-! ## SEND and DONE (R205, R211, R290, R296, R302, R303, R401, R507) -/

section SendAndDone

variable {s u v : State} {e t : Nat} {f : PFrame}

theorem outside_open {g : State → State} (hr : canRun s e t = true) (hf : fenced s e t = false) : outside e t g s = g s := by
  rw [outside, isa_of_canRun hr, hf]
  rfl

/-! ### A SEND's checks, in their order (R302) -/

section Send

variable {src len tag tc o p h : Nat} {tail : Option Nat} {d : Bytes}

section Checks

variable (hr : canRun s e t = true) (hf : fenced s e t = false)

include hr hf

theorem sendOp_bad (hb : badSend s e t len tail = true) : sendOp e t src len tail tag tc s = refuseEnd e t cBadSend s := by
  rw [sendOp, outside_open hr hf, if_pos hb]

variable (hb : badSend s e t len tail = false)

include hb

theorem sendOp_limit (hn : 4 ≤ stagedCount s e t) : sendOp e t src len tail tag tc s = refuseEnd e t cSendLimit s := by
  rw [sendOp, outside_open hr hf, hb, if_neg Bool.false_ne_true, if_pos hn]

variable (hn : stagedCount s e t < 4)

include hn

theorem sendOp_outsideDmem (hd : inDmem src len = false) : sendOp e t src len tail tag tc s = threadFault e t 3 s := by
  rw [sendOp, outside_open hr hf, hb, if_neg Bool.false_ne_true, if_neg (Nat.not_le.mpr hn), hd]
  rfl

variable (hd : inDmem src len = true)

include hd

theorem sendOp_plain (ht : tail = none) : sendOp e t src len tail tag tc s =
    sendFrame e t (Mem.rdN (getEng s e).dmem (src - 0x10000) len) tag tc s := by
  rw [sendOp, outside_open hr hf, hb, if_neg Bool.false_ne_true, if_neg (Nat.not_le.mpr hn), hd, ht]
  rfl

theorem sendOp_tail (ht : tail = some o) (hh : heldFrame s e t = some f) : sendOp e t src len tail tag tc s =
    sendTail e t f (Mem.rdN (getEng s e).dmem (src - 0x10000) len) o tag tc s := by
  rw [sendOp, outside_open hr hf, hb, if_neg Bool.false_ne_true, if_neg (Nat.not_le.mpr hn), hd, ht, hh]
  rfl

end Checks

/-! ### The tail that a SEND reads (R215, R290; log 11) -/

theorem sendTail_waits (hx : fetchBuf (.thread e t) f.h s = (none, u)) :
    sendTail e t f d o tag tc s = setThr e t (fun x => { x with park := .tail d o tag tc }) u := by
  simp only [sendTail, hx]

theorem sendTail_read {y : Option Xfer} (hx : fetchBuf (.thread e t) f.h s = (some y, u)) (hl : windowLost u f.h y = false) :
    sendTail e t f d o tag tc s =
      sendFrame e t (d ++ (readData u f.h y).drop o) tag tc (setThr e t (fun x => { x with park := .none }) u) := by
  simp [sendTail, hx, hl]

theorem sendTail_lost {y : Option Xfer} (hx : fetchBuf (.thread e t) f.h s = (some y, u)) (hl : windowLost u f.h y = true) :
    sendTail e t f d o tag tc s = sendFrame e t (d ++ zeros ((readData u f.h y).drop o).length) tag tc
      (setThr e t (fun x => { x with park := .none, bad := true }) u) := by
  simp [sendTail, hx, hl]

/-! ### The buffer of a SEND (R207, R302, R507) -/

section Buffer

variable (hp : poolFor d.length = some p)

include hp

theorem sendFrame_stalls (hc : v.sys.phase ≠ 2) :
    sendFrame e t d tag tc v = setThr e t (fun x => { x with park := .stalled d tag tc }) v := by
  simp [sendFrame, hp, hc]

variable (hc : v.sys.phase = 2)

include hc

theorem sendFrame_sent (ha : allocBuf p v = (some h, u)) : sendFrame e t d tag tc v =
    placeSend e t { port := engPort e, h := some h, data := d, tag := tag % 2 ^ 32, tc := tc % 8 }
      (setStatus e t cSendOk (bump cEng e 4 u)) := by
  simp [sendFrame, hp, hc, ha]

theorem sendFrame_noBuffer (ha : allocBuf p v = (none, u)) : sendFrame e t d tag tc v =
    retire e t (setStatus e t cNoBuffer (countFailed v p (engPort e) (bump cEng e 5) u)) := by
  simp [sendFrame, hp, hc, ha]

end Buffer

end Send

/-! ### Which end a DONE gives its frame -/

section End

variable {fw : Bool} {g k i r h c : Nat}

section Row

variable (hr : canRun s e t = true) (hf : fenced s e t = false) (hh : heldFrame s e t = some f)

include hr hf hh

theorem doneOp_forward (hb : ((getThr s e t).base = .none ∧ fw = true) ∨ (getThr s e t).base = .ended .forward) :
    doneOp e t fw s = doneForward e t f s := by
  rw [doneOp, outside_open hr hf]
  obtain ⟨hb, hw⟩ | hb := hb
  · simp only [hh, hb, hw, if_true]
  · simp only [hh, hb]

theorem doneOp_drop (hb : ((getThr s e t).base = .none ∧ fw = false ∧ g = cEngPort ∧ k = 1) ∨
    (getThr s e t).base = .ended (.drop g k)) : doneOp e t fw s = doneDrop e t g k f s := by
  rw [doneOp, outside_open hr hf]
  obtain ⟨hb, hw, rfl, rfl⟩ | hb := hb
  · simp only [hh, hb, hw, Bool.false_eq_true, if_false]
  · simp only [hh, hb]

theorem doneOp_again (hb : (getThr s e t).base = .ended (.again r h)) : doneOp e t fw s = doneAgain e t r h f s := by
  rw [doneOp, outside_open hr hf]
  simp only [hh, hb]

end Row

/-- The thread is free again, and its engine may have drained. -/
def threadEnds (e t : Nat) (s : State) : State := settleDrain e (endThread e t (retire e t s))

/-- An accepted DONE counts at place `c` of its engine, and is event `k` of its monitored unit. -/
def doneCounted (e t k c : Nat) (s : State) : State := pmuEvent (8 + e) k 1 t (bump cEng e c s)

/-- The policer that a learn program's end asks: that of a frame which the classifier's has not judged (R401). -/
def policed (f : PFrame) (s : State) : Bool × State :=
  if f.policer = 0xFFFFFFFF then (true, s) else judgePolicer f.policer f.len s

/-! ### FORWARD (R296, R303) -/

theorem doneForward_refused (hc : doneRefused s (getThr s e t) f = some c) : doneForward e t f s = refuseEnd e t c s := by
  simp only [doneForward, hc]

theorem forwardWith_conforms {y : Option Xfer} (hx : (getThr s e t).hold = .slot i) (hj : (policed f s).1 = true) :
    forwardWith e t f y s = threadEnds e t (setSlot i (fun y =>
      { y with frame := { withShadow (getThr s e t) f with staged := y.frame.staged }, state := .ready })
      (doneCounted e t 9 2 (policed f s).2)) := by
  unfold policed at hj ⊢
  simp only [forwardWith, hx, hj, if_true]
  rfl

theorem forwardWith_exceeds {y : Option Xfer} (hx : (getThr s e t).hold = .slot i) (hj : (policed f s).1 = false) :
    forwardWith e t f y s = threadEnds e t (slotDrop i cFlowPort 11 (doneCounted e t 9 2 (policed f s).2)) := by
  unfold policed at hj ⊢
  simp only [forwardWith, hx, hj, Bool.false_eq_true, if_false]
  rfl

/-- A frame of an input queue is committed, whatever its policer has found. -/
theorem forwardWith_inq {y : Option Xfer} {q : PFrame} (hx : (getThr s e t).hold = .inq q) :
    forwardWith e t f y s =
      threadEnds e t (commitInq e (withShadow (getThr s e t) f) y (doneCounted e t 9 2 (policed f s).2)) := by
  simp only [forwardWith, hx]
  rfl

section Accepted

variable (ha : doneRefused s (getThr s e t) f = none)

include ha

theorem doneForward_slot (hx : (getThr s e t).hold = .slot i) : doneForward e t f s = forwardWith e t f none s := by
  simp only [doneForward, ha, hx]

theorem doneForward_waits {q : PFrame} (hx : (getThr s e t).hold = .inq q) (hu : fetchBuf (.thread e t) f.h s = (none, u)) :
    doneForward e t f s = setThr e t (fun x => { x with park := .done }) u := by
  simp only [doneForward, ha, hx, forwardInq, hu]

theorem doneForward_fetched {q : PFrame} {y : Option Xfer} (hx : (getThr s e t).hold = .inq q)
    (hu : fetchBuf (.thread e t) f.h s = (some y, u)) :
    doneForward e t f s = forwardWith e t f y (setThr e t (fun x => { x with park := .none }) u) := by
  simp only [doneForward, ha, hx, forwardInq, hu]

end Accepted

/-! ### A drop, and one more dispatch (R211, R290; log 82) -/

theorem doneDrop_slot (hx : (getThr s e t).hold = .slot i) (hb : (f.bad || (getThr s e t).bad) = false) :
    doneDrop e t g k f s = threadEnds e t (slotDrop i g k (doneCounted e t 0xA 3 s)) := by
  simp only [doneDrop, dropBy, hx, hb, Bool.false_eq_true, if_false]
  rfl

theorem doneDrop_slot_bad (hx : (getThr s e t).hold = .slot i) (hb : (f.bad || (getThr s e t).bad) = true) :
    doneDrop e t g k f s = threadEnds e t (setSlot i (fun y =>
      { y with frame := { y.frame with bad := true }, state := .ready }) (doneCounted e t 0xA 3 s)) := by
  simp only [doneDrop, dropBy, hx, hb, if_true]
  rfl

theorem doneDrop_inq {q : PFrame} (hx : (getThr s e t).hold = .inq q) (hb : (f.bad || (getThr s e t).bad) = false) :
    doneDrop e t g k f s = threadEnds e t (releaseOwner f.h (engOwner e) (abandonAll (.frame f.h f.oseq)
      (bump g f.port k (unpinBuf f.h (doneCounted e t 0xA 3 s))))) := by
  simp only [doneDrop, dropBy, hx, hb, Bool.false_eq_true, if_false]
  rfl

theorem doneDrop_inq_bad {q : PFrame} (hx : (getThr s e t).hold = .inq q) (hb : (f.bad || (getThr s e t).bad) = true) :
    doneDrop e t g k f s = threadEnds e t (releaseOwner f.h (engOwner e) (abandonAll (.frame f.h f.oseq)
      (checkFail f.h f.oseq 1 (engPort e) (unpinBuf f.h (doneCounted e t 0xA 3 s))))) := by
  simp only [doneDrop, dropBy, hx, hb, if_true]
  rfl

theorem doneAgain_slot (hx : (getThr s e t).hold = .slot i) :
    doneAgain e t r h f s = threadEnds e t (
      let g := { withShadow (getThr s e t) f with reason := r, hook := h }
      (setSlot i (fun y => { y with frame := { g with staged := y.frame.staged }, first := g, state := .queued })
        (unpinBuf f.h s)).updPipe fun p => { p with disp := p.disp ++ [i] }) := by
  simp only [doneAgain, hx]
  rfl

end End

/-- What a SEND puts into its frame, once its tail is read: its own bytes and the tail's, or zeros for a tail that is lost. -/
theorem sendOp_frame {src len tag tc : Nat} {tail : Option Nat} {d m : Bytes} (hr : canRun s e t = true)
    (hf : fenced s e t = false) (hb : badSend s e t len tail = false) (hn : stagedCount s e t < 4) (hd : inDmem src len = true)
    (hm : Mem.rdN (getEng s e).dmem (src - 0x10000) len = m)
    (hv : (tail = none ∧ d = m ∧ v = s) ∨
      ∃ o f y u, tail = some o ∧ heldFrame s e t = some f ∧ fetchBuf (.thread e t) f.h s = (some y, u) ∧
        let b := (readData u f.h y).drop o
        (windowLost u f.h y = false ∧ d = m ++ b ∧ v = setThr e t (fun x => { x with park := .none }) u) ∨
        (windowLost u f.h y = true ∧ d = m ++ zeros b.length ∧
          v = setThr e t (fun x => { x with park := .none, bad := true }) u)) :
    sendOp e t src len tail tag tc s = sendFrame e t d tag tc v := by
  obtain ⟨ht, rfl, rfl⟩ | ⟨o, f, y, u, ht, hh, hu, ⟨hl, rfl, rfl⟩ | ⟨hl, rfl, rfl⟩⟩ := hv
  · rw [sendOp_plain hr hf hb hn hd ht, hm]
  · rw [sendOp_tail hr hf hb hn hd ht hh, hm, sendTail_read hu hl]
  · rw [sendOp_tail hr hf hb hn hd ht hh, hm, sendTail_lost hu hl]

end SendAndDone

theorem exec_send {s : State} {e t src len tag tc : Nat} {tail : Option Nat} :
    exec (.send e t src len tail tag tc) s = .next (sendOp e t src len tail tag tc s) := rfl

theorem exec_done {s : State} {e t : Nat} {fw : Bool} : exec (.done e t fw) s = .next (doneOp e t fw s) := rfl

/-- Settles O23: a SEND by the law of the check that it fails, or of its frame; a DONE by the law of the end that its
program gives (log 82).  A lost tail goes as zeros (log 11), the operands stand in the row (log 23), and a SEND of the
configuration phase stalls (log 47, R507). -/
theorem sendAndDoneRows : Obligations.SendAndDoneRows := by
  refine ⟨fun s e t src len tag tc tail hr hf => ?_, fun s e t f fw hr hf hh => ?_⟩
  · simp only [exec_send]
    refine ⟨fun hb => congrArg _ (sendOp_bad hr hf hb), fun hb hn => congrArg _ (sendOp_limit hr hf hb hn),
      fun hb hn hd => congrArg _ (sendOp_outsideDmem hr hf hb hn hd),
      fun hb hn hd => ⟨fun o f u ht hh hu => ?_, fun d v hv => ?_⟩⟩
    · exact congrArg _ ((sendOp_tail hr hf hb hn hd ht hh).trans (sendTail_waits hu))
    · rw [sendOp_frame hr hf hb hn hd rfl hv]
      exact ⟨fun p hp hc => congrArg _ (sendFrame_stalls hp hc), fun p hp hc =>
        ⟨fun h u ha => congrArg _ (sendFrame_sent hp hc ha), fun u ha => congrArg _ (sendFrame_noBuffer hp hc ha)⟩⟩
  · simp only [exec_done]
    refine ⟨fun hb => ?_, fun v y hx => forwardWith_inq hx, fun g k hb => ?_, fun i r h hb hx => ?_⟩
    · rw [doneOp_forward hr hf hh hb]
      exact ⟨fun c hc => congrArg _ (doneForward_refused hc),
        fun i ha hx hj => congrArg _ ((doneForward_slot ha hx).trans (forwardWith_conforms hx hj)),
        fun i ha hx hj => congrArg _ ((doneForward_slot ha hx).trans (forwardWith_exceeds hx hj)),
        fun u ha hx hu => congrArg _ (doneForward_waits ha hx hu),
        fun y u ha hx hu => congrArg _ (doneForward_fetched ha hx hu)⟩
    · rw [doneOp_drop hr hf hh hb]
      exact ⟨fun hg => ⟨fun i hx => congrArg _ (doneDrop_slot hx hg), fun hx => congrArg _ (doneDrop_inq hx hg)⟩,
        fun hg => ⟨fun i hx => congrArg _ (doneDrop_slot_bad hx hg), fun hx => congrArg _ (doneDrop_inq_bad hx hg)⟩⟩
    · exact congrArg Host.Outcome.next ((doneOp_again hr hf hh hb).trans (doneAgain_slot hx))

end Sys2Proof.Machine

namespace Sys2Proof.Machine

open Sys2Proof

/-! ## The spill mover (R208, R217-R225, R229) -/

section SpillMover

variable {s t : State} {p h i k j : Nat} {e : QE} {b : Buf} {x : Xfer}

/-! ### Moves out (R217-R221) -/

theorem spillStart_selects (hp : p < 4) (hs : (getPool s p).state = .spilling) (hm : movesOut s < 32)
    (ho : moverOpen s = true) (he : selectSpill s p = some e) : spillStart p s = spillBuf e.h e.oseq s := by
  simp [spillStart, Nat.not_le.mpr hp, hs, Nat.not_le.mpr hm, ho, he]

theorem spillStart_none (he : selectSpill s p = none) : spillStart p s = s := by
  simp [spillStart, he]

theorem spillStart_notSpilling (hs : (getPool s p).state ≠ .spilling) : spillStart p s = s := by
  simp [spillStart, hs]

section Landing

variable (hb : getBuf s h = some b) (hl : b.loc = .movingOut k j i) (hx : b.mv.bind (getXfer s) = some x)
  (hf : x.finished = true)

include hb hl hx hf

/-- A move out that was also a relocation is counted as one when its buffer is lodged (log 81). -/
theorem landSpill_lodged (he : x.err = false) : landSpill h s =
    let t := evalPool (hPool h) (poolBump (hPool h) 5
      (setBuf h { b with loc := .lodged i, mv := none, reloc := false } (dropXfer x.id s)))
    if b.reloc then poolBump (hPool h) 14 t else t := by
  simp [landSpill, hb, hl, hx, hf, he]

theorem landSpill_errored (he : x.err = true) : landSpill h s =
    poolBump (hPool h) 10 (poolBump (hPool h) 12 (setPool (hPool h) (fun c => { c with withdrawn := c.withdrawn ++ [i] })
      (setBuf h { b with loc := .sram k j, mv := none, reloc := false } (dropXfer x.id s)))) := by
  simp [landSpill, hb, hl, hx, hf, he]

end Landing

/-! ### Moves back (R220, R222, R223) -/

theorem returnStart_starts (hp : p < 4) (hs : (getPool s p).state ≠ .spilling) (hh : (getPool s p).high ≠ 0)
    (hm : movesIn s < 32) (ho : moverOpen s = true) (he : selectReturn s p = some e) (hk : freeSram s p = some (k, j))
    (hb : getBuf s e.h = some b) (hl : b.loc = .lodged i) (hr : regionOk s (dramAddr s p i) (bufSize p) = true) :
    returnStart p s = evalPool p (startMove (.ret e.h) false e.h b.data.length (dramAddr s p i) []
      (setBuf e.h { b with loc := .movingIn k j i, mv := some (nextXfer s) } s)) := by
  simp [returnStart, Nat.not_le.mpr hp, hs, hh, Nat.not_le.mpr hm, ho, he, hk, hb, hl, hr]

section Returning

variable (hb : getBuf s h = some b) (hl : b.loc = .movingIn k j i) (hx : b.mv.bind (getXfer s) = some x)
  (hf : x.finished = true)

include hb hl hx hf

theorem returnComplete_good (he : x.err = false) (hg : imageGood h b.oseq b.data.length x.data = true) :
    returnComplete h s = settleRetire 4 (evalPool (hPool h) (poolBump (hPool h) 6 (freeDram (hPool h) i (setBuf h { b with
      loc := .sram k j, mv := none, record := slice x.data 0 64, data := slice x.data 64 b.data.length
      check := u32 x.data (bufSize (hPool h) - 8) } (dropXfer x.id s))))) := by
  simp [returnComplete, hb, hl, hx, hf, he, hg]

/-- An errored read, or an image that fails its check, leaves the buffer lodged and marks it BAD. -/
theorem returnComplete_bad (he : x.err = true ∨ imageGood h b.oseq b.data.length x.data = false) :
    returnComplete h s = evalPool (hPool h) (markBad h b.oseq (if x.err then 5 else 3) (poolBump (hPool h) 11
      (setBuf h { b with loc := .lodged i, mv := none } (dropXfer x.id s)))) := by
  obtain he | he := he
  · simp [returnComplete, hb, hl, hx, hf, he]
  · simp [returnComplete, hb, hl, hx, hf, he]

end Returning

/-! ### The free queues (R208, R229) -/

theorem queueRefill_errored (hp : p < 4) (hx : takeDone s (fun y => decide (y = .freeRead p)) = some (x, t))
    (he : x.err = true) : queueRefill p s = raiseErr 7 t := by
  simp [queueRefill, Nat.not_le.mpr hp, hx, he]

theorem queueRefill_read (hp : p < 4) (hx : takeDone s (fun y => decide (y = .freeRead p)) = some (x, t))
    (he : x.err = false) : queueRefill p s = startRefill p (if refillWanted t p then refillTake p x t else t) := by
  simp [queueRefill, Nat.not_le.mpr hp, hx, he]

theorem queueRefill_starts (hc : coreOff s = false) (hp : p < 4)
    (hx : takeDone s (fun y => decide (y = .freeRead p)) = none) (hr : (getPool s p).refill = false) :
    queueRefill p s = startRefill p s := by
  simp [queueRefill, Nat.not_le.mpr hp, hx, hr, hc]

theorem refillRetry_starts (hp : p < 4) (hr : (getPool s p).refill = true)
    (hx : s.host.xfers.any (fun x => decide (x.purp = .freeRead p)) = false) : refillRetry p s = startRefill p s :=
  if_pos (by simp only [hp, hr, hx, decide_true, Bool.not_false, Bool.and_self])

theorem refillRetry_idle (hr : (getPool s p).refill = false) : refillRetry p s = s := by simp [refillRetry, hr]

/-! ### Relocation (R224) -/

theorem relocate_moves {k2 j2 : Nat} (hc : coreOff s = false) (hb : getBuf s h = some b) (hl : b.loc = .sram k j)
    (hk : emptying s k = true) (hp : b.pins = 0) (hv : verifies (touchBuf h s) h b.oseq = true)
    (hf : freeSram (touchBuf h s) (hPool h) (some k) = some (k2, j2)) :
    relocate h s =
      settleRetire 4 (poolBump (hPool h) 14 (updBuf h (fun b => { b with loc := .sram k2 j2 }) (touchBuf h s))) := by
  simp [relocate, hb, hl, hk, hp, hc, hv, hf]

theorem relocate_none (hb : getBuf s h = none) : relocate h s = s := by simp only [relocate, hb]

end SpillMover

/-- Settles O49: each row by the law of its operation in that case.  A start, a retry or a relocation that finds nothing to act on
changes nothing (log 4), and a relocation by spill is counted when its buffer is lodged (log 81). -/
theorem spillMoverRows : Obligations.SpillMoverRows := by
  intro s p h e b i k j hc
  have clk {t u : State} (ht : t = u) : (Host.Outcome.next (clocked s t) : Out) = .next u :=
    congrArg Host.Outcome.next ((clocked_on hc).trans ht)
  exact ⟨fun hp hs hm ho => ⟨fun he => congrArg Host.Outcome.next (spillStart_selects hp hs hm ho he),
      fun he => congrArg Host.Outcome.next (spillStart_none he)⟩,
    fun hs => congrArg Host.Outcome.next (spillStart_notSpilling hs),
    fun x hb hl hx hf => ⟨fun he => clk (congrArg (settleRetire 4) (landSpill_lodged hb hl hx hf he)),
      fun he => clk (congrArg (settleRetire 4) (landSpill_errored hb hl hx hf he))⟩,
    fun hp hs hh hm ho he hk hb hl hr => congrArg Host.Outcome.next (returnStart_starts hp hs hh hm ho he hk hb hl hr),
    fun x hb hl hx hf => ⟨fun he hg => clk (returnComplete_good hb hl hx hf he hg),
      fun he => clk (returnComplete_bad hb hl hx hf he)⟩,
    fun x t hp hx => ⟨fun he => clk (queueRefill_errored hp hx he), fun he => clk (queueRefill_read hp hx he)⟩,
    fun hp hx hr => clk (queueRefill_starts hc hp hx hr),
    fun hp hr hx => congrArg Host.Outcome.next (refillRetry_starts hp hr hx),
    fun hr => congrArg Host.Outcome.next (refillRetry_idle hr),
    fun k2 j2 hb hl hk hp hv hf => congrArg Host.Outcome.next (relocate_moves hc hb hl hk hp hv hf),
    fun hb => congrArg Host.Outcome.next (relocate_none hb)⟩

end Sys2Proof.Machine

namespace Sys2Proof.Machine

open Sys2Proof

/-! ## The commands of the store, the schedulers, the stations and the links
(R198, R224-R227, R356-R359, R383, R384, R403, R404) -/

section UnitCommands

variable {s : State} {q : Req}

/-! ### The store -/

/-- The banks of each pool that STORE_POOL_SPLIT asks for. -/
def splitBanks (p : Bytes) : List Nat := (List.range 4).map fun i => u8 p i

/-- The units of host DRAM of each pool that STORE_POOL_SPLIT asks for. -/
def splitUnits (p : Bytes) : List Nat := (List.range 4).map fun i => u16 p (4 + 2 * i)

/-- A split is applied in the configuration phase where its banks are all the unretired ones, its units lie in the DRAM region and
no pool is empty (R226). -/
theorem poolSplitCmd_splits (h32 : ∀ x ∈ splitBanks q.payload, x ≤ 32) (hs : (splitBanks q.payload).sum = unretired s)
    (hu : (splitUnits q.payload).sum * 2097152 ≤ s.host.dram.size)
    (he : ∀ i < 4, (splitBanks q.payload).getD i 0 ≠ 0 ∨ (splitUnits q.payload).getD i 0 * 2097152 / bufSize i ≠ 0)
    (hc : s.sys.phase = 1) :
    poolSplitCmd q s = (resetDrams (s.updStore fun t => { t with
      banks := dealBanks s (splitBanks q.payload), split := splitBanks q.payload, units := splitUnits q.payload }), okR) := by
  have hbanks : ((splitBanks q.payload).any (· > 32) || (splitBanks q.payload).sum != unretired s) = false := by
    simpa [hs] using h32
  have hempty : (List.range 4).find? (fun i => decide ((splitBanks q.payload).getD i 0 = 0) &&
      decide ((splitUnits q.payload).getD i 0 * 2097152 / bufSize i = 0)) = none := by
    simp only [List.find?_range_eq_none, Bool.not_eq_true', Bool.and_eq_false_iff, decide_eq_false_iff_not]
    exact he
  unfold splitBanks at hbanks hempty ⊢
  unfold splitUnits at hu hempty ⊢
  simp only [poolSplitCmd, firstErr, hbanks, hempty, Nat.not_lt.mpr hu, hc, gt_iff_lt, Option.isSome_none, bne_self_eq_false,
    decide_false, Bool.false_eq_true, if_false]

/-- The banks are judged first: before the phase, which is a matter of state (log 15). -/
theorem poolSplitCmd_wrongBanks (hs : (splitBanks q.payload).sum ≠ unretired s) : poolSplitCmd q s = (s, inv 0) := by
  unfold splitBanks at hs
  simp [poolSplitCmd, firstErr, hs]

theorem storeCountersCmd_pool (h0 : u8 q.payload 0 = 0) (h1 : u8 q.payload 1 ≤ 3) (h4 : u8 q.payload 4 ≤ 1) :
    storeCountersCmd q s = ((readCounters 0x40 (u8 q.payload 1) 19 (decide (u8 q.payload 4 = 1)) s).2,
      okD (readCounters 0x40 (u8 q.payload 1) 19 (decide (u8 q.payload 4 = 1)) s).1) := by
  simp [storeCountersCmd, firstErr, h0, Nat.not_lt.mpr h1, Nat.not_lt.mpr h4, cPool]

theorem storeCountersCmd_port (h0 : u8 q.payload 0 = 1) (hp : portCodeOk s (u16 q.payload 2 % 4096) = true)
    (h4 : u8 q.payload 4 ≤ 1) :
    storeCountersCmd q s = ((readCounters 0x41 (u16 q.payload 2 % 4096) 2 (decide (u8 q.payload 4 = 1)) s).2,
      okD (readCounters 0x41 (u16 q.payload 2 % 4096) 2 (decide (u8 q.payload 4 = 1)) s).1) := by
  simp [storeCountersCmd, firstErr, h0, hp, Nat.not_lt.mpr h4, cPoolPort]

/-- A bank that may be retired: the command runs on beside the queue, and the retirement starts (R224). -/
theorem bankRetireRun_starts (h : InHand 0x0405 q s) (hb : u8 q.payload 0 < nBanks s)
    (hr : s.store.banks.getD (u8 q.payload 0) 4 ≠ 4) (hn : s.store.retire = [])
    (hv : retireStarves s (u8 q.payload 0) = false) :
    bankRetireRun s = startRetire (u8 q.payload 0) 1
      (s.updGv fun g => { g with taken := none, running := g.running ++ [q] }) := by
  have hcmd : bankRetireCmd q s = (s, none) := by
    rw [bankRetireCmd, firstErr_none (by simpa [hn, hv, hb] using hr)]
  simp [bankRetireRun, longRunning_runs h hcmd, h.1]

/-! ### The schedulers (R403, R404) -/

theorem schStatusCmd_port (h0 : u8 q.payload 0 = 0) (hp : u16 q.payload 2 < nPorts s) (ha : agentOf q s = 0) :
    schStatusCmd q s = (s, okD (schWireBytes s (u16 q.payload 2))) := by
  simp [schStatusCmd, h0, Nat.not_le.mpr hp, ha]

theorem schStatusCmd_channel (h0 : u8 q.payload 0 = 1) (hp : u16 q.payload 2 < nChannels s)
    (ha : (getCh s (u16 q.payload 2)).agent = agentOf q s) :
    schStatusCmd q s = (s, okD (schChannelBytes s (u16 q.payload 2))) := by
  simp [schStatusCmd, h0, Nat.not_le.mpr hp, ha]

theorem schCountersCmd_port (h0 : u8 q.payload 0 = 0) (h1 : u8 q.payload 1 ≤ 1) (hp : u16 q.payload 2 < nPorts s)
    (ha : agentOf q s = 0) :
    schCountersCmd q s = ((readCounters 0xA0 (u16 q.payload 2) 25 (decide (u8 q.payload 1 = 1)) s).2,
      okD (readCounters 0xA0 (u16 q.payload 2) 25 (decide (u8 q.payload 1 = 1)) s).1) := by
  simp [schCountersCmd, firstErr, h0, Nat.not_lt.mpr h1, Nat.not_le.mpr hp, ha]

theorem schCountersCmd_code (h0 : u8 q.payload 0 = 1) (h1 : u8 q.payload 1 ≤ 1) (hp : portCodeOk s (u16 q.payload 2) = true) :
    schCountersCmd q s = ((readCounters 0xA1 (u16 q.payload 2) 1 (decide (u8 q.payload 1 = 1)) s).2,
      okD (readCounters 0xA1 (u16 q.payload 2) 1 (decide (u8 q.payload 1 = 1)) s).1) := by
  simp [schCountersCmd, firstErr, h0, Nat.not_lt.mpr h1, hp]

/-! ### The stations (R356, R357, R383) -/

theorem staSetCmd_adds (ha : staSetArgs q s = none) (h2 : u8 q.payload 2 = 0)
    (hx : (getSta s (u16 q.payload 0)).state = .free) :
    staSetCmd q s = (
      let st := u16 q.payload 0
      let x := getSta s st
      let n := staFields q.payload { state := .active, agent := x.agent
                                     per := (bitList 3 (u8 q.payload 3)).map fun l => (l, { win := { avail := nowNs s } }) }
      raiseTo (.agents [x.agent]) 0x0981 st (toLe 1 1)
        ((List.range 4).foldl (fun s a => evalPark st a false s) (s.updSta fun t => t.set st n)), okR) := by
  simp only [staSetCmd, ha, if_pos h2, hx, bne_self_eq_false, Bool.false_eq_true, if_false]

theorem staSetCmd_notFree (ha : staSetArgs q s = none) (h2 : u8 q.payload 2 = 0)
    (hx : (getSta s (u16 q.payload 0)).state ≠ .free) : staSetCmd q s = (s, errR stWrongState) := by
  simp only [staSetCmd, ha, if_pos h2, bne_iff_ne, ne_eq, hx, not_false_eq_true, if_true]

/-- A station that goes: its queues and its frames not yet started are dropped, and it is free once no started frame is left. -/
def staLeaves (st : Nat) (s : State) : State :=
  let s1 := raiseTo (.agents [(getSta s st).agent]) 0x0981 st (toLe 1 2)
    (setSta st (fun x => { x with state := .removing, parked := 0 }) s)
  settleSta st ((List.range 3).foldl (fun s l => flushLaunch st l s) ((List.range 4).foldl (fun s a => flushQ st a s) s1))

theorem staRemoveCmd_active (ha : staArg q s = none) (hx : (getSta s (u16 q.payload 0)).state = .active) :
    staRemoveCmd q s = (staLeaves (u16 q.payload 0) s,
      if (getSta (staLeaves (u16 q.payload 0) s) (u16 q.payload 0)).state = .free then some okR else none) := by
  simp only [staRemoveCmd, ha, hx, bne_self_eq_false, Bool.false_eq_true, if_false]
  unfold staLeaves
  split <;> rfl

/-- STA_REMOVE answers at once where no frame of the station has started, and runs on beside the queue otherwise. -/
theorem longRunning_staRemove (h : InHand 0x0902 q s) (ha : staArg q s = none)
    (hx : (getSta s (u16 q.payload 0)).state = .active) :
    longRunning 0x0902 staRemoveCmd s =
      let t := staLeaves (u16 q.payload 0) s
      if (getSta t (u16 q.payload 0)).state = .free then finishTaken q okR t
      else t.updGv fun g => { g with taken := none, running := g.running ++ [q] } := by
  have hcmd := staRemoveCmd_active ha hx
  dsimp only
  split
  · rename_i hfree
    exact longRunning_answers h (hcmd.trans (by rw [if_pos hfree]))
  · rename_i hbusy
    exact longRunning_runs h (hcmd.trans (by rw [if_neg hbusy]))

theorem staFlushCmd_flushes (ha : staArg q s = none) (h2 : u8 q.payload 2 ≠ 0)
    (hx : (getSta s (u16 q.payload 0)).state = .active) :
    staFlushCmd q s = ((bitList 4 (u8 q.payload 2)).foldl (fun s a => flushQ (u16 q.payload 0) a s) s, okR) := by
  simp only [staFlushCmd, ha, if_neg h2, hx, bne_self_eq_false, Bool.false_eq_true, if_false]

theorem staStatusCmd_reads : (staStatusCmd q s).1 = s := by
  unfold staStatusCmd
  dsimp only
  split <;> rfl

theorem staCountersCmd_station (h0 : u8 q.payload 0 = 0) (h1 : u8 q.payload 1 ≤ 1) (hs : u16 q.payload 2 < nStations s)
    (ha : (getSta s (u16 q.payload 2)).agent = agentOf q s) :
    staCountersCmd q s = ((readCounters 0x90 (u16 q.payload 2) 13 (decide (u8 q.payload 1 = 1)) s).2,
      okD (readCounters 0x90 (u16 q.payload 2) 13 (decide (u8 q.payload 1 = 1)) s).1) := by
  simp [staCountersCmd, h0, Nat.not_lt.mpr h1, Nat.not_le.mpr hs, ha, cSta]

/-! ### The radio links (R358, R359, R384) -/

/-- The settings of a link that an RL_CONFIG payload gives. -/
def setLink (p : Bytes) (s : State) : State :=
  setRl (u8 p 0) (fun r => { r with
    upTb := some (u8 p 2), defRate := ⟨le p 4 3, u8 p 7, u16 p 8⟩, rateTo := u16 p 12, doneTo := u16 p 14
    maxDn := u16 p 16 }) s

/-- An RL_CONFIG payload with every field in its range. -/
structure LinkLawful (p : Bytes) : Prop where
  link : u8 p 0 < 3
  enable : u8 p 1 ≤ 1
  base : u8 p 2 ≤ 7
  byteTime : le p 4 3 ≠ 0
  agg : u8 p 7 ≠ 0
  maxLow : 64 ≤ u16 p 16
  maxHigh : u16 p 16 ≤ 10336

section Lawful

variable (h : LinkLawful q.payload)

include h

theorem rlConfigCmd_lawful : rlConfigCmd q s = (
    if (getRl s (u8 q.payload 0)).enabled = (u8 q.payload 1 = 1) then setLink q.payload s
    else if u8 q.payload 1 = 1 then rlEnable (u8 q.payload 0) (setLink q.payload s)
    else rlDisable (u8 q.payload 0) (setLink q.payload s), okR) := by
  obtain ⟨hl, he, hb, ht, ha, hlo, hhi⟩ := h
  simp only [rlConfigCmd]
  rw [firstErr_none (by simp [hl, he, hb, ht, ha, hlo, hhi])]
  unfold setLink
  dsimp only
  split
  · rfl
  · split <;> rfl

theorem rlConfigCmd_keeps (he : (getRl s (u8 q.payload 0)).enabled = decide (u8 q.payload 1 = 1)) :
    rlConfigCmd q s = (setLink q.payload s, okR) := by
  rw [rlConfigCmd_lawful h, if_pos (by simp [he])]

theorem rlConfigCmd_enables (he : (getRl s (u8 q.payload 0)).enabled = false) (h1 : u8 q.payload 1 = 1) :
    rlConfigCmd q s = (rlEnable (u8 q.payload 0) (setLink q.payload s), okR) := by
  rw [rlConfigCmd_lawful h, if_neg (by simp [he, h1]), if_pos h1]

theorem rlConfigCmd_disables (he : (getRl s (u8 q.payload 0)).enabled = true) (h1 : u8 q.payload 1 = 0) :
    rlConfigCmd q s = (rlDisable (u8 q.payload 0) (setLink q.payload s), okR) := by
  rw [rlConfigCmd_lawful h, if_neg (by simp [he, h1]), if_neg (by simp [h1])]

end Lawful

theorem rlStatusCmd_reads : (rlStatusCmd q s).1 = s := by
  unfold rlStatusCmd
  dsimp only
  split <;> rfl

end UnitCommands

/-- Settles O50: each command in hand finishes with what its own function answers, and a long-running one runs on beside the queue
where it does not answer at once.  STORE_POOL_SPLIT judges its arguments before the state (log 15). -/
theorem storeSchedulerAndStationCommandRows : Obligations.StoreSchedulerAndStationCommandRows := by
  refine ⟨fun s q => ⟨fun h h32 hs hu he hc => ?_, fun h hs => ?_, fun h => ?_, fun h h0 h1 h4 => ?_, fun h h0 hp h4 => ?_,
      fun h hb hr hn hv => ?_, fun h h0 hp ha => ?_, fun h h0 hp ha => ?_, fun h h0 h1 hp ha => ?_, fun h h0 h1 hp => ?_⟩,
    fun s q => ⟨fun h ha h2 hx => ?_, fun h ha h2 hx => ?_, fun h ha hx => ?_, fun h ha h2 hx => ?_, fun h _ => ?_,
      fun h h0 h1 hs ha => ?_, fun h hl he hb ht ha hlo hhi => ?_, fun h _ => ?_⟩⟩
  · exact congrArg Host.Outcome.next (immediate_inHand h (poolSplitCmd_splits h32 hs hu he hc))
  · exact congrArg Host.Outcome.next (immediate_inHand h (poolSplitCmd_wrongBanks hs))
  · exact congrArg Host.Outcome.next (immediate_inHand h rfl)
  · exact congrArg Host.Outcome.next (immediate_inHand h (storeCountersCmd_pool h0 h1 h4))
  · exact congrArg Host.Outcome.next (immediate_inHand h (storeCountersCmd_port h0 hp h4))
  · exact congrArg Host.Outcome.next (bankRetireRun_starts h hb hr hn hv)
  · exact congrArg Host.Outcome.next (immediate_inHand h (schStatusCmd_port h0 hp ha))
  · exact congrArg Host.Outcome.next (immediate_inHand h (schStatusCmd_channel h0 hp ha))
  · exact congrArg Host.Outcome.next (immediate_inHand h (schCountersCmd_port h0 h1 hp ha))
  · exact congrArg Host.Outcome.next (immediate_inHand h (schCountersCmd_code h0 h1 hp))
  · exact congrArg Host.Outcome.next (immediate_inHand h (staSetCmd_adds ha h2 hx))
  · exact congrArg Host.Outcome.next (immediate_inHand h (staSetCmd_notFree ha h2 hx))
  · intro _ t
    have ht : t = staLeaves (u16 q.payload 0) s := rfl
    rw [ht]
    exact congrArg Host.Outcome.next (longRunning_staRemove h ha hx)
  · exact congrArg Host.Outcome.next (immediate_inHand h (staFlushCmd_flushes ha h2 hx))
  · exact congrArg Host.Outcome.next (immediate_inHand h (Prod.ext staStatusCmd_reads rfl))
  · exact congrArg Host.Outcome.next (immediate_inHand h (staCountersCmd_station h0 h1 hs ha))
  · have lawful : LinkLawful q.payload := ⟨hl, he, hb, ht, ha, hlo, hhi⟩
    exact ⟨fun hk => congrArg Host.Outcome.next (immediate_inHand h (rlConfigCmd_keeps lawful hk)),
      fun hk h1 => congrArg Host.Outcome.next (immediate_inHand h (rlConfigCmd_enables lawful hk h1)),
      fun hk h1 => congrArg Host.Outcome.next (immediate_inHand h (rlConfigCmd_disables lawful hk h1))⟩
  · exact congrArg Host.Outcome.next (immediate_inHand h (Prod.ext rlStatusCmd_reads rfl))

end Sys2Proof.Machine

namespace Sys2Proof.Machine

open Sys2Proof

/-! ## The rule generations and their commands (R245, R247, R250, R251, R253, R254) -/

section ClassifierCommands

variable {s : State} {q : Req} {x : Gen} {v : Ver} {g : Nat}

/-! ### CLS_GEN_RETIRE (R250) -/

/-- A generation that is neither current nor RETIRING is marked, and its queued frames are dropped. -/
theorem genRetireCmd_marks (hf : findGen s (u16 q.payload 0) = some x) (hw : x.sweeping = false)
    (hc : u16 q.payload 0 ≠ s.cls.current) (hr : x.retiring = false) :
    genRetireCmd q s = (purgeGen (u16 q.payload 0)
      (updGen (u16 q.payload 0) (fun x => { x with retiring := true }) s), okR) := by
  simp only [genRetireCmd, hf, hw, hc, hr, decide_false, Bool.or_false, Bool.false_eq_true, if_false]

theorem genRetireCmd_wrongState (hf : findGen s (u16 q.payload 0) = some x) (hw : x.sweeping = false)
    (h : u16 q.payload 0 = s.cls.current ∨ x.retiring = true) : genRetireCmd q s = (s, errR stWrongState) := by
  have hb : (decide (u16 q.payload 0 = s.cls.current) || x.retiring) = true := by simpa using h
  simp only [genRetireCmd, hf, hw, hb, Bool.false_eq_true, if_false, if_true]

theorem genRetireCmd_notResident (hf : findGen s (u16 q.payload 0) = none) :
    genRetireCmd q s = (s, errR stNotFound) := by
  simp only [genRetireCmd, hf]

/-! ### CLS_RULE_READ (R245) -/

/-- What CLS_RULE_READ answers for a version of the rule that its payload names. -/
def ruleEntry (p : Bytes) (v : Ver) : Bytes :=
  toLe 1 (u8 p 0) ++ toLe 1 (b2n v.bornAny + 2 * b2n v.died.isSome) ++ slice v.val 2 2 ++ toLe 4 (u32 p 4) ++ toLe 2 v.born ++
    toLe 2 (v.died.getD 0) ++ toLe 4 v.slot ++ toLe 8 v.hits ++ zeros 8 ++ slice v.val 16 64 ++ slice v.val 80 64 ++
    slice v.val 144 32

/-- CLEAR 1 makes the count of the rule slot that a version holds 0. -/
def clearHits (v : Ver) (s : State) : State :=
  s.updCls fun c => { c with vers := mapIf c.vers (fun w => w.kind = .rule && w.slot = v.slot) fun w => { w with hits := 0 } }

/-- A CLS_RULE_READ payload with every field in its range, of a resident generation. -/
structure RuleReadLawful (p : Bytes) (s : State) : Prop where
  table : u8 p 0 ≤ 7
  clear : u8 p 8 ≤ 1
  resident : (findGen s (u16 p 2)).isSome = true

section Lawful

variable (h : RuleReadLawful q.payload s)

include h

theorem ruleRead_accepted : firstErr [(decide (u8 q.payload 0 > 7), inv 0), (decide (u8 q.payload 8 > 1), inv 8),
    ((findGen s (u16 q.payload 2)).isNone, errR stNotFound)] = none := by
  obtain ⟨ht, hc, hg⟩ := h
  exact firstErr_none (by simpa [ht, hc, Option.ne_none_iff_isSome] using hg)

theorem ruleReadCmd_found (hv : findVer s .rule (u8 q.payload 0 * 2 ^ 32 + u32 q.payload 4) (u16 q.payload 2) = some v) :
    ruleReadCmd q s = (if u8 q.payload 8 = 1 then clearHits v s else s, okD (ruleEntry q.payload v)) := by
  simp only [ruleReadCmd, hv, ruleRead_accepted h]
  rfl

theorem ruleReadCmd_notFound (hv : findVer s .rule (u8 q.payload 0 * 2 ^ 32 + u32 q.payload 4) (u16 q.payload 2) = none) :
    ruleReadCmd q s = (s, errR stNotFound) := by
  simp only [ruleReadCmd, hv, ruleRead_accepted h]

end Lawful

/-! ### CLS_COUNTERS_GET (R253) -/

theorem clsCountersCmd_port (hp : portCodeOk s (u16 q.payload 0) = true) (h2 : u8 q.payload 2 ≤ 1) :
    clsCountersCmd q s = ((readCounters 0x50 (u16 q.payload 0) 12 (decide (u8 q.payload 2 = 1)) s).2,
      okD (readCounters 0x50 (u16 q.payload 0) 12 (decide (u8 q.payload 2 = 1)) s).1) := by
  simp only [clsCountersCmd, hp, Nat.not_lt.mpr h2, Bool.not_true, Bool.false_eq_true, if_false]

/-! ### The end of a sweep and a slow generation (R247, R251, R254) -/

theorem genSweepEnd_served (h : Serving s) : genSweepEnd s = endSweep s := by
  obtain ⟨hheld, hon⟩ := h
  simp only [genSweepEnd, hheld, hon, Bool.or_false, Bool.false_eq_true, if_false]

theorem genSlow_raised (h : Serving s) (hf : findGen s g = some x) (hc : g ≠ s.cls.current) :
    genSlow g s = raiseAll 0x0582
      (toLe 2 g ++ zeros 2 ++ toLe 4 x.inflight ++ toLe 4 ((nowNs s - x.since) / 1000000000)) s := by
  obtain ⟨hheld, hon⟩ := h
  simp only [genSlow, hf, hc, hheld, hon, decide_false, Bool.or_false, Bool.false_eq_true, if_false]

theorem genSlow_notResident (hf : findGen s g = none) : genSlow g s = s := by
  simp only [genSlow, hf]

end ClassifierCommands

/-- Settles O52: each command in hand finishes with what its own function answers, and each event acts by the law of its function in
that case.  With CLEAR 0 a read of a rule leaves its count of hits; a generation that is not resident is never slow. -/
theorem classifierRows : Obligations.ClassifierRows := by
  refine fun s q g => ⟨fun h => ?_, fun x h hf hw hc hr => ?_, fun x h hf hw hs => ?_, fun h hf => ?_,
    fun v h ht hc hg hv => ?_, fun h ht hc hg hv => ?_, fun h hp h2 => ?_, fun hs => ?_, fun x hs hf hc => ?_, fun hf => ?_⟩
  · exact congrArg Host.Outcome.next (immediate_inHand h rfl)
  · exact congrArg Host.Outcome.next (immediate_inHand h (genRetireCmd_marks hf hw hc hr))
  · exact congrArg Host.Outcome.next (immediate_inHand h (genRetireCmd_wrongState hf hw hs))
  · exact congrArg Host.Outcome.next (immediate_inHand h (genRetireCmd_notResident hf))
  · have hread := ruleReadCmd_found ⟨ht, by omega, hg⟩ hv
    rw [if_neg (by omega)] at hread
    exact congrArg Host.Outcome.next (immediate_inHand h hread)
  · exact congrArg Host.Outcome.next (immediate_inHand h (ruleReadCmd_notFound ⟨ht, hc, hg⟩ hv))
  · exact congrArg Host.Outcome.next (immediate_inHand h (clsCountersCmd_port hp h2))
  · exact congrArg Host.Outcome.next (genSweepEnd_served hs)
  · exact congrArg Host.Outcome.next (genSlow_raised hs hf hc)
  · exact congrArg Host.Outcome.next (genSlow_notResident hf)

end Sys2Proof.Machine

namespace Sys2Proof.Machine

open Sys2Proof

/-! ## Flow operations of a thread (R271, R297, R299, R311, R319) -/

section FlowOperations

variable {s : State} {e t i : Nat} {p : Flop} {r : FlopRes}

/-- A flow operation of a thread that can issue one, and whose epoch is the engine's, parks the thread and starts or acts for
the holder of its claims. -/
theorem flopOp_acts {o : Claimer} {f : Claimer → State → State} (hr : canRun s e t = true) (hf : fenced s e t = false)
    (ho : claimerOf s e t = some o) : flopOp e t f s = f o (parkFlop e t s) := by
  rw [flopOp, outside_open hr hf]
  simp only [ho]

/-- The thread runs again, the outcome of its flow operation in w1 and the index in w2, and the operation is over. -/
def outcomeTaken (e t : Nat) (r : FlopRes) (i : Nat) (s : State) : State :=
  setThr e t (fun x => { x with park := .none }) (setW e t 2 (BitVec.ofNat 32 i)
    (setW e t 1 (Config.code (flopCode r)) (s.updFlow fun x => { x with flops := x.flops.filter (·.by_ != .thread e t) })))

/-- A stop that waited for the outcome applies at it (R319). -/
theorem flopOutcome_parked (hp : flopOf s (.thread e t) = some p) (hr : p.result = some (r, i))
    (hk : (getThr s e t).park = .flop) : flopOutcome e t s =
      if (getThr s e t).stop = true then overtime e t (outcomeTaken e t r i s) else outcomeTaken e t r i s := by
  simp only [flopOutcome, hp, hr, hk, bne_self_eq_false, Bool.false_eq_true, if_false]
  rfl

theorem outcomeTaken_base : (getThr (outcomeTaken e t r i s) e t).base = (getThr s e t).base := by
  simp only [outcomeTaken, setW, getThr_setThr]
  rfl

section NoBaseProgram

variable (hb : (getThr s e t).base = .none)

include hb

theorem baseFence_ownProgram : baseFence e t s = s := by simp [baseFence, hb]

/-- A thread that runs no base program does with the outcome what its own program says. -/
theorem baseFlop_ownProgram {x : Option Flop} : baseFlop e t x s = s := by
  unfold baseFlop
  simp only [baseFence_ownProgram hb, ite_self, hb]
  split <;> rfl

end NoBaseProgram

end FlowOperations

/-- Settles O24: a flow operation that is not fenced acts by `flopOp_acts`, and its outcome by `flopOutcome_parked`.  The outcome
stands in w1 and w2 (R299), a stop waits for it (R319), and a base program takes it at once (log 82). -/
theorem flowOperationRows : Obligations.FlowOperationRows := by
  refine ⟨fun s e t o hr hf ho => ?_, fun s e t i p r hc hp hr hk => ?_⟩
  · exact ⟨fun key => congrArg Host.Outcome.next (flopOp_acts hr hf ho),
      fun index seen => congrArg Host.Outcome.next (flopOp_acts hr hf ho),
      fun c image => congrArg Host.Outcome.next (flopOp_acts hr hf ho),
      fun c => congrArg Host.Outcome.next (flopOp_acts hr hf ho)⟩
  · have outcome : exec (.flopOutcome e t) s = .next (baseFlop e t (some p) (if (getThr s e t).stop = true then
        overtime e t (outcomeTaken e t r i s) else outcomeTaken e t r i s)) := by
      rw [← flopOutcome_parked hp hr hk, ← hp]
      exact congrArg Host.Outcome.next (clocked_on hc)
    refine ⟨outcome, fun hs hb => ?_⟩
    rw [hs, if_neg Bool.false_ne_true, baseFlop_ownProgram (outcomeTaken_base.trans hb)] at outcome
    exact outcome

end Sys2Proof.Machine

namespace Sys2Proof.Machine

open Sys2Proof

/-! ## Budgets, dispatch, input queues and the base programs (R274, R293, R297, R303, R307, R308) -/

section EngineEvents

variable {s u v : State} {e t i : Nat}

/-! ### A spent budget (R297, R319) -/

section Budget

variable (hh : (getThr s e t).hold = .slot i) (hb : (getThr s e t).busy = true)

include hh hb

theorem budgetExpire_ends (hk : (getThr s e t).park ≠ .flop) : budgetExpire e t s = overtime e t s := by
  simp only [budgetExpire, hh, hb, Bool.not_true, Bool.false_eq_true, if_false]

theorem budgetExpire_waits (hk : (getThr s e t).park = .flop) :
    budgetExpire e t s = setThr e t (fun y => { y with stop := true }) s := by
  simp [budgetExpire, hh, hb, hk]

end Budget

/-! ### The dispatcher (R293) -/

section Dispatcher

variable {rest : List Nat} {x : ReEnt} {prog : Nat} {entry : Option Nat}
  (hd : s.pipe.disp = i :: rest) (hx : getSlot s i = some x)

include hd hx

/-- The head of the dispatcher's queue goes to the first engine in turn that has a free thread. -/
theorem dispatchNext_sends (hp : hookEntry s x.frame.hook = some (prog, entry))
    (ho : (dispatchOrder s).findSome? (fun e => (freeThread s e).map fun t => (e, t)) = some (e, t)) :
    dispatchNext s =
      let n := s.pipe.nextDisp
      let s1 := setSlot i (fun y => { y with state := .held e t, order := if x.frame.redisp = 0 then n else y.order })
        (pinBuf x.frame.h (s.updPipe fun p => { p with disp := rest }))
      let s2 := s1.updPipe fun p => { p with last := e, nextDisp := n + 1 }
      let s3 := bump cEng e 0 (if x.frame.redisp = 0 then s2 else bump cEng e 1 s2)
      let s4 := startThread e t x.frame (.slot i) x.frame.reason i prog entry s3
      pumpOut (s4.pipe.out.length + 1) (pmuEvent (8 + e) 7 1 t s4) := by
  simp only [dispatchNext, hd, hx, hp, ho]

/-- A frame whose hook has no program is dropped. -/
theorem dispatchNext_unbound (hp : hookEntry s x.frame.hook = none) :
    dispatchNext s =
      let s1 := s.updPipe fun p => { p with disp := rest }
      pumpOut (s1.pipe.out.length + 1) (slotDrop i cEngPort 0 s1) := by
  simp only [dispatchNext, hd, hx, hp]

end Dispatcher

/-! ### An engine's input queue (R215, R303; log 11) -/

section InputQueue

variable {q : QE} {rest : List QE} {b : Buf} {x : Option Xfer} {prog : Nat} {entry : Option Nat}
  (hm : (getEng s e).mode = .active) (hd : s.pipe.disp = []) (ht : freeThread s e = some t)
  (hq : getQ s (.eng e) = q :: rest) (hb : getBuf s q.h = some b) (hr : isRetiring s (recGen b.record) = false)
  (hp : hookEntry s (getEng s e).destHook = some (prog, entry))

include hm hd ht hq hb hr hp

theorem inqTake_waits (hf : fetchPinned (.inq e) q.h s = (none, u)) : inqTake e s = u := by
  simp [inqTake, hm, hd, ht, hq, hb, hr, hp, hf]

/-- Once the head is read, it starts on the free thread if it verifies, and is lost if not. -/
theorem inqTake_fetched (hf : fetchPinned (.inq e) q.h s = (some x, u)) :
    let v := popInq (.eng e) u
    inqTake e s = if readGood v q.h q.oseq x then
        pmuEvent (8 + e) 8 1 t (startThread e t (inqFrame e q b (readRecord v q.h x) (readData v q.h x) v)
          (.inq (inqFrame e q b (readRecord v q.h x) (readData v q.h x) v)) 8 0xFFFF prog entry v)
      else dropInqHead e q.h (checkFail q.h q.oseq (readKind 0 x) (engPort e) (unpinBuf q.h v)) := by
  simp [inqTake, hm, hd, ht, hq, hb, hr, hp, hf, ← Bool.not_eq_true, ite_not]

end InputQueue

/-! ### The base programs at their dispatch (R274, R307; log 82) -/

section BaseProgram

variable {f : PFrame} (hh : heldFrame s e t = some f) (hb : (getThr s e t).base = .fresh)

include hh hb

theorem baseStart_learn (hk : (getThr s e t).hook = 1) : baseStart e t s = learnStart e t f s := by
  simp only [baseStart, hh, hb, hk]

theorem baseStart_ttlExpired (hk : (getThr s e t).hook = 2) : baseStart e t s = withFrame e t f (ttlExpired e t f) s := by
  simp only [baseStart, hh, hb, hk]

end BaseProgram

/-- LEARN handles the flow events of a miss and of a claim alone; a frame of another REASON is dropped. -/
theorem learnStart_otherReason {f : PFrame} (h3 : u8 (getThr s e t).desc 41 ≠ 3) (h4 : u8 (getThr s e t).desc 41 ≠ 4) :
    learnStart e t f s = baseEnd e t (.drop cEngPort 1) s := by
  unfold learnStart
  split
  · exact absurd ‹_› h3
  · exact absurd ‹_› h4
  · rfl

theorem learnStart_claims {f : PFrame} (h4 : u8 (getThr s e t).desc 41 = 4) :
    learnStart e t f s = askClaim e t f (origKey s f) .orig s := by
  simp only [learnStart, h4]

/-! ### A base program that needs its whole frame (R215, R290) -/

section WholeFrame

variable {f : PFrame} {x : Option Xfer} {go : Bytes → State → State}

theorem withFrame_waits (hf : fetchBuf (.thread e t) f.h s = (none, u)) : withFrame e t f go s = u := by
  simp only [withFrame, hf]

variable (hf : fetchBuf (.thread e t) f.h s = (some x, u))

include hf

theorem withFrame_lost (hl : windowLost u f.h x = true) :
    withFrame e t f go s = baseEnd e t .forward (setThr e t (fun y => { y with bad := true }) u) := by
  simp only [withFrame, hf, hl, if_true]

theorem withFrame_read (hl : windowLost u f.h x = false) : withFrame e t f go s = go (readData u f.h x) u := by
  simp only [withFrame, hf, hl, Bool.false_eq_true, if_false]

end WholeFrame

/-! ### TTL_EXPIRED (R308) -/

section TtlExpired

variable {f : PFrame} {d m : Bytes}

/-- No message is sent while ICMP_REPLY is 0, beyond the rate, or in the cases that the rule names; the frame is dropped. -/
theorem ttlExpired_silent (h : s.eng.icmp = false ∨ rateLeft s e = false ∨ exceededFrame s f d = none) :
    ttlExpired e t f d s = baseEnd e t (.drop cFlowPort 10) s := by
  unfold ttlExpired
  obtain h | h | h := h
  · simp [h]
  · simp [h]
  · simp [h]

theorem ttlExpired_sends {p h : Nat} (hi : s.eng.icmp = true) (hr : rateLeft s e = true)
    (hm : exceededFrame s f d = some m) (hp : poolFor m.length = some p)
    (ha : allocBuf p (noteIcmp e (baseEnd e t (.drop cFlowPort 10) s)) = (some h, v)) :
    ttlExpired e t f d s =
      placeSend e t { port := engPort e, h := some h, data := m, tag := 2, tc := f.tc } (bump cEng e 4 v) := by
  simp [ttlExpired, hi, hr, hm, hp, ha]

/-- No message answers an IPv4 frame from a group address, from a multicast source, or with an ICMP error message. -/
theorem exceededFrame_ipv4_none (hk : l3Kind f.pres 0 = 0)
    (h : (u8 d 6).testBit 0 = true ∨
      (224 ≤ u8 d (slotOf f.pres 0 2 + 12) ∧ u8 d (slotOf f.pres 0 2 + 12) < 240) ∨
      errorMessage d (slotOf f.pres 0 2) false = true) : exceededFrame s f d = none := by
  unfold exceededFrame
  obtain h | ⟨hlo, hhi⟩ | h := h
  · simp [h]
  · simp [hk, hlo, hhi]
  · simp [hk, h]

/-- No message answers an IPv6 frame from a group address, from a multicast source, or with an ICMPv6 error message, and none any
while IPV6_SRC is 0. -/
theorem exceededFrame_ipv6_none (hk : l3Kind f.pres 0 = 1)
    (h : (u8 d 6).testBit 0 = true ∨ u8 d (slotOf f.pres 0 2 + 8) = 255 ∨
      errorMessage d (slotOf f.pres 0 2) true = true ∨ allZero s.eng.ipv6Src = true) : exceededFrame s f d = none := by
  unfold exceededFrame
  obtain h | h | h | h := h
  · simp [h]
  · simp [hk, h]
  · simp [hk, h]
  · simp [hk, h]

end TtlExpired

@[simp] theorem toLe_length {n k : Nat} : (toLe n k).length = n := by
  induction n generalizing k with
  | zero => rfl
  | succ n ih => rw [toLe, List.length_cons, ih]

@[simp] theorem toBe_length {n k : Nat} : (toBe n k).length = n := by
  rw [toBe, List.length_reverse, toLe_length]

@[simp] theorem slice_length {b : Bytes} {o n : Nat} : (slice b o n).length = n := by
  simp [slice]

@[simp] theorem zeros_length {n : Nat} : (zeros n).length = n := List.length_replicate

/-- The quoted bytes fill what the two headers leave of 1,280 bytes. -/
theorem ipv6Exceeded_length {d : Bytes} {o : Nat} :
    (ipv6Exceeded s d o).length = 48 + min (1280 - 48) (ipv6Packet d o).length := by
  simp only [ipv6Exceeded, List.length_append, List.length_cons, List.length_nil, toBe_length, slice_length, zeros_length,
    List.length_take]
  omega

/-! ### A base program begins in the command that starts its thread (log 82) -/

theorem exec_engineDispatch (hc : coreOff s = false) (h : dispatchNext s = u) :
    exec .engineDispatch s = .next (baseStarts u) := by
  rw [← h]
  exact congrArg Host.Outcome.next (clocked_on hc)

theorem exec_inqTake (hc : coreOff s = false) (h : inqTake e s = u) : exec (.inqTake e) s = .next (baseStarts u) := by
  rw [← h]
  exact congrArg Host.Outcome.next (clocked_on hc)

end EngineEvents

/-- Settles O25: each row by the law of its function in that case; a base program begins in the command that dispatches it
(log 82).  The reads of a frame in host memory are `fetchPinned`'s and `fetchBuf`'s (log 11). -/
theorem engineEventRows : Obligations.EngineEventRows := by
  refine ⟨fun s e t hc => ?_, fun s e t f d => ⟨fun hh hb => ?_, ?_, fun o => ?_⟩⟩
  · have hon : ∀ {t : State}, clocked s t = t := clocked_on hc
    refine ⟨fun i hh hb hk => congrArg Host.Outcome.next (hon.trans (budgetExpire_ends hh hb hk)),
      fun i hh hb hk => congrArg Host.Outcome.next (hon.trans (budgetExpire_waits hh hb hk)),
      fun i rest x prog entry hd hx hp ho => exec_engineDispatch hc (dispatchNext_sends hd hx hp ho),
      fun i rest x hd hx hp => exec_engineDispatch hc (dispatchNext_unbound hd hx hp),
      fun q rest b prog entry hm hd ht hq hb hr hp =>
        ⟨fun u hf => exec_inqTake hc (inqTake_waits hm hd ht hq hb hr hp hf), fun x v hf => ?_⟩⟩
    have taken := inqTake_fetched hm hd ht hq hb hr hp hf
    exact ⟨fun hg => exec_inqTake hc (taken.trans (if_pos hg)),
      fun hg => exec_inqTake hc (taken.trans (if_neg (ne_true_of_eq_false hg)))⟩
  · refine ⟨fun hk h3 h4 => (baseStart_learn hh hb hk).trans (learnStart_otherReason h3 h4),
      fun hk h4 => (baseStart_learn hh hb hk).trans (learnStart_claims h4),
      fun u hk hf => (baseStart_ttlExpired hh hb hk).trans (withFrame_waits hf),
      fun x u hk hf => ⟨fun hl => (baseStart_ttlExpired hh hb hk).trans (withFrame_lost hf hl), fun hl => ?_⟩⟩
    have read := (baseStart_ttlExpired hh hb hk).trans (withFrame_read hf hl)
    exact ⟨fun h => read.trans (ttlExpired_silent h),
      fun m p h v hi hr hm hp ha => read.trans (ttlExpired_sends hi hr hm hp ha)⟩
  · exact ⟨exceededFrame_ipv4_none, exceededFrame_ipv6_none⟩
  · rw [ipv6Exceeded_length]
    omega

end Sys2Proof.Machine

namespace Sys2Proof.Machine

open Sys2Proof

/-! ## The commands of flows and the aging scan (R258, R261, R271, R275, R277, R280, R286) -/

section FlowCommands

variable {s : State} {q : Req}

/-! ### The immediate commands -/

theorem flowPolicerCmd_sets (hp : u16 q.payload 0 ≤ 4095) (ha : policerArgs q.payload 2 3 4 8 = none) :
    flowPolicerCmd q s = (s.updFlow fun f => { f with
      policers := f.policers.upd (u16 q.payload 0) {} fun x =>
        x.set (nowNs s) (u8 q.payload 2) (u32 q.payload 4) (u32 q.payload 8) (decide (u8 q.payload 3 = 1)) }, okR) := by
  have hid : firstErr [(decide (u16 q.payload 0 > 4095), inv 0)] = none := firstErr_none (by simp [hp])
  simp only [flowPolicerCmd, hid, ha]

/-- The timeouts of a FLOW_AGE_SET payload, in the order of the rows of R275. -/
def ageTimeouts (p : Bytes) : List Nat := (List.range 8).map fun i => u16 p (4 + 2 * i)

theorem flowAgeCmd_sets (h0 : u16 q.payload 0 ≠ 0) (hp : u16 q.payload 0 ≤ 2047)
    (ht : ∀ i < 8, (ageTimeouts q.payload).getD i 0 ≠ 0 ∧ (ageTimeouts q.payload).getD i 0 ≤ 2047 ∧
      u16 q.payload 0 + (ageTimeouts q.payload).getD i 0 ≤ 2047) :
    flowAgeCmd q s = (s.updFlow fun f => { f with scanPer := u16 q.payload 0, timeouts := ageTimeouts q.payload }, okR) := by
  have hbad : (List.range 8).find? (fun i => decide ((ageTimeouts q.payload).getD i 0 = 0) ||
      decide ((ageTimeouts q.payload).getD i 0 > 2047) ||
      decide (u16 q.payload 0 + (ageTimeouts q.payload).getD i 0 > 2047)) = none := by
    simp only [List.find?_range_eq_none]
    intro i hi
    obtain ⟨hz, hmax, hsum⟩ := ht i hi
    simp only [hz, Nat.not_lt.mpr hmax, Nat.not_lt.mpr hsum, decide_false, Bool.or_self, Bool.not_false]
  unfold ageTimeouts at hbad ⊢
  simp only [flowAgeCmd, h0, Nat.not_lt.mpr hp, hbad, gt_iff_lt, decide_false, Bool.or_self, Bool.false_eq_true, if_false]

section TableSet

variable (ht : u8 q.payload 4 ≤ 60)

include ht

theorem flowTableCmd_sets (hp : s.sys.phase = 1) :
    flowTableCmd q s = (s.updFlow fun f => { f with seed := u32 q.payload 0, tick := u8 q.payload 4 }, okR) := by
  simp [flowTableCmd, Nat.not_lt.mpr ht, hp]

theorem flowTableCmd_wrongState (hp : s.sys.phase ≠ 1) : flowTableCmd q s = (s, errR stWrongState) := by
  simp [flowTableCmd, Nat.not_lt.mpr ht, hp]

end TableSet

theorem flowCountersCmd_blockWide (h0 : u8 q.payload 0 = 2) (h1 : u8 q.payload 1 ≤ 1) :
    flowCountersCmd q s = ((readCounters 0x62 0 7 (decide (u8 q.payload 1 = 1)) s).2,
      okD (readCounters 0x62 0 7 (decide (u8 q.payload 1 = 1)) s).1) := by
  simp [flowCountersCmd, h0, Nat.not_lt.mpr h1, cFlow]

/-! ### The commands that become jobs of the table service (log 26) -/

section Jobs

variable {code : Nat} {args : Bytes → State → Option Reply} {op : Bytes → SvcOp}

theorem svcCommand_runs (h : InHand code q s) (ha : args q.payload s = none) :
    svcCommand code args op s =
      svcPump ((s.updFlow fun f => { f with jobs := f.jobs ++ [{ mb := some q.mb, op := op q.payload }] }).updGv
        fun g => { g with taken := none, running := g.running ++ [q] }) := by
  rw [svcCommand, longRunning_runs h]
  simp only [ha]

theorem svcCommand_refused {r : Reply} (h : InHand code q s) (ha : args q.payload s = some r) :
    svcCommand code args op s = svcPump (finishTaken q r s) := by
  rw [svcCommand, longRunning_answers h]
  simp only [ha]

end Jobs

theorem noTable_set (ht : s.host.flow.size ≠ 0) : noTable s = none := if_neg ht

theorem noTable_unset (ht : s.host.flow.size = 0) : noTable s = some (errR stNotConfigured) := if_pos ht

theorem indexArg_inTable {p : Bytes} (ht : s.host.flow.size ≠ 0) (hi : u32 p 0 < 4 * nBuckets s) : indexArg p s = none := by
  simp only [indexArg, noTable_set ht, Option.none_or, if_neg (Nat.not_le.mpr hi)]

/-! ### FLOW_READ -/

section Read

variable (h : InHand 0x0607 q s) (ht : s.host.flow.size ≠ 0) (hi : u32 q.payload 0 < 4 * nBuckets s)
  (hx : s.host.xfers.any (fun x => decide (x.purp = .svcRead q.mb)) = false)

include h ht hi hx

theorem flowReadRun_cached {w : Way} (hw : wayOf s (u32 q.payload 0) = some w) :
    flowReadRun s = finishTaken q (flowImage s (u32 q.payload 0) w.image true) s := by
  obtain ⟨htaken, hjudge⟩ := h
  simp only [flowReadRun, htaken, hx, hjudge, indexArg_inTable ht hi, hw, Option.none_or, Bool.false_eq_true, if_false]

/-- An entry that is not cached is read from its bucket, once no write to it is outstanding (R43). -/
theorem flowReadRun_reads (hw : wayOf s (u32 q.payload 0) = none) (hb : bucketBusy s (u32 q.payload 0 / 4) = false)
    (hr : regionOk s (bucketAddr s (u32 q.payload 0 / 4)) 128 = true) :
    flowReadRun s = startXfer (.svcRead q.mb) false (svcSid s) (bucketAddr s (u32 q.payload 0 / 4)) 128 [] s := by
  obtain ⟨htaken, hjudge⟩ := h
  simp only [flowReadRun, htaken, hx, hjudge, indexArg_inTable ht hi, hw, hb, hr, Option.none_or, Bool.false_eq_true,
    if_false, if_true]

end Read

/-! ### The next pair of buckets (R275, R286, R511) -/

/-- The table service takes no pair: nothing but a flush may go on, there is no table or no engine, or it has work in hand. -/
def NoPair (s : State) : Prop :=
  (draining s = true ∧ flushJob s = none) ∨ s.host.flow.size = 0 ∨ (serviceEngine s).isNone = true ∨
    (jobAt s).isSome = true ∨ s.flow.looking.isSome = true

/-- `NoPair` is the condition under which AGING_PAIR takes up nothing. -/
theorem noPair_iff : ((draining s && (flushJob s).isNone) || decide (s.host.flow.size = 0) || (serviceEngine s).isNone ||
    (jobAt s).isSome || s.flow.looking.isSome) = true ↔ NoPair s := by
  simp [NoPair, or_assoc]

/-- A service with nothing in hand takes a pair, unless SYS_QUIESCE drains the block and no flush goes on. -/
theorem not_noPair (ht : s.host.flow.size ≠ 0) (he : (serviceEngine s).isSome = true) (hj : jobAt s = none)
    (hl : s.flow.looking = none) (hd : draining s = true → flushJob s ≠ none) : ¬ NoPair s := by
  have hengine : (serviceEngine s).isNone = false := by simpa using he
  simpa [NoPair, ht, hengine, hj, hl] using hd

theorem agingPair_noPair (h : NoPair s) : agingPair s = svcPump s := if_pos (noPair_iff.mpr h)

section Pair

variable (h : ¬ NoPair s)

include h

theorem agingPair_flush {i : Nat} {j : SvcJob} (hf : flushJob s = some (i, j)) :
    agingPair s = svcPump (s.updFlow fun f => { f with looking := some { pos := j.pos, flush := true } }) := by
  rw [agingPair, if_neg (noPair_iff.not.mpr h)]
  simp only [hf]

theorem agingPair_pass (hf : flushJob s = none) (hk : s.flow.tick ≠ 0) :
    agingPair s = svcPump (s.updFlow fun f => { f with looking := some { pos := f.scan, flush := false } }) := by
  rw [agingPair, if_neg (noPair_iff.not.mpr h)]
  simp only [hf, hk, if_false]

/-- With TICK 0 there is no aging. -/
theorem agingPair_off (hf : flushJob s = none) (hk : s.flow.tick = 0) : agingPair s = s := by
  rw [agingPair, if_neg (noPair_iff.not.mpr h)]
  simp only [hf, hk, if_true]

end Pair

end FlowCommands

/-- Settles O53: each command in hand finishes with what its own function answers, and a long-running one becomes a job of the
table service (log 26).  A scan takes one pair of buckets at a time (log 27), and takes none where it has nothing to act on
(log 4). -/
theorem flowCommandRows : Obligations.FlowCommandRows := by
  intro s q
  refine ⟨fun h hp ha => ?_, fun h ha ht => ?_, fun h ht hi => ?_, fun h h0 h1 h2 ht => ?_, fun h ha ht => ?_,
    fun h ht hi hx => ⟨fun w hw => ?_, fun hw hb hr => ?_⟩, fun h h0 hp ht => ?_, fun h ht hp => ?_, fun h ht hp => ?_,
    fun h h0 h1 => ?_, fun hc hn => ?_, fun hc ht he hj hl => ?_⟩
  · exact congrArg Host.Outcome.next (immediate_inHand h (flowPolicerCmd_sets hp ha))
  · exact congrArg Host.Outcome.next (svcCommand_runs h (by simp only [ha, noTable_set ht, Option.none_or]))
  · exact congrArg Host.Outcome.next (svcCommand_runs h (indexArg_inTable ht hi))
  · exact congrArg Host.Outcome.next (svcCommand_runs h (by
      rw [firstErr_none (by simp [h0, h1, h2]), noTable_set ht, Option.none_or]))
  · exact congrArg Host.Outcome.next (svcCommand_refused h (by simp only [ha, noTable_unset ht, Option.none_or]))
  · exact congrArg Host.Outcome.next (flowReadRun_cached h ht hi hx hw)
  · exact congrArg Host.Outcome.next (flowReadRun_reads h ht hi hx hw hb hr)
  · exact congrArg Host.Outcome.next (immediate_inHand h (flowAgeCmd_sets h0 hp ht))
  · exact congrArg Host.Outcome.next (immediate_inHand h (flowTableCmd_sets ht hp))
  · exact congrArg Host.Outcome.next (immediate_inHand h (flowTableCmd_wrongState ht hp))
  · exact congrArg Host.Outcome.next (immediate_inHand h (flowCountersCmd_blockWide h0 h1))
  · exact congrArg Host.Outcome.next ((clocked_on hc).trans (agingPair_noPair hn))
  · have pair := not_noPair ht he hj hl
    refine ⟨fun i j hf => ?_, fun hf hd hk => ?_, fun hf hd hk => ?_⟩
    · exact congrArg Host.Outcome.next ((clocked_on hc).trans (agingPair_flush (pair (by simp [hf])) hf))
    · exact congrArg Host.Outcome.next ((clocked_on hc).trans (agingPair_pass (pair (by simp [hd])) hf hk))
    · exact congrArg Host.Outcome.next ((clocked_on hc).trans (agingPair_off (pair (by simp [hd])) hf hk))

end Sys2Proof.Machine

namespace Sys2Proof.Machine

open Sys2Proof

/-! ## The frame of the integer instructions (R283, R299, R315, R514) -/

section IntegerFrame

variable {r s u : State} {e t : Nat} {rd : Reg} {w : Word}

/-! ### What an instruction of thread `t` of engine `e` with destination `rd` leaves as it was -/

/-- `u` is `r` but for the event counters, the samples, and the program counter and register `rd` of the thread. -/
structure ThreadFrame (e t : Nat) (rd : Reg) (r u : State) : Prop where
  units : SameUnits r u
  measure : u.mt = { r.mt with pmu := u.mt.pmu }
  unit : u.eng = { r.eng with engines := u.eng.engines }
  engines : ∀ k, getEng u k = { getEng r k with threads := (getEng u k).threads, samples := (getEng u k).samples }
  others : ∀ k j, (k, j) ≠ (e, t) → getThr u k j = getThr r k j
  thread : getThr u e t = { getThr r e t with regs := (getThr u e t).regs, pc := (getThr u e t).pc }
  regs : ∀ x, x ≠ rd → wreg u e t x = wreg r e t x

theorem ThreadFrame.refl : ThreadFrame e t rd s s :=
  ⟨(Quiet.refl s).1, rfl, rfl, fun _ => rfl, fun _ _ _ => rfl, rfl, fun _ _ => rfl⟩

theorem Counted.getThr_eq (h : Counted s u) (k j : Nat) : getThr u k j = getThr s k j := by
  obtain ⟨-, -, -, hg⟩ := h
  rw [getThr, hg k]
  rfl

/-- An event of a monitored unit stays within the frame. -/
theorem ThreadFrame.counted (h : ThreadFrame e t rd r s) (g : Counted s u) : ThreadFrame e t rd r u := by
  obtain ⟨gu, gm, ge, gg⟩ := id g
  have same := g.getThr_eq
  refine ⟨h.units.trans gu, ?_, ?_, fun k => ?_, fun k j hk => (same k j).trans (h.others k j hk), ?_, fun x hx => ?_⟩
  · rw [gm, h.measure]
  · rw [ge, h.unit]
  · rw [gg k, h.engines k]
  · rw [same]
    exact h.thread
  · rw [wreg, same]
    exact h.regs x hx

/-- The setting of a thread leaves every other as it was. -/
theorem getThr_setThr_other {f : Thread → Thread} {k j : Nat} (h : (k, j) ≠ (e, t)) :
    getThr (setThr e t f s) k j = getThr s k j := by
  simp only [getThr, setThr, getEng_setEng]
  split
  · rename_i hk
    subst hk
    have hj : t ≠ j := fun hj => h (by rw [hj])
    simp only [Tbl.upd, Tbl.getD_set, if_neg hj]
  · rfl

theorem samples_setThr {f : Thread → Thread} {k : Nat} : (getEng (setThr e t f s) k).samples = (getEng s k).samples := by
  rw [setThr, getEng_setEng]
  split
  · rename_i hk
    rw [hk]
  · rfl

/-- The thread writes its program counter or the register `rd`, and stays within the frame. -/
theorem ThreadFrame.setThr {f : Thread → Thread} (h : ThreadFrame e t rd r s)
    (hf : ∀ x, f x = { x with regs := (f x).regs, pc := (f x).pc })
    (hw : ∀ x (k : Reg), k ≠ rd → (f x).regs.getD k.val 0#32 = x.regs.getD k.val 0#32) :
    ThreadFrame e t rd r (setThr e t f s) := by
  refine ⟨h.units, h.measure, ?_, fun k => ?_, fun k j hk => (getThr_setThr_other hk).trans (h.others k j hk), ?_,
    fun x hx => ?_⟩
  · simp only [Machine.setThr, setEng, State.updEng_eng]
    rw [h.unit]
  · simp only [Machine.setThr, getEng_setEng]
    split
    · rename_i hk
      subst hk
      rw [h.engines e]
    · exact h.engines k
  · rw [getThr_setThr, hf, h.thread]
  · rw [wreg, getThr_setThr, hw _ x hx]
    exact h.regs x hx

/-- To write the destination and retire stays within the frame. -/
theorem retireW_frame : ThreadFrame e t rd s (retireW e t rd w s) := by
  have written : ThreadFrame e t rd s (setW e t rd w s) := by
    refine ThreadFrame.refl.setThr (fun _ => rfl) fun x k hk => ?_
    have hne : rd.val ≠ k.val := fun h => hk (Fin.ext h.symm)
    rw [List.getD_eq_getElem?_getD, List.getElem?_set_ne hne, ← List.getD_eq_getElem?_getD]
  exact (written.counted (pmuEvent_counted (Counted.refl _))).setThr (fun _ => rfl) fun _ _ _ => rfl

/-! ### A monitor of which no counter overflows -/

/-- The monitor of unit `k` does not run, or no counter of it overflows with one occurrence more. -/
def MonitorRoom (s : State) (k : Nat) : Prop :=
  (getPmu s k).run = false ∨ ∀ j, j < 8 → (getPmu s k).cnt.getD j 0 + 1 < 2 ^ 48

/-- Nothing has been raised, written to the host, counted or sampled. -/
def Unreported (s u : State) : Prop :=
  u.host = s.host ∧ u.intr = s.intr ∧ u.gv = s.gv ∧ u.cnt = s.cnt ∧ ∀ k, (getEng u k).samples = (getEng s k).samples

/-- A state with other event counters. -/
def withPmu (p : Tbl Pmu) (s : State) : State := s.updMt fun m => { m with pmu := p }

theorem getPmu_setPmu {k : Nat} {f : Pmu → Pmu} : getPmu (setPmu k f s) k = f (getPmu s k) := by
  simp only [getPmu, setPmu, State.updMt_mt, Tbl.upd, Tbl.getD_set, if_true]

/-- One occurrence that a counter has room for is counted, and nothing else happens. -/
theorem pmuAdd_room {k j f : Nat} (h : (getPmu s k).cnt.getD j 0 + 1 < 2 ^ 48) :
    pmuAdd (f + 1) k j 1 t s = setPmu k (fun p => { p with cnt := p.cnt.set j ((getPmu s k).cnt.getD j 0 + 1) }) s := by
  simp only [pmuAdd, if_pos h]

/-- Each counter of a list takes one occurrence or none; where each has room, event counters alone change. -/
theorem foldl_pmuAdd_room {k : Nat} {f : State → Nat → State}
    (hf : ∀ s j, f s j = s ∨ f s j = pmuAdd 8 k j 1 t s) {l : List Nat} (hl : l.Nodup)
    (h : ∀ j ∈ l, (getPmu s k).cnt.getD j 0 + 1 < 2 ^ 48) : ∃ p, l.foldl f s = withPmu p s := by
  induction l generalizing s with
  | nil => exact ⟨s.mt.pmu, rfl⟩
  | cons a l ih =>
    obtain ⟨ha, hl⟩ := List.nodup_cons.mp hl
    rw [List.foldl_cons]
    obtain none | one := hf s a
    · rw [none]
      exact ih hl fun j hj => h j (List.mem_cons_of_mem a hj)
    · rw [one, pmuAdd_room (h a List.mem_cons_self)]
      refine Exists.imp (fun _ hp => hp.trans rfl) (ih hl fun j hj => ?_)
      have hne : a ≠ j := fun e => ha (e ▸ hj)
      rw [getPmu_setPmu, Tbl.getD_set, if_neg hne]
      exact h j (List.mem_cons_of_mem a hj)

/-- Where no counter of the monitor overflows, or it does not run, an event changes event counters alone (R514). -/
theorem pmuEvent_room {k c : Nat} (h : MonitorRoom s k) : ∃ p, pmuEvent k c 1 t s = withPmu p s := by
  have same : s = withPmu s.mt.pmu s := rfl
  unfold pmuEvent
  dsimp only
  split
  · exact ⟨_, same⟩
  · rename_i runs
    obtain stopped | room := h
    · simp [stopped] at runs
    · refine foldl_pmuAdd_room (t := t) (fun u j => ?_) List.nodup_range fun j hj => room j (List.mem_range.mp hj)
      split
      · exact .inr (by rw [ite_self])
      · exact .inl rfl

/-- Then the instruction changes nothing beyond its thread and the event counters. -/
theorem retireW_room (h : MonitorRoom s (8 + e)) : Unreported s (retireW e t rd w s) := by
  obtain ⟨p, hp⟩ := pmuEvent_room (t := t) (c := 1) (s := setW e t rd w s) h
  have counted : retireW e t rd w s = setThr e t (fun x => { x with pc := ((getThr (setW e t rd w s) e t).pc + 4) % 2 ^ 32 })
      (withPmu p (setW e t rd w s)) := by
    rw [← hp]
    rfl
  rw [counted]
  exact ⟨rfl, rfl, rfl, rfl, fun k => samples_setThr.trans (samples_setThr (s := s))⟩

/-- An instruction that writes a word and retires keeps the frame, and one that no thread issues changes nothing (log 4). -/
theorem isa_retireW_frame {v : State → Word}
    (hu : Host.Outcome.next (isa e t (fun s => retireW e t rd (v s) s) s) = (.next u : Out)) :
    ThreadFrame e t rd s u ∧ (MonitorRoom s (8 + e) → Unreported s u) := by
  injection hu with hu
  subst hu
  rw [isa]
  split
  · exact ⟨retireW_frame, retireW_room⟩
  · exact ⟨ThreadFrame.refl, fun _ => ⟨rfl, rfl, rfl, rfl, fun _ => rfl⟩⟩

end IntegerFrame

/-- Settles O16: each of the twelve rows writes a word and retires, or changes nothing (log 4), and stays within the frame by
`isa_retireW_frame`. -/
theorem integerRowsLeaveTheRest : Obligations.IntegerRowsLeaveTheRest := by
  intro s u e t rd ra rb b h l c hc hu
  simp only [List.mem_cons, List.not_mem_nil, or_false] at hc
  obtain rfl | rfl | rfl | rfl | rfl | rfl | rfl | rfl | rfl | rfl | rfl | rfl := hc
  all_goals
    obtain ⟨frame, room⟩ := isa_retireW_frame hu
    exact ⟨frame.units, frame.measure, frame.unit, frame.engines, frame.others, frame.thread, frame.regs, room⟩

end Sys2Proof.Machine

namespace Sys2Proof.Machine

open Sys2Proof

/-! ## Integer and shift instructions (R283, R299) -/

/-! ### The results, as words -/

theorem immh_word {h : BitVec 16} : (h ++ 0#16 : Word) = BitVec.ofNat 32 (h.toNat * 65536) := by
  refine BitVec.eq_of_toNat_eq ?_
  have hh := h.isLt
  have happ : (h ++ 0#16).toNat = h.toNat * 65536 := by
    rw [BitVec.toNat_append, Nat.shiftLeft_eq]
    exact Nat.or_zero _
  rw [BitVec.toNat_ofNat, Nat.mod_eq_of_lt (by omega)]
  exact happ

theorem mul_word {x y : Word} : x * y = BitVec.ofNat 32 (x.toNat * y.toNat) := rfl

theorem mpyHigh_signed {a b : Int} : mpyHigh a b = BitVec.ofInt 32 (a * b / 4294967296) := rfl

theorem mpyHigh_unsigned {a b : Nat} : mpyHigh a b = BitVec.ofNat 32 (a * b / 4294967296) := by
  rw [mpyHigh_signed]
  exact BitVec.ofInt_natCast 32 _

theorem shiftLeft_word {x : Word} {n : Nat} : x <<< n = BitVec.ofNat 32 (x.toNat * 2 ^ n) :=
  BitVec.eq_of_toNat_eq (by simp [Nat.shiftLeft_eq])

theorem shiftRight_word {x : Word} {n : Nat} : x >>> n = BitVec.ofNat 32 (x.toNat / 2 ^ n) := by
  refine BitVec.eq_of_toNat_eq ?_
  rw [BitVec.toNat_ushiftRight, Nat.shiftRight_eq_div_pow, BitVec.toNat_ofNat,
    Nat.mod_eq_of_lt (lt_of_le_of_lt (Nat.div_le_self _ _) x.isLt)]

theorem sshiftRight_word {x : Word} {n : Nat} : x.sshiftRight n = BitVec.ofInt 32 (x.toInt / 2 ^ n) := by
  rw [BitVec.sshiftRight, Int.shiftRight_eq_div_pow]
  norm_cast

/-! ### An instruction of a running thread -/

section Integer

variable {s : State} {e t : Nat} {rd ra : Reg} {b : Src} (hr : canRun s e t = true)

include hr

theorem intOp_runs {f : Word → Word → Word} :
    intOp f e t rd ra b s = retireW e t rd (f (wreg s e t ra) (srcVal s e t b)) s := isa_of_canRun hr

theorem shiftOp_inside {f : Word → Nat → Word} (hn : (srcVal s e t b).toNat < 32) :
    shiftOp f e t rd ra b s = retireW e t rd (f (wreg s e t ra) (srcVal s e t b).toNat) s := by
  rw [shiftOp, isa_of_canRun hr]
  exact if_pos hn

theorem shiftOp_beyond {f : Word → Nat → Word} (hn : 32 ≤ (srcVal s e t b).toNat) :
    shiftOp f e t rd ra b s = retireFree e t rd s := by
  rw [shiftOp, isa_of_canRun hr]
  exact if_neg (Nat.not_lt.mpr hn)

end Integer

/-- Settles O17: each row is an integer operation or a shift, which `intOp_runs` and the two laws of a shift run; its result is
the word that R299 gives, and a shift by 32 or more is a free value (log 3). -/
theorem integerRows : Obligations.IntegerRows := by
  refine ⟨fun s e t rd ra rb b h l hr => ?_, fun s e t rd ra b hr => ⟨fun hn => ?_, fun hn => ?_⟩⟩
  · have op {f : Word → Word → Word} {b : Src} {v : Word} (hv : f (wreg s e t ra) (srcVal s e t b) = v) :
        Host.Outcome.next (intOp f e t rd ra b s) = (.next (retireW e t rd v s) : Out) := by rw [intOp_runs hr, hv]
    have imm {f : State → State} {v : Word} (hv : f s = retireW e t rd v s) :
        Host.Outcome.next (isa e t f s) = (.next (retireW e t rd v s) : Out) := by rw [isa_of_canRun hr, hv]
    refine ⟨op rfl, op rfl, op rfl, op rfl, op rfl, op ?_, op ?_, imm ?_, imm ?_, op mul_word,
      op mpyHigh_signed, op mpyHigh_unsigned⟩
    · simp only [BitVec.slt, decide_eq_true_eq]
    · simp only [BitVec.ult, decide_eq_true_eq]
    · rw [immh_word]
    · rw [BitVec.ofNat_toNat]
  · exact ⟨congrArg Host.Outcome.next ((shiftOp_inside hr hn).trans (by rw [shiftLeft_word])),
      congrArg Host.Outcome.next ((shiftOp_inside hr hn).trans (by rw [shiftRight_word])),
      congrArg Host.Outcome.next ((shiftOp_inside hr hn).trans (by rw [sshiftRight_word]))⟩
  · exact ⟨congrArg Host.Outcome.next (shiftOp_beyond hr hn), congrArg Host.Outcome.next (shiftOp_beyond hr hn),
      congrArg Host.Outcome.next (shiftOp_beyond hr hn)⟩

end Sys2Proof.Machine

namespace Sys2Proof.Machine

open Sys2Proof

/-! ## Jumps and calls (R287, R299) -/

/-- A conditional jump of a running thread goes to its target exactly when its comparison holds. -/
theorem jumpIf_runs {s : State} {e t : Nat} {ra rb : Reg} {off : Int} {p : Word → Word → Bool} {c : Prop} [Decidable c]
    (hr : canRun s e t = true) (hp : p (wreg s e t ra) (wreg s e t rb) = true ↔ c) :
    jumpIf p e t ra rb off s = if c then retireTo e t (jumpAddr (getThr s e t).pc off) s else retire e t s := by
  rw [jumpIf, isa_of_canRun hr]
  simp only [hp]

/-- Settles O19: the conditional jumps by `jumpIf_runs`, each with its own comparison; CALL and JUMPR act as their rows say.  The
offsets count words from the instruction's own address, and JUMPR takes any address (log 22). -/
theorem jumpRows : Obligations.JumpRows := by
  intro s e t ra rb off hr
  exact ⟨congrArg Host.Outcome.next (jumpIf_runs hr beq_iff_eq),
    congrArg Host.Outcome.next (jumpIf_runs hr bne_iff_ne),
    congrArg Host.Outcome.next (jumpIf_runs hr BitVec.slt_iff_toInt_lt),
    congrArg Host.Outcome.next (jumpIf_runs hr (by simp [BitVec.slt])),
    congrArg Host.Outcome.next (jumpIf_runs hr BitVec.ult_iff_toNat_lt),
    congrArg Host.Outcome.next (jumpIf_runs hr (by simp [BitVec.ult])),
    congrArg Host.Outcome.next (isa_of_canRun hr),
    congrArg Host.Outcome.next (isa_of_canRun hr)⟩

end Sys2Proof.Machine

namespace Sys2Proof.Machine

open Sys2Proof

/-! ## Bit fields, byte reversal and sums (R299, R301) -/

section Fields

variable {pos width : Nat}

theorem field_inside (h1 : 1 ≤ width) (h2 : pos + width ≤ 32) :
    (decide (1 ≤ width) && decide (pos + width ≤ 32)) = true := by
  simp [h1, h2]

theorem field_outside (h : width = 0 ∨ 32 < pos + width) :
    ¬ (decide (1 ≤ width) && decide (pos + width ≤ 32)) = true := by
  simp only [Bool.and_eq_true, decide_eq_true_eq]
  omega

end Fields

/-- Settles O20: each row runs as its table says; a field that does not lie in the word gives a free value (log 3). -/
theorem fieldRows : Obligations.FieldRows := by
  intro s e t rd rs pos width hr
  refine ⟨fun h1 h2 => ?_, fun h1 h2 => ?_, fun h => ⟨?_, ?_⟩, ?_, ?_, ?_, ?_, ?_⟩
  · exact congrArg Host.Outcome.next ((isa_of_canRun hr).trans (if_pos (field_inside h1 h2)))
  · exact congrArg Host.Outcome.next ((isa_of_canRun hr).trans (if_pos (field_inside h1 h2)))
  · exact congrArg Host.Outcome.next ((isa_of_canRun hr).trans (if_neg (field_outside h)))
  · exact congrArg Host.Outcome.next ((isa_of_canRun hr).trans (if_neg (field_outside h)))
  all_goals exact congrArg Host.Outcome.next (isa_of_canRun hr)

end Sys2Proof.Machine

namespace Sys2Proof.Machine

open Sys2Proof

/-! ## Control registers of a thread (R299, R300) -/

section ControlRegisters

variable {x : Thread} {c : Csr} {v : Nat}

/-- The control registers that CWR writes, and the range of each (R300). -/
theorem csrWrite_isSome : (csrWrite x c v).isSome = true ↔
    c = .csumAcc ∨ c = .crcValLo ∨ c = .crcValHi ∨ (c = .hdrNew ∧ v ≤ 256) ∨ (c = .crcSel ∧ v ≤ 3) := by
  cases c
  case hdrNew => by_cases h : v ≤ 256 <;> simp [csrWrite, h]
  case crcSel => by_cases h : v ≤ 3 <;> simp [csrWrite, h]
  all_goals simp [csrWrite]

end ControlRegisters

section CwrCrd

variable {s : State} {e t : Nat} {r : Reg} {c : Csr} (hr : canRun s e t = true)

include hr

theorem exec_cwr_writes {x : Thread} (h : csrWrite (getThr s e t) c (wreg s e t r).toNat = some x) :
    exec (.cwr e t r c) s = .next (retire e t (setThr e t (fun _ => x) s)) := by
  refine congrArg Host.Outcome.next ((isa_of_canRun hr).trans ?_)
  simp only [h]

theorem exec_cwr_faults (h : csrWrite (getThr s e t) c (wreg s e t r).toNat = none) :
    exec (.cwr e t r c) s = .next (threadFault e t 7 s) := by
  refine congrArg Host.Outcome.next ((isa_of_canRun hr).trans ?_)
  simp only [h]

theorem exec_crd (hc : c ≠ .timeLo) :
    exec (.crd e t r c) s = .next (retireW e t r (BitVec.ofNat 32 (csrVal s e t c)) s) := by
  refine congrArg Host.Outcome.next ((isa_of_canRun hr).trans ?_)
  simp only [if_neg hc]

theorem exec_crd_timeLo : exec (.crd e t r .timeLo) s = .next (retireW e t r (BitVec.ofNat 32 (nowNs s))
    (setThr e t (fun y => { y with timeHi := nowNs s / 2 ^ 32 % 2 ^ 32 }) s)) :=
  congrArg Host.Outcome.next (isa_of_canRun hr)

end CwrCrd

/-- Settles O21: CRD and CWR by their laws, and which registers a CWR may write by `csrWrite_isSome`.  A value that is out of range
is fault 7 as is a register that is not writable (R298, R318; log 24). -/
theorem controlRegisterRows : Obligations.ControlRegisterRows := fun _ _ _ _ hr =>
  ⟨fun _ hc => exec_crd hr hc, exec_crd_timeLo hr, fun _ _ h => exec_cwr_writes hr h, fun _ h => exec_cwr_faults hr h,
    fun _ => csrWrite_isSome⟩

end Sys2Proof.Machine

namespace Sys2Proof.Machine

open Sys2Proof

/-! ## Host accesses of a thread, and what ends a wait (R289, R299, R305, R306) -/

section HostAccessAndWait

variable {s : State} {e t a d n : Nat} {w : Bool}

/-! ### HRD and HWR, by the length, the buffer and the window (R305) -/

/-- An access of a thread is issued, and the thread waits for it; a write takes its bytes `b` from DMEM, and may change byte 0 of a
bucket (R259). -/
def hostIssued (w : Bool) (e t a d n : Nat) (b : Bytes) (s : State) : State :=
  startXfer (.thread e t) w (0x208 + e) a n (if w then b else [])
    (setThr e t (fun x => { x with park := .host d }) (retire e t (if w then noteSlot a (u8 b 0) s else s)))

section Access

variable (hr : canRun s e t = true) (hf : fenced s e t = false)

include hr hf

theorem hostOp_badLength (hn : n = 0 ∨ 4096 < n) : hostOp w e t a d n s = threadFault e t 6 s := by
  rw [hostOp, outside_open hr hf]
  exact if_pos (by simpa using hn)

variable (hlo : 1 ≤ n) (hhi : n ≤ 4096)

include hlo hhi

theorem hostOp_badBuffer (hd : inDmem d n = false) : hostOp w e t a d n s = threadFault e t 3 s := by
  rw [hostOp, outside_open hr hf]
  simp [Nat.ne_of_gt hlo, Nat.not_lt.mpr hhi, hd]

variable (hd : inDmem d n = true)

include hd

theorem hostOp_outsideWindow (hw : inWindow s a n = false) (ht : s.host.flow.covers a n = false) :
    hostOp w e t a d n s = threadFault e t 6 (lines (violation s)) := by
  rw [hostOp, outside_open hr hf]
  simp [Nat.ne_of_gt hlo, Nat.not_lt.mpr hhi, hd, hw, ht]

/-- A write to FLOW_TABLE that is not the slot of a claim held is a fault. -/
theorem hostOp_unclaimed (ht : s.host.flow.covers a n = true) (hc : claimedSlot s e t a n = false) :
    hostOp true e t a d n s = threadFault e t 6 s := by
  rw [hostOp, outside_open hr hf]
  simp [Nat.ne_of_gt hlo, Nat.not_lt.mpr hhi, hd, ht, hc]

/-- An access within a window or FLOW_TABLE is issued; a write to FLOW_TABLE needs the claim (R305). -/
theorem hostOp_issued (hw : inWindow s a n = true ∨ s.host.flow.covers a n = true)
    (hc : w = true → s.host.flow.covers a n = true → claimedSlot s e t a n = true) :
    hostOp w e t a d n s = hostIssued w e t a d n (Mem.rdN (getEng s e).dmem (d - 0x10000) n) s := by
  have inside : (!(inWindow s a n || s.host.flow.covers a n)) = false := by
    rw [(Bool.or_eq_true _ _).mpr hw]
    rfl
  have claimed : (w && s.host.flow.covers a n && !claimedSlot s e t a n) = false := by
    cases w with
    | false => rfl
    | true =>
      cases h : s.host.flow.covers a n with
      | false => rfl
      | true => simp [hc rfl h]
  rw [hostOp, outside_open hr hf]
  simp only [Nat.ne_of_gt hlo, Nat.not_lt.mpr hhi, hd, inside, claimed, decide_false, Bool.or_self, Bool.not_true,
    Bool.false_eq_true, if_false, hostIssued]
  cases w with
  | false => rfl
  | true => rfl

end Access

/-! ### The end of an access (R289, R306) -/

theorem setStatus_base {c : Nat} {u : State} : (getThr (setStatus e t c u) e t).base = (getThr u e t).base := by
  rw [setStatus, setW, getThr_setThr]

/-- The thread runs again with the status of its access. -/
def accessEnded (e t : Nat) (x : Xfer) (s : State) : State :=
  setThr e t (fun y => { y with park := .none }) (setStatus e t (if x.err then cHostError else cHostOk) (dropXfer x.id s))

/-- What a read has brought goes to DMEM. -/
def accessTaken (e t d : Nat) (x : Xfer) (s : State) : State :=
  if x.write = true ∨ x.err = true then accessEnded e t x s
  else setEng e (fun g => { g with dmem := Mem.wrN g.dmem (d - 0x10000) x.data }) (accessEnded e t x s)

theorem hostAccessDone_ends {x : Xfer} (hx : doneXfer s (· = .thread e t) = some x) (hk : (getThr s e t).park = .host d) :
    hostAccessDone e t s = accessTaken e t d x s := by
  simp only [hostAccessDone, hx, hk, accessTaken, accessEnded, Bool.or_eq_true]

theorem accessTaken_base {x : Xfer} : (getThr (accessTaken e t d x s) e t).base = (getThr s e t).base := by
  have ended : (getThr (accessEnded e t x s) e t).base = (getThr s e t).base := by
    rw [accessEnded, getThr_setThr]
    exact setStatus_base
  unfold accessTaken
  split
  · exact ended
  · rw [getThr_setEng ?_]
    · exact ended
    · exact fun _ => rfl

/-- A thread that runs no base program goes on as its own program says. -/
theorem baseWrite_ownProgram {x : Option Xfer} (hb : (getThr s e t).base = .none) : baseWrite e t x s = s := by
  unfold baseWrite
  simp only [baseFence_ownProgram hb, ite_self, hb]
  split <;> rfl

theorem exec_hostAccessDone {x : Xfer} (hc : coreOff s = false) (hx : doneXfer s (· = .thread e t) = some x)
    (hk : (getThr s e t).park = .host d) :
    exec (.hostAccessDone e t) s = .next (baseWrite e t (some x) (accessTaken e t d x s)) := by
  rw [← hostAccessDone_ends hx hk, ← hx]
  exact congrArg Host.Outcome.next (clocked_on hc)

/-! ### The return of a window load (R206, R289, R290) -/

/-- The bytes of a window load, out of its read of host memory where it has one. -/
def returnedBytes (s : State) (e t h off n : Nat) : Bytes :=
  match readOf s (.thread e t) h with
  | some y => slice y.data (off % 64) n
  | none => windowBytes s e t off n

section WindowReturn

variable {rd m off h : Nat} {k : Bool} (hp : (getThr s e t).park = .window rd m off)
  (hh : ((heldFrame s e t).map (·.h)).getD 0 = h)

include hp hh

theorem windowReturn_waits (hb : reading s (.thread e t) h = true) : windowReturn e t k s = s := by
  simp only [windowReturn, hp, hh, hb, if_true]

variable (hb : reading s (.thread e t) h = false)

include hb

theorem windowReturn_loads (hl : windowLost s h (readOf s (.thread e t) h) = false) :
    windowReturn e t false s = setThr e t (fun x => { x with
      regs := x.regs.set rd (extWord (m ≥ 8) (m % 8) (be (returnedBytes s e t h off (m % 8)) 0 (m % 8))), park := .none })
      (dropDirect (.thread e t) h s) := by
  simp only [windowReturn, hp, hh, hb, hl, Bool.or_false, Bool.false_eq_true, if_false, returnedBytes] <;> rfl

theorem windowReturn_lost (hl : (k || windowLost s h (readOf s (.thread e t) h)) = true) :
    windowReturn e t k s = setThr e t (fun x => { x with regs := x.regs.set rd 0#32, park := .none, bad := true })
      (dropDirect (.thread e t) h s) := by
  simp only [windowReturn, hp, hh, hb, hl, Bool.or_true, Bool.false_eq_true, if_true, if_false]

end WindowReturn

end HostAccessAndWait

/-- Settles O22: an access by the law of the check that it fails, or by `hostOp_issued`; what ends a wait by the law of its event.
The operands stand in the row (log 23), the address is judged before the right to write (log 24), and a base program goes on at the
end of its write (log 82). -/
theorem hostAccessAndWaitRows : Obligations.HostAccessAndWaitRows := by
  refine ⟨fun s e t a d n hr hf => ?_, fun s e t hc => ⟨fun x d hx hk => ?_, fun n hr => ?_, fun n hp => ?_,
    fun rd m off hp => ⟨fun hb k => ?_, fun hb => ⟨fun hl => ?_, fun k hl => ?_⟩⟩⟩⟩
  · dsimp only
    refine ⟨fun hlo hhi hd hw ht => ⟨?_, ?_⟩, fun hlo hhi hd ht => ⟨?_, ?_⟩, fun hn => ⟨?_, ?_⟩, fun hlo hhi hd => ⟨?_, ?_⟩,
      fun hlo hhi hd hw ht => ⟨?_, ?_⟩⟩
    · exact congrArg Host.Outcome.next (hostOp_issued hr hf hlo hhi hd (.inl hw) nofun)
    · exact congrArg Host.Outcome.next (hostOp_issued hr hf hlo hhi hd (.inl hw) fun _ h => absurd h (ht ▸ Bool.false_ne_true))
    · exact congrArg Host.Outcome.next (hostOp_issued hr hf hlo hhi hd (.inr ht) nofun)
    · split
      · rename_i hs
        exact congrArg Host.Outcome.next (hostOp_issued hr hf hlo hhi hd (.inr ht) fun _ _ => hs)
      · rename_i hs
        exact congrArg Host.Outcome.next (hostOp_unclaimed hr hf hlo hhi hd ht (eq_false_of_ne_true hs))
    · exact congrArg Host.Outcome.next (hostOp_badLength hr hf hn)
    · exact congrArg Host.Outcome.next (hostOp_badLength hr hf hn)
    · exact congrArg Host.Outcome.next (hostOp_badBuffer hr hf hlo hhi hd)
    · exact congrArg Host.Outcome.next (hostOp_badBuffer hr hf hlo hhi hd)
    · exact congrArg Host.Outcome.next (hostOp_outsideWindow hr hf hlo hhi hd hw ht)
    · exact congrArg Host.Outcome.next (hostOp_outsideWindow hr hf hlo hhi hd hw ht)
  · have done := exec_hostAccessDone hc hx hk
    refine ⟨done, fun hb => ?_⟩
    rw [baseWrite_ownProgram (accessTaken_base.trans hb)] at done
    exact done
  · exact congrArg Host.Outcome.next (isa_of_canRun hr)
  · refine congrArg Host.Outcome.next ((clocked_on hc).trans ?_)
    simp only [waitWake, hp]
  · exact congrArg Host.Outcome.next ((clocked_on hc).trans (windowReturn_waits hp rfl hb))
  · exact congrArg Host.Outcome.next ((clocked_on hc).trans (windowReturn_loads hp rfl hb hl))
  · exact congrArg Host.Outcome.next ((clocked_on hc).trans (windowReturn_lost hp rfl hb hl))

end Sys2Proof.Machine

namespace Sys2Proof.Machine

open Sys2Proof

/-! ## The commands of the engines (R284, R285, R310, R312, R315-R318) -/

section EngineCommands

variable {s : State} {q : Req} {g : Prog} {e : Nat}

/-- A program number that names a loaded program passes. -/
theorem progArg_loaded (h1 : 1 ≤ u8 q.payload 0) (h2 : u8 q.payload 0 ≤ 15) (hg : s.eng.progs.get? (u8 q.payload 0) = some g) :
    progArg q.payload s = none :=
  firstErr_none (by simp [Nat.ne_of_gt h1, Nat.not_lt.mpr h2, hg])

section Unload

variable (h1 : 1 ≤ u8 q.payload 0) (h2 : u8 q.payload 0 ≤ 15) (hg : s.eng.progs.get? (u8 q.payload 0) = some g)

include h1 h2 hg

theorem progUnloadCmd_unloads (hh : s.eng.hooks.vals.any (fun x => decide (x.prog = u8 q.payload 0)) = false)
    (hi : g.inflight = 0) :
    progUnloadCmd q s = (s.updEng fun g => { g with progs := g.progs.erase (u8 q.payload 0) }, okR) := by
  simp [progUnloadCmd, progArg_loaded h1 h2 hg, hg, hh, hi]

/-- A program that a hook names, or that a thread runs, stays (R310). -/
theorem progUnloadCmd_inUse
    (hh : s.eng.hooks.vals.any (fun x => decide (x.prog = u8 q.payload 0)) = true ∨ g.inflight ≠ 0) :
    progUnloadCmd q s = (s, errR stWrongState) := by
  have used : (s.eng.hooks.vals.any (fun x => decide (x.prog = u8 q.payload 0)) || g.inflight != 0) = true := by
    simpa only [Bool.or_eq_true, bne_iff_ne] using hh
  simp only [progUnloadCmd, progArg_loaded h1 h2 hg, hg, Option.map_some, Option.getD_some, used, if_true]

end Unload

theorem engConfigCmd_engine (hn : u8 q.payload 0 < nEngines s) (h1 : 1 ≤ u16 q.payload 2) (h2 : u16 q.payload 2 ≤ 1000)
    (hb : u8 q.payload 0 ≠ 255) : engConfigCmd q s =
      (setEng (u8 q.payload 0) (fun g => { g with destHook := u8 q.payload 1, budget := u16 q.payload 2 }) s, okR) := by
  simp only [engConfigCmd]
  rw [firstErr_none (by simp [Nat.not_le.mpr hn, Nat.ne_of_gt h1, Nat.not_lt.mpr h2]), if_neg hb]
  rfl

/-! ### ENG_POLICY_SET (R285, R319) -/

/-- It runs beside the queue, and at once as far as it can. -/
theorem engPolicySet_runs (h : InHand 0x0704 q s) (hn : u8 q.payload 0 ≤ 1)
    (hu : u8 q.payload 0 = 0 → s.eng.spareUsed = false) : engPolicySet s =
      settlePolicy 16 (s.updGv fun g => { g with taken := none, running := g.running ++ [q] }) := by
  refine congrArg (settlePolicy 16) (longRunning_runs h ?_)
  have spare : (decide (u8 q.payload 0 = 0) && s.eng.spareUsed) = false := by simpa using hu
  simp only [Nat.not_lt.mpr hn, spare, Bool.false_eq_true, if_false]

/-- A policy with a spare is refused while a condemnation has consumed it. -/
theorem engPolicySet_noSpare (h : InHand 0x0704 q s) (hn : u8 q.payload 0 = 0) (hu : s.eng.spareUsed = true) :
    engPolicySet s = settlePolicy 16 (finishTaken q (errR stWrongState) s) :=
  congrArg (settlePolicy 16) (longRunning_answers h (by simp [hn, hu]))

/-! ### ENG_DATA_WRITE and the commands that read -/

theorem engDataCmd_writes (h1 : 1 ≤ u8 q.payload 0) (h2 : u8 q.payload 0 ≤ 15) (hlo : 4 ≤ u16 q.payload 2)
    (hhi : u16 q.payload 2 ≤ 4088) (hm : u16 q.payload 2 % 4 = 0) (ho : u32 q.payload 4 % 4 = 0)
    (hg : s.eng.progs.get? (u8 q.payload 0) = some g) (hf : u32 q.payload 4 + u16 q.payload 2 ≤ 4096 * g.dpages) :
    engDataCmd q s = ((loadedEngines s).foldl (fun s e =>
      setEng e (fun x => { x with
        dmem := Mem.wrN x.dmem (0x8000 + 4096 * g.dpage + u32 q.payload 4) (slice q.payload 8 (u16 q.payload 2)) }) s) s, okR) := by
  simp only [engDataCmd]
  rw [firstErr_none (by simp [Nat.ne_of_gt h1, Nat.not_lt.mpr h2, Nat.not_lt.mpr hlo, Nat.not_lt.mpr hhi, hm, ho]), hg]
  simp only [Nat.not_lt.mpr hf, if_false]

theorem engStatusCmd_service (he : serviceEngine s = some e) : engStatusCmd q s =
    (s, okD (toLe 1 s.eng.policy ++ toLe 1 e ++ toLe 2 s.pipe.slots.length ++ toLe 4 s.pipe.disp.length ++
      toLe 8 ((s.eng.progs.keys.map (2 ^ ·)).sum) ++
      ((List.range 8).flatMap fun e => if e < nEngines s then engStatus s e else zeros 16) ++ zeros 16)) := by
  simp only [engStatusCmd, he]

theorem engCountersCmd_engine (h0 : u8 q.payload 0 = 1) (h1 : u8 q.payload 1 ≤ 1) (hn : u16 q.payload 2 < nEngines s) :
    engCountersCmd q s = ((readCounters 0x71 (u16 q.payload 2) 7 (decide (u8 q.payload 1 = 1)) s).2,
      okD (readCounters 0x71 (u16 q.payload 2) 7 (decide (u8 q.payload 1 = 1)) s).1) := by
  simp [engCountersCmd, h0, Nat.not_lt.mpr h1, hn, cEng]

theorem engSampleCmd_reads (hn : u8 q.payload 0 < nEngines s) (h1 : 1 ≤ u8 q.payload 1) (h8 : u8 q.payload 1 ≤ 8) :
    engSampleCmd q s =
      (setEng (u8 q.payload 0) (fun g => { g with samples := g.samples.drop (u8 q.payload 1) }) s,
        okD (toLe 1 ((getEng s (u8 q.payload 0)).samples.take (u8 q.payload 1)).length ++ zeros 7 ++
          ((getEng s (u8 q.payload 0)).samples.take (u8 q.payload 1)).flatMap sampleBytes)) := by
  simp only [engSampleCmd]
  rw [firstErr_none (by simp [Nat.not_le.mpr hn, Nat.ne_of_gt h1, Nat.not_lt.mpr h8])]

theorem engBaseCmd_sets (h : (u8 q.payload 0).testBit 0 = true → u16 q.payload 2 ≠ 0 ∧ u32 q.payload 4 ≠ 0) :
    engBaseCmd q s = (s.updEng fun g => { g with
      icmp := (u8 q.payload 0).testBit 0, icmpRate := u16 q.payload 2,
      ipv4Src := slice q.payload 4 4, ipv6Src := slice q.payload 8 16 }, okR) := by
  simp only [engBaseCmd]
  rw [firstErr_none]
  cases hb : (u8 q.payload 0).testBit 0 with
  | false => simp
  | true => simp [h hb]

end EngineCommands

/-- Settles O54: each command in hand finishes with what its own function answers.  A change of policy waits for the states that it
asks for (log 30), and ENG_BASE_SET's values lie beside the engines (log 82). -/
theorem engineCommandRows : Obligations.EngineCommandRows := by
  intro s q
  refine ⟨fun g h h1 h2 hg hh hi => ?_, fun g h h1 h2 hg hh => ?_, fun h hn h1 h2 hb => ?_, fun h hn hu => ?_,
    fun h hn hu => ?_, fun g h h1 h2 hlo hhi hm ho hg hf => ?_, fun e h he => ?_, fun h h0 h1 hn => ?_,
    fun h hn h1 h8 => ?_, fun h hb => ?_⟩
  · exact congrArg Host.Outcome.next (immediate_inHand h (progUnloadCmd_unloads h1 h2 hg hh hi))
  · exact congrArg Host.Outcome.next (immediate_inHand h (progUnloadCmd_inUse h1 h2 hg hh))
  · exact congrArg Host.Outcome.next (immediate_inHand h (engConfigCmd_engine hn h1 h2 hb))
  · exact congrArg Host.Outcome.next (engPolicySet_runs h hn hu)
  · exact congrArg Host.Outcome.next (engPolicySet_noSpare h hn hu)
  · exact congrArg Host.Outcome.next (immediate_inHand h (engDataCmd_writes h1 h2 hlo hhi hm ho hg hf))
  · exact congrArg Host.Outcome.next (immediate_inHand h (engStatusCmd_service he))
  · exact congrArg Host.Outcome.next (immediate_inHand h (engCountersCmd_engine h0 h1 hn))
  · exact congrArg Host.Outcome.next (immediate_inHand h (engSampleCmd_reads hn h1 h8))
  · exact congrArg Host.Outcome.next (immediate_inHand h (engBaseCmd_sets hb))

end Sys2Proof.Machine

namespace Sys2Proof.Machine

open Sys2Proof

/-! ## The commands of the resilience unit (R313, R473, R475, R481, R484, R489, R493, R499-R501) -/

section ResilienceCommands

variable {s : State} {q : Req}

/-! ### RES_IMAGE_LOAD (R489; log 15) -/

section ImageLoad

/-- The load that a request asks for, of an image that is no rule image. -/
def askedLoad (q : Req) : LoadSt :=
  { mb := q.mb, kind := u8 q.payload 0, slot := u8 q.payload 1, epoch := u16 q.payload 2, group := 0, addr := u64 q.payload 8
    rollback := (u8 q.payload 16).testBit 0 }

variable (hk : u8 q.payload 0 ≤ 2) (h4 : u32 q.payload 4 = 0) (ha : u64 q.payload 8 % 64 = 0) (hb : busyImages s = false)
  (hs : s.host.staging.size ≠ 0)

include hk h4 ha hb hs

/-- Where the arguments and the state allow the load, the range alone decides. -/
theorem imageLoadCmd_byRange : imageLoadCmd q s = (rangeBad s (agentOf q s) (u64 q.payload 8) 16 8).elim
    (startXfer .image false 0x210 (u64 q.payload 8) 16 [] (s.updRes fun r => { r with load := some (askedLoad q) }), none)
    fun r => (s, some r) := by
  have h3 : u8 q.payload 0 ≠ 3 := by omega
  simp only [imageLoadCmd]
  rw [firstErr_none (by simp [Nat.not_lt.mpr (Nat.le_succ_of_le hk), h3, h4, ha, hb, hs]), Option.none_or, h4]
  cases rangeBad s (agentOf q s) (u64 q.payload 8) 16 8 with
  | none => rfl
  | some r => rfl

theorem imageLoadCmd_starts (hw : windowOk s (agentOf q s) (u64 q.payload 8) 16 = true) :
    imageLoadCmd q s = (startXfer .image false 0x210 (u64 q.payload 8) 16 []
      (s.updRes fun r => { r with load := some (askedLoad q) }), none) := by
  rw [imageLoadCmd_byRange hk h4 ha hb hs, rangeBad, if_pos hw]
  rfl

/-- A window that is another agent's (R107). -/
theorem imageLoadCmd_notOwner (hw : windowOk s (agentOf q s) (u64 q.payload 8) 16 = false)
    (hi : inWindow s (u64 q.payload 8) 16 = true) : imageLoadCmd q s = (s, some (errAt stNotOwner 8)) := by
  rw [imageLoadCmd_byRange hk h4 ha hb hs, rangeBad, if_neg (ne_true_of_eq_false hw), if_pos hi]
  rfl

end ImageLoad

theorem imageLoadCmd_badKind (hk : 3 < u8 q.payload 0) : imageLoadCmd q s = (s, some (inv 0)) := by
  simp [imageLoadCmd, firstErr, hk]

/-! ### RES_IMAGE_ACTIVATE (R493) -/

theorem imageActivateCmd_starts {im : Staged} (hk : u8 q.payload 0 = 1) (hb : busyImages s = false)
    (hi : s.res.images.get? (u8 q.payload 0) = some im) (hs : s.host.staging.size ≠ 0) :
    imageActivateCmd q s = (startXfer .stageRead false 0x210 (s.host.staging.base + im.off) im.len []
      (s.updRes fun r => { r with act := some { mb := q.mb, kind := u8 q.payload 0 } }), none) := by
  rw [hk] at hi
  simp [imageActivateCmd, hk, hb, hi, hs]

theorem imageActivateCmd_notFound (hk : u8 q.payload 0 ≤ 1) (hb : busyImages s = false)
    (hi : s.res.images.get? (u8 q.payload 0) = none) : imageActivateCmd q s = (s, some (errR stNotFound)) := by
  simp [imageActivateCmd, Nat.not_lt.mpr hk, hb, hi]

/-! ### Engines and cores (R313, R475, R481, R484) -/

theorem resCondemn_condemns (hn : u8 q.payload 0 < nEngines s)
    (hm : (getEng s (u8 q.payload 0)).mode = .active ∨ (getEng s (u8 q.payload 0)).mode = .draining ∨
      (getEng s (u8 q.payload 0)).mode = .spare) : resCondemn q s = (condemn (u8 q.payload 0) 5 s, okR) := by
  simp [resCondemn, Nat.not_le.mpr hn, or_assoc, hm]

theorem engineReturnCmd_tests (hn : u8 q.payload 0 < nEngines s) (hf : (getEng s (u8 q.payload 0)).failed = true)
    (ht : (getEng s (u8 q.payload 0)).testing = false) : engineReturnCmd q s =
      (driveReqs (setEng (u8 q.payload 0) (fun g => { g with testing := true }) s), none) := by
  simp [engineReturnCmd, Nat.not_le.mpr hn, hf, ht]

theorem engineReturnCmd_notFailed (hn : u8 q.payload 0 < nEngines s) (hf : (getEng s (u8 q.payload 0)).failed = false) :
    engineReturnCmd q s = (s, some (errR stWrongState)) := by
  simp [engineReturnCmd, Nat.not_le.mpr hn, hf]

theorem mgmtSwitch_notReady (hs : s.res.standby ≠ .ready) : mgmtSwitch q s = (s, errR stWrongState) := by
  simp [mgmtSwitch, hs]

theorem mgmtSwitch_switches (hs : s.res.standby = .ready) : mgmtSwitch q s =
    (finishTakeover (swapCores .sync (logFault fkOnyx { sub := 4, unit := s.res.active } 4 s)), okR) := by
  simp [mgmtSwitch, hs]

/-! ### Settings, faults and counters (R473, R500, R501) -/

theorem resConfig_sets (hp : u16 q.payload 0 ≤ 168) : resConfig q s =
    (s.updRes fun r => { r with period := u16 q.payload 0, blockId := u8 q.payload 2, packageId := u8 q.payload 3 }, okR) := by
  simp [resConfig, Nat.not_lt.mpr hp]

theorem resFaultRead_reads (h1 : 1 ≤ u8 q.payload 0) (h7 : u8 q.payload 0 ≤ 7) : resFaultRead q s =
    (s.updRes fun r => { r with log := r.log.drop (u8 q.payload 0) },
      okD (toLe 1 (s.res.log.take (u8 q.payload 0)).length ++ zeros 7 ++ (s.res.log.take (u8 q.payload 0)).flatten)) := by
  simp only [resFaultRead, Nat.ne_of_gt h1, Nat.not_lt.mpr h7, decide_false, Bool.or_self, Bool.false_eq_true, if_false]

theorem resCountersCmd_unit (h0 : u8 q.payload 0 = 0) (h1 : u8 q.payload 1 ≤ 1) : resCountersCmd q s =
    ((readCounters 0xE0 0 13 (decide (u8 q.payload 1 = 1)) s).2,
      okD (readCounters 0xE0 0 13 (decide (u8 q.payload 1 = 1)) s).1) := by
  simp [resCountersCmd, firstErr, h0, Nat.not_lt.mpr h1]

end ResilienceCommands

/-- Settles O59: each command in hand finishes with what its own function answers, or runs on beside the queue.  Arguments are
judged before the state (log 15), a window of another agent is NOT_OWNER (R107), and RES_MGMT_SWITCH counts as no failure
(log 50). -/
theorem resilienceCommandRows : Obligations.ResilienceCommandRows := by
  intro s q
  refine ⟨fun h hk h4 ha hb hs hw => ?_, fun h hk h4 ha hb hs hw hi => ?_, fun h hk => ?_, fun im h hk hb hi hs => ?_,
    fun h hk hb hi => ?_, fun h hn hm => ?_, fun h hn hf ht => ?_, fun h hn hf => ?_, fun h hs => ?_, fun h hs => ?_,
    fun h hp => ?_, fun h => ?_, fun h h1 h7 => ?_, fun h h0 h1 => ?_⟩
  · exact congrArg Host.Outcome.next (longRunning_runs h (imageLoadCmd_starts hk h4 ha hb hs hw))
  · exact congrArg Host.Outcome.next (longRunning_answers h (imageLoadCmd_notOwner hk h4 ha hb hs hw hi))
  · exact congrArg Host.Outcome.next (longRunning_answers h (imageLoadCmd_badKind hk))
  · exact congrArg Host.Outcome.next (longRunning_runs h (imageActivateCmd_starts hk hb hi hs))
  · exact congrArg Host.Outcome.next (longRunning_answers h (imageActivateCmd_notFound hk hb hi))
  · exact congrArg Host.Outcome.next (immediate_inHand h (resCondemn_condemns hn hm))
  · exact congrArg Host.Outcome.next (longRunning_runs h (engineReturnCmd_tests hn hf ht))
  · exact congrArg Host.Outcome.next (longRunning_answers h (engineReturnCmd_notFailed hn hf))
  · exact congrArg Host.Outcome.next (immediate_inHand h (mgmtSwitch_notReady hs))
  · exact congrArg Host.Outcome.next (immediate_inHand h (mgmtSwitch_switches hs))
  · exact congrArg Host.Outcome.next (immediate_inHand h (resConfig_sets hp))
  · exact congrArg Host.Outcome.next (immediate_inHand h rfl)
  · exact congrArg Host.Outcome.next (immediate_inHand h (resFaultRead_reads h1 h7))
  · exact congrArg Host.Outcome.next (immediate_inHand h (resCountersCmd_unit h0 h1))

end Sys2Proof.Machine

namespace Sys2Proof.Machine

open Sys2Proof

/-! ## The registers of the host channels (R323, R324, R328, R329, R344, R345, R349, R350) -/

section ChannelRegisters

variable {s : State} {c r v : Nat} {tx : Bool}

/-! ### The doorbells (R324) -/

/-- A ring that takes no doorbell: its channel or itself is off, or the block quiesces (R510). -/
theorem doorbell_ignored (h : (getCh s c).state ≠ .enabled ∨ (ringOf s c tx r).mode = 0 ∨ s.sys.quiescing = true ∨
      s.sys.quiesced = true) :
    doorbell c tx r v s = bump 0x80 c 10 (setCh c (fun x => { x with events := x.events ||| 4 }) s) :=
  if_pos (by simpa [or_assoc] using h)

section Taken

variable (he : (getCh s c).state = .enabled) (hq : s.sys.quiescing = false) (hd : s.sys.quiesced = false)

include he hq hd

/-- A ring that is on takes the doorbell, by its mode. -/
theorem doorbell_taken (hm : (ringOf s c tx r).mode ≠ 0) : doorbell c tx r v s =
    if (ringOf s c tx r).mode = 1 then
      if v = (ringOf s c tx r).prod then s
      else if sext 32 (v + 2 ^ 32 - (ringOf s c tx r).prod) < 0 ||
          (v + 2 ^ 32 - (ringOf s c tx r).cons) % 2 ^ 32 > (ringOf s c tx r).entries then quarantine c 5 s
      else fetchPump c tx r (setRing c tx r (fun g => { g with prod := v }) s)
    else fetchPump c tx r (setRing c tx r (fun g => { g with pending := true, parked := false }) s) :=
  if_neg (by simp [he, hm, hq, hd])

theorem doorbell_unmoved (hm : (ringOf s c tx r).mode = 1) (hv : v = (ringOf s c tx r).prod) : doorbell c tx r v s = s := by
  rw [doorbell_taken he hq hd (by simp [hm]), if_pos hm, if_pos hv]

/-- A producer index that goes back, or past the ring's entries, is the software's error (R324, R349). -/
theorem doorbell_quarantines (hm : (ringOf s c tx r).mode = 1) (hv : v ≠ (ringOf s c tx r).prod)
    (hbad : sext 32 (v + 2 ^ 32 - (ringOf s c tx r).prod) < 0 ∨
      (ringOf s c tx r).entries < (v + 2 ^ 32 - (ringOf s c tx r).cons) % 2 ^ 32) :
    doorbell c tx r v s = quarantine c 5 s := by
  rw [doorbell_taken he hq hd (by simp [hm]), if_pos hm, if_neg hv, if_pos (by simpa using hbad)]

theorem doorbell_produces (hm : (ringOf s c tx r).mode = 1) (hv : v ≠ (ringOf s c tx r).prod)
    (hf : ¬ sext 32 (v + 2 ^ 32 - (ringOf s c tx r).prod) < 0)
    (hn : (v + 2 ^ 32 - (ringOf s c tx r).cons) % 2 ^ 32 ≤ (ringOf s c tx r).entries) :
    doorbell c tx r v s = fetchPump c tx r (setRing c tx r (fun g => { g with prod := v }) s) := by
  rw [doorbell_taken he hq hd (by simp [hm]), if_pos hm, if_neg hv,
    if_neg (by simpa using And.intro (not_lt.mp hf) hn)]

/-- In chain mode the value written says nothing: the fetch goes on from where it stands. -/
theorem doorbell_unparks (hm : 2 ≤ (ringOf s c tx r).mode) : doorbell c tx r v s =
    fetchPump c tx r (setRing c tx r (fun g => { g with pending := true, parked := false }) s) := by
  rw [doorbell_taken he hq hd (by omega), if_neg (by omega)]

end Taken

/-! ### The writes to a channel's page, of a channel that is present -/

section Served

variable (h : Serving s) (hc : c < nChannels s)

include h hc

theorem chEventsClear_served : chEventsClear c v s = answer 0 (setCh c (fun x => { x with
    events := andNot x.events (v % 8), wake := x.wake && !v.testBit 1 }) s) :=
  regWrite_served h (decide_eq_true hc)

theorem intRearm_served : intRearm c v s = answer 0 ((bitList 8 v).foldl (fun s i =>
    judgeVec c i (setVec c i (fun x => { x with armed := true }) s)) s) :=
  regWrite_served h (decide_eq_true hc)

theorem intMaskWrite_served : intMaskWrite c v s = answer 0 ((List.range 8).foldl (fun s i => judgeVec c i s)
    (setCh c (fun x => { x with mask := v % 256 }) s)) :=
  regWrite_served h (decide_eq_true hc)

section Ring

variable (hr : r < 8) (hv : v < 2 ^ 32)

include hr hv

theorem doorbellWrite_served : doorbellWrite c tx r v s = answer 0 (doorbell c tx r v s) := by
  rw [doorbellWrite, regWrite_served h (by simp [hc, hr]), Nat.mod_eq_of_lt hv]

/-- The doorbell row of either direction. -/
theorem exec_doorbell : exec (if tx then .txDb c r v else .rxDb c r v) s = .next (answer 0 (doorbell c tx r v s)) := by
  cases tx with
  | true => exact congrArg Host.Outcome.next (doorbellWrite_served h hc hr hv)
  | false => exact congrArg Host.Outcome.next (doorbellWrite_served h hc hr hv)

theorem cqConsWrite_tx : cqConsWrite c true r v s =
    answer 0 (txGoOn c r (setRing c true r (fun g => { g with cqCons := v }) s)) := by
  rw [cqConsWrite, regWrite_served h (by simp [hc, hr]), Nat.mod_eq_of_lt hv, if_pos rfl]

theorem cqConsWrite_rx : cqConsWrite c false r v s =
    answer 0 (fetchPump c false r (completeRx (getCh (setRing c false r (fun g => { g with cqCons := v }) s) c).deliv.length c r
      (setRing c false r (fun g => { g with cqCons := v }) s))) := by
  rw [cqConsWrite, regWrite_served h (by simp [hc, hr]), Nat.mod_eq_of_lt hv, if_neg Bool.false_ne_true]

end Ring

end Served

/-! ### The delay of a vector (R344) -/

theorem vectorDelay_due (hr : r < 8) (hd : (vecOf s c r).maxD ≠ 0) (hu : 0 < (vecOf s c r).u) :
    vectorDelay c r s = judgeVec c r (setVec c r (fun x => { x with due := true }) s) :=
  if_pos (by simp [hr, hd, hu])

/-- Without a delay or without a completion counted there is none to pass (log 4). -/
theorem vectorDelay_none (h : (vecOf s c r).maxD = 0 ∨ (vecOf s c r).u = 0) : vectorDelay c r s = s :=
  if_neg (by rcases h with h | h <;> simp [h])

end ChannelRegisters

/-- Settles O38: each write is answered and takes the effect of its function, and a doorbell acts by the law of its ring's state.
No ring takes a doorbell while the block quiesces (R510), and a delay that cannot pass changes nothing (log 4). -/
theorem channelRegisterRows : Obligations.ChannelRegisterRows := by
  intro s c r v tx h hc hr hv
  have effect {t : State} (hd : doorbell c tx r v s = t) :
      exec (if tx then .txDb c r v else .rxDb c r v) s = .next (answer 0 t) := hd ▸ exec_doorbell h hc hr hv
  refine ⟨fun hi => effect (doorbell_ignored hi), fun he hq hd hm => ⟨fun hp => ?_, fun hp hbad => ?_, fun hp hf hn => ?_⟩,
    fun he hq hd hm => effect (doorbell_unparks he hq hd hm), ?_, ?_, ?_, ?_, ?_, fun hd hu => ?_, fun hn => ?_⟩
  · exact effect (doorbell_unmoved he hq hd hm hp)
  · exact effect (doorbell_quarantines he hq hd hm hp hbad)
  · exact effect (doorbell_produces he hq hd hm hp hf hn)
  · exact congrArg Host.Outcome.next (chEventsClear_served h hc)
  · exact congrArg Host.Outcome.next (intRearm_served h hc)
  · exact congrArg Host.Outcome.next (intMaskWrite_served h hc)
  · exact congrArg Host.Outcome.next (cqConsWrite_tx h hc hr hv)
  · exact congrArg Host.Outcome.next (cqConsWrite_rx h hc hr hv)
  · exact congrArg Host.Outcome.next ((clocked_on h.2).trans (vectorDelay_due hr hd hu))
  · exact congrArg Host.Outcome.next ((clocked_on h.2).trans (vectorDelay_none hn))

end Sys2Proof.Machine

namespace Sys2Proof.Machine

open Sys2Proof

/-! ## The commands of the host channels and the receive decision (R322, R325, R338, R339, R344, R346, R348, R350-R353, R395) -/

section ChannelCommands

variable {s : State} {q : Req}

/-- The channel that a request's payload begins with is present and bound to the agent of the request's mailbox (R6, R107). -/
def ChannelNamed (q : Req) (s : State) : Prop :=
  u16 q.payload 0 < nChannels s ∧ (getCh s (u16 q.payload 0)).agent = agentOf q s

section Named

variable (h : ChannelNamed q s)

include h

theorem chArg_named : chArg q s = none := by
  obtain ⟨present, bound⟩ := h
  exact firstErr_none (by simp [Nat.not_le.mpr present, bound])

theorem chCmd_named {f : Req → Nat → State → State × Reply} : chCmd f q s = f q (u16 q.payload 0) s := by
  simp only [chCmd, chArg_named h]

/-! ### Settings (R322, R325, R338, R339, R344, R346, R351) -/

theorem chConfigCmd_sets (hs : (getCh s (u16 q.payload 0)).state ≠ .resetting) : chConfigCmd q s =
    (setCh (u16 q.payload 0) (fun x => { x with flags := u8 q.payload 2, hashTypes := u8 q.payload 3 }) s, okR) :=
  (chCmd_named h).trans (if_neg hs)

theorem chRingSetCmd_sets (ha : ringArgs s (u16 q.payload 0) q.payload = none)
    (hs : (getCh s (u16 q.payload 0)).state = .disabled) : chRingSetCmd q s =
      (setRing (u16 q.payload 0) (decide (u8 q.payload 2 = 0)) (u8 q.payload 3) (fun g => { g with
        mode := u8 q.payload 4, vector := if u8 q.payload 4 = 0 then 0xFF else u8 q.payload 5
        base := u64 q.payload 8, entries := u32 q.payload 16, qlimit := u32 q.payload 20, cqBase := u64 q.payload 24
        cur := u64 q.payload 8, handled := false, pending := false, parked := true }) s, okR) :=
  (chCmd_named h).trans (by simp only [ha, hs, bne_self_eq_false, Bool.false_eq_true, if_false])

theorem chRingSetCmd_wrongState (ha : ringArgs s (u16 q.payload 0) q.payload = none)
    (hs : (getCh s (u16 q.payload 0)).state ≠ .disabled) : chRingSetCmd q s = (s, errR stWrongState) :=
  (chCmd_named h).trans (by simp only [ha, bne_iff_ne.mpr hs, if_true])

/-- MSG_ADDR 0 disables the vector; the settings are kept all the same. -/
theorem chVectorSetCmd_sets (hn : u8 q.payload 2 ≤ 7) (ha : u64 q.payload 8 = 0) (hf : u16 q.payload 16 ≠ 0) :
    chVectorSetCmd q s = (judgeVec (u16 q.payload 0) (u8 q.payload 2)
      (setVec (u16 q.payload 0) (u8 q.payload 2) (fun x => { x with
        data := u32 q.payload 4, addr := 0, maxF := u16 q.payload 16, maxD := u16 q.payload 18 }) s), okR) := by
  refine (chCmd_named h).trans ?_
  simp only [ha]
  rw [firstErr_none (by simp [Nat.not_lt.mpr hn, hf])]

theorem chFilterSetCmd_addresses (h2 : u8 q.payload 2 = 0) (hn : u8 q.payload 4 ≤ 16) : chFilterSetCmd q s =
    (setCh (u16 q.payload 0) (fun x => { x with
      addrs := (List.range (u8 q.payload 4)).map fun i => slice q.payload (8 + 8 * i) 6 }) s, okR) :=
  (chCmd_named h).trans (by simp only [h2, Nat.not_lt.mpr hn, if_false])

theorem chFilterSetCmd_multicast (h2 : u8 q.payload 2 = 1) : chFilterSetCmd q s =
    (setCh (u16 q.payload 0) (fun x => { x with mcast := slice q.payload 8 32 }) s, okR) :=
  (chCmd_named h).trans (by simp only [h2])

theorem chFilterSetCmd_vlans (h2 : u8 q.payload 2 = 2) : chFilterSetCmd q s =
    (setCh (u16 q.payload 0) (fun x => { x with vlan := slice q.payload 8 512 }) s, okR) :=
  (chCmd_named h).trans (by simp only [h2])

/-- An indirection table whose entries all name rings is taken whole. -/
theorem chHashSetCmd_sets (hr : ∀ i < 128, u8 q.payload (48 + i) ≤ 7) : chHashSetCmd q s =
    (setCh (u16 q.payload 0) (fun x => { x with key := slice q.payload 8 40, indir := slice q.payload 48 128 }) s, okR) := by
  have lawful : ((List.range 128).find? fun i => decide (u8 q.payload (48 + i) > 7)) = none :=
    List.find?_eq_none.mpr fun i hi => by simpa using hr i (List.mem_range.mp hi)
  exact (chCmd_named h).trans (by simp only [lawful])

/-- The shapers' burst is 16,384 bytes (R399, R400). -/
theorem chRateSetCmd_sets (hp : policerArgs q.payload 2 3 4 8 = none) (ht : u32 q.payload 12 ≤ 100000000)
    (hr : u32 q.payload 16 ≤ 100000000) : chRateSetCmd q s =
      (setChSch (u16 q.payload 0) (fun x => { x with
          txShaper := x.txShaper.setRate (u32 q.payload 12) 16384, rxShaper := x.rxShaper.setRate (u32 q.payload 16) 16384 })
        (setCh (u16 q.payload 0) (fun x => { x with
          pol := x.pol.set (nowNs s) (u8 q.payload 2) (u32 q.payload 4) (u32 q.payload 8) (decide (u8 q.payload 3 = 1)) }) s),
        okR) := by
  refine (chCmd_named h).trans ?_
  simp only [hp]
  rw [firstErr_none (by simp [Nat.not_lt.mpr ht, Nat.not_lt.mpr hr])]

/-! ### CH_ENABLE, CH_RESET and CH_STATUS_GET (R322, R348, R351, R353) -/

theorem chEnableCmd_enables (hs : (getCh s (u16 q.payload 0)).state = .disabled) : chEnableCmd q s =
    (chStateEvent (u16 q.payload 0) (setCh (u16 q.payload 0) (fun x => { x with state := .enabled, cause := 0 }) s), okR) :=
  (chCmd_named h).trans (if_neg (by simp [hs]))

theorem chEnableCmd_wrongState (hs : (getCh s (u16 q.payload 0)).state ≠ .disabled) :
    chEnableCmd q s = (s, errR stWrongState) :=
  (chCmd_named h).trans (if_pos (bne_iff_ne.mpr hs))

theorem chResetCmd_disabled (hs : (getCh s (u16 q.payload 0)).state = .disabled) : chResetCmd q s = (s, some okR) := by
  simp only [chResetCmd, chArg_named h, hs]

theorem chResetCmd_resetting (hs : (getCh s (u16 q.payload 0)).state = .resetting) :
    chResetCmd q s = (s, some (errR stWrongState)) := by
  simp only [chResetCmd, chArg_named h, hs]

/-- The command answers once the reset has settled, and until then runs on beside the queue. -/
theorem chResetCmd_resets {t : State}
    (hs : (getCh s (u16 q.payload 0)).state = .enabled ∨ (getCh s (u16 q.payload 0)).state = .quarantined)
    (ht : settleReset (u16 q.payload 0) (startReset (u16 q.payload 0) s) = t) :
    chResetCmd q s = if (getCh t (u16 q.payload 0)).state = .disabled then (t, some okR) else (t, none) := by
  rcases hs with hs | hs <;> simp only [chResetCmd, chArg_named h, hs, ht]

theorem longRunning_chReset {t : State} (hi : InHand 0x0808 q s)
    (hs : (getCh s (u16 q.payload 0)).state = .enabled ∨ (getCh s (u16 q.payload 0)).state = .quarantined)
    (ht : settleReset (u16 q.payload 0) (startReset (u16 q.payload 0) s) = t) : longRunning 0x0808 chResetCmd s =
      if (getCh t (u16 q.payload 0)).state = .disabled then finishTaken q okR t
      else t.updGv fun g => { g with taken := none, running := g.running ++ [q] } := by
  have resets := chResetCmd_resets h hs ht
  by_cases hd : (getCh t (u16 q.payload 0)).state = .disabled
  · rw [if_pos hd] at resets ⊢
    exact longRunning_answers hi resets
  · rw [if_neg hd] at resets ⊢
    exact longRunning_runs hi resets

theorem chStatusCmd_reads : (chStatusCmd q s).1 = s := congrArg Prod.fst (chCmd_named h)

end Named

/-! ### CH_COUNTERS_GET (R352) -/

theorem chCountersCmd_channel (h0 : u8 q.payload 0 = 0) (h1 : u8 q.payload 1 ≤ 1) (hn : u16 q.payload 2 < nChannels s)
    (ha : (getCh s (u16 q.payload 2)).agent = agentOf q s) : chCountersCmd q s =
      ((readCounters 0x80 (u16 q.payload 2) 20 (decide (u8 q.payload 1 = 1)) s).2,
        okD (readCounters 0x80 (u16 q.payload 2) 20 (decide (u8 q.payload 1 = 1)) s).1) := by
  simp [chCountersCmd, h0, Nat.not_lt.mpr h1, Nat.not_le.mpr hn, ha]

end ChannelCommands

/-! ## The receive decision (R395, R396) -/

section ReceiveDecision

variable {s : State}

/-- The channels that a decision visits: those at the front of the round when it starts. -/
def rxFront (s : State) : List Nat := s.sch.upper.active.take 4

/-- Each channel visited has nominated its ring. -/
def rxNominated (s : State) : State := (rxFront s).foldl (fun s c => nominateRing c s) s

/-- The channel that the upper level chooses among those that are still in the round, and the round afterwards. -/
def rxChoice (s : State) : Option Nat × Drr :=
  (rxNominated s).sch.upper.decide (chHead (rxNominated s)) (fun c => (getChSch (rxNominated s) c).quantum)
    ((rxFront s).filter fun c => (rxNominated s).sch.upper.active.contains c).length

/-- The state once the choice is made. -/
def rxDecided (s : State) : State := (rxNominated s).updSch fun t => { t with upper := (rxChoice s).2 }

/-- With 128 frames in delivery, out of ACTIVE or quiesced there is no decision (R396, R452, R510). -/
theorem hostRxDecide_stops (h : 128 ≤ (s.ch.vals.map inDelivery).sum ∨ s.pwr.mode ≠ .active ∨ s.sys.quiesced = true) :
    hostRxDecide s = s :=
  if_pos (by simpa [egressStops] using h)

section Open

variable (hb : (s.ch.vals.map inDelivery).sum < 128) (hm : s.pwr.mode = .active) (hq : s.sys.quiesced = false)

include hb hm hq

theorem hostRxDecide_none (hd : (rxChoice s).1 = none) : hostRxDecide s = rxDecided s := by
  refine (if_neg (by simp [egressStops, hm, hq, hb])).trans ?_
  simp only [rxChoice, rxNominated, rxFront] at hd
  simp only [hd]
  rfl

theorem hostRxDecide_delivers {i r cost : Nat} (hd : (rxChoice s).1 = some i)
    (hr : (getChSch (rxDecided s) i).nomRing = some r) (hc : chHead (rxDecided s) i = some cost) :
    hostRxDecide s = dequeueRing i r cost (rxDecided s) := by
  refine (if_neg (by simp [egressStops, hm, hq, hb])).trans ?_
  simp only [rxDecided, rxChoice, rxNominated, rxFront] at hd hr hc ⊢
  simp only [hd, hr, hc]

end Open

end ReceiveDecision

/-- Settles O39: each command in hand finishes with what its own function answers, and the decision acts by its law in that case.
CH_VECTOR_SET is the form without an address, and CH_COUNTERS_GET that of a channel. -/
theorem channelCommandRows : Obligations.ChannelCommandRows := by
  intro s q
  refine ⟨fun ⟨h, hc⟩ hs => ?_, fun ⟨h, hc⟩ ha hs => ?_, fun ⟨h, hc⟩ ha hs => ?_, fun ⟨h, hc⟩ hn ha hf => ?_,
    fun ⟨h, hc⟩ h2 hn => ?_, fun ⟨h, hc⟩ h2 => ?_, fun ⟨h, hc⟩ h2 => ?_, fun ⟨h, hc⟩ hr => ?_, fun ⟨h, hc⟩ hp ht hr => ?_,
    fun ⟨h, hc⟩ hs => ?_, fun ⟨h, hc⟩ hs => ?_, fun ⟨h, hc⟩ hs => ?_, fun ⟨h, hc⟩ hs => ?_, fun t ⟨h, hc⟩ hs ht => ?_,
    fun ⟨h, hc⟩ => ?_, fun h h0 h1 hn ha => ?_, fun hs => ?_, fun hb hm hq => ⟨fun hd => ?_, fun i r cost hd hr hc => ?_⟩⟩
  · exact congrArg Host.Outcome.next (immediate_inHand h (chConfigCmd_sets hc hs))
  · exact congrArg Host.Outcome.next (immediate_inHand h (chRingSetCmd_sets hc ha hs))
  · exact congrArg Host.Outcome.next (immediate_inHand h (chRingSetCmd_wrongState hc ha hs))
  · exact congrArg Host.Outcome.next (immediate_inHand h (chVectorSetCmd_sets hc hn ha hf))
  · exact congrArg Host.Outcome.next (immediate_inHand h (chFilterSetCmd_addresses hc h2 hn))
  · exact congrArg Host.Outcome.next (immediate_inHand h (chFilterSetCmd_multicast hc h2))
  · exact congrArg Host.Outcome.next (immediate_inHand h (chFilterSetCmd_vlans hc h2))
  · exact congrArg Host.Outcome.next (immediate_inHand h (chHashSetCmd_sets hc hr))
  · exact congrArg Host.Outcome.next (immediate_inHand h (chRateSetCmd_sets hc hp ht hr))
  · exact congrArg Host.Outcome.next (immediate_inHand h (chEnableCmd_enables hc hs))
  · exact congrArg Host.Outcome.next (immediate_inHand h (chEnableCmd_wrongState hc hs))
  · exact congrArg Host.Outcome.next (longRunning_answers h (chResetCmd_disabled hc hs))
  · exact congrArg Host.Outcome.next (longRunning_answers h (chResetCmd_resetting hc hs))
  · exact congrArg Host.Outcome.next (longRunning_chReset hc h hs ht)
  · exact congrArg Host.Outcome.next (immediate_inHand h (Prod.ext (chStatusCmd_reads hc) rfl))
  · exact congrArg Host.Outcome.next (immediate_inHand h (chCountersCmd_channel h0 h1 hn ha))
  · exact congrArg Host.Outcome.next (hostRxDecide_stops hs)
  · exact congrArg Host.Outcome.next (hostRxDecide_none hb hm hq hd)
  · exact congrArg Host.Outcome.next (hostRxDecide_delivers hb hm hq hd hr hc)

end Sys2Proof.Machine

namespace Sys2Proof.Machine

open Sys2Proof

/-! ## When a frame matches a wake pattern (R459) -/

/-- A frame matches the wake pattern of a place on a port. -/
def WakeMatch (s : State) (n : Nat) (d : Bytes) (i : Nat) : Prop :=
  ∃ p, s.pwr.pats.get? i = some p ∧ p.ports.testBit n = true ∧ ∀ k < 64, u8 d k &&& u8 p.mask k = u8 p.value k

theorem patMatch_iff {p : WakePat} {n : Nat} {d : Bytes} :
    patMatch p n d = true ↔ p.ports.testBit n = true ∧ ∀ k < 64, u8 d k &&& u8 p.mask k = u8 p.value k := by
  simp [patMatch]

/-- Whether the matcher takes a place: its pattern is there and the frame matches it. -/
def takesPat (s : State) (n : Nat) (d : Bytes) (i : Nat) : Bool := (s.pwr.pats.get? i).any fun p => patMatch p n d

theorem takesPat_iff {s : State} {n i : Nat} {d : Bytes} : takesPat s n d i = true ↔ WakeMatch s n d i := by
  simp only [takesPat, WakeMatch, Option.any_eq_true, patMatch_iff]

/-- The matcher reports the first of the 16 places that it takes. -/
theorem patHit_eq_find {s : State} {n : Nat} {d : Bytes} : patHit s n d = (List.range 16).find? (takesPat s n d) := by
  refine congrArg (List.find? · (List.range 16)) (funext fun i => ?_)
  unfold takesPat
  cases s.pwr.pats.get? i <;> rfl

theorem patHit_eq_some {s : State} {n i : Nat} {d : Bytes} :
    patHit s n d = some i ↔ i < 16 ∧ WakeMatch s n d i ∧ ∀ j < i, ¬ WakeMatch s n d j := by
  simp only [patHit_eq_find, List.find?_range_eq_some, List.mem_range, takesPat_iff, Bool.not_eq_true', ← Bool.not_eq_true]
  exact and_left_comm

theorem patHit_eq_none {s : State} {n : Nat} {d : Bytes} : patHit s n d = none ↔ ∀ i < 16, ¬ WakeMatch s n d i := by
  simp only [patHit_eq_find, List.find?_range_eq_none, Bool.not_eq_true', ← Bool.not_eq_true, takesPat_iff]

theorem not_wakeMatch_disabled {s : State} {n i : Nat} {d : Bytes} {p : WakePat} (hp : s.pwr.pats.get? i = some p)
    (h0 : p.ports = 0) : ¬ WakeMatch s n d i := by
  rintro ⟨p', hp', hn, -⟩
  obtain rfl : p = p' := Option.some.inj (hp.symm.trans hp')
  simp [h0] at hn

/-- Settles O13: the matcher's answer is the first place that it takes, in the order of the places (log 5); a mask of 0 has no
port's bit. -/
theorem wakePatterns : Obligations.WakePatterns := fun _ _ _ =>
  ⟨fun _ => patHit_eq_some, patHit_eq_none, fun _ _ hp h0 => not_wakeMatch_disabled hp h0⟩

/-! ## What a shaper accrues (R399) -/

/-- Credit and remainder together, in 1/8,000,000 of the unit of credit. -/
def Shaper.held (x : Shaper) : Int := 8000000 * x.credit + x.rest

/-- A cycle that does not reach the burst adds the rate to what is held, and only splits it anew. -/
theorem Shaper.tick_below {x : Shaper} (hr : x.rate ≠ 0) (h : x.held + x.rate * 65536 < 8000000 * (x.burst * 65536)) :
    x.tick.held = x.held + x.rate * 65536 ∧ x.tick.rest < 8000000 ∧ x.tick.rate = x.rate ∧ x.tick.burst = x.burst := by
  have hc : ¬ x.credit + ((x.rest + x.rate * 65536) / 8000000 : Nat) ≥ x.burst * 65536 := by
    simp only [Shaper.held] at h; omega
  simp only [Shaper.tick, if_neg hr, if_neg hc, Shaper.held, and_self, and_true]
  omega

theorem Shaper.repeat_tick_below {x : Shaper} {n : Nat} (hr : x.rate ≠ 0) (h0 : x.rest < 8000000)
    (h : x.held + n * x.rate * 65536 < 8000000 * (x.burst * 65536)) :
    let y := Nat.repeat Shaper.tick n x
    y.held = x.held + n * x.rate * 65536 ∧ y.rest < 8000000 ∧ y.rate = x.rate ∧ y.burst = x.burst := by
  induction n with
  | zero => simpa [Nat.repeat] using h0
  | succ n ih =>
    have step : ((n + 1 : Nat) : Int) * x.rate * 65536 = n * x.rate * 65536 + x.rate * 65536 := by push_cast; ring
    obtain ⟨hh, hrest, hrate, hburst⟩ := ih (by omega)
    have tick := Shaper.tick_below (hrate ▸ hr) (by rw [hh, hrate, hburst]; omega)
    rw [hh, hrate, hburst] at tick
    rwa [step, ← add_assoc]

/-- Settles O14: by induction on the cycles, each of which stays below the burst; the credit is the quotient of what is held,
whose remainder stays below 8,000,000 (log 64). -/
theorem shapersAccrueExactly : Obligations.ShapersAccrueExactly := by
  intro x n hr h0 h
  obtain ⟨hh, hrest, -, -⟩ := Shaper.repeat_tick_below hr h0 h
  simp only [Shaper.held] at hh
  refine ⟨hh, hrest, ?_⟩
  omega

end Sys2Proof.Machine

namespace Sys2Proof.Machine

open Sys2Proof

/-! ## The commands of the time unit (R432, R433) -/

section TimeCommands

variable {s : State} {q : Req}

/-- A step to an absolute time of a base that is neither tracked nor locked (R408). -/
theorem timeStepCmd_absolute (hk : u8 q.payload 0 ≤ 6) (h1 : u8 q.payload 1 = 0) (hn : u32 q.payload 16 < 1000000000)
    (hv : timeAt q.payload 8 < tbSpan) (ht : (getTb s (u8 q.payload 0)).track = false)
    (hl : (getTb s (u8 q.payload 0)).locked = false) :
    timeStepCmd q s = (stepBase (u8 q.payload 0) (timeAt q.payload 8) true 0 s,
      okD (timeBytes (getTb (stepBase (u8 q.payload 0) (timeAt q.payload 8) true 0 s) (u8 q.payload 0)).v)) := by
  have value : stepValue s q.payload = (timeAt q.payload 8 : Nat) := if_pos h1
  have notNegative : ¬ ((timeAt q.payload 8 : Nat) : Int) < 0 := by omega
  simp [timeStepCmd, firstErr, value, notNegative, Nat.not_le.mpr hv, Nat.not_lt.mpr hk, h1, Nat.not_le.mpr hn, ht, hl]

section Rate

variable (hk : u8 q.payload 0 ≤ 6) (hr : rateOk (sext 32 (u32 q.payload 4)) = true)

include hk hr

theorem timeRateCmd_sets (ht : (getTb s (u8 q.payload 0)).track = false) (hl : (getTb s (u8 q.payload 0)).locked = true) :
    timeRateCmd q s = (setRateAdj (u8 q.payload 0) (sext 32 (u32 q.payload 4)) s, okR) := by
  simp [timeRateCmd, firstErr, Nat.not_lt.mpr hk, hr, ht, hl]

/-- The rate of a base that is tracked or not locked is not the driver's to set (R411). -/
theorem timeRateCmd_wrongState
    (hb : (getTb s (u8 q.payload 0)).track = true ∨ (getTb s (u8 q.payload 0)).locked = false) :
    timeRateCmd q s = (s, errR stWrongState) := by
  simp [timeRateCmd, firstErr, Nat.not_lt.mpr hk, hr, hb]

end Rate

theorem timeUnlockCmd_unlocks (hk : u8 q.payload 0 ≤ 6) (ht : (getTb s (u8 q.payload 0)).track = false)
    (hl : (getTb s (u8 q.payload 0)).locked = true) :
    timeUnlockCmd q s =
      (baseEvent (u8 q.payload 0) 1 (setTb (u8 q.payload 0) (fun b => { b with locked := false }) s), okR) := by
  simp [timeUnlockCmd, firstErr, Nat.not_lt.mpr hk, ht, hl]

/-! ### Tracking (R415) -/

section Track

variable (hlo : 4 ≤ u8 q.payload 0) (hhi : u8 q.payload 0 ≤ 6) (h2 : u16 q.payload 2 ≠ 0)

include hlo hhi h2

theorem timeTrackCmd_starts (h1 : u8 q.payload 1 = 1) :
    timeTrackCmd q s = (baseEvent (u8 q.payload 0) 5 (setTb (u8 q.payload 0) (fun b => { b with
      track := true, locked := false, freq := 0, prev := none
      jump := u16 q.payload 2, tsfTimeout := u16 q.payload 4 }) s), okR) := by
  simp [timeTrackCmd, firstErr, Nat.not_lt.mpr hlo, Nat.not_lt.mpr hhi, h2, h1]

theorem timeTrackCmd_stops (h1 : u8 q.payload 1 = 0) :
    timeTrackCmd q s = (setTb (u8 q.payload 0) (fun b => { b with
      track := false, stale := false, jump := u16 q.payload 2, tsfTimeout := u16 q.payload 4 }) s, okR) := by
  simp [timeTrackCmd, firstErr, Nat.not_lt.mpr hlo, Nat.not_lt.mpr hhi, h2, h1]

end Track

/-- A channel is set as asked; enabling one that is stuck raises TIME_STATUS's bit (R417, R419; log 83). -/
theorem timeCaptureCmd_sets (h0 : u8 q.payload 0 ≤ 15) (h1 : u8 q.payload 1 ≤ 1) (h2 : u8 q.payload 2 ≤ 1)
    (h3 : u8 q.payload 3 ≤ 31) (h23 : u8 q.payload 2 = 0 → u8 q.payload 3 = 0) (h4 : u8 q.payload 4 ≤ 7)
    (h12 : u32 q.payload 12 ≤ 1000000000) :
    timeCaptureCmd q s = (setCap (u8 q.payload 0) (fun x => { x with
      enable := u8 q.payload 1 = 1, source := u8 q.payload 2, srcTrg := u8 q.payload 3, base := u8 q.payload 4
      expect := u16 q.payload 8, minInt := u32 q.payload 12, stuck := x.stuck && u8 q.payload 1 = 0 })
      (if (getCap s (u8 q.payload 0)).stuck = true ∧ u8 q.payload 1 = 1 then raiseTime1 27 s else s), okR) := by
  have source : ¬ (u8 q.payload 2 = 0 ∧ ¬ u8 q.payload 3 = 0) := fun ⟨hs, ht⟩ => ht (h23 hs)
  simp [timeCaptureCmd, firstErr, Nat.not_lt.mpr h0, Nat.not_lt.mpr h1, Nat.not_lt.mpr h2, Nat.not_lt.mpr h3, source,
    Nat.not_lt.mpr h4, Nat.not_lt.mpr h12]

/-! ### Triggers (R425, R427, R428) -/

/-- A trigger armed for a time to come, within the horizon, waits for it (R425). -/
theorem trgArm_future {t : Nat} {x : TrgSet} (ho : (getTrg s t).mode ≠ .owned) (hlo : (getTb s x.base).v < x.time)
    (hhi : x.time < (getTb s x.base).v + 2 ^ 39 * nsUnit) :
    trgArm t x s = (0, setTrg t (fun y => { y with mode := .armed, set := x }) s) := by
  have late : ¬ x.time < (getTb s x.base).v := by omega
  simp only [trgArm, if_neg ho, if_neg (Nat.not_le.mpr hhi), if_neg late, if_neg hlo.ne', decide_eq_false late,
    Bool.false_and, Bool.false_eq_true, if_false]

theorem timeArmCmd_future (hb : armBad s (u8 q.payload 0) (armSet q.payload) q.payload = none)
    (h2 : (armSet q.payload).target ≠ 2) (ho : (getTrg s (u8 q.payload 0)).mode ≠ .owned)
    (hlo : (getTb s (armSet q.payload).base).v < (armSet q.payload).time)
    (hhi : (armSet q.payload).time < (getTb s (armSet q.payload).base).v + 2 ^ 39 * nsUnit) :
    timeArmCmd q s =
      (setTrg (u8 q.payload 0) (fun y => { y with mode := .armed, set := armSet q.payload }) s, okD (toLe 4 0)) := by
  simp [timeArmCmd, hb, h2, trgArm_future ho hlo hhi]

theorem trgCancel_armed {t : Nat} (hm : (getTrg s t).mode = .armed) : trgCancel t s = trgIdle t s :=
  if_pos (by simp [hm])

theorem timeCancelCmd_armed (hk : u8 q.payload 0 ≤ 31) (hm : (getTrg s (u8 q.payload 0)).mode = .armed) :
    timeCancelCmd q s = (trgIdle (u8 q.payload 0) s, okR) := by
  simp [timeCancelCmd, firstErr, Nat.not_lt.mpr hk, hm, trgCancel_armed hm]

/-- The trigger of a port's gate list is the port's to stop (R429). -/
theorem timeCancelCmd_owned (hk : u8 q.payload 0 ≤ 31) (hm : (getTrg s (u8 q.payload 0)).mode = .owned) :
    timeCancelCmd q s = (s, errR stWrongState) := by
  simp [timeCancelCmd, firstErr, Nat.not_lt.mpr hk, hm]

/-! ### What the unit tells (R421, R432, R433) -/

/-- The oldest closed records of a link, up to the number asked for. -/
def strobesOut (s : State) (l m : Nat) : List StrobeRec := ((getRing s l).recs.filter (·.state != 0)).take m

/-- The records read leave the ring. -/
theorem timeStrobeCmd_reads (hk : u8 q.payload 0 ≤ 2) (hlo : 1 ≤ u8 q.payload 1) (hhi : u8 q.payload 1 ≤ 5) :
    timeStrobeCmd q s =
      (setRingS (u8 q.payload 0) (fun r => { r with
        recs := r.recs.filter fun x => x.state = 0 || !(strobesOut s (u8 q.payload 0) (u8 q.payload 1)).contains x }) s,
      okD (toLe 1 (strobesOut s (u8 q.payload 0) (u8 q.payload 1)).length ++ zeros 7 ++
        (strobesOut s (u8 q.payload 0) (u8 q.payload 1)).flatMap strobeBytes)) := by
  simp [timeStrobeCmd, firstErr, Nat.not_lt.mpr hk, Nat.ne_of_gt hlo, Nat.not_lt.mpr hhi, strobesOut]

/-- The counters that a TIME_COUNTERS_GET reads, and the state that the reading leaves. -/
def timeCounters (q : Req) (s : State) : Bytes × State :=
  readCounters (0xB0 + u8 q.payload 0) (u16 q.payload 2) ([2, 4, 5, 6].getD (u8 q.payload 0) 0) (u8 q.payload 1 = 1) s

theorem timeCountersCmd_reads (hk : u8 q.payload 0 ≤ 3) (h1 : u8 q.payload 1 ≤ 1)
    (hi : u16 q.payload 2 < [8, 16, 32, 3].getD (u8 q.payload 0) 0) :
    timeCountersCmd q s = ((timeCounters q s).2, okD (timeCounters q s).1) := by
  have known : ¬ u16 q.payload 2 ≥ [8, 16, 32, 3].getD (u8 q.payload 0) 0 := Nat.not_le.mpr hi
  simp only [timeCountersCmd, firstErr, decide_eq_false (Nat.not_lt.mpr hk), decide_eq_false (Nat.not_lt.mpr h1),
    decide_eq_false known, Bool.false_eq_true, if_false]
  rfl

end TimeCommands

/-- Settles O35: each command in hand finishes with what its own function answers.  TIME_STEP is the absolute form, and the arm
is of a time to come within the horizon (R425). -/
theorem timeCommandRows : Obligations.TimeCommandRows := by
  intro s q
  refine ⟨fun h hk h1 _ hn hv ht hl => ?_, fun h hk hr ht hl => ?_, fun h hk hr hb => ?_, fun h hk ht hl => ?_,
    fun h hlo hhi h1 h2 => ?_, fun h hlo hhi h1 h2 => ?_, fun h h0 h1 h2 h3 h23 h4 h12 => ?_, fun h hb h2 ho hlo hhi => ?_,
    fun h hk hm => ?_, fun h hk hm => ?_, fun h hk hlo hhi => ?_, fun h => ?_, fun h hk h1 hi => ?_⟩
  · exact congrArg Host.Outcome.next (immediate_inHand h (timeStepCmd_absolute hk h1 hn hv ht hl))
  · exact congrArg Host.Outcome.next (immediate_inHand h (timeRateCmd_sets hk hr ht hl))
  · exact congrArg Host.Outcome.next (immediate_inHand h (timeRateCmd_wrongState hk hr hb))
  · exact congrArg Host.Outcome.next (immediate_inHand h (timeUnlockCmd_unlocks hk ht hl))
  · exact congrArg Host.Outcome.next (immediate_inHand h (timeTrackCmd_starts hlo hhi h2 h1))
  · exact congrArg Host.Outcome.next (immediate_inHand h (timeTrackCmd_stops hlo hhi h2 h1))
  · exact congrArg Host.Outcome.next (immediate_inHand h (timeCaptureCmd_sets h0 h1 h2 h3 h23 h4 h12))
  · exact congrArg Host.Outcome.next (immediate_inHand h (timeArmCmd_future hb h2 ho hlo hhi))
  · exact congrArg Host.Outcome.next (immediate_inHand h (timeCancelCmd_armed hk hm))
  · exact congrArg Host.Outcome.next (immediate_inHand h (timeCancelCmd_owned hk hm))
  · exact congrArg Host.Outcome.next (immediate_inHand h (timeStrobeCmd_reads hk hlo hhi))
  · exact congrArg Host.Outcome.next (immediate_inHand h rfl)
  · exact congrArg Host.Outcome.next (immediate_inHand h (timeCountersCmd_reads hk h1 hi))

end Sys2Proof.Machine

namespace Sys2Proof.Machine

open Sys2Proof

/-! ## The registers of the time unit (R411-R413, R418, R425, R431) -/

section TimeRegisters

variable {s : State} {k v : Nat}

/-! ### The bases (R411, R412, R413, R538) -/

/-- A read of a base's nanoseconds latches its other fields (R413). -/
def latchTb (k : Nat) (s : State) : State :=
  setTb k (fun b => { b with hold := ⟨subOf (getTb s k).v, secOf (getTb s k).v, linOf (getTb s k).v⟩ }) s

theorem tbNsRead_latches (h : Serving s) (hk : k < 8) : tbNsRead k s = answer (nsOf (getTb s k).v) (latchTb k s) := by
  simp only [tbNsRead, regWrite_served h (decide_eq_true hk), if_pos hk]
  exact if_pos (by simpa [hk] using ⟨rfl, h.1⟩)

theorem timeSnap_takes (h : Serving s) (hv : v % 2 = 1) :
    timeSnap v s = answer 0 ((List.range 8).foldl (fun s k => setTb k (fun b => { b with
      snap := ⟨nsOf b.v, subOf b.v, secOf b.v⟩ }) s) s) :=
  (regWrite_served h rfl).trans (congrArg (answer 0) (if_pos (by simp [hv])))

/-- TB7 has no rate to set (R409). -/
theorem tbRateWrite_reference (h : Serving s) : tbRateWrite 7 v s = answer 0 s :=
  regWrite_served h rfl

section Rate

variable (h : Serving s) (hk : k < 7)

include h hk

theorem tbRateWrite_judged : tbRateWrite k v s = answer 0 (
    if (getTb s k).track || !(getTb s k).locked || !rateOk (sext 32 v) then bump cBase k 1 s
    else setRateAdj k (sext 32 v) s) := by
  rw [tbRateWrite, regWrite_served h (decide_eq_true (show k < 8 by omega))]
  exact congrArg (answer 0) (if_neg (by simp; omega))

theorem tbRateWrite_sets (ht : (getTb s k).track = false) (hl : (getTb s k).locked = true)
    (hr : rateOk (sext 32 v) = true) : tbRateWrite k v s = answer 0 (setRateAdj k (sext 32 v) s) :=
  (tbRateWrite_judged h hk).trans (congrArg (answer 0) (if_neg (by simp [ht, hl, hr])))

/-- A write that R411 refuses is counted. -/
theorem tbRateWrite_refused
    (hb : (getTb s k).track = true ∨ (getTb s k).locked = false ∨ rateOk (sext 32 v) = false) :
    tbRateWrite k v s = answer 0 (bump cBase k 1 s) :=
  (tbRateWrite_judged h hk).trans (congrArg (answer 0) (if_pos (by simpa [or_assoc] using hb)))

end Rate

theorem capPop_pops (h : Serving s) (hk : k < 16) :
    capPop k s = answer 0 (setCap k (fun x => { x with
      fifo := x.fifo.drop 1, overflow := x.overflow && decide (1 < x.fifo.length) }) s) :=
  regWrite_served h (decide_eq_true hk)

/-! ### The control of a trigger (R425, R431) -/

theorem testBit_one_eq : v.testBit 1 = decide (v / 2 % 2 = 1) := Nat.testBit_eq_decide_div_mod_eq

/-- A trigger's register shows the outcome of its last arm (R431). -/
def trgResult (k r : Nat) (s : State) : State := setTrg k (fun y => { y with result := r }) s

theorem trgWrite_served (h : Serving s) (hk : k < 32) : trgWrite k v s = answer 0 (trgCtrl k v s) :=
  (regWrite_served h (decide_eq_true hk)).trans (congrArg (answer 0) (if_pos hk))

section Arm

variable (h0 : v % 2 = 1) (h1 : v / 2 % 2 = 0)

include h0 h1

/-- A write of ARM alone arms, if the settings keep R424. -/
theorem trgCtrl_arm : trgCtrl k v s =
    if (getTrg s k).rNs ≥ 1000000000 || (trgRegs (getTrg s k)).target ≥ 2 || !trgSetOk k (trgRegs (getTrg s k)) then
      trgResult k 1 s
    else trgResult k (trgArm k (trgRegs (getTrg s k)) s).1 (trgArm k (trgRegs (getTrg s k)) s).2 :=
  (if_neg (by simp [testBit_one_eq, h1])).trans (if_pos (by simp [h0]))

theorem trgCtrl_badSettings
    (hb : 1000000000 ≤ (getTrg s k).rNs ∨ 2 ≤ (trgRegs (getTrg s k)).target ∨ trgSetOk k (trgRegs (getTrg s k)) = false) :
    trgCtrl k v s = trgResult k 1 s :=
  (trgCtrl_arm h0 h1).trans (if_pos (by simpa [or_assoc] using hb))

theorem trgCtrl_arms (hn : (getTrg s k).rNs < 1000000000) (ht : (trgRegs (getTrg s k)).target < 2)
    (ho : trgSetOk k (trgRegs (getTrg s k)) = true) :
    trgCtrl k v s = trgResult k (trgArm k (trgRegs (getTrg s k)) s).1 (trgArm k (trgRegs (getTrg s k)) s).2 :=
  (trgCtrl_arm h0 h1).trans (if_neg (by simp [hn, ht, ho]))

end Arm

theorem trgCtrl_cancels (h0 : v % 2 = 0) (h1 : v / 2 % 2 = 1) : trgCtrl k v s = trgCancel k s := by
  simp [trgCtrl, testBit_one_eq, h1, h0]

/-- ARM and CANCEL in one write are an arm that is refused (R431). -/
theorem trgCtrl_both (h0 : v % 2 = 1) (h1 : v / 2 % 2 = 1) : trgCtrl k v s = trgResult k 1 s :=
  if_pos (by simp [testBit_one_eq, h1, h0])

end TimeRegisters

/-- Settles O36: each register answers and takes the effect of its function in that case.  The codes of an arm's result are
R431's, a nanosecond field of 10^9 or more is refused as a setting that breaks R424, and TB7 has no rate to set (R409). -/
theorem timeRegisterRows : Obligations.TimeRegisterRows := by
  intro s k v h
  refine ⟨fun hk => ?_, fun hv => ?_, fun hk ht hl hr => ?_, fun hk hb => ?_, ?_, fun hk => ?_,
    fun hk h0 h1 => ⟨fun hb => ?_, fun hn ht ho => ?_⟩, fun hk h0 h1 => ?_, fun hk h0 h1 => ?_⟩
  · exact congrArg Host.Outcome.next (tbNsRead_latches h hk)
  · exact congrArg Host.Outcome.next (timeSnap_takes h hv)
  · exact congrArg Host.Outcome.next (tbRateWrite_sets h hk ht hl hr)
  · exact congrArg Host.Outcome.next (tbRateWrite_refused h hk hb)
  · exact congrArg Host.Outcome.next (tbRateWrite_reference h)
  · exact congrArg Host.Outcome.next (capPop_pops h hk)
  · exact congrArg Host.Outcome.next ((trgWrite_served h hk).trans (congrArg (answer 0) (trgCtrl_badSettings h0 h1 hb)))
  · exact congrArg Host.Outcome.next ((trgWrite_served h hk).trans (congrArg (answer 0) (trgCtrl_arms h0 h1 hn ht ho)))
  · exact congrArg Host.Outcome.next ((trgWrite_served h hk).trans (congrArg (answer 0) (trgCtrl_cancels h0 h1)))
  · exact congrArg Host.Outcome.next ((trgWrite_served h hk).trans (congrArg (answer 0) (trgCtrl_both h0 h1)))

end Sys2Proof.Machine

namespace Sys2Proof.Machine

open Sys2Proof

/-! ## The CRC job unit (R439-R446) -/

section CrcUnit

variable {s : State} {j v : Nat}

/-- A write to a register of a page that is absent, while the block is served, is answered and counted (R6). -/
theorem regWrite_absent {a : Nat} {f : State → State} (h : Serving s) :
    regWrite false a f s = decodeError (2 ^ 31 + a) (answer 0 s) := by
  simp [regWrite, h.1, h.2]

/-- A job begins: its register is the initial value, or with CONT the CRC_VAL that stands (R441). -/
def jobBegun (j v : Nat) (s : State) : State :=
  setJob j (fun x => { x with
    state := .running, final := v.testBit 2, fed := 0, code := 0, rd := none
    r := (if v.testBit 1 then x.val else (jobParams (getJob s j)).ini) % 2 ^ (jobParams (getJob s j)).width }) s

/-- A job that ends with a code of its checks. -/
def jobRefused (j c : Nat) (s : State) : State := crcEndJob j (setJob j (fun x => { x with code := c }) s)

/-! ### START, in the order of its checks (R441) -/

theorem crcStart_busy (hb : jobBusy (getJob s j) = true) : crcStart j v s = s := if_pos hb

section Idle

variable (hb : jobBusy (getJob s j) = false)

include hb

theorem crcStart_badConfig
    (hc : legacyBad (getJob s j) = true ∨ ((getJob s j).len = 0 ∧ v.testBit 2 = false)) :
    crcStart j v s = jobRefused j 3 (jobBegun j v s) :=
  (if_neg (by simp [hb])).trans (if_pos (by simpa using hc))

variable (hl : legacyBad (getJob s j) = false)

include hl

theorem crcStart_badRange (hn : (getJob s j).len ≠ 0) (hw : inWindow s (getJob s j).addr (getJob s j).len = false) :
    crcStart j v s = lines (jobRefused j 4 (violation (jobBegun j v s))) :=
  (if_neg (by simp [hb])).trans ((if_neg (by simp [hl, hn])).trans (if_pos (by simp [hn, hw])))

/-- A job that passes the checks reads its first piece; without bytes it has one to end for only if it is final. -/
theorem crcStart_reads
    (hg : (getJob s j).len ≠ 0 ∧ inWindow s (getJob s j).addr (getJob s j).len = true ∨
      (getJob s j).len = 0 ∧ v.testBit 2 = true) :
    crcStart j v s = jobRead j (jobBegun j v s) := by
  refine (if_neg (by simp [hb])).trans ?_
  obtain ⟨hn, hw⟩ | ⟨hn, hf⟩ := hg
  · exact (if_neg (by simp [hl, hn])).trans (if_neg (by simp [hw]))
  · exact (if_neg (by simp [hl, hf])).trans (if_neg (by simp [hn]))

end Idle

/-! ### A write of CRC_CTRL (R440) -/

theorem crcCtrl_start (h : Serving s) (hj : j < 4) (hv : v % 2 = 1) : crcCtrl j v s = answer 0 (crcStart j v s) :=
  (regWrite_served h (decide_eq_true hj)).trans
    (congrArg (answer 0) ((if_neg (Nat.not_le.mpr hj)).trans (if_pos (by simp [hv]))))

theorem crcCtrl_abort (h : Serving s) (hj : j < 4) (hv : v % 2 = 0) (h3 : v.testBit 3 = true) :
    crcCtrl j v s = answer 0 (crcAbort j s) :=
  (regWrite_served h (decide_eq_true hj)).trans
    (congrArg (answer 0) ((if_neg (Nat.not_le.mpr hj)).trans ((if_neg (by simp [hv])).trans (if_pos h3))))

/-! ### The end of a job, and the ring (R444, R539) -/

theorem crcJobEnd_ends (h : Serving s) (hj : j < 4) (hx : (getJob s j).state = .running) (hr : (getJob s j).rd = none) :
    crcJobEnd j s = crcEndJob j s :=
  if_pos (by simp [hj, hx, hr, h.2])

theorem crcRingCons_ring (h : Serving s) (hr : resultRing s = true) :
    crcRingCons v s = answer 0 (tryRings (s.updCrc fun c => { c with cons := v % 2 ^ 32 })) :=
  (regWrite_served h hr).trans (congrArg (answer 0) (if_pos hr))

theorem crcRingCons_noRing (h : Serving s) (hr : resultRing s = false) :
    crcRingCons v s = decodeError (2 ^ 31 + 0x040410) (answer 0 s) := by
  rw [crcRingCons, hr]
  exact regWrite_absent h

end CrcUnit

/-- Settles O40: each row by the law of its function in that case.  A job whose checks fail ends as any other and so reaches the
ring, and a START to a busy slot is ignored whole (log 41). -/
theorem crcRows : Obligations.CrcRows := by
  intro s j v h hj
  refine ⟨fun hv => ?_, fun hv h3 => ?_, fun hx hr => congrArg Host.Outcome.next (crcJobEnd_ends h hj hx hr),
    congrArg Host.Outcome.next (clocked_on h.2), fun hr => congrArg Host.Outcome.next (crcRingCons_ring h hr),
    fun hr => congrArg Host.Outcome.next (crcRingCons_noRing h hr)⟩
  · have start : exec (.crcStart j v) s = .next (answer 0 (crcStart j v s)) :=
      congrArg Host.Outcome.next (crcCtrl_start h hj hv)
    refine ⟨fun hb => ?_, fun hb hc => ?_, fun hb hl _ hn hw => ?_, fun hb hl hn hw => ?_, fun hb hl hn hf => ?_⟩ <;>
      refine start.trans (congrArg (fun t => Host.Outcome.next (answer 0 t)) ?_)
    · exact crcStart_busy hb
    · exact crcStart_badConfig hb hc
    · exact crcStart_badRange hb hl hn hw
    · exact crcStart_reads hb hl (.inl ⟨hn, hw⟩)
    · exact crcStart_reads hb hl (.inr ⟨hn, hf⟩)
  · have abort : exec (.crcAbort j v) s = .next (answer 0 (crcAbort j s)) :=
      congrArg Host.Outcome.next (crcCtrl_abort h hj hv h3)
    exact ⟨fun hx => abort.trans (congrArg (fun t => Host.Outcome.next (answer 0 t)) (if_pos hx)),
      fun hx => abort.trans (congrArg (fun t => Host.Outcome.next (answer 0 t)) (if_neg hx))⟩

end Sys2Proof.Machine

namespace Sys2Proof.Machine

open Sys2Proof

/-! ## Entry into a low-power state (R452-R455, R466, R510) -/

section PowerEntry

variable {s : State} {q : Req}

/-! ### PWR_STATE_SET (R452, R466) -/

/-- An entry begins: the state asked for, and whether its work is to be forced. -/
def entryBegun (p : Bytes) (s : State) : State :=
  s.updPwr fun w => { w with
    mode := .entering, target := u8 p 0, force := (u8 p 1).testBit 0, forced := false, committed := false
    isolated := false, dropped := 0, heldCause := none }

/-- The dirty ways are written back. -/
def washAll (s : State) : State := ((s.flow.cache.vals.flatMap id).filter (·.dirty)).foldl (fun s w => entryWash w.index s) s

theorem pwrStateCmd_enters (ht : u8 q.payload 0 = 2 ∨ (u8 q.payload 0 = 1 ∧ canWatch s = true)) (hr : s.gv.running = [])
    (hm : s.pwr.mode = .active) : pwrStateCmd q s = (washAll (entryBegun q.payload s), none) := by
  obtain h2 | ⟨h1, hw⟩ := ht
  · simp [pwrStateCmd, firstErr, h2, hr, hm, washAll, entryBegun]
  · simp [pwrStateCmd, firstErr, h1, hw, hr, hm, washAll, entryBegun]

/-- An entry begins from ACTIVE only, beside no long-running command, and WATCH needs a lane to watch. -/
theorem pwrStateCmd_wrongState (ht : u8 q.payload 0 = 1 ∨ u8 q.payload 0 = 2)
    (hb : s.gv.running ≠ [] ∨ s.pwr.mode ≠ .active ∨ (u8 q.payload 0 = 1 ∧ canWatch s = false)) :
    pwrStateCmd q s = (s, some (errR stWrongState)) := by
  have known : (decide (u8 q.payload 0 = 0) || decide (u8 q.payload 0 > 2)) = false := by simp; omega
  have refused : (decide (u8 q.payload 0 = 1) && !canWatch s || !s.gv.running.isEmpty || s.pwr.mode != .active) = true := by
    obtain hr | hm | ⟨h1, hw⟩ := hb
    · simp [hr]
    · simp [hm]
    · simp [h1, hw]
  simp only [pwrStateCmd, firstErr, known, refused, Bool.false_eq_true, if_false, if_true]

/-! ### The entry's work comes to its end, or not (R453-R455) -/

theorem powerCommit_commits (hq : runningFor 0x0D01 s = some q) (hm : s.pwr.mode = .entering)
    (hc : s.pwr.committed = false) (h0 : inflight s = 0) : powerCommit s = commitPoint q s := by
  simp [powerCommit, hq, hm, hc, h0]

theorem powerCommit_inflight (h : inflight s ≠ 0) : powerCommit s = s := by
  cases hq : runningFor 0x0D01 s <;> simp [powerCommit, hq, h]

section Pending

variable (hq : runningFor 0x0D01 s = some q) (hm : s.pwr.mode = .entering) (hc : s.pwr.committed = false)
  (h : inflight s ≠ 0)

include hq hm hc h

theorem deferTimeout_pending (hf : s.pwr.forced = false) :
    deferTimeout s = if s.pwr.force then force s else refuse q 0 s := by
  simp [deferTimeout, hq, hm, hc, hf, h]

theorem forceLate_refuses (hf : s.pwr.forced = true) : forceLate s = refuse q 1 s := by
  simp [forceLate, hq, hm, hc, hf, h]

end Pending

/-! ### The end of a quiesce's drain (R510) -/

theorem quiesceTimeout_drops (h : s.sys.quiescing = true) :
    quiesceTimeout s = settleQuiesce ((dropEntered s).updSys fun y => { y with
      qDropped := y.qDropped + (enteredFrames s + heldInq s), quiescing := false, quiesced := true }) :=
  if_neg (by simp [h])

theorem quiesceTimeout_over (h : s.sys.quiescing = false) : quiesceTimeout s = s := if_pos (by simp [h])

end PowerEntry

/-- Settles O41: each row by the law of its function in that case.  The power goes after the commit point, once the host port is
quiet (log 44), a refusal shows what the force has dropped (log 55), and a drain that is over changes nothing at its time-out
(log 4). -/
theorem powerEntryRows : Obligations.PowerEntryRows := by
  intro s q
  refine ⟨fun h ht hr hm => ?_, fun h ht hb => ?_, fun hq hm hc h0 => ?_, fun h => ?_,
    fun hq hm hc hf h => ⟨fun hn => ?_, fun hy => ?_⟩, fun hq hm hc hf h => ?_, fun h => ?_, fun h => ?_⟩
  · exact congrArg Host.Outcome.next (longRunning_runs h (pwrStateCmd_enters ht hr hm))
  · exact congrArg Host.Outcome.next (longRunning_answers h (pwrStateCmd_wrongState ht hb))
  · exact congrArg Host.Outcome.next (powerCommit_commits hq hm hc h0)
  · exact congrArg Host.Outcome.next (powerCommit_inflight h)
  · exact congrArg Host.Outcome.next ((deferTimeout_pending hq hm hc h hf).trans (if_neg (by simp [hn])))
  · exact congrArg Host.Outcome.next ((deferTimeout_pending hq hm hc h hf).trans (if_pos hy))
  · exact congrArg Host.Outcome.next (forceLate_refuses hq hm hc h hf)
  · exact congrArg Host.Outcome.next (quiesceTimeout_drops h)
  · exact congrArg Host.Outcome.next (quiesceTimeout_over h)

end Sys2Proof.Machine

namespace Sys2Proof.Machine

open Sys2Proof

/-! ## Scrubbing, repair and the Onyx pair (R473-R493, R503) -/

section RepairEvents

variable {s : State}

/-! ### The scrubber (R473-R475) -/

/-- A read while the scrubber has a period belongs to a pass. -/
def inPass (s : State) : State := s.updRes fun r => { r with passRun := r.passRun || r.period != 0 }

/-- What the word of a read does: nothing when it is right, and else the work of a corrected or an uncorrected error. -/
def scrubFound (hit : ScrubHit) (s : State) : State :=
  if hit.wrong = 0 then s else if hit.wrong = 1 then corrected hit.place s else uncorrected hit s

theorem scrubRead_served {hit : ScrubHit} {t : State} (h : Serving s) (ht : scrubFound hit (inPass s) = t) :
    scrubRead hit s = nextRetire (if hit.last && (s.res.passRun || s.res.period != 0) then endPass t else t) := by
  subst ht
  exact if_neg (by simp [h.1, h.2])

/-! ### The ends of repairs (R477, R480) -/

theorem repairEvent_on {column : Bool} {p : Place} (hc : coreOff s = false) :
    repairEvent column p s = repairDone column p s :=
  ite_eq_left_iff.mpr fun _ => clocked_on hc

theorem repairEvent_noRepair {column : Bool} {p : Place} (h : s.res.repairs = []) : repairEvent column p s = s := by
  have unchanged : repairDone column p s = s := by simp [repairDone, h]
  rw [repairEvent, unchanged, clocked_self, ite_self]

/-- The repair `r` of a row or a column ends, in the repair record too, and the next of its unit begins (log 83). -/
theorem repairDone_ends {column : Bool} {p : Place} {r : Repair}
    (hr : s.res.repairs.find? (fun x =>
      decide (x.place = repairAt column p) && decide (x.column = column) && x.spare.isSome) = some r) :
    repairDone column p s = nextRepair (repairAt column p) s.res.repairs.length
      (appendRecord (recordEntry (if column then 2 else 1) (repairAt column p)
          (if column then (repairAt column p).col else (repairAt column p).row) (r.spare.getD 0))
        (logFault (if column then fkColumn else fkRow) (repairAt column p) 0
          (bump 0xE0 0 (if column then 3 else 2) (s.updRes fun x => { x with
            repairs := x.repairs.filter (· != r)
            rowErr := if column then x.rowErr else x.rowErr.filter (·.1 != repairAt column p) })))) := by
  simp only [repairDone, hr]

theorem imemRefill_refills {e : Nat} (he : e < nEngines s) (hb : (getEng s e).base = true) :
    imemRefill e s = setEng e (fun g => { g with imem := imemImage s }) s :=
  if_pos (by simp [he, hb])

/-! ### The active core (R484, R485) -/

/-- A core's failure is noted, and in the fault log with its cause. -/
def coreFailed (c cause : Nat) (s : State) : State :=
  logFault fkOnyx { sub := 4, unit := c } cause (s.updRes fun r => { r with fails := r.fails ++ [(c, nowNs s)] })

/-- The core that fails under firmware has no READY standby to take over: a cold restart. -/
theorem onyxFail_noStandby {cause : Nat} (h : Serving s) (hj : s.res.jasper = .idle) (hf : s.sys.fw = true)
    (hs : s.res.standby ≠ .ready) :
    onyxFail cause s =
      tryCold (if bothFailed s.res.active s then 3 else 1) (coreFailed s.res.active cause (stopCores s)) := by
  have served : ¬ (s.sys.held || coreOff s) = true := by simp [h.1, h.2]
  simp only [onyxFail, if_neg served, hj, reduceCtorEq, hf, hs, Bool.not_true, Bool.and_false, Bool.false_eq_true, if_false]
  rfl

theorem coldDone_boots (hj : s.res.jasper = .cold) (hf : s.res.fwHeld = false ∨ s.res.fwBad = true) :
    coldDone s = onyxRuns (setService 6 true ((s.updRes fun r => { r with jasper := .idle }).updSys fun y => { y with
      boot := true })) := by
  have noFirmware : ¬ (s.res.fwHeld && !s.res.fwBad) = true := by
    obtain hh | hb := hf
    · simp [hh]
    · simp [hb]
  simp only [coldDone, hj, bne_self_eq_false, Bool.false_eq_true, if_false, if_neg noFirmware]

/-- The firmware that is retained runs again; a core that is not resynchronised stays FAILED (log 83). -/
theorem coldDone_firmware (hj : s.res.jasper = .cold) (hf : s.res.fwHeld = true) (hb : s.res.fwBad = false) :
    coldDone s = onyxRuns (raiseAll 0x0182 (toLe 1 1 ++ zeros 3 ++ toLe 4 s.gv.queue.length)
      (((s.updRes fun r => { r with jasper := .idle }).updSys fun y => { y with fw := true, onyxVer := s.res.keptVer }).updRes
        fun r => { r with
          coldTimes := [], fwBuild := r.keptBuild, fwNext := none
          standby := if r.noResync.contains (1 - r.active) then .failed else .sync })) := by
  simp only [coldDone, hj, hf, hb, bne_self_eq_false, Bool.false_eq_true, Bool.not_false, Bool.and_self, if_false, if_true]

/-! ### The standby core (R483, R484, R493) -/

@[simp] theorem retainFirmware_act : (retainFirmware s).res.act = s.res.act := by
  cases h : s.res.fwNext <;> simp [retainFirmware, h]

@[simp] theorem retainFirmware_jasper : (retainFirmware s).res.jasper = s.res.jasper := by
  cases h : s.res.fwNext <;> simp [retainFirmware, h]

theorem finishTakeover_none (hj : s.res.jasper ≠ .takeover) : finishTakeover s = s := if_neg (by simp [hj])

/-- The standby has synchronised, beside no takeover and no activation. -/
theorem standbyReady_synced (h : Serving s) (hs : s.res.standby = .sync) (hj : s.res.jasper = .idle)
    (ha : s.res.act = none) :
    standbyReady s = judgeMgmt (retainFirmware (s.updRes fun r => { r with standby := .ready })) := by
  have waits : ¬ (s.res.standby != .sync || s.sys.held || coreOff s) = true := by simp [hs, h.1, h.2]
  simp only [standbyReady, if_neg waits]
  rw [finishTakeover_none (by simp [hj]), retainFirmware_act, State.updRes_res, ha]

section StandbyFails

variable (h : Serving s) (hf : s.sys.fw = true)

include h hf

theorem standbyFail_again (hj : s.res.jasper = .idle) (hs : s.res.standby = .failed) : standbyFail s = s := by
  simp [standbyFail, standbyFails, h.1, h.2, hf, hj, hs]

/-- The core that was to take over fails: both have (R503). -/
theorem standbyFail_takeover (hj : s.res.jasper = .takeover) :
    standbyFail s = coldRestart (if bothFailed (1 - s.res.active) s then 3 else 2) s := by
  simp [standbyFail, standbyFails, h.1, h.2, hf, hj]

end StandbyFails

theorem standbyLate_ends {a : ActSt} (ha : s.res.act = some a)
    (hp : a.phase = .sync ∨ (a.phase = .switch ∧ s.res.standby ≠ .ready)) : standbyLate s = endAct stImgFormat s := by
  simp only [standbyLate, ha]
  obtain hy | ⟨hw, hs⟩ := hp
  · exact if_pos (by simp [hy])
  · exact if_pos (by simp [hw, hs])

end RepairEvents

/-- Settles O58: each row by the law of its function in that case.  The spare of a repair is taken when it starts (log 52), and an
end of a repair that is not pending, or a failure of a core that has failed, changes nothing (log 4). -/
theorem repairEventRows : Obligations.RepairEventRows := by
  intro s hit p n
  refine ⟨fun h => ⟨fun hw => ?_, fun hw => ?_, fun hw => ?_⟩, fun r hc hr => ?_, fun r hc hr => ?_, fun hr => ⟨?_, ?_⟩,
    fun hc => ?_, fun hc hn hb => ?_, fun h hj hf hs => ⟨?_, ?_⟩, fun hj hf => ?_, fun hj hf hb => ?_,
    fun h hs hj ha => ?_, fun h hf hj hs => ?_, fun h hf hj => ?_, fun a ha hp => ?_, fun hc => ?_⟩
  · exact congrArg Host.Outcome.next (scrubRead_served h (if_pos hw))
  · exact congrArg Host.Outcome.next (scrubRead_served h ((if_neg (by omega)).trans (if_pos hw)))
  · exact congrArg Host.Outcome.next (scrubRead_served h ((if_neg (by omega)).trans (if_neg (by omega))))
  · exact congrArg Host.Outcome.next ((repairEvent_on hc).trans (repairDone_ends (column := false) hr))
  · exact congrArg Host.Outcome.next ((repairEvent_on hc).trans (repairDone_ends (column := true) hr))
  · exact congrArg Host.Outcome.next (repairEvent_noRepair hr)
  · exact congrArg Host.Outcome.next (repairEvent_noRepair hr)
  · exact congrArg Host.Outcome.next (clocked_on hc)
  · exact congrArg Host.Outcome.next ((clocked_on hc).trans (imemRefill_refills hn hb))
  · exact congrArg Host.Outcome.next (onyxFail_noStandby h hj hf hs)
  · exact congrArg Host.Outcome.next (onyxFail_noStandby h hj hf hs)
  · exact congrArg Host.Outcome.next (coldDone_boots hj hf)
  · exact congrArg Host.Outcome.next (coldDone_firmware hj hf hb)
  · exact congrArg Host.Outcome.next (standbyReady_synced h hs hj ha)
  · exact congrArg Host.Outcome.next (standbyFail_again h hf hj hs)
  · exact congrArg Host.Outcome.next (standbyFail_takeover h hf hj)
  · exact congrArg Host.Outcome.next (standbyLate_ends ha hp)
  · exact congrArg Host.Outcome.next (clocked_on hc)

end Sys2Proof.Machine
